-- ==== Sys2Proof/Word.lean ====
section
/-!
DEFINITION. The word types of the Jornyx and nothing else: bytes, 64-bit registers and the index types of its units.
-/
namespace Sys2Proof

/-- One byte of memory, of a drop or of a datagram. -/
abbrev Byte := BitVec 8

/-- A control register or scalar register (R7, Table 7.1). -/
abbrev W64 := BitVec 64

/-- A 32-bit count (R137). -/
abbrev W32 := BitVec 32

/-- A device address (R5). -/
abbrev Addr := BitVec 48

/-- A logical comb number (R23). -/
abbrev CombId := Fin 64

/-- A square number (R23). -/
abbrev SqId := Fin 16

/-- A link index (R208). -/
abbrev LinkId := Fin 24

/-- A memory controller (R336). -/
abbrev McId := Fin 24

/-- A chip id, x + 64y + 4096z (R14). -/
abbrev ChipId := BitVec 18

end Sys2Proof
end

