-- ==== Sys2Proof/Syntax.lean ====
section
/-!
DEFINITION. The commands of the chip: one constructor of Instr for each row of the opcode table, with the operands that
the row's rule names. Vurdo words keep the two forms of Tables 8.1 and 9.2; drops, link symbols and orders keep the fields
of their own tables.
-/
namespace Sys2Proof

/-- The sequencer form of a Vurdo word below its opcode, Table 9.2. -/
structure SForm where
  pred : Fin 8 := 0
  i    : Bool := false
  sd   : Fin 32 := 0
  sa   : Fin 32 := 0
  sb   : Fin 32 := 0
  x    : BitVec 5 := 0
  imm  : BitVec 32 := 0
deriving DecidableEq, Repr

/-- The tensor form of a Vurdo word, Table 8.1: `body` holds bits [63:20], read by the field accessors of
Machine/Operands.lean at the bit numbers the instruction tables give. -/
structure TForm where
  pred : Fin 8 := 0
  ce   : Bool := false
  cnt  : BitVec 8 := 0
  body : BitVec 44 := 0
deriving DecidableEq, Repr

/-- What a check of one 72-bit stored word finds (R36, R132): the environment's bit flips (DESIGN CHOICE, log entry 10). -/
inductive Upset where
  | clean | single | double
deriving DecidableEq, Repr

/-- The four mismatch bits of MAT_FAULT (Table 4.9). -/
inductive MismatchKind where
  | res | csc | csr | hold
deriving DecidableEq, Repr

/-- A residue or checksum mismatch that the array's comparators report (R84, R85), with its physical place
(DESIGN CHOICE, log entry 26; DESIGN CHOICE, log entry 77). -/
structure Mismatch where
  kind : MismatchKind
  row  : Fin 33
  col  : Fin 33
deriving DecidableEq, Repr

/-- How an array self-test ends (R87). -/
inductive SelftestResult where
  | noFault | columns (cols : BitVec 32) | failed | interrupted
deriving DecidableEq, Repr

/-- A drop: its 128-bit header (Table 11.1) and its 48 payload bytes. -/
structure Drop where
  hdr     : BitVec 128
  payload : List Byte
deriving DecidableEq, Repr

/-- What a consignment numbering belongs to (R231): a destination chip, or a group the chip multicasts to. -/
inductive PeerKey where
  | chip (id : ChipId) | group (g : BitVec 8)
deriving DecidableEq, Repr

/-- A codeword as the lanes bring it, symbol 0 in its low ten bits (R211), with what the spec gives a receiver no field for: the sequence
number of the codeword's first drop, and whether the far end's replay begins with it (R213, R215; DESIGN CHOICE, log entry 46). -/
structure CodewordIn where
  raw    : BitVec 5440
  seq    : BitVec 16
  replay : Bool := false
deriving DecidableEq, Repr

/-- IDENT (Table 10.2): the sender's coordinate and link, its interface type and its receive-buffer division. -/
structure IdentSym where
  chip  : ChipId
  link  : BitVec 8
  iface : BitVec 8
  alloc : List Nat
deriving DecidableEq, Repr

/-- SPARE (Table 10.2, R218): the direction, toward the owner end of the link or from it, a failed lane position and the codeword count at
which to switch (DESIGN CHOICE, log entry 87). -/
structure SpareSym where
  toOwner : Bool
  lane : Fin 8
  at_  : BitVec 64
deriving DecidableEq, Repr

/-- OPEN (Table 10.2, R222): the delay echoed, the owner's and this end's port-die temperature at the calibration, the time out of service
in units of 0.1 µs and whether a spared lane of each direction passed its test. -/
structure OpenSym where
  delay : BitVec 16
  temp  : BitVec 8
  own   : BitVec 8
  dur   : BitVec 8
  txOk  : Bool
  rxOk  : Bool
deriving DecidableEq, Repr

/-- How a phase of bring-up ends (Table 10.4, R219): in time or not, and after alignment the lane that each direction leaves out. -/
structure PhaseEnd where
  ok      : Bool
  rxSpare : Option (Fin 8) := none
  txSpare : Option (Fin 8) := none
deriving DecidableEq, Repr

/-- A memory controller and the temperature of its stack (R350). -/
structure RetrainIn where
  mc   : McId
  temp : BitVec 8
deriving DecidableEq, Repr

/-- CHIME (Table 13.4). -/
structure ChimeSym where
  launch  : BitVec 16
  hops    : BitVec 8
  root    : ChipId
  n       : W64
  base    : W64
  ival    : BitVec 32
  pend    : BitVec 32
  pendAt  : W64
  deputy  : ChipId
deriving DecidableEq, Repr

/-- ECHO (Table 13.3) with the receive stamp t4 of the pinging end, all in 1/64 cycles. -/
structure EchoSym where
  t1 : W64
  t2 : W64
  t3 : W64
  t4 : W64
deriving DecidableEq, Repr

/-- ELECT (Table 13.3). -/
structure ElectSym where
  best       : ChipId
  bestPref   : BitVec 8
  second     : ChipId
  secondPref : BitVec 8
  running    : Bool
  base       : W64
deriving DecidableEq, Repr

/-- TIME (Table 13.3) with the launch delay that R283 adds. -/
structure TimeSym where
  tb     : W64
  frac   : BitVec 6
  launch : BitVec 16
  hops   : BitVec 8
  root   : ChipId
  base   : W64
  t0     : W64
  ival   : BitVec 32
  nextN  : W64
  nextAt : W64
deriving DecidableEq, Repr

/-- The bits newly in error in the stacks (R339, R343): for a sector address, of data or of a parity region, the data bits and the bits of
the stored CRC that turn over. -/
structure HbmStrike where
  sectors : List (Nat × BitVec 512 × BitVec 32) := []
deriving DecidableEq, Repr

/-- The signature trailer of an order (R359). -/
structure Trailer where
  nonce : W64
  key   : BitVec 8
  zeros : BitVec 56
  sig   : BitVec 912
deriving DecidableEq, Repr

/-- The header of a datagram (Table 17.2), its source, the UDP port and the VLAN tag that it came with (R355), and the body length as
received (DESIGN CHOICE, log entry 77). -/
structure OrderHdr where
  src     : Nat := 0
  magic   : BitVec 32 := 0x44524F4A
  version : BitVec 8 := 1
  flags   : BitVec 8 := 0
  result  : BitVec 8 := 0
  seq     : BitVec 32 := 0
  length  : BitVec 32 := 0
  target  : BitVec 32 := 0xFFFFFFFF
  state   : BitVec 32 := 0
  port    : BitVec 16 := 45390
  tag     : Option (BitVec 12) := none
  body    : Nat := 0
  trailer : Option Trailer := none
deriving DecidableEq, Repr

/-- A BULK_WRITE body (Table 17.6). -/
structure BulkPiece where
  cid    : BitVec 32
  offset : W64
  total  : W64
  dest   : Addr
  slot   : BitVec 16
  rcomb  : BitVec 8
  rcnt   : BitVec 8
  rce    : BitVec 8
  zero   : BitVec 8 := 0
  shdr   : List Byte
  data   : List Byte
deriving DecidableEq, Repr

/-- An FW_STAGE body (Table 19.4) below its KIND, which the constructor gives. -/
structure StagePiece where
  slot   : BitVec 8
  arm    : BitVec 8
  zeros  : BitVec 40
  offset : W64
  total  : W64
  data   : List Byte
deriving DecidableEq, Repr

/-- A MACsec association (R368, R398). -/
structure MacsecAssoc where
  key  : BitVec 256
  salt : BitVec 96
  ssci : BitVec 32
deriving DecidableEq, Repr

/-- An ARP request or neighbour solicitation (R354): the address it asks for, and its VLAN tag. -/
structure NdFrame where
  isProtected : Bool
  target      : BitVec 128
  v6          : Bool
  tag         : Option (BitVec 12) := none
deriving DecidableEq, Repr

/-- A frame or datagram that is no valid order, by the rule it breaks (R354 to R357); an order of an unknown code, and one
whose body breaks its own table, such as a RESET, PROFILE or FW_STAGE of a reserved KIND, with that body (R356, R381, R390, R398). -/
inductive FrameIn where
  | badFcs | badMacsec | unprotected | featureBreach | badMagic | badVersion | badTarget
  | unknownCode (h : OrderHdr) (code : BitVec 8)
  | badBody (h : OrderHdr) (code : BitVec 8) (body : List Byte)
deriving DecidableEq, Repr

/-- What self-test finds in one physical comb (R26): faulty array columns and any other fault. -/
structure CombFinding where
  phys  : Fin 68
  cols  : List (Fin 32)
  other : Bool
deriving DecidableEq, Repr

/-- A RESET order of KIND 3 and the level of PROFILE[1:0] that its reset finds (R381, R416). -/
structure FullResetIn where
  hdr  : OrderHdr
  pins : BitVec 2
deriving DecidableEq, Repr

/-- What boot phase 6 meets (R24, R416): REFCLK good for 10 ms, and the combs with findings (DESIGN CHOICE, log entry 77). -/
structure CombSelftest where
  refclkGood : Bool
  findings   : List CombFinding
deriving DecidableEq, Repr

/-- The latent-fault tests of Table 18.4, row by row (DESIGN CHOICE, log entry 77). -/
inductive LatentTest where
  | arrayChecker (c : CombId)
  | seqComparator (c : CombId)
  | hallComparator
  | combSecded (c : CombId)
  | squareSecded (q : SqId)
  | pageDecoder (m : McId)
  | linkCrc (l : LinkId)
  | monitors
deriving DecidableEq, Repr

/-- The unit whose sweeper is meant (R37, R39, R349). -/
inductive SweepUnit where
  | comb (c : CombId) | square (q : SqId) | hbm (m : McId)
deriving DecidableEq, Repr

/-- The STP_ registers that orders write under R334. -/
inductive StpReg where
  | masterBank | step | cfg | stage (k : Fin 256)
deriving DecidableEq, Repr

/-- The instructions of the TAP (R417). -/
inductive TapInstr where
  | bypass | idcode | samplePreload | extest | extestPulse | extestTrain
deriving DecidableEq, Repr

/-- What the JTAG pins bring as an instruction is loaded (R417, R418, Table 20.5): the instruction, the level of TRST_N, the bits shifted in by
TDI in a scan of its data register (none: no scan), and the levels that the boundary cells sample, TDI's end last. -/
structure TapIn where
  instr : TapInstr
  trstN : Bool
  tdi   : List Bool
  cells : List Bool
deriving DecidableEq, Repr

/-- Every control register of the chip by name (Tables 2.3 to 20.6). Indices are those of the spec. -/
inductive Reg where
  | cmbMap (n : CombId)
  | cmbEcc (n : CombId) | cmbEccAddr (n : CombId) | cmbSweep (n : CombId) | cmbEnergy (n : CombId) | cmbAgain (n : CombId)
  | matStatus (n : CombId) | matFault (n : CombId) | matFaultPc (n : CombId) | matSelftest (n : CombId) | matAgain (n : CombId)
  | matVanish (n : CombId) | matOvfl (n : CombId)
  | extSeed (n : CombId) | extCtrl (n : CombId) | extInvalid (n : CombId) | extPoison (n : CombId)
  | extRange (n : CombId) (k : Fin 4) (f : Fin 11) (j : Fin 4) | extHist (n : CombId) (k : Fin 4) (j : Fin 32)
  | vecStatus (n : CombId) | vecAgain (n : CombId)
  | seqStatus (n : CombId) | seqPc (n : CombId) | seqFault (n : CombId) | seqExc (n : CombId) | seqFrame (n : CombId)
  | seqId (n : CombId) | seqQcount (n : CombId) | seqAgain (n : CombId)
  | crrStatus (n : CombId) | crrOob (n : CombId) | crrAgain (n : CombId)
  | cnt (n : CombId) (i : Fin 256)
  | sqrEcc (m : SqId) | sqrEccAddr (m : SqId) | sqrSweep (m : SqId) | sqrAovf (m : SqId) | sqrAgain (m : SqId)
  | lnkStatus (i : LinkId) | lnkCtrl (i : LinkId) | lnkErr (i : LinkId) | lnkReplay (i : LinkId) | lnkRw (i : LinkId)
  | lnkDelay (i : LinkId) | lnkAgain (i : LinkId) | lnkCfg
  | rteSelf | rteCableFault | rteMachine | rteEpoch | rteFlip | rteDrain | rteHeld | rteRetx | rteDiscard0 | rteDiscard1
  | rteAgain | rteFence (w : Fin 4096)
  | rteSlice (v : Fin 2) | rteLogical (v : Fin 2) | rteBuddy (v : Fin 2) | rtePortacc (v : Fin 2) (p : Fin 6)
  | rteCorr (v : Fin 2) (j : Fin 4) | rteRemap (v : Fin 2) (i : Fin 1024)
  | colGroup (v : Fin 2) (g : Fin 256) | colMem (v : Fin 2) (g : Fin 256) (w : Fin 2048)
  | colCfg | colSpill | colStatus | colCount | colAgain
  | chmStatus | chmNow | chmChime | chmInterval | chmPending | chmPendat | chmRoot | chmCfg | chmBase | chmAgain
  | chmLink (i : LinkId)
  | sealLevel | sealLevelat | sealStatus | sealCount | sealAgain | sealSlot (s : Fin 65536) (w : Fin 8)
  | stpMasterBank | stpStep | stpLast | stpStatus | stpCfg | stpDecideat | stpAgain | stpStage (k : Fin 256)
  | memStatus (c : McId) | memStrength (c : McId) | memRecode (c : McId) | memErr (c : McId) | memErrAddr (c : McId)
  | memSweep (c : McId) | memAovf (c : McId) | memAgain (c : McId) | memCfg
  | ethStatus | ethCfg | ethNotify | ethCount | ethAgain
  | wdnStatus | wdnFw | wdnProt | wdnFault | wdnRstcause | wdnLatent | wdnAgain | chrStatus | chrRefused
  | pwrStatus | pwrVin | pwrTherm | pwrCtrl | pwrEnergy | pwrAgain
deriving DecidableEq, Repr

/-- The commands: one constructor per row of the opcode table, in its order. -/
inductive Instr where
  /-- LI (R186): Load an immediate into a scalar register, whole or into its upper half. -/
  | li (c : CombId) (f : SForm)
  /-- ADD (R186): Add the second operand to a scalar register, modulo 2^64. -/
  | add (c : CombId) (f : SForm)
  /-- SUB (R186): Subtract the second operand from a scalar register, modulo 2^64. -/
  | sub (c : CombId) (f : SForm)
  /-- MUL (R186): Multiply two scalar operands and keep the low 64 bits. -/
  | mul (c : CombId) (f : SForm)
  /-- AND (R186): Bitwise AND of two scalar operands. -/
  | and (c : CombId) (f : SForm)
  /-- OR (R186): Bitwise OR of two scalar operands. -/
  | or (c : CombId) (f : SForm)
  /-- XOR (R186): Bitwise XOR of two scalar operands. -/
  | xor (c : CombId) (f : SForm)
  /-- SHL (R186): Shift a scalar register left by the second operand modulo 64. -/
  | shl (c : CombId) (f : SForm)
  /-- SHR (R186): Shift a scalar register right, logically or arithmetically, by the second operand modulo 64. -/
  | shr (c : CombId) (f : SForm)
  /-- CMP (R186): Compare a scalar with the second operand and write the result, optionally negated, to a predicate. -/
  | cmp (c : CombId) (f : SForm)
  /-- BR (R186): Branch relative to the program counter when the predicate is 1. -/
  | br (c : CombId) (f : SForm)
  /-- JMP (R186): Jump to a register plus immediate target. -/
  | jmp (c : CombId) (f : SForm)
  /-- CALL (R134): Jump and write the return address into s31. -/
  | call (c : CombId) (f : SForm)
  /-- RET (R134): Jump to the address held in the low 18 bits of s31. -/
  | ret (c : CombId) (f : SForm)
  /-- LOOP (R187): Push a loop-stack entry and repeat a body of L words c times, or skip it when c is 0. -/
  | loop (c : CombId) (f : SForm)
  /-- WAIT (R137): Stall the sequencer in WAIT until a named counter reaches its target. -/
  | wait (c : CombId) (f : SForm)
  /-- WAIT_RELEASE (R137): A waited counter reaches its target and the sequencer returns to RUNNING. -/
  | waitRelease (c : CombId)
  /-- FENCE (R142): Stall issue until every earlier tensor instruction of the named queues has completed. -/
  | fence (c : CombId) (f : SForm)
  /-- FENCE_RELEASE (R142): The last outstanding instruction of the fenced queues completes and issue resumes. -/
  | fenceRelease (c : CombId)
  /-- HALT (R156): Stop issue and wait for the queues to drain. -/
  | halt (c : CombId) (f : SForm)
  /-- HALT_DRAINED (R156): All four queues of a halting comb are empty; it enters HALTED and a completion notice is sent. -/
  | haltDrained (c : CombId)
  /-- CSRR (R138): Read a control register or counter of the own chip into a scalar register. -/
  | csrr (c : CombId) (f : SForm)
  /-- CSRW (R138): Write an RW or W1C field of the comb's own register block or one of its counters. -/
  | csrw (c : CombId) (f : SForm)
  /-- DSET (R188): Write one field of a descriptor register from an immediate or a scalar. -/
  | dset (c : CombId) (f : SForm)
  /-- DLD (R189): Load a descriptor register from 64 bytes of chip memory. -/
  | dld (c : CombId) (f : SForm)
  /-- DST (R189): Store a descriptor register to chip memory, stalling until the write is visible. -/
  | dst (c : CombId) (f : SForm)
  /-- FRAME (R145): Mark the end of the frame's work and stall until the chime that ends the frame. -/
  | frame (c : CombId) (f : SForm)
  /-- CHIMEW (R190): Wait until the time base reaches T array cycles after the frame's starting chime, optionally writing that chime's number. -/
  | chimew (c : CombId) (f : SForm)
  /-- CHIMEW_RELEASE (R190): The time base reaches the chimew target and the sequencer resumes. -/
  | chimewRelease (c : CombId)
  /-- TALLY (R191): Snapshot, and optionally clear, one census set into the comb store. -/
  | tally (c : CombId) (f : SForm)
  /-- TALLY_SNAPSHOT_DONE (R191): The snapshot is written 16 cycles after it is taken and the named counter increments. -/
  | tallySnapshotDone (c : CombId)
  /-- COMMIT_PREP (R192): Give the comb's vote to the chip's commit round for a named step. -/
  | commitPrep (c : CombId) (f : SForm)
  /-- MSHAPE (R159): Set the array's shape and feed mode. -/
  | mshape (c : CombId) (f : TForm)
  /-- MHOLD (R160): Fill the shadow held-operand banks with a block of B and record its ceiling. -/
  | mhold (c : CombId) (f : TForm)
  /-- MHOLD_FILL_DONE (R160): Row 31 of the fill completes; SHADOW_FULL is set and the counter increments. -/
  | mholdFillDone (c : CombId)
  /-- MMUL (R163): Multiply A by B into an accumulator slot, EXACT or SEQ, with overwrite or add. -/
  | mmul (c : CombId) (f : TForm)
  /-- MATRIX_COMPLETION (R73): A matrix instruction's last residue comparison passes and its named counter increments. -/
  | matrixCompletion (c : CombId) (mm : Option Mismatch)
  /-- MX (R165): Extract an accumulator slot through scale, bias, clip, rounding and block formation into a destination tensor. -/
  | mx (c : CombId) (f : TForm)
  /-- MX_COMPLETION (R127): The extraction completes; the destination's ceiling is raised and the counter increments. -/
  | mxCompletion (c : CombId)
  /-- ARRAY_ACCEPT (R74): The array accepts the next matrix instruction from the matrix queue once its acceptance cycle is reached. -/
  | arrayAccept (c : CombId)
  /-- EXTRACTOR_ACCEPT (R124): The extractor accepts the next mx once the previous one reaches cycle 32. -/
  | extractorAccept (c : CombId)
  /-- VLD (R177): Widen any element format exactly to FP32. -/
  | vld (c : CombId) (f : TForm)
  /-- VST (R177): Round FP32 or BF16 to any element format in the named mode. -/
  | vst (c : CombId) (f : TForm)
  /-- VADD (R168): Element-wise addition. -/
  | vadd (c : CombId) (f : TForm)
  /-- VSUB (R168): Element-wise subtraction. -/
  | vsub (c : CombId) (f : TForm)
  /-- VMUL (R168): Element-wise multiplication. -/
  | vmul (c : CombId) (f : TForm)
  /-- VFMA (R168): Element-wise fused multiply-add with one rounding. -/
  | vfma (c : CombId) (f : TForm)
  /-- VMAX (R171): Element-wise maximum under the indexed-pair order. -/
  | vmax (c : CombId) (f : TForm)
  /-- VMIN (R171): Element-wise minimum under the indexed-pair order. -/
  | vmin (c : CombId) (f : TForm)
  /-- VARGMAX (R175): Reduce each dim-0 run to its winning value and index. -/
  | vargmax (c : CombId) (f : TForm)
  /-- VARGMIN (R175): Reduce each dim-0 run to its losing value and index. -/
  | vargmin (c : CombId) (f : TForm)
  /-- VSUM (R174): Sum each dim-0 run in a fixed pairwise order. -/
  | vsum (c : CombId) (f : TForm)
  /-- VEXP2 (R176): Correctly rounded 2^A. -/
  | vexp2 (c : CombId) (f : TForm)
  /-- VLOG2 (R176): Correctly rounded log2 A. -/
  | vlog2 (c : CombId) (f : TForm)
  /-- VRCP (R176): Correctly rounded reciprocal. -/
  | vrcp (c : CombId) (f : TForm)
  /-- VRSQRT (R176): Correctly rounded reciprocal square root. -/
  | vrsqrt (c : CombId) (f : TForm)
  /-- VCVT (R177): Convert any of the eleven formats to any of them in the named mode. -/
  | vcvt (c : CombId) (f : TForm)
  /-- VCMP (R172): Write 1 or 0 per element according to a comparison condition. -/
  | vcmp (c : CombId) (f : TForm)
  /-- VSEL (R173): Select a or b per element by a mask. -/
  | vsel (c : CombId) (f : TForm)
  /-- UPD_M2 (R180): Two-moment optimizer update writing shadow master, moments and working copies. -/
  | updM2 (c : CombId) (f : TForm)
  /-- UPD_M1 (R181): One-moment optimizer update. -/
  | updM1 (c : CombId) (f : TForm)
  /-- UPD_PLAIN (R181): Plain optimizer update without moments. -/
  | updPlain (c : CombId) (f : TForm)
  /-- VECTOR_ACCEPT (R170): The vector unit accepts the next vector instruction. -/
  | vectorAccept (c : CombId)
  /-- VECTOR_COMPLETION (R170): A vector instruction completes; ceiling update where applicable and counter increment. -/
  | vectorCompletion (c : CombId)
  /-- CPY (R195): Copy a tensor bit-exactly, or write zeros, and maintain the destination ceiling. -/
  | cpy (c : CombId) (f : TForm)
  /-- GATHER (R196): Gather rows of A into D by an LF64 index tensor. -/
  | gather (c : CombId) (f : TForm)
  /-- SCATTER (R196): Scatter rows of A into D by an LF64 index tensor. -/
  | scatter (c : CombId) (f : TForm)
  /-- SEAL (R197): Compute a tensor's seal, record it in its slot and write it to an address. -/
  | seal (c : CombId) (f : TForm)
  /-- AMO (R198): Apply an atomic operation line by line into HBM or a square store. -/
  | amo (c : CombId) (f : TForm)
  /-- COURIER_ACCEPT (R194): The courier starts its next instruction in program order when fewer than 8 are executing. -/
  | courierAccept (c : CombId)
  /-- COURIER_COMPLETION (R194): Every write of a courier instruction is visible and its counter increments. -/
  | courierCompletion (c : CombId) (i : Nat)
  /-- SEAL_ENGINE_SERVE (R307): A seal engine takes the next request in arrival order and digests its canonical stream. -/
  | sealEngineServe (e : Fin 26)
  /-- PUT (R201): Send a local tensor to a remote chip as one consignment, optionally atomic. -/
  | put (c : CombId) (f : TForm)
  /-- GET (R235): Fetch a remote tensor by GETREQ drops. -/
  | get (c : CombId) (f : TForm)
  /-- MCAST (R201): Send the same data to every member of a group. -/
  | mcast (c : CombId) (f : TForm)
  /-- COLL (R203): Join a collective operation of a group. -/
  | coll (c : CombId) (f : TForm)
  /-- BAR (R204): Join a barrier of a group. -/
  | bar (c : CombId) (f : TForm)
  /-- INSTRUCTION_FETCH (R132): Fetch an instruction word, correcting a single-bit error or raising ILLEGAL for the all-zero word. -/
  | instructionFetch (c : CombId) (u : Upset)
  /-- LOCKSTEP (R133): A mismatch between the sequencer's lockstep cores raises an execution fault. -/
  | lockstep (c : CombId)
  /-- FAULT_DRAINED (R150): After a fault the queues are empty and the comb enters FAULTED. -/
  | faultDrained (c : CombId)
  /-- QUEUE_ENTRY (R140): A stalled tensor instruction enters its queue when room frees and issue resumes. -/
  | queueEntry (c : CombId)
  /-- CONSIGNMENT_START (R231): The courier starts a waiting consignment once open and recent counts allow. -/
  | consignmentStart (c : CombId)
  /-- DROP_ROUTE (R238): A router takes a drop whole and chooses an adaptive, escape or no route, or delivers it. -/
  | dropRoute (i : Nat)
  /-- DROP_TRANSMIT (R242): A link transmitter sends the next drop by class priority and buckets once it holds a credit. -/
  | dropTransmit (l : LinkId)
  /-- DROP_STALE_DISCARD (R237): A C1–C3 drop that has waited 10 µs in a router is discarded. -/
  | dropStaleDiscard (i : Nat)
  /-- DATA (R233): A data drop arrives, is placed by its consignment map and written once, or applied atomically. -/
  | data (d : Drop)
  /-- MANIFEST (R232): A manifest drop opens or completes a consignment's layout and source entry. -/
  | manifest (d : Drop)
  /-- MDATA (R241): A multicast data drop is replicated toward members or delivered. -/
  | mdata (d : Drop)
  /-- MMANIFEST (R241): A multicast manifest drop is replicated toward members or delivered. -/
  | mmanifest (d : Drop)
  /-- GETREQ (R235): A stateless responder answers a GETREQ with RDATA drops or ERROR. -/
  | getreq (d : Drop)
  /-- RDATA (R235): A get response drop is written locally and the next GETREQ sent as the base advances. -/
  | rdata (d : Drop)
  /-- ACK (R233): An end-to-end ACK advances the sender's window. -/
  | ack (d : Drop)
  /-- DONE (R201): A DONE completes a put or mcast member at the sender. -/
  | done (d : Drop)
  /-- ERROR (R201): An error completion raises REMOTE on the sending comb. -/
  | error (d : Drop)
  /-- FENCED (R251): A FENCED drop ends the sender's consignment as fenced and sets CRR_STATUS.FENCED. -/
  | fenced (d : Drop)
  /-- RETX_TIMEOUT (R236): A consignment without advance for TIMEOUT_US is resent, or ends with local error after LIMIT resends. -/
  | retxTimeout (k : PeerKey) (cid : BitVec 13)
  /-- CODEWORD (R213): A received codeword is decoded and CRC-checked, then forwarded or discarded with a NAK. -/
  | codeword (l : LinkId) (w : CodewordIn)
  /-- CONTROL_WORD (R214): A complete control word delivers ACK and credit returns. -/
  | controlWord (l : LinkId) (w : BitVec 64)
  /-- NAK (R215): A NAK makes the transmitter resend every buffered drop from the named number. -/
  | nak (l : LinkId) (n : BitVec 16)
  /-- IDENT (R217): An IDENT sets credits and is checked against the cabling rule at muster. -/
  | ident (l : LinkId) (x : IdentSym)
  /-- REPLAY_STALL (R215): ACK has not advanced for 4 µs with a non-empty replay buffer and the link fails. -/
  | replayStall (l : LinkId)
  /-- LANE_FAILURE (R218): A lane loses lock or exceeds its corrected-symbol limit and a SPARE is sent. -/
  | laneFailure (l : LinkId) (lane : Fin 8)
  /-- SPARE (R218): A SPARE symbol names a failed lane and a switch codeword. -/
  | spare (l : LinkId) (x : SpareSym)
  /-- SPARE_SWITCH (R218): At the named codeword count both ends switch the direction to seven lanes. -/
  | spareSwitch (l : LinkId) (rx : Bool)
  /-- LINK_FAILURE (R223): A link goes FAILED and its buffered and queued drops return to the router. -/
  | linkFailure (l : LinkId)
  /-- LINK_RETRY (R224): A FAILED link retries bring-up every 100 ms. -/
  | linkRetry (port : Fin 6) (n : Fin 4)
  /-- LINK_PHASE_DONE (R219): A link bring-up phase completes or exceeds its limit. -/
  | linkPhaseDone (l : LinkId) (x : PhaseEnd)
  /-- ROADWORKS_SCHEDULE (R220): Period or temperature triggers roadworks; the owner starts it with RW_NOTICE or defers it. -/
  | roadworksSchedule (l : LinkId) (temp : BitVec 8)
  /-- RW_REQUEST (R220): The far end asks the owner end for roadworks. -/
  | rwRequest (l : LinkId)
  /-- RW_NOTICE (R221): The far end receives notice and enters NOTICE, choosing the link for no new drop. -/
  | rwNotice (l : LinkId) (ts : BitVec 64)
  /-- RW_CANCEL (R224): A notice is withdrawn and both ends return to ACTIVE. -/
  | rwCancel (l : LinkId) (ts : BitVec 64)
  /-- ROADWORKS_CLOSE (R221): At T_s both ends send CLOSE, enter ROADWORKS and move queued drops to other links. -/
  | roadworksClose (l : LinkId)
  /-- CLOSE (R221): A CLOSE symbol names the last drop sent before closing. -/
  | close (l : LinkId) (n : BitVec 16)
  /-- ROADWORKS_SETTLE_END (R221): After the settle span, unacknowledged drops are resent over other links and adaptation begins. -/
  | roadworksSettleEnd (l : LinkId)
  /-- OPEN (R222): Calibration ends; OPEN echoes the delay and the link returns to ACTIVE, excluded from chimes if the delay changed. -/
  | openLink (l : LinkId) (x : OpenSym)
  /-- HBM_RETRAIN_START (R350): On schedule or temperature change a pseudo-channel's retraining starts after a 1 µs notice. -/
  | hbmRetrainStart (x : RetrainIn)
  /-- HBM_RETRAIN_END (R225): Retraining finishes, or ends on old settings at 2 µs, and the pseudo-channel resumes. -/
  | hbmRetrainEnd (m : McId) (finished : Bool)
  /-- HBM_REFRESH (R350): Per-bank refresh falls due. -/
  | hbmRefresh (m : McId) (temp : BitVec 8)
  /-- MERGE_SLOT_CLOSE (R348): A merge slot idle for 4 µs closes, merging missing sectors and writing parity. -/
  | mergeSlotClose (m : McId) (page : Nat)
  /-- HBM_SWEEP (R349): The controller sweeper reads and corrects the next page, by period or floor. -/
  | hbmSweep (m : McId) (struck : HbmStrike)
  /-- RECODE_PAGE (R346): The recode cursor checks the next page and writes its parity in the new code. -/
  | recodePage (m : McId)
  /-- COMB_STORE_SWEEP (R37): A comb-store sweeper reads a line, correcting or poisoning it. -/
  | combStoreSweep (c : CombId) (line : Nat) (struck : List (Nat × Upset))
  /-- SQUARE_STORE_SWEEP (R39): A square-store sweeper reads a line under the comb-store rules. -/
  | squareStoreSweep (q : SqId) (line : Nat) (struck : List (Nat × Upset))
  /-- ATOMIC_OPERATION (R112): An atomic unit applies one 64-byte operation in arrival order. -/
  | atomicOperation (u : Nat)
  /-- COLL_ADMISSION (R268): The head of the admission queue is admitted once pool banks or spill space are free. -/
  | collAdmission
  /-- SIGN (R258): A phase neighbour's signature is matched, held for a later era, or found mismatched. -/
  | sign (d : Drop)
  /-- GRANT (R276): A grant allows the sender to send further segments. -/
  | grant (d : Drop)
  /-- COLL_DATA (R265): A collective segment arrives, is summed or placed, and forwarded when formed. -/
  | collData (d : Drop)
  /-- ABORT (R421): An ABORT ends the named collective or barrier, or is held until its issue. -/
  | abort (d : Drop)
  /-- ARRIVE (R271): A barrier arrival is gathered up the tree, and at the leader sets T_rel. -/
  | arrive (d : Drop)
  /-- RELEASE (R272): A RELEASE is forwarded down the tree and arms the release at T_rel. -/
  | release (d : Drop)
  /-- BARRIER_RELEASE (R295): At T_rel on the member's time base the bar counter increments. -/
  | barrierRelease (g : BitVec 8)
  /-- COLL_COMPLETION (R273): All writes are visible and consignments acknowledged; the coll counter increments and banks release. -/
  | collCompletion (g : BitVec 8)
  /-- CHIME (R292): The time base reaches a chime instant and the chime actions are applied in order. -/
  | chime
  /-- ARRAY_SELFTEST_DONE (R87): The self-test ends with no fault, located columns or a failed comb. -/
  | arraySelftestDone (c : CombId) (x : SelftestResult)
  /-- CHIME_SYMBOL (R289): A CHIME copy is forwarded once and the best copy slews the time-base fraction. -/
  | chimeSymbol (l : LinkId) (x : ChimeSym) (stamp : BitVec 70)
  /-- ROOT_SUCCESSION (R290): After SILENT chimes without a copy the deputy becomes root, or the chip sets ORPHAN. -/
  | rootSuccession
  /-- SYNCLOSS_RESET (R380): SYNCLOSS persisting for 16 chimes takes a core reset. -/
  | synclossReset
  /-- PING (R280): A PING is answered with an ECHO. -/
  | ping (l : LinkId) (t1 : BitVec 64)
  /-- ECHO (R280): An ECHO yields one delay sample. -/
  | echo (l : LinkId) (x : EchoSym)
  /-- ELECT (R282): An ELECT symbol updates the best and second-best candidates, or reveals a running time base. -/
  | elect (l : LinkId) (x : ElectSym)
  /-- ELECT_BROADCAST (R282): Every 1 µs the chip sends ELECT on all aligned links. -/
  | electBroadcast
  /-- ELECT_SETTLED (R282): The result is unchanged for SETTLE_US; root and deputy are fixed, or the muster ends without a base. -/
  | electSettled
  /-- TIME (R283): A TIME symbol sets the time base, is adopted and forwarded once. -/
  | time (l : LinkId) (x : TimeSym)
  /-- MUSTER_PHASE_DONE (R279): A muster phase ends by completion or limit and the next begins. -/
  | musterPhaseDone
  /-- QVOTE (R294): The quiesce leader collects votes and sends GO or DEFER. -/
  | qvote (d : Drop)
  /-- QDECIDE (R294): A quiesce decision arms the quiesce for V+1 or resumes admission. -/
  | qdecide (d : Drop)
  /-- VOTE (R325): A leader or deputy records a chip vote and decides when it can. -/
  | vote (d : Drop)
  /-- LODGE (R326): The deputy stores the leader's decision and answers LODGED. -/
  | lodge (d : Drop)
  /-- LODGED (R326): The leader sends DECIDE to every other member. -/
  | lodged (d : Drop)
  /-- DECIDE (R326): A member keeps the first decision for its step, opening its round if needed. -/
  | decide (d : Drop)
  /-- COMMIT_DEADLINE (R325): At the deadline chime with a vote missing the leader decides skip. -/
  | commitDeadline
  /-- COMMIT_UNDECIDED (R328): A round still undecided after twice the deadline sets UNDECIDED and reports. -/
  | commitUndecided
  /-- STATUS (R360): Return state, chip id, BASE and chime. -/
  | status (h : OrderHdr)
  /-- REG_READ (R362): Read up to 64 control registers in listed order. -/
  | regRead (h : OrderHdr) (addrs : List (BitVec 48))
  /-- REG_WRITE (R362): Write up to 64 control registers, ending at the first refusal. -/
  | regWrite (h : OrderHdr) (ws : List (BitVec 48 × BitVec 64))
  /-- BULK_WRITE (R363): Write one piece of a bulk consignment, completing it with seal, counter and final reply. -/
  | bulkWrite (h : OrderHdr) (b : BulkPiece)
  /-- BULK_TIMEOUT (R363): A bulk consignment without a piece for 100 ms closes with a RANGE final reply. -/
  | bulkTimeout (src : Nat) (cid : BitVec 32)
  /-- BULK_READ (R365): Answer with data replies of a range up to 1 GiB. -/
  | bulkRead (h : OrderHdr) (addr : BitVec 48) (len : BitVec 32) (cid : BitVec 32)
  /-- MUSTER (R279): Begin the muster from CORE-UP. -/
  | muster (h : OrderHdr)
  /-- LOAD (R154): Load a program image into a set of combs. -/
  | load (h : OrderHdr) (img : BitVec 48) (combs : BitVec 64)
  /-- LOAD_COMPLETE (R154): Every named comb is LOADED and one completion notice is sent. -/
  | loadComplete (seq : BitVec 32)
  /-- START (R155): Arm a set of combs to run from a future start chime. -/
  | start (h : OrderHdr) (combs : BitVec 64) (chime : BitVec 64) (s : Vector (BitVec 64) 8)
  /-- QUIESCE (R294): Request a quiesce voting from a chime. -/
  | quiesce (h : OrderHdr) (chime : BitVec 64)
  /-- RESUME (R147): Resume held combs at a chime. -/
  | resume (h : OrderHdr) (chime : BitVec 64)
  /-- CERTIFY (R311): Form a seal chain from slots and have the warden sign a result certificate. -/
  | certify (h : OrderHdr) (comb : CombId) (ins ws : List (BitVec 16)) (res : BitVec 16)
  /-- ATTEST (R393): Return a signed attestation quote with recent chains. -/
  | attest (h : OrderHdr) (nonce : BitVec 256) (nchain : BitVec 8) (cert : Bool)
  /-- CHR_READ (R401): Return chronicle records from a first index. -/
  | chrRead (h : OrderHdr) (first count : BitVec 32)
  /-- NAME_ROOT (R290): Name a new root and deputy for a base that has lost both. -/
  | nameRoot (h : OrderHdr) (root deputy : BitVec 18) (base : BitVec 64)
  /-- TABLE_WRITE (R362): Signed write of RTE_ and COL_ registers and table entries. -/
  | tableWrite (h : OrderHdr) (ws : List (BitVec 48 × BitVec 64))
  /-- RESET_COMB (R381): Reset the named combs at a chime. -/
  | resetComb (h : OrderHdr) (combs : BitVec 64) (chime : BitVec 64)
  /-- RESET_COMPUTE (R381): Reset every comb at a chime. -/
  | resetCompute (h : OrderHdr) (combs : BitVec 64) (chime : BitVec 64)
  /-- RESET_CORE (R381): Reset everything but the warden on acceptance. -/
  | resetCore (h : OrderHdr)
  /-- RESET_FULL (R381): Reset everything including the warden on acceptance. -/
  | resetFull (x : FullResetIn)
  /-- PROFILE_SELECT (R398): Switch to a valid profile slot at the next chime, in QUIESCED. -/
  | profileSelect (h : OrderHdr) (slot : BitVec 8)
  /-- ETHERNET_DEFAULTS (R368): Write one MACsec association not in use for transmission. -/
  | ethernetDefaults (h : OrderHdr) (rx : Bool) (an : BitVec 8) (a : MacsecAssoc)
  /-- FW_STAGE_IMAGE (R390): Stage a piece of a firmware image into the inactive bank. -/
  | fwStageImage (h : OrderHdr) (b : StagePiece)
  /-- FW_STAGE_PROFILE (R397): Stage a piece of a profile into a slot. -/
  | fwStageProfile (h : OrderHdr) (b : StagePiece)
  /-- FW_STAGE_KEY_SET (R395): Stage a piece of a key set. -/
  | fwStageKeySet (h : OrderHdr) (b : StagePiece)
  /-- STAGE_VERIFIED (R390): Verification of a completed staged item ends and the reply is sent. -/
  | stageVerified (kind : Fin 3)
  /-- FW_SWITCH (R391): Switch to the passed staged firmware at the next chime, in QUIESCED. -/
  | fwSwitch (h : OrderHdr)
  /-- CHR_CLEAR (R402): Begin clearing the chronicle. -/
  | chrClear (h : OrderHdr)
  /-- CHR_CLEAR_DONE (R402): The clear record is written and the reply sent. -/
  | chrClearDone
  /-- PROT_QUERY (R394): Return the protection setup as closed at boot. -/
  | protQuery (h : OrderHdr)
  /-- ARP_REQUEST (R354): Answer ARP or IPv6 neighbour solicitation for the device's own addresses. -/
  | arpRequest (x : NdFrame)
  /-- ETH_LINK_CHANGE (R21): The Ethernet port goes down or comes up. -/
  | ethLinkChange (up : Bool)
  /-- CHRONICLE_RECORD_WRITE (R399): The next queued event is written at the fill point, or refused when full. -/
  | chronicleRecordWrite
  /-- RTE_SELF_WRITE (R14): Write the chip's physical coordinate, only in WARDEN-UP or CORE-UP. -/
  | rteSelfWrite (h : OrderHdr) (v : BitVec 64)
  /-- RTE_FLIP_WRITE (R249): Arm or disarm a table flip at a future chime. -/
  | rteFlipWrite (h : OrderHdr) (v : BitVec 64)
  /-- RTE_EPOCH_RELEASE (R249): Release the drained version when RUN is 1. -/
  | rteEpochRelease (h : OrderHdr) (v : BitVec 64)
  /-- RTE_FENCE_WRITE (R251): Fence or readmit chips, ending traffic to them and resetting numbering. -/
  | rteFenceWrite (h : OrderHdr) (w : Fin 4096) (v : BitVec 64)
  /-- COL_GROUP_WRITE (R255): Define or change a group header under the validity checks. -/
  | colGroupWrite (h : OrderHdr) (ver : Fin 2) (g : Fin 256) (v : BitVec 64)
  /-- COL_MEM_WRITE (R255): Write a member word, refused while its group is valid. -/
  | colMemWrite (h : OrderHdr) (ver : Fin 2) (g : Fin 256) (w : Fin 2048) (v : BitVec 64)
  /-- COL_CFG_WRITE (R270): Change pool size, spill enable or spill region at the next chime. -/
  | colCfgWrite (h : OrderHdr) (spill : Bool) (v : BitVec 64)
  /-- CHM_PENDING_WRITE (R287): Request an interval change on the root, applying 16 chimes later. -/
  | chmPendingWrite (h : OrderHdr) (v : BitVec 64)
  /-- CHM_ROOT_WRITE (R296): Set the preferred root, or the deputy on the running root. -/
  | chmRootWrite (h : OrderHdr) (v : BitVec 64)
  /-- CHM_CFG_WRITE (R296): Set settle time and silent count before muster. -/
  | chmCfgWrite (h : OrderHdr) (v : BitVec 64)
  /-- SEAL_LEVEL_PEND_WRITE (R298): Stage the level to apply. -/
  | sealLevelPendWrite (h : OrderHdr) (v : BitVec 64)
  /-- SEAL_LEVELAT_WRITE (R298): Arm or withdraw a level change at a future chime. -/
  | sealLevelatWrite (h : OrderHdr) (v : BitVec 64)
  /-- STP_REGISTER_WRITE (R334): Write MASTER_BANK, STEP, CFG or a stage entry when state and round allow. -/
  | stpRegisterWrite (h : OrderHdr) (x : StpReg) (v : BitVec 64)
  /-- MEM_STRENGTH_WRITE (R346): Change one zone's code and start its recode. -/
  | memStrengthWrite (h : OrderHdr) (m : McId) (v : BitVec 64)
  /-- SWEEPER_DISABLE (R37): Clearing a sweeper's EN stops it and is recorded in the chronicle. -/
  | sweeperDisable (h : OrderHdr) (x : SweepUnit)
  /-- RWNOW (R220): Request roadworks of a link now at its owner end. -/
  | rwnow (h : OrderHdr) (l : LinkId)
  /-- LINK_EN_WRITE (R224): Close a link and hold it closed, or train and use it again. -/
  | linkEnWrite (h : OrderHdr) (l : LinkId) (en : Bool)
  /-- TXAN_WRITE (R368): Switch MACsec transmission to the other association. -/
  | txanWrite (h : OrderHdr) (an : Bool)
  /-- STEPMIN_WRITE (R409): Set the shallowest throttle step allowed, taking effect within 2 µs. -/
  | stepminWrite (h : OrderHdr) (v : BitVec 3)
  /-- PREF_WRITE (R406): Name the preferred VIN input. -/
  | prefWrite (h : OrderHdr) (b : Bool)
  /-- W1C_CLEAR (R9): Writing 1 clears a W1C bit, or counts in AGAIN when hardware sets it in the same cycle. -/
  | w1cClear (r : Reg) (v : BitVec 64) (setNow : BitVec 64)
  /-- AGAIN_RESET (R9): Any write to an AGAIN counter sets it to zero. -/
  | againReset (r : Reg)
  /-- REGISTER_WRITE (R8): Write a register field with no behaviour of its own under its access code. -/
  | registerWrite (r : Reg) (v : BitVec 64)
  /-- HALL_LOCKSTEP (R33): A hall lockstep mismatch takes a core reset. -/
  | hallLockstep
  /-- CLOCK_MONITOR_FAULT (R380): A REFCLK or PLL fault takes a core reset held until REFCLK is good for 10 ms. -/
  | clockMonitorFault
  /-- RAIL_MONITOR_FAULT (R380): An internal rail outside ±5% takes a core reset. -/
  | railMonitorFault
  /-- VIN_TRANSFER (R406): The input in use leaves 10.2–13.8 V and the load transfers to the other input. -/
  | vinTransfer (va vb : Nat)
  /-- VIN_TRANSFER_BACK (R406): The preferred input in range for 10 ms takes the load back. -/
  | vinTransferBack (va vb : Nat)
  /-- SUPPLY_LOSS (R380): Both VIN inputs below 10.2 V take a core reset held until one recovers. -/
  | supplyLoss (va vb : Nat) (held9V : Bool)
  /-- VAUX_CHANGE (R407): A VAUX input appears or is lost; power-on full reset or OFF. -/
  | vauxChange (on : Bool × Bool) (pins : BitVec 2)
  /-- PORST (R380): PORST_N low takes a full reset. -/
  | porst (low : Bool) (pins : BitVec 2)
  /-- WARDEN_WATCHDOG (R383): No warden progress for 100 ms takes a full reset. -/
  | wardenWatchdog (pins : BitVec 2)
  /-- ALIVE_TOGGLE (R383): The warden toggles ALIVE at 1 kHz. -/
  | aliveToggle
  /-- THERMAL_REQUEST (R409): The thermal request moves a step deeper or shallower on its timers. -/
  | thermalRequest (t : Nat) (deeper : Bool)
  /-- CURRENT_REQUEST (R409): The current request moves a step deeper or shallower on its timers. -/
  | currentRequest (ia ib : Nat) (deeper : Bool)
  /-- JUNCTION_OVER (R411): The hottest junction crosses 105 °C; OVER is set, recorded and notified. -/
  | junctionOver (t : Nat)
  /-- THERMTRIP (R411): A 115 °C reading asserts THERMTRIP_N and the core supplies go off. -/
  | thermtrip (t : Nat)
  /-- LATENT_FAULT_TEST (R376): A periodic latent-fault test runs and a failure retires, fails or records. -/
  | latentFaultTest (t : LatentTest) (failed : Bool)
  /-- RESET_COMPLETE (R378): A reset of any domain ends and the device leaves RESETTING. -/
  | resetComplete
  /-- BOOT_VERIFY (R388): Phase 4 verifies the bank in force, falls back or stays without firmware. -/
  | bootVerify
  /-- BOOT_SUPPLY (R407): Phase 5 sequences the core rails once the input is stable for 10 ms. -/
  | bootSupply (vin : Nat)
  /-- BOOT_CORE (R24): Phase 6 releases the core after REFCLK is good, runs comb self-test and derives the comb map. -/
  | bootCore (x : CombSelftest)
  /-- BOOT_CLOSE (R394): Phase 7 writes and closes the protection setup and the device enters CORE-UP. -/
  | bootClose
  /-- ETHERNET_FRAME (R355): A received frame or datagram that is no valid order is discarded and counted, or answered RANGE for an unknown code. -/
  | ethernetFrame (x : FrameIn)
  /-- TAP_INSTRUCTION (R418): An instruction loaded through the JTAG TAP takes effect, acts as BYPASS with a chronicle record outside WARDEN-UP and CORE-UP, or is held off by the closed mode 0. -/
  | tapInstruction (x : TapIn)
deriving DecidableEq, Repr

end Sys2Proof
end

