-- ==== Sys2Proof/Decode.lean ====
section
/-!
DEFINITION. The command that a word spells by the opcode table's bits. The table gives none of its rows bits, so no word
spells a command. (How a comb's sequencer reads its own instruction words is in Machine/Operands.lean.)
-/
namespace Sys2Proof

/-- No row of the opcode table has bits (DESIGN CHOICE, log entry 3). -/
def decodeTableWord (_nbits _w : Nat) : Option Instr := none

end Sys2Proof
end

