-- ==== Sys2Proof/Config.lean ====
section
/-!
DEFINITION. What the spec leaves to the implementation, the profile, the key holder or nobody: uninterpreted constants, so
that no proof can see a value of them (log entries 6, 7, 8 and 9).
-/
namespace Sys2Proof

/-- The items of a profile that the chip's behaviour rests on (Table 19.7). Their place inside the profile's bytes is not in
the spec, so `Config.parseProfile` reads them (DESIGN CHOICE, log entry 72). -/
structure Profile where
  /-- DEEPEST throttle step (R408). -/
  deepest  : BitVec 3 := 0
  /-- Default chime interval in array cycles (R283). -/
  ival     : BitVec 26 := 0
  /-- LNK_CFG defaults (R226). -/
  lnkCfg   : BitVec 64 := 0
  /-- Reserve code (R342). -/
  reserve  : BitVec 2 := 0
  /-- Zone defaults, two bits a zone (R342). -/
  zones    : BitVec 16 := 0
  /-- ETH_CFG defaults (R354). -/
  ethCfg   : BitVec 64 := 0
  /-- Division of the receive buffer among the twelve channels (R217). -/
  vcAlloc  : List Nat := []
  /-- Interface types of the 24 links (R209), and the lane map: for each link the physical lane and the polarity of each lane position
  (R12, R211). -/
  ifaces   : List (BitVec 8) := []
  laneMap  : List (List (Nat × Bool)) := []
  /-- Interface type, MAC and IP addresses of the Ethernet port, and the notice hosts by address slot (R354, Table 17.11). -/
  ethIface : BitVec 8 := 0
  mac      : BitVec 48 := 0
  ip4      : BitVec 32 := 0
  ip6      : BitVec 128 := 0
  hosts4   : List (BitVec 32) := []
  hosts6   : List (BitVec 128) := []
  /-- Fault-notice thresholds by block of Table 19.8: corrected events in 1 s; none where the block has none. -/
  limits   : List (Option Nat) := []
  /-- MACsec associations: receive 0 and 1, transmit 0 and 1, each key ++ salt ++ ssci (R368). -/
  assoc    : List (BitVec 384) := []
deriving DecidableEq, Repr, Inhabited

namespace Config

/-- A free value, one for every value of the counter `State.free`: DESIGN CHOICE, log entry 6. -/
opaque freeWord : Nat → BitVec 64

/-- The factory profile of the warden ROM (R396) without the throttle steps that Table 20.3 gives: DESIGN CHOICE, log entry 7. -/
opaque factoryRest : Profile

/-- How a profile's bytes spell its items (Table 19.7 gives offsets, not layouts): DESIGN CHOICE, log entry 7. -/
opaque parseProfile : List (BitVec 8) → Profile

/-- The private device identity key (R392): PRESUMED, log entry 8. -/
opaque identityKey : BitVec 456

/-- The two Hjelzel firmware public keys in warden ROM (R389): PRESUMED, log entry 8. -/
opaque firmwareKey : Fin 2 → BitVec 456

/-- The firmware image that both MRAM banks hold when the part is delivered: DESIGN CHOICE, log entry 12. -/
opaque factoryImage : List (BitVec 8)

/-- The measurement of the factory profile (R393, R396): DESIGN CHOICE, log entry 7. -/
opaque factoryMeas : List (BitVec 8)

/-- Hjelzel's manufacturer identity in IDCODE (R417): the spec gives no number (DESIGN CHOICE, PRESUMED, log entry 107). -/
opaque manufacturer : BitVec 11

/-- SERIAL, ISSUED and CAID of the identity certificate, and the signature of its authority (Table 19.5): PRESUMED, log entry 8. -/
opaque serial : BitVec 128
opaque issued : BitVec 64
opaque caid : BitVec 128
opaque certSig : BitVec 912

/-- The EVENT code of a chronicle event whose code no table gives: DESIGN CHOICE, log entry 9. -/
opaque eventCode : Nat → BitVec 16

/-- Bytes 1 to 63 of a link symbol whose fields Table 10.2 names without their places, by TYPE and fields: DESIGN CHOICE, log entry 87. -/
opaque symBytes : Nat → List Nat → BitVec 504

/-- The body bytes of an order whose layout the spec does not give, by its code and fields: DESIGN CHOICE, log entry 88. -/
opaque orderBody : Nat → List Nat → List (BitVec 8)

end Config

/-- Zone codes as they load at a full reset: none exceeds the reserve code (R342). -/
def Profile.strength (p : Profile) : BitVec 64 :=
  BitVec.ofNat 64 ((List.range 8).foldl (fun t z => t + min p.reserve.toNat (p.zones.toNat / 4 ^ z % 4) * 4 ^ z) 0)

/-- LNK_CFG as it loads (Table 10.13): reserved bits 0, values outside a range at the nearer end. -/
def Profile.lnkWord (p : Profile) : BitVec 64 :=
  let w := p.lnkCfg &&& 0x00FFFFFF00FF0000
  w ||| BitVec.ofNat 64 (max 1 (min 3600 (p.lnkCfg.toNat % 65536)) + if p.lnkCfg.toNat / 65536 % 256 = 0 then 65536 else 0)

/-- ETH_CFG as it loads (Table 17.10): reserved bits 0. -/
def Profile.ethWord (p : Profile) : BitVec 64 := p.ethCfg &&& 0x0000000E0FFFFFFF

/-- The division of a receive buffer of 6,144 drops among twelve channels, at least 64 each (R217); a division that breaks this is replaced
by equal shares (DESIGN CHOICE, log entry 89). -/
def Profile.shares (p : Profile) : List Nat :=
  if p.vcAlloc.length = 12 ∧ (p.vcAlloc.all fun n => decide (64 ≤ n)) = true ∧ p.vcAlloc.foldl (· + ·) 0 ≤ 6144 then p.vcAlloc
  else List.replicate 12 512

/-- The physical lane and polarity of a lane position of link `l` (R12, R211). -/
def Profile.lane (p : Profile) (l pos : Nat) : Nat × Bool := (p.laneMap.getD l []).getD pos (pos, false)

/-- The factory profile: steps 0 to 2 of Table 20.3, LNK_CFG and ETH_CFG.PORT at the reset values of Tables 10.13 and 17.10,
everything else as the warden ROM holds it (DESIGN CHOICE, log entry 7). -/
def Profile.factory : Profile :=
  { Config.factoryRest with
    deepest := 2
    lnkCfg := 0x00030D400005000A
    ethCfg := (Config.factoryRest.ethCfg &&& 0xFFFFFFFFFFFF0000) ||| 45390 }

end Sys2Proof
end

