-- ==== Sys2Proof/Machine/State.lean ====
section
/-!
DEFINITION. The state of one JNX-6424, as plain data: every register, store, queue, pin and record the spec gives the chip,
block by block, and the queue of waiting commands. Sparse stores are lists of (key, value) pairs with rising keys and no
entry equal to the value an unlisted key reads as (Machine/Bits.lean).
-/
namespace Sys2Proof
namespace Machine

/-- No meaning ends in a fault: what the spec calls a fault of the chip is an effect on State (R149 to R151). The one
constructor names a command that would act on a unit no state holds; nothing raises it (safe). -/
inductive Fault where
  /-- Raised by nobody; safe. -/
  | unheldUnit
deriving DecidableEq, Repr

/-- Why a command has no meaning. -/
inductive Refusal where
  /-- Raised by an arm of exec whose command has no meaning yet; safe. -/
  | notModelled (mnemonic : String)
deriving DecidableEq, Repr

/-! ### Values and tensors -/

/-- An exact extended value: what an element decodes to (R41, R60) and what arithmetic carries before it rounds.
`fin neg m e` is (-1)^neg · m · 2^e with m > 0. -/
inductive Val where
  | nan
  | inf (neg : Bool)
  | zero (neg : Bool)
  | fin (neg : Bool) (m : Nat) (e : Int)
deriving DecidableEq, Repr, Inhabited

/-- A tensor descriptor: eight little-endian words, Table 3.6. -/
abbrev Desc := Vector W64 8

/-- A 48-byte seal (R306), or another 48-byte digest. -/
abbrev Digest := List Byte

/-! ### The comb -/

/-- Table 7.6. -/
inductive SeqState where
  | empty | loading | loaded | armed | running | waiting | chimeWait | hold | halted | faulted
deriving DecidableEq, Repr

/-- Why issue is stalled, and the two drains that lead to HALTED and FAULTED. -/
inductive Stall where
  | none
  /-- wait on a counter with target (R137) -/
  | counter (cnt : BitVec 8) (target : W32)
  /-- fence over a set of queues: bit 0 matrix, 1 vector, 2 courier, 3 fabric (R142) -/
  | fence (set : BitVec 4)
  /-- frame reached (R145) -/
  | frame
  /-- chimew until the time base reaches the target (R190) -/
  | chimew (target : Nat)
  /-- halt issued, queues draining (R156) -/
  | halting
  /-- a fault recorded, queues draining (R150) -/
  | faulting
deriving DecidableEq, Repr

/-- One entry of the loop stack (R187): word indexes of the body's first and last word, passes remaining. -/
structure LoopEntry where
  start : Nat
  last  : Nat
  left  : Nat
deriving DecidableEq, Repr

/-- The element-wise and reducing vector operations of Table 8.8. -/
inductive VOp where
  | vld | vst | vadd | vsub | vmul | vfma | vmax | vmin | vargmax | vargmin | vsum | vexp2 | vlog2 | vrcp | vrsqrt
  | vcvt | vcmp | vsel
deriving DecidableEq, Repr

/-- The update family (R179 to R181). -/
inductive UOp where
  | m2 | m1 | plain
deriving DecidableEq, Repr

/-- The tensor words (Table 9.1). -/
inductive TKind where
  | mshape | mhold | mmul | mx | vec (op : VOp) | upd (op : UOp) | cpy | gather | scatter | seal | amo
  | put | get | mcast | coll | bar
deriving DecidableEq, Repr

/-- A tensor instruction with the operands it read at issue (R136). -/
inductive TOp where
  | mshape (shape : BitVec 3) (mode : BitVec 2)
  | mhold (b : Desc) (k0 c0 : Nat) (tb p64 : Bool)
  | mmul (a b : Desc) (slot : Fin 4) (ow seq : Bool) (g : BitVec 2) (auto : Bool) (win : Int) (kc : Nat) (ta tb : Bool)
      (mask : Option W64)
  /-- `shape` is the shape that every earlier issued instruction will have left (R420) -/
  | mx (shape : BitVec 3) (dr : Fin 32) (d : Desc) (slot : Fin 4) (rm : BitVec 3) (cs : Fin 4) (sv bv : Option Desc)
      (lo hi : W32) (base pitch : W64)
  | vec (op : VOp) (dr : Fin 32) (d a b c : Desc) (bs : Option W32) (cs : Fin 4) (rm : BitVec 3) (base pitch : W64)
  | upd (op : UOp) (da : Fin 32) (ds : Vector Desc 7) (sc : Vector W64 4) (wc : Nat) (cs : Fin 4) (rm : BitVec 3)
      (base pitch : W64)
  | cpy (dr : Fin 32) (d a : Desc) (z : Bool)
  | gather (dr : Fin 32) (d a di : Desc)
  | scatter (dr : Fin 32) (d a di : Desc)
  | seal (a : Desc) (addr : W64)
  | amo (op : BitVec 3) (d a : Desc)
  | put (d a : Desc) (coord : W64) (op : BitVec 3)
  | get (dr : Fin 32) (d a : Desc) (coord : W64)
  | mcast (d a : Desc) (coord : W64)
  | coll (op : BitVec 4) (rf : Bool) (rm : BitVec 3) (cs : Fin 4) (dr : Fin 32) (d a : Desc) (gw : W64) (num : BitVec 16)
      (era : W64) (ver : Fin 2)
  | bar (gw : W64) (num : BitVec 16) (era : W64) (ver : Fin 2)
deriving DecidableEq, Repr

/-- A tensor instruction in a queue: its address, its completion counter and its operands. -/
structure QEntry where
  pc  : BitVec 18
  ce  : Bool
  cnt : BitVec 8
  op  : TOp
deriving DecidableEq, Repr

/-- A tensor instruction in execution: the byte runs that completion makes visible, the lines they poison, the ceilings they
raise, the slot elements it works on, the cycle figure of its table, and whether it waits for others (a seal engine, its
atomic operations, its consignments). -/
structure Flight where
  e       : QEntry
  /-- number of the flight on its comb: what a seal request or an atomic operation answers to -/
  id      : Nat := 0
  cycles  : Nat := 0
  writes  : List (Nat × List Byte) := []
  poisons : List Nat := []
  ceils   : List (Fin 32 × Int) := []
  keys    : List Nat := []
  waits   : Nat := 0
deriving DecidableEq, Repr

/-- One accumulator slot element, Table 5.1, with the poison mark of R86. The defaults are R91. -/
structure SlotElem where
  value  : BitVec 96 := 0
  seq    : Bool := false
  g      : BitVec 2 := 0
  wlo    : BitVec 10 := 0
  nan    : Bool := false
  pinf   : Bool := false
  ninf   : Bool := false
  inv    : Bool := false
  ovf    : Bool := false
  poison : Bool := false
  kcount : W32 := 0
  wrap   : BitVec 7 := 0
  res    : BitVec 7 := 0
deriving DecidableEq, Repr

/-- A block of B in the held-operand banks (R76): decoded values by K-position and logical column, the h it was filled for,
the format's rate class and the ceiling record of R160. -/
structure HeldBlock where
  h      : Nat
  k0     : Nat
  rate   : Nat
  vals   : List (List Val)
  poison : Bool
  ceil   : Int
  ceilv  : Bool
deriving DecidableEq, Repr

/-- The matrix state that every earlier issued instruction will have left (R420). -/
structure Judged where
  shape : BitVec 3 := 0
  mode  : BitVec 2 := 0
  heldH : Option Nat := none
  /-- rate class of the held block's format (R64) -/
  rate  : Nat := 0
  ceil  : Int := 0
  ceilv : Bool := false
  /-- (SEQ, G) by slot element key; unlisted elements are EXACT with G = 0 -/
  elems : List (Nat × (Bool × BitVec 2)) := []
deriving DecidableEq, Repr

/-- The matrix array (04, 05). -/
structure Mat where
  shape    : BitVec 3 := 0
  mode     : BitVec 2 := 0
  active   : Option HeldBlock := none
  shadow   : Option HeldBlock := none
  /-- 1: the shadow banks hold a filled block not yet made active -/
  full     : Bool := false
  judged   : Judged := {}
  /-- slot element by key 1024·slot + 32·physical row + physical column -/
  slots    : List (Nat × SlotElem) := []
  run      : List Flight := []
  fault    : W64 := 0
  faultPc  : W64 := 0
  selftest : W64 := 0
  again    : W64 := 0
  vanish   : W64 := 0
  ovfl     : W64 := 0
deriving DecidableEq, Repr

/-- A tally snapshot waiting to be written (R191): set, clear, address, counter. -/
structure TallyReq where
  set   : Fin 4
  clear : Bool
  addr  : Nat
  ce    : Bool
  cnt   : BitVec 8
  /-- the 640 bytes once the snapshot is taken -/
  image : Option (List Byte)
deriving DecidableEq, Repr

/-- The extractor and the tally block (06). -/
structure Ext where
  seed    : W64 := 0
  ctrl    : W64 := 0x0000FD0FD0FD0FD0
  invalid : W64 := 0
  poison  : W64 := 0
  /-- census counters by key: set·256 + bin for the histogram, 1024 + set·88 + format·8 + tally -/
  census  : List (Nat × W32) := []
  run     : List Flight := []
  tally   : List TallyReq := []
deriving DecidableEq, Repr

/-- The program a load recorded (R154): image address, ENTRY, word count and program seal. -/
structure ProgRec where
  image : Nat
  entry : BitVec 18
  words : Nat
  digest : Digest
deriving DecidableEq, Repr

/-- The sequencer (07). -/
structure Seq where
  st      : SeqState := .empty
  stall   : Stall := .none
  s       : Vector W64 32 := Vector.replicate 32 0
  d       : Vector Desc 32 := Vector.replicate 32 (Vector.replicate 8 0)
  p       : BitVec 8 := 0
  cnt     : Vector W32 256 := Vector.replicate 256 0
  pc      : BitVec 18 := 0
  loops   : List LoopEntry := []
  fetched : Option W64 := none
  istore  : List (Nat × W64) := []
  upsets  : List (Nat × Upset) := []
  prog    : Option ProgRec := none
  /-- the tensor instruction that waits for room in its queue (R140) -/
  wait    : Option (TKind × TForm) := none
  qMat    : List QEntry := []
  qVec    : List QEntry := []
  qCrr    : List QEntry := []
  qFab    : List QEntry := []
  /-- issued minus completed: matrix, vector, courier, fabric (R142) -/
  busy    : Vector Nat 4 := Vector.replicate 4 0
  startAt : Option W64 := none
  /-- number and instant of the chime that began the frame (R145, R190) -/
  frameN  : W64 := 0
  frameT  : Nat := 0
  /-- the frame instruction of the frame in progress has issued (R145, R146) -/
  framed  : Bool := false
  /-- commit.prep's destination and counter until the decision (R192) -/
  vote    : Option (Fin 32 × Bool × BitVec 8) := none
  fault   : W64 := 0
  exc     : W64 := 0
  frame   : W64 := 0
  again   : W64 := 0
deriving DecidableEq, Repr

/-- A comb reset that waits for its chime, by the cause of Table 18.8. -/
structure CombDue where
  cause  : BitVec 8
  reload : Bool
  /-- the reset takes a new map entry (R28) -/
  remap  : Bool := false
deriving DecidableEq, Repr

/-- One logical comb with its map entry. -/
structure Comb where
  seq       : Seq := {}
  /-- flights numbered so far -/
  serial    : Nat := 0
  mat       : Mat := {}
  ext       : Ext := {}
  vecRun    : List Flight := []
  vecStatus : W64 := 0
  vecAgain  : W64 := 0
  crrRun    : List Flight := []
  crrStatus : W64 := 0
  crrOob    : W64 := 0
  crrAgain  : W64 := 0
  ecc       : W64 := 0
  eccAddr   : W64 := 0
  sweep     : W64 := 0x1000003E8
  energy    : W64 := 0
  again     : W64 := 0
  sweepAt   : Nat := 0
  /-- CMB_MAPn (Table 2.3) -/
  map       : W64 := 0
  /-- a mismatch since the last chime: self-test is due (R87); and one is running -/
  testDue   : Bool := false
  testing   : Bool := false
  due       : Option CombDue := none
  /-- chimes of self-tests with OUTCOME 1, and chimes and addresses of LOCKSTEP and ISTORE faults (Table 18.3) -/
  cleanTests : List W64 := []
  /-- 1 with an ISTORE, 0 with a LOCKSTEP -/
  seqFaults  : List (W64 × Bool × BitVec 18) := []
deriving DecidableEq, Repr

/-! ### Squares and memory -/

/-- One square (02 R39). -/
structure Square where
  ecc     : W64 := 0
  eccAddr : W64 := 0
  sweep   : W64 := 0x1000003E8
  aovf    : W64 := 0
  again   : W64 := 0
  sweepAt : Nat := 0
deriving DecidableEq, Repr

/-- One merge slot (R347): its page, the mask of valid sectors, a use stamp for the least-recent choice, and the stack's own copy of each
valid sector: number, bytes and poison bit. -/
structure MergeSlot where
  page  : Nat
  valid : BitVec 64
  stamp : Nat
  old   : List (Nat × List Byte × Bool) := []
deriving DecidableEq, Repr

/-- One memory controller (16). -/
structure Mc where
  retrains : BitVec 16 := 0
  rt       : Bool := false
  rtpc     : BitVec 5 := 0
  temp     : BitVec 8 := 0
  strength : W64 := 0
  recode   : W64 := 0
  err      : W64 := 0
  errAddr  : W64 := 0
  sweep    : W64 := 0x10000003C
  aovf     : W64 := 0
  again    : W64 := 0
  sweepAt  : Nat := 0
  stamp    : Nat := 0
  slots    : List MergeSlot := []
  /-- refreshes fallen due, and the double rate above 85 °C (R350) -/
  refresh  : Nat := 0
  hot      : Bool := false
  /-- kept by the even controller of a stack (R350): the pseudo-channel next in turn among the stack's 64, the instants from which the
  schedule and R225 allow the next retraining, and the temperature of each pseudo-channel at its last one -/
  turn     : BitVec 6 := 0
  rtNext   : Nat := 0
  rtFloor  : Nat := 0
  rtTemps  : List (Nat × BitVec 8) := []
deriving DecidableEq, Repr

/-- One waiting 64-byte atomic operation of an atomic unit (R112). -/
structure AtomicReq where
  op   : BitVec 3
  addr : Nat
  data : List Byte
  /-- 1: the operand line was poisoned -/
  poison : Bool := false
  src  : Option (CombId × Nat)
deriving DecidableEq, Repr

/-- Device memory: bytes, poison marks by line or sector address, upsets of stored words, and the atomic units' queues. -/
structure Mem where
  bytes   : List (Nat × Byte) := []
  poison  : List (Nat × Bool) := []
  /-- upset SRAM words by word address (byte address div 8) -/
  upsets  : List (Nat × Upset) := []
  /-- HBM sectors whose stored CRC differs from the one their data and address give, by sector address: the difference (R338) -/
  crc     : List (Nat × BitVec 32) := []
  /-- bytes of the parity regions (R342) -/
  parity  : List (Nat × Byte) := []
  /-- waiting operations of the 24 controllers' and 16 squares' atomic units, in arrival order -/
  atomics : List (Nat × AtomicReq) := []
  cfg     : W64 := 0
deriving DecidableEq, Repr

/-! ### Links and router -/

/-- LNK_STATUS.STATE, Table 10.7. -/
inductive LinkState where
  | off | down | training | aligned | active | notice | roadworks | failed
deriving DecidableEq, Repr

/-- The phases of Table 10.4. -/
inductive LinkPhase where
  | signal | equalisation | alignment | identity | delay
deriving DecidableEq, Repr

/-- Link symbols that this end sends (Table 10.2). -/
inductive SymOut where
  | nak (n : BitVec 16)
  | ident (chip : ChipId) (link : Nat) (iface : BitVec 8) (alloc : List Nat)
  | chime (x : ChimeSym)
  | ping (t1 : W64)
  | echo (t1 t2 t3 : W64)
  | elect (x : ElectSym)
  | time (x : TimeSym)
  | rwNotice (ts : W64)
  | rwCancel (ts : W64)
  | rwRequest
  | close (n : BitVec 16)
  /-- delay echoed, and whether the spared lane of each direction passed its test -/
  | open_ (delay : BitVec 16) (rxOk txOk : Bool)
  /-- 1: the direction toward the owner end -/
  | spare (toOwner : Bool) (lane : Fin 8) (at_ : W64)
deriving DecidableEq, Repr

/-- One end of a link (10). -/
structure Link where
  st       : LinkState := .off
  en       : Bool := true
  chimex   : Bool := false
  rxSpare  : Option (Fin 8) := none
  txSpare  : Option (Fin 8) := none
  /-- spare switches awaited: lane and codeword count, receive and transmit direction -/
  rxSwitch : Option (Fin 8 × W64) := none
  txSwitch : Option (Fin 8 × W64) := none
  err      : W64 := 0
  replay   : W64 := 0
  rw       : W64 := 0
  delay    : W64 := 0
  again    : W64 := 0
  phase    : LinkPhase := .signal
  /-- drops queued for transmission (the channel stands in each header), oldest first -/
  txq      : List Drop := []
  /-- drops sent and not acknowledged, with their sequence numbers; those of a replay still to be resent; and the one that a link symbol
  displaced (R212, R215) -/
  buf      : List (BitVec 16 × Drop) := []
  resend   : List (BitVec 16 × Drop) := []
  carry    : Option (BitVec 16 × Drop) := none
  txSeq    : BitVec 16 := 0
  rxSeq    : BitVec 16 := 0
  /-- 1: drops are discarded until the replay begins (R213) -/
  hunting  : Bool := false
  /-- the codeword being formed (R212): its slots so far and its link symbol -/
  cwSlots  : List (Option (BitVec 16 × Drop)) := []
  cwSym    : Option SymOut := none
  /-- codewords sent since alignment, the control word being sent, and the lane position of the next codeword's first symbol in each
  direction (R211, R214) -/
  cwTx     : W64 := 0
  ctlTx    : W64 := 0
  txPos    : Nat := 0
  rxPos    : Nat := 0
  /-- codewords sent, the link's output: each symbol with its physical lane -/
  cwOut    : List (List (Nat × Nat)) := []
  credits  : Vector Nat 12 := Vector.replicate 12 0
  /-- this end's receive buffer (R217): its division as announced, the credits of each channel that the far end holds, and the channel whose
  turn it is to return credits -/
  own      : List Nat := []
  lent     : Vector Nat 12 := Vector.replicate 12 0
  vcTurn   : Nat := 0
  /-- corrected symbols of the last millisecond, by instant and lane position (R218), and discarded codewords by instant (R223) -/
  hits     : List (Nat × Nat) := []
  discAt   : List Nat := []
  /-- nibbles of the control word in progress; none when a codeword of the group was discarded -/
  nibbles  : Option (List (BitVec 4)) := some []
  /-- a complete control word not yet used -/
  ctl      : List W64 := []
  cwCount  : W64 := 0
  symOut   : List SymOut := []
  /-- the last training found a neighbour or link other than R12's (R14) -/
  badCable : Bool := false
  /-- instant and temperature of the last calibration, and a request for roadworks that waits (R220) -/
  calAt    : Nat := 0
  calTemp  : Option (BitVec 8) := none
  rwWait   : Bool := false
  /-- PINGs sent in this muster (R280) -/
  pings    : Nat := 0
  /-- roadworks: start time of the notice, the last drop number the far end closed at, settled, and calibration cut short -/
  rwAt     : Option W64 := none
  closeAt  : Option (BitVec 16) := none
  settled  : Bool := false
  rwCut    : Bool := false
  /-- trained again with a delay that matched: ACTIVE at the next chime (R224) -/
  matched  : Bool := false
  /-- credits per channel that the far end's IDENT announced (R217) -/
  alloc    : List Nat := []
  /-- C0 and corridor buckets and the round-robin turn of C1 to C3 (R242) -/
  c0Bucket : Nat := 64
  coBucket : Nat := 64
  slotNo   : Nat := 0
  turn     : Nat := 1
  /-- chip and interface type at the far end by IDENT -/
  far      : Option ChipId := none
  farIface : BitVec 8 := 0
  samples  : List Int := []
deriving DecidableEq, Repr

/-- A drop in the router, with the link it came by (none: injected here). A drop that a failed or closed link handed back came by the facing
link and holds no place in its receive buffer. -/
structure HeldDrop where
  drop  : Drop
  from_ : Option LinkId
  back  : Bool := false
deriving DecidableEq, Repr

/-- One version of the routing and group tables (Table 11.5, R254). -/
structure Table where
  slice   : W64 := 0
  logical : W64 := 0
  buddy   : W64 := 0
  portacc : Vector W64 6 := Vector.replicate 6 0
  corr    : Vector W64 4 := Vector.replicate 4 0
  remap   : List (Nat × W64) := []
  group   : List (Nat × W64) := []
  /-- member words by key 2048·group + word -/
  mem     : List (Nat × W64) := []
deriving DecidableEq, Repr

/-- The router's registers, tables and buffers (11). -/
structure Rte where
  self       : W64 := 0
  cableFault : W64 := 0
  machine    : W64 := 0x010101
  inj        : Fin 2 := 0
  released   : Bool := true
  flip       : W64 := 0
  zeroSince  : BitVec 63 := 0
  run        : Bool := true
  held0      : W32 := 0
  held1      : W32 := 0
  retx       : W64 := 0x0000000000F00040
  discard0   : W64 := 0
  discard1   : W64 := 0
  again      : W64 := 0
  fence      : List (Nat × W64) := []
  tab        : Vector Table 2 := Vector.replicate 2 {}
  drops      : List HeldDrop := []
  /-- drops delivered to this chip and not yet taken -/
  arrived    : List Drop := []
  /-- ports on which NOROUTE was recorded since the last chime (R240) -/
  noroute    : List Nat := []
deriving DecidableEq, Repr

/-! ### Consignments -/

/-- What a consignment of this chip carries. -/
inductive ConsKind where
  | put (d a : Desc) (op : BitVec 3) (coord : W64)
  | mcast (d a : Desc) (coord : W64)
  | get (d a : Desc)
  /-- a one-drop consignment of the hall or of a collective, kept whole for resending -/
  | single (drop : Drop)
  /-- a collective's data segment -/
  | segment (drops : List Drop)
deriving DecidableEq, Repr

/-- A coll or bar by group, number and era (R257); their numberings are separate. -/
structure CollKey where
  group : BitVec 8
  num   : BitVec 16
  era   : W64
  bar   : Bool := false
deriving DecidableEq, Repr

/-- An open consignment of the sender (R231, R236). Members are the destination chips not yet done, each with its highest
ACK; a put, get or one-drop consignment has one. -/
structure Cons where
  key      : PeerKey
  cid      : BitVec 13
  kind     : ConsKind
  /-- the comb and instruction of a put, get or mcast -/
  comb     : Option CombId
  e        : Option QEntry
  /-- the collective or barrier that it serves -/
  coll     : Option CollKey := none
  /-- of a VOTE: 1 to the deputy (R324) -/
  deputy   : Bool := false
  n        : Nat
  members  : List (ChipId × Nat)
  sent     : Nat
  timeouts : Nat := 0
  /-- indexes received at or above the base, and the base, for a get (R235) -/
  got      : List Nat := []
  base     : Nat := 0
  fenced   : Bool := false
  /-- a member has answered with an error completion (R201) -/
  failed   : Bool := false
deriving DecidableEq, Repr

/-- A receiver's source entry (R232): LOW and the completed CIDs at or above it. -/
structure SrcEntry where
  src   : ChipId
  group : Option (BitVec 8)
  low   : BitVec 13
  done  : List (BitVec 13)
deriving DecidableEq, Repr

/-- An open consignment of the receiver (R233). -/
structure RxCons where
  src   : ChipId
  group : Option (BitVec 8)
  cid   : BitVec 13
  man   : Drop
  base  : Nat
  got   : List Nat
  /-- base at the last ACK sent -/
  acked : Nat
deriving DecidableEq, Repr

/-- A consignment of the hall or of a collective that R231 holds back: TYPE, class, version, ADDR and payload of a one-drop
consignment or a whole segment. -/
structure ConsWait where
  ty     : Nat
  cls    : Nat
  ver    : Fin 2
  dst    : ChipId
  addr   : Nat
  data   : List Byte
  seg    : Bool := false
  coll   : Option CollKey := none
  deputy : Bool := false
deriving DecidableEq, Repr

/-- The consignment engines (11). -/
structure Fab where
  open_   : List Cons := []
  /-- next CID by destination chip id, and by 2^18 + group -/
  next    : List (Nat × BitVec 13) := []
  /-- starts of the last millisecond, by the same key, with the time base at the start -/
  recent  : List (Nat × Nat) := []
  srcs    : List SrcEntry := []
  rx      : List RxCons := []
  early   : List Drop := []
  wait    : List ConsWait := []
deriving DecidableEq, Repr

/-! ### Collectives -/

/-- A segment waiting for a grant: the member it goes to, the negative direction, the segment index and its bytes. -/
structure SegOut where
  dest : Nat
  dir  : Bool
  seg  : Nat
  data : List Byte
deriving DecidableEq, Repr

/-- A value formed by a collective: a code, or a sum held as a 96-bit integer (R263). -/
inductive Part where
  | code (w : W64)
  | sum (v : BitVec 96)
deriving DecidableEq, Repr

/-- An issued collective of this chip (12). Keys of `signs`, `grants` and `given` join a stage number, a direction and a member
index (Machine/CollOps.lean). -/
structure CollInst where
  comb     : CombId
  e        : QEntry
  key      : CollKey
  ver      : Fin 2
  /-- logical coordinates and physical chips of the members, in member order, and this chip's index -/
  members  : List ChipId
  phys     : List ChipId
  me       : Nat
  /-- extents of a box group, empty for a list group; ring axes (R256) -/
  ext      : List Nat
  ring     : List Bool
  admitted : Bool := false
  banks    : Nat := 0
  /-- the MiB of the spill region that the claim holds, in spill mode (R268) -/
  spill    : Option (List Nat) := none
  /-- stages passed -/
  stage    : Nat := 0
  /-- values formed here, by item index -/
  buf      : List (Nat × Part) := []
  /-- signatures matched: stage key and member -/
  signs    : List Nat := []
  /-- segments that a receiver still takes, and segments granted to a sender so far -/
  grants   : List (Nat × Nat) := []
  given    : List (Nat × Nat) := []
  /-- drops received of each segment key -/
  got      : List (Nat × List (Nat × List Byte)) := []
  /-- segment keys received whole in this stage -/
  whole    : List Nat := []
  /-- segment keys formed and put into the output of this stage -/
  formed   : List Nat := []
  out      : List SegOut := []
  poison   : Bool := false
  /-- the final write, once every stage is passed -/
  fin      : Option Flight := none
deriving DecidableEq, Repr

/-- An issued barrier of this chip. -/
structure BarInst where
  comb    : CombId
  e       : QEntry
  key     : CollKey
  ver     : Fin 2
  phys    : List ChipId
  me      : Nat
  /-- greatest distance between two members, as the version issued under gives it (R256, R272) -/
  span    : Nat := 0
  /-- it has stood at the head of its comb's fabric queue (R271) -/
  started : Bool := false
  arrived : List Nat := []
  sentUp  : Bool := false
  trel    : Option W64 := none
deriving DecidableEq, Repr

/-- The collective unit. -/
structure Col where
  cfg     : W64 := 6
  spill   : W64 := 0
  cfgNext : Option W64 := none
  spillNext : Option W64 := none
  status  : W64 := 0
  count   : W64 := 0
  again   : W64 := 0
  colls   : List CollInst := []
  bars    : List BarInst := []
  /-- admission queue, oldest first -/
  queue   : List CollKey := []
  /-- pool banks claimed -/
  used    : Nat := 0
  /-- colls and bars issued since the last restart, by group; their numbers are these modulo 2^16 (R257) -/
  collNum : List (Nat × Nat) := []
  barNum  : List (Nat × Nat) := []
  era     : W64 := 0
  /-- numberings of earlier eras as they stood at the restart: era, colls, bars (R259) -/
  past    : List (W64 × List (Nat × Nat) × List (Nat × Nat)) := []
  /-- SIGN, GRANT, ARRIVE and ABORT drops kept in the transit staging bank -/
  staged  : List Drop := []
  /-- a vote of 1 for a quiesce, or a GO, stops admission (R294) -/
  noAdmit : Bool := false
deriving DecidableEq, Repr

/-! ### Time -/

/-- The time base and the muster (13). -/
structure Chm where
  running : Bool := false
  tb      : Nat := 0
  frac    : Nat := 0
  local_  : Nat := 0
  base    : W64 := 0
  t0      : Nat := 0
  n       : W64 := 0xFFFFFFFFFFFFFFFF
  nextAt  : Nat := 0
  ival    : BitVec 26 := 0
  pendV   : Bool := false
  pendC   : BitVec 26 := 0
  pendAt  : W64 := 0
  /-- CHM_ROOT fields -/
  pref    : ChipId := 0
  prefV   : Bool := false
  deputy  : ChipId := 0x3FFFF
  elected : ChipId := 0
  cfg     : W64 := 0x000000C800000002
  /-- SYNCLOSS, DRIFT (W1C), and the flags of CHM_STATUS -/
  syncloss : Bool := false
  drift    : Bool := false
  orphan   : Bool := false
  isDeputy : Bool := false
  isRoot   : Bool := false
  phase    : BitVec 3 := 0
  hops     : BitVec 8 := 0
  offset   : BitVec 8 := 0
  again    : W64 := 0
  link     : Vector W64 24 := Vector.replicate 24 0
  /-- election: best and second candidates heard (PREF, id), and the running base heard -/
  best     : Option (Nat × ChipId) := none
  second   : Option (Nat × ChipId) := none
  heard    : Bool := false
  /-- first chime at which a mustered chip becomes READY -/
  tbSetAt  : Nat := 0
  timeSent : Bool := false
  /-- the copy of lowest HOPS heard for each chime whose end is still to come, with its offset e (R289) -/
  copies   : List (ChimeSym × Int) := []
  /-- chimes of which this chip has forwarded a copy (R288) -/
  fwd      : List W64 := []
  silent   : Nat := 0
  lossRun  : Nat := 0
  /-- quiesce: request chime, chime voted for, decision for a chime, decided GO -/
  qReq     : Option W64 := none
  qVoted   : Option W64 := none
  qGo      : Option W64 := none
  /-- votes held as quiesce leader: chime, member chip, vote -/
  qVotes   : List (W64 × ChipId × Bool) := []
  /-- chimes whose vote this chip has decided as leader -/
  qTold    : List W64 := []
  resumeAt : Option W64 := none
deriving DecidableEq, Repr

/-! ### Seals and steps -/

/-- A seal slot (Table 14.3). -/
structure SealSlot where
  digest : Digest := []
  chime  : W64 := 0
  valid  : Bool := false
  poison : Bool := false
  clash  : Bool := false
  src    : BitVec 3 := 0
  length : BitVec 48 := 0
deriving DecidableEq, Repr

/-- A request to a seal engine (R307): the courier instruction or bulk consignment it serves, the canonical stream header
and body, the slot and where the seal is also written (DESIGN CHOICE, log entry 15). -/
structure SealReq where
  engine : Fin 26
  slot   : BitVec 16
  src    : BitVec 3
  header : List Byte
  body   : List Byte
  poison : Bool
  /-- 1: another recording of the slot began before this one was served (R308) -/
  clash  : Bool := false
  owner  : Option (CombId × Nat)
  /-- the bulk consignment that waits for its seal: source and CID -/
  bulk   : Option (Nat × BitVec 32) := none
  addr   : Option Nat
deriving DecidableEq, Repr

/-- Seals (14). -/
structure Seals where
  level   : BitVec 2 := 0
  pend    : BitVec 2 := 0
  at_     : W64 := 0
  status  : W64 := 0
  count   : W32 := 0
  bytes   : Nat := 0
  again   : W64 := 0
  slots   : List (Nat × SealSlot) := []
  reqs    : List SealReq := []
  /-- the chains of the last certifications, newest first (R393) -/
  chains  : List Digest := []
  /-- MEM_AOVF and SQR_AOVF sums when SEAL_STATUS was last cleared (Table 14.4 TAINT bit 3) -/
  aovfAt  : Nat := 0
deriving DecidableEq, Repr

/-- The commit round (R322). -/
structure Round where
  step     : W64
  openedAt : W64
  /-- STP_CFG as it stood when the round opened (R335) -/
  cfg      : W64
  /-- voters and their votes -/
  voters   : List (CombId × Option Bool)
  chipVote : Option Bool := none
  /-- votes held as leader or deputy, by member chip -/
  votes    : List (ChipId × Bool) := []
  /-- the decision held, to be applied at C -/
  decision : Option (Bool × W64) := none
  /-- the decision arrived after its C -/
  late     : Bool := false
  /-- reported as undecided (R328) -/
  told     : Bool := false
deriving DecidableEq, Repr

/-- A decision on a step: commit or skip, its chime C and the decider (Table 15.2). -/
structure Verdict where
  step   : W64
  commit : Bool
  at_    : W64
  by_    : ChipId
deriving DecidableEq, Repr

/-- Steps and commit (15). -/
structure Stp where
  /-- a decision lodged here as deputy, and one made here and being lodged (R326) -/
  lodged   : Option Verdict := none
  made     : Option Verdict := none
  bank     : Bool := false
  flips    : W32 := 0
  step     : W64 := 0
  last     : W64 := 0xFFFFFFFFFFFFFFFF
  skips    : W32 := 0
  undecided : Bool := false
  late     : Bool := false
  decision : Bool := false
  vote     : Bool := false
  cfg      : W64 := 0x0000006400000100
  decideAt : W64 := 0
  again    : W64 := 0
  stages   : List (Nat × W64) := []
  round    : Option Round := none
  /-- a class A fault since the previous commit chime (R323), and one that forces the next round (R374) -/
  abort    : Bool := false
  abortNext : Bool := false
deriving DecidableEq, Repr

/-! ### The host port -/

/-- Table 17.3. -/
inductive Result where
  | ok | state | auth | range | busy | fenced
deriving DecidableEq, Repr

/-- Table 17.5. -/
inductive DevState where
  | off | wardenUp | coreUp | muster | ready | running | quiesced | fenced | resetting
deriving DecidableEq, Repr

/-- What a reply carries beyond its header. -/
inductive ReplyBody where
  | none
  | index (i : Nat)
  | status (chip : ChipId) (base chime : W64)
  | values (vs : List W64)
  | bulk (cid : BitVec 32) (count : Nat) (final : Bool)
  | data (cid : BitVec 32) (offset : Nat) (bytes : List Byte)
  | expected (offset : Nat)
  | bytes (bs : List Byte)
deriving DecidableEq, Repr

/-- A reply (Table 17.2): its order's code, source and SEQ, RESULT, STATE and body. -/
structure Reply where
  src    : Nat
  code   : BitVec 8
  seq    : BitVec 32
  result : Result
  st     : DevState
  body   : ReplyBody := .none
deriving DecidableEq, Repr

/-- The notices of Table 17.7. -/
inductive NoticeBody where
  | halt (comb : CombId) (frames : W32)
  | load (seq : BitVec 32) (combs : W64)
  | fault (block : BitVec 8) (code : BitVec 8) (addr : Nat)
  | chime (n : W64) (tb : Nat)
  | commit (step : W64) (commit : Bool) (c : W64)
  | quiesce (chime : W64) (deferred : Bool)
  | bulkLost (cid : BitVec 32)
  | state (old new : DevState)
deriving DecidableEq, Repr

/-- A notice with its number, STATE, and the address and UDP port it goes to (R366, Table 17.11). -/
structure Notice where
  seq  : BitVec 32
  st   : DevState
  v6   : Bool := false
  host : BitVec 128 := 0
  port : BitVec 16 := 0
  body : NoticeBody
deriving DecidableEq, Repr

/-- An open bulk consignment (R363): the fields its first piece fixed and the byte ranges written. -/
structure Bulk where
  src   : Nat
  piece : BulkPiece
  /-- written ranges as (offset, length) -/
  got   : List (Nat × Nat)
  told  : Nat
  /-- bytes that the seal engine has taken, by offset in units of 64 (R365) -/
  body  : List (Nat × List Byte) := []
deriving DecidableEq, Repr

/-- A load in progress (R154): the order's SEQ and its combs. -/
structure LoadJob where
  seq   : BitVec 32
  combs : W64
  image : Nat
deriving DecidableEq, Repr

/-- The Ethernet port and the hall's order records (17). -/
structure Eth where
  linkUp   : Bool := false
  pnexh    : Bool := false
  cfg      : W64 := 45390
  notify   : W64 := 45391
  count    : W64 := 0
  again    : W64 := 0
  /-- reply cache: sources, most recently heard first, each with its highest SEQ and its last replies -/
  cache    : List (Nat × BitVec 32 × List Reply) := []
  /-- of the orders in the queue, front first, whether the hall holds them: 0 for one that came while 256 were waiting; empty where it holds
  all of them (R358) -/
  seats    : List Bool := []
  bulks    : List Bulk := []
  loads    : List LoadJob := []
  replies  : List Reply := []
  /-- bulk consignments closed by a core reset whose notice is still to be sent (R369) -/
  lost     : List (BitVec 32) := []
  notices  : List Notice := []
  noticeNo : BitVec 32 := 0
  /-- ARP replies and neighbour advertisements sent (R354): IPv6, and the MAC address given -/
  nd       : List (Bool × BitVec 48) := []
  /-- STATE refusals of the current chime by order code (R360) -/
  refused  : List (Nat × Nat) := []
  /-- MACsec: receive 0 and 1, transmit 0 and 1, with packet numbers of the transmit associations -/
  assoc    : Vector MacsecAssoc 4 := Vector.replicate 4 ⟨0, 0, 0⟩
  pn       : Vector W64 2 := Vector.replicate 2 0
deriving DecidableEq, Repr

/-! ### Warden, chronicle, power, pins -/

/-- Chronicle events that the rules name. -/
inductive Event where
  | clear (oldFill : Nat) (refused : W64) (nonce : W64)
  | vinTransfer (va vb : Nat)
  | cableFault (l : LinkId)
  /-- fewer than 64 combs: the failed physical combs (R27) -/
  | combsShort (failed : BitVec 68)
  | combMap (c : CombId)
  | hallLockstep
  | sweepOff (u : SweepUnit)
  | sealMismatch (c : CombId)
  | badStep (c : CombId)
  | noRoute (port : Nat)
  | linkFailed (l : LinkId)
  | linkBack (l : LinkId)
  | chimeExcluded (l : LinkId)
  | noCandidate
  | uncorrectable (m : McId)
  | undecided
  | refusedOrders (code : Nat) (n : Nat)
  | pnExhausted
  | rwlWrite
  | fallback
  | fwSwitch
  | keySet
  | vauxLost (b : Bool)
  | junctionOver
  | latent (k : Nat)
  | tapBypass
  | doubleBit (u : SweepUnit) (line : Nat)
  | mismatch (c : CombId) (k : MismatchKind)
  | seqFault (c : CombId) (code : BitVec 8)
  | signMismatch (g : BitVec 8)
  | noSpare (c : CombId)
  /-- corrected events of a block above the profile's threshold (Table 19.7) -/
  | corrected (block : Nat)
deriving DecidableEq, Repr

/-- A chronicle record (Table 19.8) as far as it is not derived from its event. -/
structure Record where
  chime : W64
  tb    : W64
  boots : BitVec 32
  event : Event
  crcOk : Bool := true
  mark  : BitVec 8 := 0xA5
deriving DecidableEq, Repr

/-- A firmware bank: its bytes, and whether it counts as failed (R390, Table 19.1). -/
structure FwBank where
  bytes  : List Byte := []
  failed : Bool := false
deriving DecidableEq, Repr

/-- An item being staged (R390). -/
structure Staging where
  kind  : Fin 3
  slot  : BitVec 8
  arm   : Bool
  total : W64
  data  : List Byte
  hdr   : Option OrderHdr
  /-- complete and being verified -/
  verifying : Bool
deriving DecidableEq, Repr

/-- A copy of a record in MRAM: generation, contents, and whether its CRC passes (R386). -/
structure Copy (α : Type) where
  gen   : Nat
  val   : α
  crcOk : Bool := true
deriving DecidableEq, Repr

/-- A record held in two copies. -/
structure Twin (α : Type) where
  a : Copy α
  b : Copy α
deriving DecidableEq, Repr

/-- A record as it is delivered (DESIGN CHOICE, log entry 104). -/
def Twin.new {α : Type} (v : α) : Twin α := ⟨⟨1, v, true⟩, ⟨0, v, true⟩⟩

/-- The first copy is read: its CRC passes, and the other's does not or its generation is not higher. -/
def Twin.first {α : Type} (t : Twin α) : Bool := t.a.crcOk && (!t.b.crcOk || decide (t.b.gen ≤ t.a.gen))

/-- The copy whose CRC passes and whose generation is higher (R386) (DESIGN CHOICE, log entry 104). -/
def Twin.read {α : Type} (t : Twin α) : α := if t.first then t.a.val else t.b.val

/-- The copy that is not read, the one of lower generation, is written with the next generation (R386)
(DESIGN CHOICE, log entry 104). -/
def Twin.write {α : Type} (t : Twin α) (v : α) : Twin α :=
  if t.first then { t with b := ⟨t.a.gen + 1, v, true⟩ } else { t with a := ⟨t.b.gen + 1, v, true⟩ }

/-- The warden (19): registers and MRAM. -/
structure Wdn where
  phase    : BitVec 3 := 1
  closed   : Bool := false
  pins     : BitVec 2 := 0
  /-- profile in force: 0 to 3, or 4 the factory profile -/
  profNo   : BitVec 3 := 4
  prof     : Profile := Profile.factory
  /-- the items that a core reset loads, as the last one loaded them (Table 19.7) -/
  core     : Profile := Profile.factory
  /-- MACsec associations written by order over those of a profile, by number (R368) -/
  assocW   : Vector (Option (Vector MacsecAssoc 4)) 5 := Vector.replicate 5 none
  /-- valid slots hold their bytes -/
  profiles : Vector (Option (List Byte)) 4 := Vector.replicate 4 none
  /-- profile switches due at the next chime with the orders that wait for them, and one armed for the next quiesce chime (R391, R398) -/
  profSwitch : List (Fin 4 × OrderHdr) := []
  profArm  : Option (Fin 4) := none
  /-- boot record: bank in force and SVN minimum (R386, R388) -/
  bootRec  : Twin (Bool × BitVec 32) := Twin.new (false, 0)
  banks    : Vector FwBank 2 := Vector.replicate 2 {}
  fallback : Bool := false
  nofw     : Bool := false
  staged   : Bool := false
  armed    : Bool := false
  /-- FW_SWITCH orders that wait for the next chime (R391) -/
  fwSwitchAt : List OrderHdr := []
  wdnFw    : List Byte := []
  staging  : List Staging := []
  /-- key store: six keys and the JTAG mode (R386, R394) -/
  keyStore : Twin (Vector (Option (BitVec 456)) 6 × Bool) := Twin.new (Vector.replicate 6 none, false)
  /-- staged key set: six keys and the JTAG mode -/
  keySet   : Option (Vector (Option (BitVec 456)) 6 × Bool) := none
  /-- last nonce of each key (R359, R386) -/
  nonceStore : Twin (Vector W64 6) := Twin.new (Vector.replicate 6 0)
  /-- the protection setup as closed at boot: keys, JTAG mode, comb map -/
  protKeys : Vector (Option (BitVec 456)) 6 := Vector.replicate 6 none
  protJtag : Bool := false
  protMap  : List W64 := List.replicate 64 0
  fault    : W64 := 0
  rstcause : W64 := 0x0000000000000B04
  latent   : W64 := 0
  again    : W64 := 0
  boots    : BitVec 32 := 0
  /-- instants of hall lockstep resets, in array cycles since full reset (Table 18.3) -/
  hallResets : List Nat := []
deriving DecidableEq, Repr

/-- The record in force of each store. -/
def Wdn.keys (w : Wdn) : Vector (Option (BitVec 456)) 6 := w.keyStore.read.1
def Wdn.jtag (w : Wdn) : Bool := w.keyStore.read.2
def Wdn.nonces (w : Wdn) : Vector W64 6 := w.nonceStore.read
def Wdn.bank (w : Wdn) : Bool := w.bootRec.read.1
def Wdn.svnMin (w : Wdn) : BitVec 32 := w.bootRec.read.2

/-- The chronicle (R399 to R402). -/
structure Chr where
  records  : List Record := []
  queue    : List Record := []
  full     : W32 := 0
  qfull    : W32 := 0
  /-- a clear in progress: the order that waits for it, and the records there were -/
  clearing : Option (Option OrderHdr × Nat) := none
deriving DecidableEq, Repr

/-- Power (20). -/
structure Pwr where
  xfers   : BitVec 16 := 0
  ilim    : Bool := false
  overT   : Bool := false
  vaux    : Bool × Bool := (true, true)
  vin     : Bool × Bool := (true, true)
  onB     : Bool := false
  va      : BitVec 16 := 0
  vb      : BitVec 16 := 0
  ia      : BitVec 16 := 0
  ib      : BitVec 16 := 0
  tjmax   : BitVec 8 := 0
  thstep  : BitVec 3 := 0
  curstep : BitVec 3 := 0
  pref    : Bool := false
  stepmin : BitVec 3 := 0
  energy  : W64 := 0
  again   : W64 := 0
  overArmed : Bool := true
deriving DecidableEq, Repr

/-- A comb or compute reset ordered for a chime (R381). -/
structure ResetJob where
  hdr     : OrderHdr
  compute : Bool
  combs   : W64
  chime   : W64
deriving DecidableEq, Repr

/-- What holds a reset in RESETTING (Table 18.8). -/
inductive ResetHold where
  | none | refclk | supply | thermal | porst
deriving DecidableEq, Repr

/-- A reset in progress: KIND (Table 18.11), the state to return to and its hold. -/
structure ResetRun where
  kind : BitVec 3
  back : DevState
  hold : ResetHold
  /-- combs of a comb reset whose order waits for its reply -/
  jobs : List ResetJob := []
deriving DecidableEq, Repr

/-- The TAP (R416 to R418): its instruction, the level of TRST_N, the boundary cells' output stage, whether it drives the pins, and the bits that
TDO has shifted out; outside a shift TDO is at high impedance. -/
structure Tap where
  instr : TapInstr := .idcode
  trstN : Bool := false
  cells : List Bool := []
  drive : Bool := false
  tdo   : List Bool := []
deriving DecidableEq, Repr

/-- Device state, resets and pins (17 R361, 18, 20 R416). -/
structure Dev where
  st       : DevState := .wardenUp
  reset    : Option ResetRun := none
  jobs     : List ResetJob := []
  /-- held in CORE-UP: fewer than 64 combs (R27), or repeated hall lockstep (Table 18.3) -/
  stuck    : Bool := false
  /-- physical combs with findings: faulty columns in bits [31:0], bit 32 failed (R24 to R28) -/
  phys     : List (Nat × W64) := []
  porstLow : Bool := false
  /-- level of PROFILE[1:0] -/
  pins     : BitVec 2 := 0
  refclkOk : Bool := true
  faultLow : Bool := false
  alive    : Bool := false
  thermtrip : Bool := false
  tap      : Tap := {}
  /-- corrected events by block of Table 19.8: start of the second, and their number in it (Table 19.7) -/
  corr     : List (Nat × Nat × Nat) := []
  /-- registers of footnotes 2 and 3 of Table 17.4, staged in WARDEN-UP -/
  stagedWrites : List (Reg × W64) := []
deriving DecidableEq, Repr

/-! ### The whole chip -/

/-- One JNX-6424 and the commands waiting for it. -/
structure State where
  pending : List Instr := []
  dev     : Dev := {}
  combs   : Vector Comb 64 := Vector.replicate 64 {}
  squares : Vector Square 16 := Vector.replicate 16 {}
  mem     : Mem := {}
  mcs     : Vector Mc 24 := Vector.replicate 24 {}
  links   : Vector Link 24 := Vector.replicate 24 {}
  lnkCfg  : W64 := 0x00030D400005000A
  /-- LNK_CFG as the last roadworks decision took it (R226) -/
  lnkUse  : W64 := 0x00030D400005000A
  rte     : Rte := {}
  fab     : Fab := {}
  col     : Col := {}
  chm     : Chm := {}
  seals   : Seals := {}
  stp     : Stp := {}
  eth     : Eth := {}
  wdn     : Wdn := {}
  chr     : Chr := {}
  pwr     : Pwr := {}
  /-- free values drawn so far: the model's own field (DESIGN CHOICE, log entry 6) -/
  free    : Nat := 0
deriving DecidableEq, Repr

/-- MACsec associations of a profile (R368) (DESIGN CHOICE, log entry 58). -/
def Profile.macsec (p : Profile) : Vector MacsecAssoc 4 :=
  Vector.ofFn fun i =>
    let w := p.assoc.getD i.val 0
    ⟨w.extractLsb' 0 256, w.extractLsb' 256 96, w.extractLsb' 352 32⟩

/-- The associations of the active profile: as an order has written them over the profile's own, else the profile's (R368). -/
def Wdn.associations (w : Wdn) : Vector MacsecAssoc 4 :=
  if h : w.profNo.toNat < 5 then (w.assocW[w.profNo.toNat]).getD (Profile.macsec w.prof) else Profile.macsec w.prof

/-- The comb map before self-test has derived one: logical comb n on physical comb n (DESIGN CHOICE, log entry 12). -/
def State.identityMap (n : Fin 64) : W64 := BitVec.ofNat 64 n.val

/-- The chip right after a full reset, in WARDEN-UP with boot phase 1 ahead (R387, Table 18.6). The registers that a profile
gives hold the factory profile's values (R396), and both firmware banks the image the part was delivered with (DESIGN CHOICE, log entry 12)
(DESIGN CHOICE, log entry 7). -/
def State.reset : State :=
  { combs := Vector.ofFn fun n => { map := State.identityMap n }
    mem := { cfg := (Profile.factory.reserve.setWidth 64 <<< 32) ||| (1000#64 <<< 16) }
    mcs := Vector.replicate 24 { strength := Profile.factory.strength }
    lnkCfg := Profile.factory.lnkWord
    lnkUse := Profile.factory.lnkWord
    chm := { ival := Profile.factory.ival }
    wdn := { banks := Vector.replicate 2 { bytes := Config.factoryImage } }
    eth := { cfg := Profile.factory.ethWord, assoc := Profile.macsec Profile.factory } }

end Machine
end Sys2Proof
end

