-- ==== Sys2Proof/Machine/Bits.lean ====
section
/-!
DEFINITION. Bit fields of registers, little-endian byte strings (R2, R3) and the sparse stores behind memory, tables and
slots: lists of (key, value) pairs in one canonical form.
-/
namespace Sys2Proof.Machine

/-- Field of `n` bits at bit `lo`, as a number. -/
def getF {w : Nat} (r : BitVec w) (lo n : Nat) : Nat := (r.toNat / 2 ^ lo) % 2 ^ n

/-- `r` with the field of `n` bits at bit `lo` set to `v` modulo 2^n. -/
def setF {w : Nat} (r : BitVec w) (lo n v : Nat) : BitVec w :=
  (r &&& ~~~(BitVec.ofNat w ((2 ^ n - 1) * 2 ^ lo))) ||| BitVec.ofNat w ((v % 2 ^ n) * 2 ^ lo)

/-- `r` with bit `i` set to `b`. -/
def setB {w : Nat} (r : BitVec w) (i : Nat) (b : Bool) : BitVec w := setF r i 1 b.toNat

/-- A saturating count field of `n` bits at `lo`, raised by `k` (R9 and the "saturates" of the register tables). -/
def satF {w : Nat} (r : BitVec w) (lo n k : Nat) : BitVec w := setF r lo n (min (getF r lo n + k) (2 ^ n - 1))

/-- A wrapping count field. -/
def wrapF {w : Nat} (r : BitVec w) (lo n k : Nat) : BitVec w := setF r lo n (getF r lo n + k)

/-- A 32-bit saturating count (R9, R130). -/
def sat32 (c : W32) (k : Nat) : W32 := BitVec.ofNat 32 (min (c.toNat + k) 0xFFFFFFFF)

/-- Sign extension of a Boolean-width field: the value of an `n`-bit two's-complement number. -/
def signed (n v : Nat) : Int := if v % 2 ^ n < 2 ^ (n - 1) then (v % 2 ^ n : Nat) else ((v % 2 ^ n : Nat) : Int) - (2 ^ n : Nat)

/-- An integer as an `n`-bit two's-complement code. -/
def unsigned (n : Nat) (i : Int) : Nat := (i % ((2 ^ n : Nat) : Int)).toNat

/-- The `n` little-endian bytes of a number (R3). -/
def leBytes : Nat → Nat → List Byte
  | 0, _ => []
  | n + 1, v => BitVec.ofNat 8 v :: leBytes n (v / 256)

/-- The number that little-endian bytes spell. -/
def leNat : List Byte → Nat
  | [] => 0
  | b :: bs => b.toNat + 256 * leNat bs

/-- Parity of a number's low `n` bits: true when odd. -/
def oddBits : Nat → Nat → Bool
  | 0, _ => false
  | n + 1, v => xor (v % 2 == 1) (oddBits n (v / 2))

/-- The ones among the low `n` bits. -/
def popCount : Nat → Nat → Nat
  | 0, _ => 0
  | n + 1, v => v % 2 + popCount n (v / 2)

/-- The indexes below `n` whose bit is set, ascending. -/
def bitsOf (n : Nat) (v : Nat) : List Nat := (List.range n).filter fun i => v.testBit i

/-! ### CRC-32C (16 R338, 19 R399) -/

/-- One bit into a CRC-32C register, reflected. -/
def crc32cBit (r : Nat) : Nat := if r % 2 = 1 then (r / 2) ^^^ 0x82F63B78 else r / 2

/-- Eight bits. -/
def crc32cByte (r : Nat) (b : Byte) : Nat := (List.range 8).foldl (fun t _ => crc32cBit t) (r ^^^ b.toNat)

/-- CRC-32C of a byte string. -/
def crc32c (bs : List Byte) : Nat := (bs.foldl crc32cByte 0xFFFFFFFF) ^^^ 0xFFFFFFFF

/-! ### Sparse stores -/

/-- What key `k` reads as; `d` where it is not listed (DESIGN CHOICE, log entry 11). -/
def Sparse.get {α : Type} (d : α) : List (Nat × α) → Nat → α
  | [], _ => d
  | (k', v) :: t, k => if k = k' then v else Sparse.get d t k

/-- Write `v` at key `k`, keeping keys rising and listing no `d` (DESIGN CHOICE, log entry 11). -/
def Sparse.set {α : Type} [DecidableEq α] (d : α) : List (Nat × α) → Nat → α → List (Nat × α)
  | [], k, v => if v = d then [] else [(k, v)]
  | (k', v') :: t, k, v =>
    if k < k' then (if v = d then (k', v') :: t else (k, v) :: (k', v') :: t)
    else if k = k' then (if v = d then t else (k, v) :: t)
    else (k', v') :: Sparse.set d t k v

/-- Keys rise strictly, every key is at least `lo`, and no entry equals `d`. -/
def Sparse.wfFrom {α : Type} [DecidableEq α] (d : α) : Nat → List (Nat × α) → Bool
  | _, [] => true
  | lo, (k, v) :: t => decide (lo ≤ k) && decide (v ≠ d) && Sparse.wfFrom d (k + 1) t

/-- The canonical form of a sparse store (DESIGN CHOICE, log entry 11). -/
def Sparse.wf {α : Type} [DecidableEq α] (d : α) (m : List (Nat × α)) : Bool := Sparse.wfFrom d 0 m

/-- Drop every key that satisfies `p`. -/
def Sparse.drop {α : Type} (p : Nat → Bool) (m : List (Nat × α)) : List (Nat × α) := m.filter fun kv => !p kv.1

/-- Replace the first element that satisfies `p`. -/
def updFirst {α : Type} (p : α → Bool) (f : α → α) : List α → List α
  | [] => []
  | x :: xs => if p x then f x :: xs else x :: updFirst p f xs

/-- The integer ceiling of a quotient. -/
def ceilDiv (a b : Nat) : Nat := if b = 0 then 0 else (a + b - 1) / b

/-- ceil(log2 n), 0 for n ≤ 1. -/
def clog2 (n : Nat) : Nat := if n ≤ 1 then 0 else Nat.log2 (n - 1) + 1

end Sys2Proof.Machine
end

