-- ==== Sys2Proof/Machine/Formats.lean ====
section
/-!
DEFINITION. Number formats (03) and rounding (06 R117 to R121): exact extended values, decoding, encoding in every mode,
block scales, and the exact operations that every unit rounds once.
-/
namespace Sys2Proof.Machine

/-- The eleven tensor formats of Table 3.1. -/
inductive Fmt where
  | fp32 | fp16 | bf16 | e4m3 | e5m2 | e3m2 | e2m3 | e2m1 | int8 | int4 | lf64
deriving DecidableEq, Repr

/-- Table 3.1, codes 0xB to 0xF reserved (R40). -/
def Fmt.ofCode : Nat → Option Fmt
  | 0 => some .fp32 | 1 => some .fp16 | 2 => some .bf16 | 3 => some .e4m3 | 4 => some .e5m2 | 5 => some .e3m2
  | 6 => some .e2m3 | 7 => some .e2m1 | 8 => some .int8 | 9 => some .int4 | 10 => some .lf64 | _ => none

/-- The format code. -/
def Fmt.code : Fmt → Nat
  | .fp32 => 0 | .fp16 => 1 | .bf16 => 2 | .e4m3 => 3 | .e5m2 => 4 | .e3m2 => 5 | .e2m3 => 6 | .e2m1 => 7 | .int8 => 8
  | .int4 => 9 | .lf64 => 10

/-- Bits per element (Table 3.1). -/
def Fmt.bits : Fmt → Nat
  | .fp32 => 32 | .fp16 | .bf16 => 16 | .e4m3 | .e5m2 | .int8 => 8 | .e3m2 | .e2m3 => 6 | .e2m1 | .int4 => 4 | .lf64 => 64

/-- Always block-scaled (Table 3.1). -/
def Fmt.alwaysScaled : Fmt → Bool
  | .e3m2 | .e2m3 | .e2m1 | .int4 => true
  | _ => false

/-- Block scaling allowed or required (Table 3.1). -/
def Fmt.mayScale : Fmt → Bool
  | .e4m3 | .e5m2 | .int8 => true
  | f => f.alwaysScaled

/-- (exponent width, mantissa width, bias) of Table 3.2; the integer formats have none. -/
def Fmt.params : Fmt → Option (Nat × Nat × Int)
  | .fp32 => some (8, 23, 127) | .fp16 => some (5, 10, 15) | .bf16 => some (8, 7, 127) | .e4m3 => some (4, 3, 7)
  | .e5m2 => some (5, 2, 15) | .e3m2 => some (3, 2, 3) | .e2m3 => some (2, 3, 1) | .e2m1 => some (2, 1, 1) | _ => none

/-- emax of Table 3.2, 0 for the integer formats (R121). -/
def Fmt.emax : Fmt → Int
  | .fp32 => 127 | .fp16 => 15 | .bf16 => 127 | .e4m3 => 8 | .e5m2 => 15 | .e3m2 => 4 | .e2m3 => 2 | .e2m1 => 2 | _ => 0

/-- Has infinities as IEEE 754 places them (Table 3.2). -/
def Fmt.ieee : Fmt → Bool
  | .fp32 | .fp16 | .bf16 | .e5m2 => true
  | _ => false

/-- The canonical NaN code (R43); formats without NaN give 0. -/
def Fmt.nanCode : Fmt → Nat
  | .fp32 => 0x7FC00000 | .fp16 => 0x7E00 | .bf16 => 0x7FC0 | .e4m3 => 0x7F | .e5m2 => 0x7E
  | .lf64 => 0x8000000000000000 | _ => 0

/-- Code of the largest finite magnitude (Table 3.2). -/
def Fmt.maxCode : Fmt → Nat
  | .fp32 => 0x7F7FFFFF | .fp16 => 0x7BFF | .bf16 => 0x7F7F | .e4m3 => 0x7E | .e5m2 => 0x7B | .e3m2 => 0x1F
  | .e2m3 => 0x1F | .e2m1 => 0x7 | .int8 => 127 | .int4 => 7 | .lf64 => 0x7FFFFFFFFFFFFFFE

/-! ### Exact values -/

/-- floor(log2 |v|) of a finite nonzero value: the element exponent of R56. -/
def Val.exp : Val → Option Int
  | .fin _ m e => some (Nat.log2 m + e)
  | _ => none

/-- Is the sign bit set? -/
def Val.isNeg : Val → Bool
  | .inf n | .zero n | .fin n _ _ => n
  | .nan => false

/-- The value with the other sign. -/
def Val.neg : Val → Val
  | .nan => .nan | .inf n => .inf !n | .zero n => .zero !n | .fin n m e => .fin (!n) m e

/-- An integer times 2^e. -/
def Val.ofInt (i : Int) (e : Int) : Val := if i = 0 then .zero false else .fin (i < 0) i.natAbs e

/-- The signed significand at exponent `e`, for a value whose exponent is at least `e`. -/
def Val.at (e : Int) : Val → Int
  | .fin n m e' => (if n then -1 else 1) * ((m * 2 ^ (e' - e).toNat : Nat) : Int)
  | _ => 0

/-- The exponent a value is written with. -/
def Val.lsb : Val → Option Int
  | .fin _ _ e => some e
  | _ => none

/-- Exact product (R106): the flag tells an invalid 0 × ∞. -/
def Val.mul : Val → Val → Val × Bool
  | .nan, _ | _, .nan => (.nan, false)
  | .inf a, .inf b => (.inf (xor a b), false)
  | .inf a, .fin b _ _ | .fin a _ _, .inf b => (.inf (xor a b), false)
  | .inf _, .zero _ | .zero _, .inf _ => (.nan, true)
  | .zero a, .zero b => (.zero (xor a b), false)
  | .zero a, .fin b _ _ | .fin a _ _, .zero b => (.zero (xor a b), false)
  | .fin a m e, .fin b m' e' => (.fin (xor a b) (m * m') (e + e'), false)

/-- Exact sum; `rdn` gives the exact zero sum of opposite signs the sign it has under round down (R118). The flag tells an
invalid ∞ − ∞. -/
def Val.add (rdn : Bool) : Val → Val → Val × Bool
  | .nan, _ | _, .nan => (.nan, false)
  | .inf a, .inf b => if a = b then (.inf a, false) else (.nan, true)
  | .inf a, _ | _, .inf a => (.inf a, false)
  | .zero a, .zero b => (.zero (if a = b then a else rdn), false)
  | .zero _, v | v, .zero _ => (v, false)
  | .fin a m e, .fin b m' e' =>
    let l := min e e'
    let s := (Val.fin a m e).at l + (Val.fin b m' e').at l
    (if s = 0 then .zero rdn else Val.ofInt s l, false)

/-- Exact comparison of two non-NaN values: -1, 0 or 1. -/
def Val.cmp : Val → Val → Int
  | .inf a, .inf b => if a = b then 0 else if a then -1 else 1
  | .inf a, _ => if a then -1 else 1
  | _, .inf b => if b then 1 else -1
  | a, b =>
    let l := min (a.lsb.getD 0) (b.lsb.getD 0)
    let x := a.at (min l (a.lsb.getD l)); let y := b.at (min l (b.lsb.getD l))
    if x < y then -1 else if x = y then 0 else 1

/-- The value times 2^k. -/
def Val.shift (k : Int) : Val → Val
  | .fin n m e => .fin n m (e + k)
  | v => v

/-- Round to odd at `p` significant bits (R117): the truncated significand, its last bit set when a discarded bit was 1. -/
def Val.toOdd (p : Nat) : Val → Val
  | .fin n m e =>
    let len := Nat.log2 m + 1
    if len ≤ p then .fin n m e
    else
      let k := len - p
      let q := m / 2 ^ k
      .fin n (if m % 2 ^ k = 0 then q else q ||| 1) (e + k)
  | v => v

/-- Extract form (R117). -/
def Val.extractForm (v : Val) : Val := v.toOdd 26

/-! ### Decoding -/

/-- Value of a floating-point code (R41): normal, subnormal, zero and the special encodings of Table 3.2. -/
def Fmt.decodeFloat (f : Fmt) (w m : Nat) (bias : Int) (code : Nat) : Val :=
  let s := code / 2 ^ (w + m) % 2 == 1
  let e := code / 2 ^ m % 2 ^ w
  let mm := code % 2 ^ m
  if f.ieee && e == 2 ^ w - 1 then (if mm = 0 then .inf s else .nan)
  else if f == .e4m3 && e == 15 && mm == 7 then .nan
  else if e = 0 then (if mm = 0 then .zero s else .fin s mm (1 - bias - m))
  else .fin s (2 ^ m + mm) ((e : Int) - bias - m)

/-- LF64 codes (R51): NaN, −∞, +∞ and n × 2^WEXP. -/
def decodeLf64 (wexp : Int) (code : Nat) : Val :=
  if code = 0x8000000000000000 then .nan
  else if code = 0x8000000000000001 then .inf true
  else if code = 0x7FFFFFFFFFFFFFFF then .inf false
  else Val.ofInt (signed 64 code) wexp

/-- Value of an element code; `scale` is its block's E8M0 code, none where BLK = 0 (R45 to R47). -/
def Fmt.decode (f : Fmt) (scale : Option Nat) (wexp : Int) (code : Nat) : Val :=
  if scale = some 255 then .nan
  else
    let v := match f.params with
      | some (w, m, b) => f.decodeFloat w m b code
      | none =>
        if f == .lf64 then decodeLf64 wexp code
        else if f == .int4 then Val.ofInt (signed 4 code) (-2)
        else Val.ofInt (signed 8 code) (if scale.isSome then -6 else 0)
    match scale with
    | some c => v.shift ((c : Int) - 127)
    | none => v

/-- FP32 value of a 32-bit pattern. -/
def fp32 (c : W32) : Val := Fmt.decode .fp32 none 0 c.toNat

/-! ### Rounding and encoding -/

/-- Rounding modes of Table 6.2; `sr u` carries the random word of R120. -/
inductive Mode where
  | rne | rtz | rup | rdn | sr (u : Nat)
deriving DecidableEq, Repr

/-- |v| in units of 2^q, rounded in the mode: floor, then the rest decides (R119, R120). -/
def roundUnits (md : Mode) (neg : Bool) (m : Nat) (e q : Int) : Nat :=
  let k := e - q
  if 0 ≤ k then m * 2 ^ k.toNat
  else
    let unit := 2 ^ (-k).toNat
    let a := m / unit
    let r := m % unit
    if r = 0 then a
    else match md with
      | .rne => if 2 * r > unit then a + 1 else if 2 * r < unit then a else a + a % 2
      | .rtz => a
      | .rup => if neg then a else a + 1
      | .rdn => if neg then a + 1 else a
      | .sr u => if u < r * 2 ^ 32 / unit then a + 1 else a

/-- What a conversion did: the code, and whether R44 changed the value's range (census OVF_SAT). -/
structure Conv where
  code : Nat
  ovf  : Bool
deriving DecidableEq, Repr

/-- Overflow and infinity of a floating or integer destination, Table 3.4. `fin` tells a finite overflow. -/
def Fmt.limit (f : Fmt) (sat : Bool) (md : Mode) (neg fin : Bool) : Conv :=
  let sgn := match f.params with
    | some (w, m, _) => if neg then 2 ^ (w + m) else 0
    | none => 0
  let infCode := match f.params with
    | some (w, m, _) => (2 ^ w - 1) * 2 ^ m
    | none => 0
  match f with
  | .fp32 | .fp16 | .bf16 | .e5m2 =>
    if !fin then ⟨sgn + infCode, false⟩
    else
      let toMax := sat || (match md with | .rtz => true | .rup => neg | .rdn => !neg | _ => false)
      ⟨sgn + (if toMax then f.maxCode else infCode), true⟩
  | .e4m3 => if sat then ⟨sgn + f.maxCode, true⟩ else ⟨f.nanCode, true⟩
  | .e3m2 | .e2m3 | .e2m1 => ⟨sgn + f.maxCode, true⟩
  | _ => ⟨0, true⟩

/-- Limits of the integer formats: INT8 unscaled reaches −128, scaled INT8 and INT4 do not (Table 3.4, R45, R46). -/
def Fmt.intLimit (f : Fmt) (scaled neg : Bool) : Nat :=
  match f with
  | .int4 => 7
  | _ => if neg && !scaled then 128 else 127

/-- Conversion of a value, already divided by its block scale, onto the destination grid (R119, R44). -/
def Fmt.convert (f : Fmt) (sat scaled : Bool) (md : Mode) (v : Val) : Conv :=
  match f.params with
  | some (w, m, bias) =>
    let sgn := fun (n : Bool) => if n then 2 ^ (w + m) else 0
    match v with
    | .nan => ⟨f.nanCode, false⟩
    | .inf n => f.limit sat md n false
    | .zero n => ⟨sgn n, false⟩
    | .fin n mm e =>
      let ex : Int := Nat.log2 mm + e
      if ex > 2 * f.emax + 2 then f.limit sat (match md with | .sr _ => .rne | o => o) n true
      else
        let emin : Int := 1 - bias
        let q := max ex emin - m
        let a := roundUnits md n mm e q
        -- code of a units: subnormal below 2^m, else exponent field q + m + bias
        let field := (q + m + bias).toNat
        let code := if a < 2 ^ m then a
          else if a < 2 ^ (m + 1) then field * 2 ^ m + (a - 2 ^ m)
          else (field + 1) * 2 ^ m
        if code > f.maxCode then f.limit sat (match md with | .sr _ => .rne | o => o) n true
        else ⟨sgn n + code, false⟩
  | none =>
    let bits := f.bits
    let q : Int := if f == .int4 then -2 else if scaled then -6 else 0
    match v with
    | .nan => ⟨0, false⟩
    | .zero _ => ⟨0, false⟩
    | .inf n => let a := f.intLimit scaled n; ⟨if n then unsigned bits (-(a : Int)) else a, true⟩
    | .fin n mm e =>
      let lim := f.intLimit scaled n
      let big := Nat.log2 mm + e > 10
      let a := if big then lim + 1 else roundUnits md n mm e q
      if a > lim then ⟨if n then unsigned bits (-(lim : Int)) else lim, true⟩
      else ⟨if n then unsigned bits (-(a : Int)) else a, false⟩

/-- Largest finite LF64 magnitude in units (R51). -/
def lf64Max : Nat := 2 ^ 63 - 2

/-- The LF64 code of an exact integer count of units (R52). -/
def lf64OfInt (n : Int) : Conv :=
  if n.natAbs > lf64Max then ⟨if n < 0 then 0x8000000000000001 else 0x7FFFFFFFFFFFFFFF, true⟩
  else ⟨unsigned 64 n, false⟩

/-- Conversion to LF64 in mode `md` onto the multiples of 2^wexp (R177). -/
def convertLf64 (wexp : Int) (md : Mode) (v : Val) : Conv :=
  match v with
  | .nan => ⟨0x8000000000000000, false⟩
  | .inf n => ⟨if n then 0x8000000000000001 else 0x7FFFFFFFFFFFFFFF, false⟩
  | .zero _ => ⟨0, false⟩
  | .fin n m e =>
    if Nat.log2 m + e > wexp + 64 then lf64OfInt (if n then -(2 ^ 64 : Int) else 2 ^ 64)
    else
      let a := roundUnits md n m e wexp
      lf64OfInt (if n then -(a : Int) else a)

/-- floor(v / 2^wexp), toward minus infinity, with steps 3 of R95 (R95, R123). -/
def floorLf64 (wexp : Int) (v : Val) : Conv := convertLf64 wexp .rdn v

/-- Rounding of a value to a format without block scale, as a value (R168): overflow follows SAT. -/
def Fmt.roundVal (f : Fmt) (sat : Bool) (md : Mode) (v : Val) : Val := f.decode none 0 (f.convert sat false md v).code

/-- IEEE rounding to FP32, to nearest even (R100, R180). -/
def rne32 (v : Val) : Val := Fmt.roundVal .fp32 false .rne v

/-- Did rounding to an unscaled floating format overflow? (DEDUCED, log entry 20). -/
def Fmt.overflows (f : Fmt) (sat : Bool) (v : Val) : Bool :=
  match v with
  | .fin .. => (f.convert sat false .rne v).ovf
  | _ => false

/-! ### Block scales (R121) -/

/-- The scale code of a block from its extract forms. -/
def scaleCode (f : Fmt) (vs : List Val) : Nat :=
  if vs.any (· == .nan) then 255
  else
    let exps := vs.filterMap Val.exp
    match exps with
    | [] => 0
    | x :: xs => (min 254 (max 0 (xs.foldl max x - f.emax + 127))).toNat

/-! ### Division, square root and the transcendentals (R176)

Each returns a value whose significand has at least 64 bits or is exact, rounded to odd, so that one later rounding to any
format of at most 24 bits gives the correctly rounded result. -/

/-- floor of the square root, bit by bit. -/
def isqrtBits : Nat → Nat → Nat → Nat
  | 0, n, r => if (r + 1) * (r + 1) ≤ n then r + 1 else r
  | i + 1, n, r => let r' := r + 2 ^ (i + 1); isqrtBits i n (if r' * r' ≤ n then r' else r)

/-- floor of the square root. -/
def isqrt (n : Nat) : Nat := isqrtBits (Nat.log2 n / 2 + 1) n 0

/-- Quotient of finite nonzero values. -/
def Val.quot (n : Bool) (m : Nat) (e : Int) (m' : Nat) (e' : Int) : Val :=
  let k := 66 + Nat.log2 m'
  let q := m * 2 ^ k / m'
  .fin n (if m * 2 ^ k % m' = 0 then q else q ||| 1) (e - e' - k)

/-- IEEE division; the flag tells 0/0 or ∞/∞. -/
def Val.div : Val → Val → Val × Bool
  | .nan, _ | _, .nan => (.nan, false)
  | .inf _, .inf _ | .zero _, .zero _ => (.nan, true)
  | .inf a, b => (.inf (xor a b.isNeg), false)
  | a, .inf b => (.zero (xor a.isNeg b), false)
  | .zero a, b => (.zero (xor a b.isNeg), false)
  | a, .zero b => (.inf (xor a.isNeg b), false)
  | .fin a m e, .fin b m' e' => (Val.quot (xor a b) m e m' e', false)

/-- IEEE square root; the flag tells a negative operand. -/
def Val.sqrt : Val → Val × Bool
  | .nan => (.nan, false)
  | .zero a => (.zero a, false)
  | .inf false => (.inf false, false)
  | .inf true | .fin true _ _ => (.nan, true)
  | .fin false m e =>
    let k : Nat := 140 + (e % 2).toNat
    let big := m * 2 ^ k
    let r := isqrt big
    (.fin false (if r * r = big then r else r ||| 1) ((e - k) / 2), false)

/-- Fraction bits of the enclosures of 2^f (DESIGN CHOICE, log entry 24). -/
def expBits : Nat := 192

/-- Enclosure of 2^(F/2^n) in units of 2^-192: bit by bit, with the roots 2^(2^-j) (DESIGN CHOICE, log entry 24). -/
def expEnclose : Nat → Nat → Nat → Nat → Nat → Nat → Nat × Nat
  | 0, _, _, _, lo, hi => (lo, hi)
  | j + 1, fr, rlo, rhi, lo, hi =>
    let rlo' := isqrt (rlo * 2 ^ expBits)
    let rhi' := isqrt (rhi * 2 ^ expBits) + 1
    if fr.testBit j then expEnclose j fr rlo' rhi' (lo * rlo' / 2 ^ expBits) (hi * rhi' / 2 ^ expBits + 1)
    else expEnclose j fr rlo' rhi' lo hi

/-- 2^a for a finite nonzero a; far outside every format's range the exponent is cut to ±2000, which changes no rounding. -/
def Val.exp2Fin (neg : Bool) (m : Nat) (e : Int) : Val :=
  if Nat.log2 m + e > 10 then (if neg then .fin false 3 (-2002) else .fin false 1 2000)
  else if 0 ≤ e then
    let i : Int := (m * 2 ^ e.toNat : Nat)
    .fin false 1 (if neg then -i else i)
  else
    let n := (-e).toNat
    let a : Int := if neg then -(m : Int) else m
    let i := a / ((2 ^ n : Nat) : Int)
    let fr := (a % ((2 ^ n : Nat) : Int)).toNat
    if fr = 0 then .fin false 1 i
    else
      let one := 2 ^ expBits
      let p := expEnclose n fr (2 * one) (2 * one) one one
      let cut := 2 ^ (expBits - 64)
      let t := p.1 / cut
      -- the enclosure decides 64 bits, or the exact comparison of 2^fr with powers does
      let t' := if t = p.2 / cut then t
        else if (p.2 / cut) ^ (2 ^ n) ≤ 2 ^ (fr + 64 * 2 ^ n) then p.2 / cut else p.2 / cut - 1
      .fin false (2 * t' + 1) (i - 65)

/-- 2^A (Table 8.10) (DESIGN CHOICE, log entry 24). -/
def Val.exp2 : Val → Val
  | .nan => .nan
  | .zero _ => .fin false 1 0
  | .inf false => .inf false
  | .inf true => .zero false
  | .fin n m e => Val.exp2Fin n m e

/-- Fraction bits of the squaring enclosure of the logarithm (DESIGN CHOICE, log entry 24). -/
def logBits : Nat := 320

/-- `k` bits of log2 y for y enclosed by lo, hi in units of 2^-320, most significant first; none when a bit is not decided
(DESIGN CHOICE, log entry 24). -/
def logEnclose : Nat → Nat → Nat → Nat → Option Nat
  | 0, _, _, acc => some acc
  | k + 1, lo, hi, acc =>
    let lo2 := lo * lo / 2 ^ logBits
    let hi2 := hi * hi / 2 ^ logBits + 1
    if 2 ^ (logBits + 1) ≤ lo2 then logEnclose k (lo2 / 2) (hi2 / 2 + 1) (2 * acc + 1)
    else if hi2 < 2 ^ (logBits + 1) then logEnclose k lo2 hi2 (2 * acc)
    else none

/-- log2 of a positive finite value: exact for powers of two, else 128 fraction bits and a sticky bit. -/
def Val.log2Fin (m : Nat) (e : Int) : Val :=
  let l := Nat.log2 m
  let ex : Int := l + e
  if m = 2 ^ l then Val.ofInt ex 0
  else
    let y := m * 2 ^ logBits / 2 ^ l
    let fr := (logEnclose 128 y y 0).getD (Nat.log2 (m ^ (2 ^ 128)) - 2 ^ 128 * l)
    let s : Int := ex * ((2 ^ 128 : Nat) : Int) + fr
    Val.ofInt (2 * s + 1) (-129)

/-- log2 A (Table 8.10); the flag tells an invalid operand (DESIGN CHOICE, log entry 24). -/
def Val.log2 : Val → Val × Bool
  | .nan => (.nan, false)
  | .zero _ => (.inf true, false)
  | .inf false => (.inf false, false)
  | .inf true | .fin true _ _ => (.nan, true)
  | .fin false m e => (Val.log2Fin m e, false)

/-- 1/A (Table 8.10). -/
def Val.rcp (a : Val) : Val := (Val.div (.fin false 1 0) a).1

/-- 1/√A (Table 8.10): the reciprocal of an exact root, rounded to odd; the flag tells an invalid operand. -/
def Val.rsqrt : Val → Val × Bool
  | .nan => (.nan, false)
  | .zero n => (.inf n, false)
  | .inf false => (.zero false, false)
  | .inf true | .fin true _ _ => (.nan, true)
  | .fin false m e =>
    -- 1/√(m·2^e) = √(2^k/m) · 2^((−e−k)/2) with k + e even; the root is floored and odd unless exact
    let k : Nat := 2 * (Nat.log2 m) + 142 + (e % 2).toNat
    let q := 2 ^ k / m
    let r := isqrt q
    let exact := r * r * m = 2 ^ k
    (.fin false (if exact then r else r ||| 1) ((-e - k) / 2), false)

/-! ### Philox4x32-10 (R120) -/

/-- One round of the published generator on a counter of four words and a key of two. -/
def philoxRound (c : Nat × Nat × Nat × Nat) (k : Nat × Nat) : Nat × Nat × Nat × Nat :=
  let p0 := 0xD2511F53 * c.1
  let p1 := 0xCD9E8D57 * c.2.2.1
  (((p1 / 2 ^ 32) ^^^ c.2.1 ^^^ k.1) % 2 ^ 32, p1 % 2 ^ 32, ((p0 / 2 ^ 32) ^^^ c.2.2.2 ^^^ k.2) % 2 ^ 32, p0 % 2 ^ 32)

/-- `n` rounds, the key raised between rounds. -/
def philoxRounds : Nat → Nat × Nat × Nat × Nat → Nat × Nat → Nat × Nat × Nat × Nat
  | 0, c, _ => c
  | n + 1, c, k => philoxRounds n (philoxRound c k) ((k.1 + 0x9E3779B9) % 2 ^ 32, (k.2 + 0xBB67AE85) % 2 ^ 32)

/-- The random word of global element index `gi` (R120). -/
def philoxWord (seed : W64) (tid gi : Nat) : Nat :=
  let g := gi % 2 ^ 64 / 4
  let r := philoxRounds 10 (g % 2 ^ 32, g / 2 ^ 32 % 2 ^ 32, tid % 2 ^ 32, 0) (seed.toNat % 2 ^ 32, seed.toNat / 2 ^ 32)
  match gi % 4 with
  | 0 => r.1 | 1 => r.2.1 | 2 => r.2.2.1 | _ => r.2.2.2

/-- The mode of a rounding-mode code (Table 6.2), with the word that stochastic rounding draws. -/
def Mode.ofCode (rm : BitVec 3) (u : Nat) : Mode :=
  match rm.toNat with
  | 0 => .rne | 1 => .rtz | 2 => .rup | 3 => .rdn | _ => .sr u

/-! ### Indexed maximum and minimum (R110, R111) -/

/-- Does (a, i) win over (b, j)? Maximum, or minimum when `mn`. -/
def pairWins (mn : Bool) (a : Val) (i : Nat) (b : Val) (j : Nat) : Bool :=
  match a, b with
  | .nan, .nan => decide (i < j)
  | .nan, _ => true
  | _, .nan => false
  | a, b =>
    let c := if mn then Val.cmp b a else Val.cmp a b
    decide (c > 0) || (c == 0 && decide (i < j))

end Sys2Proof.Machine
end

