-- ==== Sys2Proof/Machine/Operands.lean ====
section
/-!
DEFINITION. Operand forms: tensor descriptors (03 R53 to R55) with element and scale addresses (R48, R49), the fields of the
two Vurdo word forms (08 Tables 8.1 to 8.7, 09 Tables 9.2, 9.7, 9.10) with their reserved-field checks (R158, R185), and the
opcode map (R184).
-/
namespace Sys2Proof.Machine

/-! ### Descriptors -/

def Desc.base (d : Desc) : Nat := getF d[0] 0 48
def Desc.fmtCode (d : Desc) : Nat := getF d[0] 48 4
def Desc.blk (d : Desc) : Nat := getF d[0] 52 2
def Desc.rank (d : Desc) : Nat := getF d[0] 54 2 + 1
def Desc.sat (d : Desc) : Bool := getF d[0] 56 1 == 1
def Desc.scale (d : Desc) : Nat := getF d[1] 0 48
def Desc.wexp (d : Desc) : Int := signed 10 (getF d[1] 48 10)
def Desc.tid (d : Desc) : W32 := BitVec.ofNat 32 (getF d[7] 0 32)
def Desc.ceil (d : Desc) : Int := signed 12 (getF d[7] 32 12)
def Desc.ceilv (d : Desc) : Bool := getF d[7] 44 1 == 1
def Desc.sealSlot (d : Desc) : BitVec 16 := BitVec.ofNat 16 (getF d[7] 48 16)

/-- The four extents with dimensions at or above the rank taken as 1 (Table 3.6). -/
def Desc.s0 (d : Desc) : Nat := getF d[2] 0 32
def Desc.s1 (d : Desc) : Nat := if d.rank < 2 then 1 else getF d[2] 32 32
def Desc.s2 (d : Desc) : Nat := if d.rank < 3 then 1 else getF d[3] 0 32
def Desc.s3 (d : Desc) : Nat := if d.rank < 4 then 1 else getF d[3] 32 32

/-- Byte strides of dims 1 to 3; a dimension of extent 1 places nothing. -/
def Desc.stride1 (d : Desc) : Nat := getF d[4] 0 48
def Desc.stride2 (d : Desc) : Nat := getF d[5] 0 48
def Desc.stride3 (d : Desc) : Nat := getF d[6] 0 48

/-- The format, FP32 standing in where the code is reserved (such a descriptor is invalid, R54). -/
def Desc.fmt (d : Desc) : Fmt := (Fmt.ofCode d.fmtCode).getD .fp32

/-- The alignment unit of R54 item 4. -/
def Desc.unit (d : Desc) : Nat := if d.blk = 0 then d.fmt.bits / 8 else 4 * d.fmt.bits

/-- Reserved fields of Table 3.6 are zero. -/
def Desc.reservedZero (d : Desc) : Bool :=
  getF d[0] 57 7 == 0 && getF d[1] 58 6 == 0 && getF d[4] 48 16 == 0 && getF d[5] 48 16 == 0 && getF d[6] 48 16 == 0 &&
    getF d[7] 45 3 == 0

/-- Validity (R54). -/
def Desc.valid (d : Desc) : Bool :=
  (Fmt.ofCode d.fmtCode).isSome &&
    (if d.blk = 0 then !d.fmt.alwaysScaled else d.fmt.mayScale) &&
    (d.blk == 0 || (d.blk == 2 || d.s0 % 32 == 0) && (d.blk == 1 || d.s1 % 32 == 0)) &&
    (d.unit != 0 && d.base % d.unit == 0 && (decide (d.rank < 2) || d.stride1 % d.unit == 0) &&
      (decide (d.rank < 3) || d.stride2 % d.unit == 0) && (decide (d.rank < 4) || d.stride3 % d.unit == 0)) &&
    d.reservedZero

/-- Number of element positions. -/
def Desc.count (d : Desc) : Nat := d.s0 * d.s1 * d.s2 * d.s3

/-- A tensor with an extent of zero (R54). -/
def Desc.empty (d : Desc) : Bool := d.count == 0

/-- Bytes of one row along dim 0 (R49). -/
def Desc.rowBytes (d : Desc) : Nat := ceilDiv (d.s0 * d.fmt.bits) 8

/-- A position (i0, i1, i2, i3). -/
structure Pos where
  i0 : Nat
  i1 : Nat
  i2 : Nat
  i3 : Nat
deriving DecidableEq, Repr

/-- The position of linear index `n` (R55). -/
def Desc.pos (d : Desc) (n : Nat) : Pos :=
  ⟨n % d.s0, n / d.s0 % d.s1, n / (d.s0 * d.s1) % d.s2, n / (d.s0 * d.s1 * d.s2)⟩

/-- The linear index of a position (R55). -/
def Desc.lin (d : Desc) (p : Pos) : Nat := p.i0 + d.s0 * (p.i1 + d.s1 * (p.i2 + d.s2 * p.i3))

/-- All positions in the order of their linear index. -/
def Desc.positions (d : Desc) : List Pos := (List.range d.count).map d.pos

/-- Byte address of the row of (i1, i2, i3). Sums are not reduced modulo 2^48 (DESIGN CHOICE, log entry 13). -/
def Desc.rowAddr (d : Desc) (i1 i2 i3 : Nat) : Nat := d.base + i1 * d.stride1 + i2 * d.stride2 + i3 * d.stride3

/-- First bit of an element, counted from bit 0 of address 0 (R49). -/
def Desc.elemBit (d : Desc) (p : Pos) : Nat := 8 * d.rowAddr p.i1 p.i2 p.i3 + p.i0 * d.fmt.bits

/-- Index of the scale byte of a position (R48). -/
def Desc.scaleIndex (d : Desc) (p : Pos) : Nat :=
  match d.blk with
  | 1 => p.i0 / 32 + d.s0 / 32 * (p.i1 + d.s1 * (p.i2 + d.s2 * p.i3))
  | 2 => p.i0 + d.s0 * (p.i1 / 32 + d.s1 / 32 * (p.i2 + d.s2 * p.i3))
  | 3 => p.i0 / 32 + d.s0 / 32 * (p.i1 / 32 + d.s1 / 32 * (p.i2 + d.s2 * p.i3))
  | _ => 0

/-- Bytes of the scale array (R48). -/
def Desc.scaleBytes (d : Desc) : Nat :=
  match d.blk with
  | 0 => 0
  | 3 => d.count / 1024
  | _ => d.count / 32

/-- Element bytes as a consignment or a seal counts them: dense rows (R201, R306). -/
def Desc.elemBytes (d : Desc) : Nat := d.rowBytes * d.s1 * d.s2 * d.s3

/-- Start addresses of the rows, in linear order. -/
def Desc.rows (d : Desc) : List Nat :=
  (List.range d.s3).flatMap fun i3 => (List.range d.s2).flatMap fun i2 => (List.range d.s1).map fun i1 => d.rowAddr i1 i2 i3

/-- The byte ranges (address, length) a tensor occupies: its rows and its scale array; nothing when empty. -/
def Desc.ranges (d : Desc) : List (Nat × Nat) :=
  if d.empty then []
  else d.rows.map (fun a => (a, d.rowBytes)) ++ (if d.blk = 0 then [] else [(d.scale, d.scaleBytes)])

/-- First and last byte of the elements (R167 item 5). -/
def Desc.span (d : Desc) : Nat × Nat :=
  (d.base, d.rowAddr (d.s1 - 1) (d.s2 - 1) (d.s3 - 1) + d.rowBytes - 1)

/-- Do the byte ranges from first to last byte overlap? Empty tensors overlap nothing. -/
def Desc.overlaps (d a : Desc) : Bool :=
  !d.empty && !a.empty && decide (d.span.1 ≤ a.span.2) && decide (a.span.1 ≤ d.span.2)

/-- Same extents in all four dimensions. -/
def Desc.sameExt (d a : Desc) : Bool := d.s0 == a.s0 && d.s1 == a.s1 && d.s2 == a.s2 && d.s3 == a.s3

/-- Same place and shape in the sense of R167 item 5. -/
def Desc.inPlace (d a : Desc) : Bool :=
  d.base == a.base && d.fmtCode == a.fmtCode && d.blk == a.blk && d.sameExt a &&
    (decide (d.s1 ≤ 1) || d.stride1 == a.stride1) && (decide (d.s2 ≤ 1) || d.stride2 == a.stride2) &&
    (decide (d.s3 ≤ 1) || d.stride3 == a.stride3)

/-- A bad overlap: ranges that meet without being the same tensor (R167 item 5, R195). -/
def Desc.badOverlap (d a : Desc) : Bool := d.overlaps a && !d.inPlace a

/-- A ceiling raised by element exponent `e` (R56, R127). -/
def Desc.raise (d : Desc) (e : Int) : Desc :=
  let c := if d.ceilv then max d.ceil e else e
  d.set 7 (setF (setF d[7] 32 12 (unsigned 12 c)) 44 1 1)

/-- The field codes of dset (Table 9.5): word, low bit, width, signed. -/
def dsetField (x : Nat) : Option (Fin 8 × Nat × Nat × Bool) :=
  match x with
  | 0x08 => some (0, 0, 48, false) | 0x09 => some (0, 48, 4, false) | 0x0A => some (0, 52, 2, false)
  | 0x0B => some (0, 54, 2, false) | 0x0C => some (0, 56, 1, false) | 0x0D => some (1, 0, 48, false)
  | 0x0E => some (1, 48, 10, true) | 0x0F => some (2, 0, 32, false) | 0x10 => some (2, 32, 32, false)
  | 0x11 => some (3, 0, 32, false) | 0x12 => some (3, 32, 32, false) | 0x13 => some (4, 0, 48, false)
  | 0x14 => some (5, 0, 48, false) | 0x15 => some (6, 0, 48, false) | 0x16 => some (7, 0, 32, false)
  | 0x17 => some (7, 32, 12, true) | 0x18 => some (7, 44, 1, false) | 0x19 => some (7, 48, 16, false)
  | _ => none

/-- A descriptor with dset's field `x` set to `v`; none where the field cannot hold it (R188). -/
def Desc.dset (d : Desc) (x : Nat) (v : W64) : Option Desc :=
  if h : x < 8 then some (d.set x v)
  else match dsetField x with
    | none => none
    | some (w, lo, n, sg) =>
      let fits := if sg then decide (-(2 ^ (n - 1) : Int) ≤ signed 64 v.toNat) && decide (signed 64 v.toNat < 2 ^ (n - 1))
        else decide (v.toNat < 2 ^ n)
      if !fits then none
      else
        let d' := d.set w (setF d[w] lo n v.toNat)
        some (if x = 0x17 then d'.set 7 (setF d'[7] 44 1 1) else d')

/-- The 64 bytes of a descriptor in memory (R53). -/
def Desc.toBytes (d : Desc) : List Byte := d.toList.flatMap fun w => leBytes 8 w.toNat

/-- The descriptor that 64 bytes spell. -/
def Desc.ofBytes (bs : List Byte) : Desc := Vector.ofFn fun i => BitVec.ofNat 64 (leNat ((bs.drop (8 * i.val)).take 8))

/-! ### The words -/

/-- The sequencer words (Table 9.1). -/
inductive SOp where
  | li | add | sub | mul | and | or | xor | shl | shr | cmp | br | jmp | call | ret | loop | wait | fence | halt | csrr | csrw
  | dset | dld | dst | frame | chimew | tally | commitPrep
deriving DecidableEq, Repr

/-- The queue of an instruction (Table 7.3): 0 matrix, 1 vector, 2 courier, 3 fabric. -/
def TKind.queue : TKind → Fin 4
  | .mshape | .mhold | .mmul | .mx => 0
  | .vec _ | .upd _ => 1
  | .cpy | .gather | .scatter | .seal | .amo => 2
  | .put | .get | .mcast | .coll | .bar => 3

/-- Fields a vector instruction uses (Table 8.8): DB, DC, CS, RM, BR, PR. -/
def VOp.uses : VOp → Bool × Bool × Bool × Bool × Bool × Bool
  | .vld | .vsum | .vexp2 | .vlog2 | .vrcp | .vrsqrt => (false, false, false, false, false, false)
  | .vst | .vcvt => (false, false, true, true, true, true)
  | .vadd | .vsub | .vmul | .vmax | .vmin => (true, false, false, false, false, false)
  | .vfma | .vsel => (true, true, false, false, false, false)
  | .vargmax | .vargmin => (false, false, false, false, true, false)
  | .vcmp => (true, false, false, true, false, false)

end Sys2Proof.Machine

namespace Sys2Proof
open Machine

/-! ### Sequencer form -/

/-- IMM sign-extended to 64 bits. -/
def SForm.sext (f : SForm) : W64 := f.imm.signExtend 64

/-- IMM zero-extended. -/
def SForm.zext (f : SForm) : W64 := f.imm.setWidth 64

/-- Sub-field bits by their place in the word, 27 to 31. -/
def SForm.xBit (f : SForm) (i : Nat) : Bool := f.x.toNat.testBit (i - 27)

/-- Bits [29:22], the counter that wait, tally and commit.prep name. -/
def SForm.cnt (f : SForm) : Fin 256 := ⟨(f.sb.val + 32 * (f.x.toNat % 8)) % 256, Nat.mod_lt _ (by decide)⟩

/-- Bit [30], CE of tally and commit.prep. -/
def SForm.ce (f : SForm) : Bool := f.xBit 30

/-- No second operand: I = 0, SB = 0, IMM = 0 as used (R185). -/
def SForm.noB (f : SForm) : Bool := !f.i && f.sb == 0 && f.imm == 0

/-- The field b is either IMM with SB = 0 or s[SB] with IMM = 0 (R185). -/
def SForm.okB (f : SForm) : Bool := if f.i then f.sb == 0 else f.imm == 0

/-- Does the word break R158 or R185 for its instruction, so that it raises ILLEGAL (Tables 9.3 to 9.5, R207)? -/
def SForm.illegal (op : SOp) (f : SForm) : Bool :=
  match op with
  | .li => !(!f.i && f.sa == 0 && f.sb == 0 && f.x.toNat / 2 == 0)
  | .add | .sub | .mul | .and | .or | .xor | .shl => !(f.okB && f.x == 0)
  | .shr => !(f.okB && f.x.toNat / 2 == 0)
  | .cmp => !(f.okB && f.x.toNat % 16 < 4 && f.sd.val / 8 == 0)
  | .br => !(!f.i && f.sb == 0 && f.sd == 0 && f.sa == 0 && f.x == 0)
  | .jmp | .call => !(!f.i && f.sb == 0 && f.sd == 0 && f.x == 0)
  | .ret => !(f.noB && f.sd == 0 && f.sa == 0 && f.x == 0)
  | .loop => !(f.sb == 0 && f.sd == 0 && f.x == 0 && getF f.imm 20 12 != 0 &&
      (if f.i then f.sa == 0 else getF f.imm 0 20 == 0))
  | .wait => !(f.sd == 0 && f.x.toNat / 8 == 0 && (!f.i || f.sa == 0))
  | .fence => !(f.noB && f.sd == 0 && f.sa == 0 && f.x.toNat / 16 == 0)
  | .halt | .frame => !(f.noB && f.sd == 0 && f.sa == 0 && f.x == 0)
  | .csrr => !(f.sb == 0 && f.x == 0 && (!f.i || f.sa == 0))
  | .csrw => !(f.sd == 0 && f.x == 0 && (!f.i || f.sa == 0))
  | .dset => !((f.x.toNat < 8 || (dsetField f.x.toNat).isSome) && f.sb == 0 && (if f.i then f.sa == 0 else f.imm == 0))
  | .dld | .dst => !(!f.i && f.sb == 0 && f.x == 0)
  | .chimew => !(f.sb == 0 && f.x.toNat / 2 == 0 && (!f.i || f.sa == 0) && (f.xBit 27 || f.sd == 0))
  | .tally => !(!f.i && f.x.toNat / 16 == 0 && f.sd.val / 8 == 0 && (f.ce || f.cnt == 0))
  | .commitPrep => !(!f.i && f.x.toNat / 16 == 0 && f.imm == 0 && (f.ce || f.cnt == 0))

/-! ### Tensor form -/

/-- Field of `n` bits at bit `lo` of the whole word, `lo` at least 20. -/
def TForm.fld (f : TForm) (lo n : Nat) : Nat := getF f.body (lo - 20) n

/-- A descriptor register field at bit `lo`. -/
def TForm.reg (f : TForm) (lo : Nat) : Fin 32 := ⟨f.fld lo 5 % 32, Nat.mod_lt _ (by decide)⟩

/-- A one-bit field. -/
def TForm.bit (f : TForm) (lo : Nat) : Bool := f.fld lo 1 == 1

/-- Does the word break R158 for its instruction (Tables 8.1 to 8.8, 9.7, 9.10)? -/
def TForm.illegal (k : TKind) (f : TForm) : Bool :=
  !(f.ce || f.cnt == 0) ||
  match k with
  | .mshape => f.fld 25 39 != 0
  | .mhold => f.fld 32 32 != 0
  | .mmul => f.fld 55 9 != 0 || (!f.bit 49 && f.fld 50 5 != 0) || (f.bit 36 && f.fld 42 5 != 0) || (f.bit 33 && f.fld 34 2 == 3)
  | .mx => f.fld 60 4 != 0 || (!f.bit 32 && f.fld 33 5 != 0) || (!f.bit 38 && f.fld 39 5 != 0) || (!f.bit 44 && f.fld 45 5 != 0) ||
      f.fld 27 3 > 4 || (f.fld 27 3 != 4 && f.fld 50 10 != 0)
  | .vec op =>
    let (db, dc, cs, rm, br, pr) := op.uses
    f.fld 56 8 != 0 || (!db && (f.fld 30 5 != 0 || f.fld 40 1 != 0)) || (!dc && f.fld 35 5 != 0) || (!cs && f.fld 41 2 != 0) ||
      (!rm && f.fld 43 3 != 0) || (!br && f.fld 46 5 != 0) || (!pr && f.fld 51 5 != 0) ||
      (op == .vcmp && f.fld 43 3 == 7) ||
      ((op == .vst || op == .vcvt) && f.fld 43 3 > 4)
  | .upd _ => f.fld 56 8 != 0 || f.fld 20 5 != 0 || f.fld 37 3 != 0 || f.fld 40 1 != 0 || f.fld 35 2 == 3 || f.fld 43 3 > 4 ||
      f.fld 25 5 + 6 > 31 || f.fld 30 5 + 3 > 31
  | .cpy => f.fld 36 28 != 0 || f.fld 30 5 != 0 || (f.bit 35 && f.fld 25 5 != 0)
  | .gather | .scatter => f.fld 35 29 != 0
  | .seal => f.fld 35 29 != 0 || f.fld 20 5 != 0
  | .amo => f.fld 38 26 != 0 || f.fld 30 5 != 0 || f.fld 35 3 == 0 || f.fld 35 3 > 5
  | .put => f.fld 38 26 != 0 || f.fld 35 3 > 5
  | .get | .mcast => f.fld 35 29 != 0
  | .coll => f.fld 45 19 != 0 || f.fld 35 4 > 7 || f.fld 40 3 > 3
  | .bar => f.fld 35 29 != 0 || f.fld 20 10 != 0

/-- The sequencer form of a word (Table 9.2). -/
def SForm.ofWord (w : W64) : SForm :=
  { pred := ⟨getF w 8 3 % 8, Nat.mod_lt _ (by decide)⟩, i := getF w 11 1 == 1
    sd := ⟨getF w 12 5 % 32, Nat.mod_lt _ (by decide)⟩, sa := ⟨getF w 17 5 % 32, Nat.mod_lt _ (by decide)⟩
    sb := ⟨getF w 22 5 % 32, Nat.mod_lt _ (by decide)⟩, x := BitVec.ofNat 5 (getF w 27 5), imm := BitVec.ofNat 32 (getF w 32 32) }

/-- The tensor form of a word (Table 8.1). -/
def TForm.ofWord (w : W64) : TForm :=
  { pred := ⟨getF w 8 3 % 8, Nat.mod_lt _ (by decide)⟩, ce := getF w 11 1 == 1, cnt := BitVec.ofNat 8 (getF w 12 8)
    body := BitVec.ofNat 44 (getF w 20 44) }

end Sys2Proof

namespace Sys2Proof.Machine

/-! ### The opcode map (R184) -/

/-- A Vurdo word, split by its form. -/
inductive Word where
  | s (op : SOp) (f : SForm)
  | t (k : TKind) (f : TForm)
deriving DecidableEq, Repr

/-- Sequencer opcodes of Table 9.1. -/
def SOp.ofCode : Nat → Option SOp
  | 0x01 => some .li | 0x02 => some .add | 0x03 => some .sub | 0x04 => some .mul | 0x05 => some .and | 0x06 => some .or
  | 0x07 => some .xor | 0x08 => some .shl | 0x09 => some .shr | 0x0A => some .cmp | 0x0B => some .br | 0x0C => some .jmp
  | 0x0D => some .call | 0x0E => some .ret | 0x0F => some .loop | 0x10 => some .wait | 0x11 => some .fence | 0x12 => some .halt
  | 0x13 => some .csrr | 0x14 => some .csrw | 0x20 => some .dset | 0x21 => some .dld | 0x22 => some .dst | 0x28 => some .frame
  | 0x29 => some .chimew | 0x2A => some .tally | 0x2B => some .commitPrep | _ => none

/-- Tensor opcodes of Tables 9.1 and 8.8. -/
def TKind.ofCode : Nat → Option TKind
  | 0x30 => some .cpy | 0x31 => some .gather | 0x32 => some .scatter | 0x33 => some .seal | 0x34 => some .amo
  | 0x38 => some .put | 0x39 => some .get | 0x3A => some .coll | 0x3B => some .mcast | 0x3C => some .bar
  | 0x40 => some .mshape | 0x41 => some .mhold | 0x42 => some .mmul | 0x43 => some .mx
  | 0x50 => some (.vec .vld) | 0x51 => some (.vec .vst) | 0x52 => some (.vec .vadd) | 0x53 => some (.vec .vsub)
  | 0x54 => some (.vec .vmul) | 0x55 => some (.vec .vfma) | 0x56 => some (.vec .vmax) | 0x57 => some (.vec .vmin)
  | 0x58 => some (.vec .vargmax) | 0x59 => some (.vec .vargmin) | 0x5A => some (.vec .vsum) | 0x5B => some (.vec .vexp2)
  | 0x5C => some (.vec .vlog2) | 0x5D => some (.vec .vrcp) | 0x5E => some (.vec .vrsqrt) | 0x5F => some (.vec .vcvt)
  | 0x60 => some (.vec .vcmp) | 0x61 => some (.vec .vsel) | 0x62 => some (.upd .m2) | 0x63 => some (.upd .m1)
  | 0x64 => some (.upd .plain) | _ => none

/-- Opcode of a sequencer word (Table 9.1). -/
def SOp.code : SOp → Nat
  | .li => 0x01 | .add => 0x02 | .sub => 0x03 | .mul => 0x04 | .and => 0x05 | .or => 0x06 | .xor => 0x07 | .shl => 0x08
  | .shr => 0x09 | .cmp => 0x0A | .br => 0x0B | .jmp => 0x0C | .call => 0x0D | .ret => 0x0E | .loop => 0x0F | .wait => 0x10
  | .fence => 0x11 | .halt => 0x12 | .csrr => 0x13 | .csrw => 0x14 | .dset => 0x20 | .dld => 0x21 | .dst => 0x22
  | .frame => 0x28 | .chimew => 0x29 | .tally => 0x2A | .commitPrep => 0x2B

/-- Opcode of a tensor word (Tables 9.1, 8.8). -/
def TKind.code : TKind → Nat
  | .cpy => 0x30 | .gather => 0x31 | .scatter => 0x32 | .seal => 0x33 | .amo => 0x34 | .put => 0x38 | .get => 0x39
  | .coll => 0x3A | .mcast => 0x3B | .bar => 0x3C | .mshape => 0x40 | .mhold => 0x41 | .mmul => 0x42 | .mx => 0x43
  | .vec .vld => 0x50 | .vec .vst => 0x51 | .vec .vadd => 0x52 | .vec .vsub => 0x53 | .vec .vmul => 0x54 | .vec .vfma => 0x55
  | .vec .vmax => 0x56 | .vec .vmin => 0x57 | .vec .vargmax => 0x58 | .vec .vargmin => 0x59 | .vec .vsum => 0x5A
  | .vec .vexp2 => 0x5B | .vec .vlog2 => 0x5C | .vec .vrcp => 0x5D | .vec .vrsqrt => 0x5E | .vec .vcvt => 0x5F
  | .vec .vcmp => 0x60 | .vec .vsel => 0x61 | .upd .m2 => 0x62 | .upd .m1 => 0x63 | .upd .plain => 0x64

/-- The bits of a word (Tables 8.1, 9.2). -/
def Word.toBits : Word → W64
  | .s op f => BitVec.ofNat 64 (op.code + f.pred.val * 2 ^ 8 + f.i.toNat * 2 ^ 11 + f.sd.val * 2 ^ 12 + f.sa.val * 2 ^ 17 +
      f.sb.val * 2 ^ 22 + f.x.toNat * 2 ^ 27 + f.imm.toNat * 2 ^ 32)
  | .t k f => BitVec.ofNat 64 (k.code + f.pred.val * 2 ^ 8 + f.ce.toNat * 2 ^ 11 + f.cnt.toNat * 2 ^ 12 + f.body.toNat * 2 ^ 20)

/-- A Vurdo word by its opcode; none where the opcode is reserved, 0x00 included (R132, R184). -/
def Word.ofBits (w : W64) : Option Word :=
  match SOp.ofCode (getF w 0 8) with
  | some op => some (.s op (SForm.ofWord w))
  | none => (TKind.ofCode (getF w 0 8)).map fun k => .t k (TForm.ofWord w)

end Sys2Proof.Machine
end

