-- ==== Sys2Proof/Machine/Rs.lean ====
section
/-!
DEFINITION. Reed–Solomon codes over GF(2^10) with the field polynomial x¹⁰ + x³ + 1 and the consecutive roots α^0, α^1, … (16 R340; for
the RS(544,514) code of the lanes, 10 R209, the code that 802.3 defines: PRESUMED, log entry 85): parity, and decoding of errors and
erasures up to half the distance. Symbols are numbers below 1,024; a codeword is a list of symbols, its data first, and the first symbol is
the coefficient of the highest power (PRESUMED, log entry 85).
-/
namespace Sys2Proof.Machine

/-! ### The field -/

/-- Multiplication by α. -/
def gfDouble (a : Nat) : Nat := if a < 512 then 2 * a else (2 * a) ^^^ 0x409

/-- Multiplication: shift and add over the bits of `b`. -/
def gfMulFrom : Nat → Nat → Nat → Nat → Nat
  | 0, _, _, t => t
  | n + 1, a, b, t => gfMulFrom n (gfDouble a) (b / 2) (if b % 2 = 1 then t ^^^ a else t)

/-- Multiplication of field elements (PRESUMED, log entry 85). -/
def gfMul (a b : Nat) : Nat := gfMulFrom 10 a b 0

/-- α^n. -/
def gfAlpha : Nat → Nat
  | 0 => 1
  | n + 1 => gfDouble (gfAlpha n)

/-- a^(2 + 4 + … + 2^n): the inverse at n = 9, by a^1023 = 1. -/
def gfInvFrom : Nat → Nat → Nat → Nat
  | 0, _, t => t
  | n + 1, a, t => gfInvFrom n (gfMul a a) (gfMul t (gfMul a a))

def gfInv (a : Nat) : Nat := gfInvFrom 9 a 1

/-! ### Polynomials, lowest coefficient first -/

def pTrim (p : List Nat) : List Nat := (p.reverse.dropWhile (· == 0)).reverse
def pScale (k : Nat) (p : List Nat) : List Nat := p.map (gfMul k)

def pAdd : List Nat → List Nat → List Nat
  | [], q => q
  | p, [] => p
  | a :: p, b :: q => (a ^^^ b) :: pAdd p q

def pMul : List Nat → List Nat → List Nat
  | [], _ => []
  | a :: p, q => pAdd (pScale a q) (0 :: pMul p q)

def pEval (p : List Nat) (x : Nat) : Nat := p.foldr (fun c t => c ^^^ gfMul t x) 0

/-- Quotient and remainder by a trimmed, nonzero `b`; `n` bounds the steps. -/
def pDiv : Nat → List Nat → List Nat → List Nat × List Nat
  | 0, a, _ => ([], a)
  | n + 1, a, b =>
    if a.length < b.length then ([], a)
    else
      let k := gfMul (a.getLastD 0) (gfInv (b.getLastD 0))
      let t := List.replicate (a.length - b.length) 0
      let r := pDiv n (pTrim (pAdd a (t ++ pScale k b))) b
      (pAdd (t ++ [k]) r.1, r.2)

/-- Odd coefficients moved down by one: the derivative in characteristic 2. -/
def pDeriv : List Nat → List Nat
  | _ :: a :: p => a :: 0 :: pDeriv p
  | _ => []

/-! ### Encoding -/

/-- The generator with `r` roots (R340). -/
def rsGen (r : Nat) : List Nat := (List.range r).foldl (fun g j => pMul g [gfAlpha j, 1]) [1]

/-- Pack symbols, the first one highest. -/
def rsPack (xs : List Nat) : Nat := xs.foldl (fun t x => 1024 * t + x) 0

/-- Unpack `r` symbols. -/
def rsUnpack (r w : Nat) : List Nat := (List.range r).map fun i => w / 1024 ^ (r - 1 - i) % 1024

/-- α^k times the generator without its leading coefficient, packed, for the ten bits of a symbol. -/
def rsTable (r : Nat) : List Nat :=
  let g := ((rsGen r).take r).reverse
  (List.range 10).map fun k => rsPack (g.map (gfMul (gfAlpha k)))

/-- A symbol times the generator. -/
def rsTimes : List Nat → Nat → Nat → Nat
  | [], _, t => t
  | g :: gs, f, t => rsTimes gs (f / 2) (if f % 2 = 1 then t ^^^ g else t)

/-- Division by the generator, symbol by symbol. -/
def rsDivide (r : Nat) (tab : List Nat) : List Nat → Nat → Nat
  | [], reg => reg
  | d :: ds, reg => rsDivide r tab ds ((reg * 1024 % 1024 ^ r) ^^^ rsTimes tab (d ^^^ reg / 1024 ^ (r - 1)) 0)

/-- The `r` parity symbols of a codeword's data (R340); leading zeros leave no remainder (PRESUMED, log entry 85). -/
def rsParity (r : Nat) (data : List Nat) : List Nat := rsUnpack r (rsDivide r (rsTable r) (data.dropWhile (· == 0)) 0)

/-! ### Decoding -/

/-- Euclid's algorithm until the remainder is short: (remainder, its multiplier). -/
def rsEuclid (stop : Nat) : Nat → List Nat → List Nat → List Nat → List Nat → List Nat × List Nat
  | 0, _, b, _, tb => (b, tb)
  | n + 1, a, b, ta, tb =>
    if 2 * b.length < stop + 2 then (b, tb)
    else
      let d := pDiv (a.length + 1) a b
      rsEuclid stop n b (pTrim d.2) tb (pTrim (pAdd ta (pMul d.1 tb)))

/-- The syndromes of a word, from its remainder: the difference of the parity received and the parity of the data received. -/
def rsSyndromes (r : Nat) (word : List Nat) : List Nat :=
  let k := word.length - r
  let rem := (List.zipWith (· ^^^ ·) (rsParity r (word.take k)) (word.drop k)).reverse
  (List.range r).map fun j => pEval rem (gfAlpha j)

/-- Decode a word with `r` parity symbols and erasures at the indices `eras`: the corrected word, none where the erasures plus twice the
other errors are more than `r` (R343) (PRESUMED, log entry 85). -/
def rsDecode (r : Nat) (word : List Nat) (eras : List Nat) : Option (List Nat) :=
  let syn := rsSyndromes r word
  if syn.all (· == 0) then some word
  else if r < eras.length then none
  else
    let n := word.length
    let pos := fun (i : Nat) => gfAlpha (n - 1 - i)
    let gam := eras.foldl (fun g i => pMul g [1, pos i]) [1]
    let mod := pTrim ((pMul syn gam).take r)
    let eu := rsEuclid (r + eras.length) (r + 1) (List.replicate r 0 ++ [1]) mod [] [1]
    let psi := pTrim (pMul eu.2 gam)
    let der := pDeriv psi
    let fixed := (word.zip (List.range n)).map fun x =>
      let inv := gfInv (pos x.2)
      if pEval psi inv = 0 then (x.1 ^^^ gfMul (pos x.2) (gfMul (pEval eu.1 inv) (gfInv (pEval der inv))), true) else (x.1, false)
    let w := fixed.map (·.1)
    let wrong := ((word.zip w).zip (List.range n)).filter fun x => x.1.1 != x.1.2 && !eras.contains x.2
    if (rsSyndromes r w).all (· == 0) && decide (eras.length + 2 * wrong.length ≤ r) then some w else none

/-- Indices at which two words differ. -/
def rsChanged (a b : List Nat) : List Nat := (((a.zip b).zip (List.range a.length)).filter fun x => x.1.1 != x.1.2).map (·.2)

end Sys2Proof.Machine
end

