-- ==== Sys2Proof/Machine/Ops.lean ====
section
/-!
DEFINITION. The shared operations: one home for every piece of state a command reaches. Combs, counters, links and
controllers; notices, the chronicle and the device state; the fault of a sequencer (07 R150); memory with its regions (R5,
R144, R267), its protection (02 R36, 16 R338 to R351) and its merge slots.
-/
namespace Sys2Proof.Machine

/-- What a command answers. -/
abbrev Out := Host.Outcome State Fault Refusal

/-! ### Accessors -/

def State.comb (s : State) (c : CombId) : Comb := s.combs[c]
def State.modComb (s : State) (c : CombId) (f : Comb → Comb) : State := { s with combs := s.combs.set c (f s.combs[c]) }
def State.modSeq (s : State) (c : CombId) (f : Seq → Seq) : State := s.modComb c fun k => { k with seq := f k.seq }
def State.modMat (s : State) (c : CombId) (f : Mat → Mat) : State := s.modComb c fun k => { k with mat := f k.mat }
def State.modExt (s : State) (c : CombId) (f : Ext → Ext) : State := s.modComb c fun k => { k with ext := f k.ext }
def State.modSquare (s : State) (q : SqId) (f : Square → Square) : State := { s with squares := s.squares.set q (f s.squares[q]) }
def State.modMc (s : State) (m : McId) (f : Mc → Mc) : State := { s with mcs := s.mcs.set m (f s.mcs[m]) }
def State.modLink (s : State) (l : LinkId) (f : Link → Link) : State := { s with links := s.links.set l (f s.links[l]) }
def State.modMem (s : State) (f : Mem → Mem) : State := { s with mem := f s.mem }

/-- Every comb changed by `f`. -/
def State.modCombs (s : State) (f : CombId → Comb → Comb) : State := { s with combs := Vector.ofFn fun c => f c s.combs[c] }

/-- Counter i of a comb rises by k modulo 2^32 (R137). -/
def State.bump (s : State) (c : CombId) (i : Fin 256) (k : Nat) : State :=
  s.modSeq c fun q => { q with cnt := q.cnt.set i (q.cnt[i] + BitVec.ofNat 32 k) }

/-- Counter number of an 8-bit field. -/
def cntIx (b : BitVec 8) : Fin 256 := ⟨b.toNat, b.isLt⟩

/-- The completion counter of a tensor instruction moves when CE = 1 (R137, R157). -/
def State.bumpE (s : State) (c : CombId) (e : QEntry) : State := if e.ce then s.bump c (cntIx e.cnt) 1 else s

/-- A scalar register is written. -/
def State.setS (s : State) (c : CombId) (i : Fin 32) (v : W64) : State := s.modSeq c fun q => { q with s := q.s.set i v }

/-- A descriptor register is written. -/
def State.setD (s : State) (c : CombId) (i : Fin 32) (v : Desc) : State := s.modSeq c fun q => { q with d := q.d.set i v }

/-- Draw one free value (DESIGN CHOICE, log entry 6). -/
def State.draw (s : State) : W64 × State := (Config.freeWord s.free, { s with free := s.free + 1 })

/-- Move the time base up to an instant that a due event names (DESIGN CHOICE, log entry 4). -/
def State.until (s : State) (t : Nat) : State :=
  if s.chm.tb < t then { s with chm := { s.chm with tb := t, local_ := s.chm.local_ + (t - s.chm.tb) } } else s

/-! ### Notices, records, device state -/

/-- Codes of Table 17.5. -/
def DevState.code : DevState → Nat
  | .off => 0 | .wardenUp => 1 | .coreUp => 2 | .muster => 3 | .ready => 4 | .running => 5 | .quiesced => 6 | .fenced => 7
  | .resetting => 8

/-- Codes of Table 7.6. -/
def SeqState.code : SeqState → Nat
  | .empty => 0 | .loading => 1 | .loaded => 2 | .armed => 3 | .running => 4 | .waiting => 5 | .chimeWait => 6 | .hold => 7
  | .halted => 8 | .faulted => 9

/-- Warden ticks at 400 MHz since full reset (Table 19.8): nine array cycles each. -/
def State.ticks (s : State) : Nat := s.chm.local_ / 9

/-- An event enters the chronicle's queue of 1,024, or is counted in CHR_REFUSED.QUEUE (R399, R400). -/
def State.record (s : State) (ev : Event) : State :=
  if s.chr.queue.length < 1024 then
    { s with chr := { s.chr with queue := s.chr.queue ++
        [{ chime := s.chm.n, tb := BitVec.ofNat 64 (if s.chm.running then s.chm.tb else s.ticks), boots := s.wdn.boots,
           event := ev }] } }
  else { s with chr := { s.chr with qfull := sat32 s.chr.qfull 1 } }

/-- ETH_CFG.TXAN: the association used for transmission. -/
def Eth.txan (e : Eth) : Fin 2 := if getF e.cfg 35 1 = 1 then 1 else 0

/-- A frame is about to leave: the Boolean tells whether the port sends it. A port that is down loses it (R21); under MACsec it takes the
next packet number, and an exhausted association sends nothing more (R368)
(DESIGN CHOICE, log entry 21; DESIGN CHOICE, log entry 58). -/
def State.frameOut (s : State) : Bool × State :=
  if !s.eth.linkUp then (false, s)
  else if getF s.eth.cfg 33 1 = 0 then (true, s)
  else
    let p := s.eth.pn[s.eth.txan]
    if p = BitVec.allOnes 64 then (false, s)
    else
      let s1 : State := { s with eth := { s.eth with pn := s.eth.pn.set s.eth.txan (p + 1) } }
      if p + 1 = BitVec.allOnes 64 then
        (true, ({ s1 with eth := { s1.eth with pnexh := true } } : State).record .pnExhausted)
      else (true, s1)

/-- A notice is numbered and sent while ETH_NOTIFY.EN = 1, to the profile's host of slot ADDR at port UPORT (R366, Table 17.11)
(DESIGN CHOICE, log entry 9; DESIGN CHOICE, log entry 21). -/
def State.notice (s : State) (b : NoticeBody) : State :=
  if getF s.eth.notify 63 1 = 1 then
    let v6 := getF s.eth.notify 62 1 == 1
    let slot := getF s.eth.notify 48 8
    let host : BitVec 128 := if v6 then s.wdn.core.hosts6.getD slot 0 else (s.wdn.core.hosts4.getD slot 0).setWidth 128
    let n : Notice := { seq := s.eth.noticeNo, st := s.dev.st, v6 := v6, host := host, port := BitVec.ofNat 16 (getF s.eth.notify 0 16), body := b }
    let t := ({ s with eth := { s.eth with noticeNo := s.eth.noticeNo + 1 } } : State).frameOut
    if t.1 then { t.2 with eth := { t.2.eth with notices := t.2.eth.notices ++ [n] } } else t.2
  else s

/-- A reply leaves the port (DESIGN CHOICE, log entry 21). -/
def State.sendReply (s : State) (r : Reply) : State :=
  let t := s.frameOut
  if t.1 then { t.2 with eth := { t.2.eth with replies := t.2.eth.replies ++ [r] } } else t.2

/-- The device state changes, with its State notice (R361, R366). -/
def State.setDev (s : State) (d : DevState) : State :=
  if s.dev.st = d then s
  else ({ s with dev := { s.dev with st := d } }).notice (.state s.dev.st d)

/-- `n` corrected events of a block of Table 19.8: a count above the profile's threshold within one second is recorded and notified, once a
second (R396, Table 19.7) (DESIGN CHOICE, log entry 90) (DESIGN CHOICE, log entry 72). -/
def State.corrected (s : State) (block n : Nat) : State :=
  let now := s.chm.local_
  let old := match s.dev.corr.find? (·.1 == block) with
    | some x => if now < x.2.1 + 3600000000 then x.2 else (now, 0)
    | none => (now, 0)
  if n = 0 then s
  else
    let s1 := { s with dev := { s.dev with corr := (s.dev.corr.filter (·.1 != block)) ++ [(block, old.1, old.2 + n)] } }
    match s.wdn.prof.limits.getD block none with
    | some most =>
      if old.2 ≤ most ∧ most < old.2 + n then
        (s1.record (.corrected block)).notice (.fault (BitVec.ofNat 8 block) 3 (old.2 + n))
      else s1
    | none => s1

/-- A comb that keeps the device in RUNNING (Table 17.5). -/
def SeqState.active : SeqState → Bool
  | .armed | .running | .waiting | .chimeWait | .hold => true
  | _ => false

/-- READY and RUNNING follow the combs (Table 17.5). -/
def State.refresh (s : State) : State :=
  let act := s.combs.toList.any fun k => k.seq.st.active
  if s.dev.st = .ready ∧ act then s.setDev .running
  else if s.dev.st = .running ∧ ¬ act then s.setDev .ready
  else s

/-- The core has its supplies and its hall runs. -/
def State.coreOn (s : State) : Bool :=
  match s.dev.st with
  | .off | .wardenUp => false
  | .resetting => (match s.dev.reset with | some r => decide (r.kind.toNat < 3) | none => false)
  | _ => true

/-- The sequencer state of a comb changes. -/
def State.setSeqSt (s : State) (c : CombId) (t : SeqState) : State := (s.modSeq c fun q => { q with st := t }).refresh

/-- FAULT_N is low while a WDN_FAULT bit is set, FENCED among them, in RESETTING under causes 0x06 to 0x09, and in CORE-UP under R27
(R382). -/
def State.faultN (s : State) : Bool :=
  getF s.wdn.fault 0 9 != 0 || s.dev.st == .fenced ||
    (s.dev.st == .resetting && decide (6 ≤ getF s.wdn.rstcause 8 8) && decide (getF s.wdn.rstcause 8 8 ≤ 9)) || s.dev.faultLow

/-- A class A fault forces the chip's next vote to 0; after the vote of a round has formed, that of the next (R323, R374)
(DESIGN CHOICE, log entry 19). -/
def State.abortStep (s : State) : State :=
  let formed := match s.stp.round with
    | some r => r.chipVote.isSome
    | none => false
  { s with stp := if formed then { s.stp with abortNext := true } else { s.stp with abort := true } }

/-! ### Sequencer faults -/

/-- An instruction is issued: the counts of its queue (R142). -/
def State.busyAdd (s : State) (c : CombId) (k : Fin 4) : State :=
  s.modSeq c fun q => { q with busy := q.busy.set k (q.busy[k] + 1) }

/-- An instruction of a queue has ended. -/
def State.busySub (s : State) (c : CombId) (k : Fin 4) : State :=
  s.modSeq c fun q => { q with busy := q.busy.set k (q.busy[k] - 1) }

/-- All four queues are empty. -/
def Seq.drained (q : Seq) : Bool := q.busy.all (· == 0)

/-- SEQ_FAULT after a fault: the count always, the record only for the first (R150). -/
def Seq.noteFault (q : Seq) (code addr src : Nat) : Seq :=
  let counted := { q with
    fault := satF q.fault 48 16 1
    frame := if code = 0x0A then satF q.frame 16 16 1 else q.frame }
  if q.stall = .faulting ∨ q.st = .faulted then counted
  else
    { counted with
      fault := setF (setF (setF counted.fault 0 8 code) 8 18 addr) 40 3 src
      stall := .faulting
      wait := none }

/-- A fault of a comb (R149, R150): the first one recorded, notified, and for OVERRUN, LOCKSTEP and ISTORE put into the chronicle; each of
these three aborts the step (R373). The comb reset of R151 is set up by `State.seqRetry`. -/
def State.fault (s : State) (c : CombId) (code addr src : Nat) : State :=
  let q := (s.comb c).seq
  let grave := code = 0x0A ∨ code = 0x0B ∨ code = 0x0C
  let s1 := s.modSeq c fun q => q.noteFault code addr src
  let s2 :=
    if q.stall = .faulting ∨ q.st = .faulted then s1
    else
      let s2 := s1.notice (.fault 2 (BitVec.ofNat 8 code) addr)
      if grave then s2.record (.seqFault c (BitVec.ofNat 8 code)) else s2
  if grave then s2.abortStep else s2

/-! ### Regions -/

/-- The regions of Table 0.3 with the parity regions (R342) and the closed square banks (R267) told apart. -/
inductive Region where
  | hbm (m : McId) | parity | comb (c : CombId) | square (q : SqId) | closed | ctrl | none
deriving DecidableEq, Repr

/-- Reserve per controller of a code (Table 16.2). -/
def reserveBytes (code : Nat) : Nat :=
  match code with
  | 0 => 0x0C800000 | 1 => 0x19000000 | 2 => 0x32000000 | _ => 0x64000000

/-- MEM_CFG.RESERVE in bytes. -/
def State.reserve (s : State) : Nat := reserveBytes (getF s.mem.cfg 32 2)

/-- COL_CFG.POOL (DESIGN CHOICE, log entry 27). -/
def State.pool (s : State) : Nat := getF s.col.cfg 0 4

/-- Device address of a comb store. -/
def combBase (c : CombId) : Nat := 0x010000000000 + c.val * 0x04000000

/-- Device address of a square store. -/
def squareBase (q : SqId) : Nat := 0x010100000000 + q.val * 0x01000000

/-- The region of an address (DESIGN CHOICE, log entry 27). -/
def State.region (s : State) (a : Nat) : Region :=
  if a < 0x00F000000000 then
    (if a % 0xA00000000 < 0xA00000000 - s.reserve then .hbm ⟨a / 0xA00000000 % 24, Nat.mod_lt _ (by decide)⟩ else .parity)
  else if 0x010000000000 ≤ a ∧ a < 0x010100000000 then
    (if a % 0x04000000 < 0x03C00000 then .comb ⟨a / 0x04000000 % 64, Nat.mod_lt _ (by decide)⟩ else .none)
  else if 0x010100000000 ≤ a ∧ a < 0x010110000000 then
    (if a / 0x100000 % 16 < 15 - s.pool then .square ⟨a / 0x01000000 % 16, Nat.mod_lt _ (by decide)⟩ else .closed)
  else if 0x010200000000 ≤ a ∧ a < 0x010300000000 then .ctrl
  else .none

/-- Bytes open to programs and orders from `a` to the end of its region, 0 where `a` itself is not open. -/
def State.room (s : State) (a : Nat) : Nat :=
  match s.region a with
  | .hbm _ => 0xA00000000 - s.reserve - a % 0xA00000000
  | .comb _ => 0x03C00000 - a % 0x04000000
  | .square _ => (15 - s.pool) * 0x100000 - a % 0x01000000
  | _ => 0

/-- The whole range lies in open, populated bytes. Two regions never touch without a gap, so one region holds it
(DESIGN CHOICE, log entry 13; DESIGN CHOICE, log entry 27). -/
def State.opened (s : State) (a n : Nat) : Bool := decide (n ≤ s.room a) && decide (0 < s.room a)

/-- Does the range meet the control-register range (R7)? -/
def hitsCtrl (a n : Nat) : Bool := decide (a < 0x010300000000) && decide (0x010200000000 < a + n)

/-- Is the range inside the 64 MiB window of comb c? -/
def inWindow (c : CombId) (a n : Nat) : Bool := decide (combBase c ≤ a) && decide (a + n ≤ combBase c + 0x04000000)

/-! ### Bytes -/

/-- One byte of device memory; a byte nothing has written reads as zero (R352, R378; DESIGN CHOICE, log entry 11). -/
def State.byte (s : State) (a : Nat) : Byte := Sparse.get 0 s.mem.bytes a

/-- `n` bytes from `a`. -/
def State.bytes (s : State) (a n : Nat) : List Byte := (List.range n).map fun i => s.byte (a + i)

/-- Bytes into the sparse store (DESIGN CHOICE, log entry 11). -/
def putBytes : List (Nat × Byte) → Nat → List Byte → List (Nat × Byte)
  | m, _, [] => m
  | m, a, b :: bs => putBytes (Sparse.set 0 m a b) (a + 1) bs

/-- Poison mark of the line or sector at an address. -/
def State.poisonAt (s : State) (a : Nat) : Bool := Sparse.get false s.mem.poison (a / 64)

/-- Mark every line or sector of a range. -/
def State.poisonRange (s : State) (a n : Nat) : State :=
  s.modMem fun m => { m with poison :=
    (List.range ((a + n - 1) / 64 + 1 - a / 64)).foldl (fun p i => Sparse.set false p (a / 64 + i) true) m.poison }

/-! ### SECDED of comb and square stores (R36, R39) -/

/-- The store a region belongs to. -/
def Region.unit : Region → Option SweepUnit
  | .comb c => some (.comb c)
  | .square q => some (.square q)
  | .hbm m => some (.hbm m)
  | _ => Option.none

/-- Counts of a SECDED finding: n corrections, d double-bit errors, the last in line `line` of the store. -/
def State.eccNote (s : State) (u : SweepUnit) (n d line : Nat) : State :=
  let upd := fun (r : W64) =>
    let r1 := if n = 0 then r else setB (satF r 32 32 n) 0 true
    if d = 0 then r1 else setB (satF r1 16 16 d) 1 true
  match u with
  | .comb c =>
    let s1 := s.modComb c fun k => { k with ecc := upd k.ecc, eccAddr := if d = 0 then k.eccAddr else BitVec.ofNat 64 (line * 64) }
    (if d = 0 then s1 else (s1.record (.doubleBit u line)).notice (.fault 2 1 (combBase c + 64 * line))).corrected 2 n
  | .square q =>
    let s1 := s.modSquare q fun k => { k with ecc := upd k.ecc, eccAddr := if d = 0 then k.eccAddr else BitVec.ofNat 64 (line * 64) }
    (if d = 0 then s1 else (s1.record (.doubleBit u line)).notice (.fault 12 1 (squareBase q + 64 * line))).corrected 12 n
  | .hbm _ => s

/-- Line number within its store. -/
def storeLine (u : SweepUnit) (a : Nat) : Nat :=
  match u with
  | .comb c => (a - combBase c) / 64
  | .square q => (a - squareBase q) / 64
  | .hbm _ => 0

/-- A read of SRAM words: single-bit errors are corrected and written back, double-bit errors counted (R36)
(DESIGN CHOICE, log entry 100). -/
def State.touchSram (s : State) (u : SweepUnit) (a n : Nat) : State :=
  let hit := s.mem.upsets.filter fun kv => decide (a / 8 ≤ kv.1) && decide (kv.1 ≤ (a + n - 1) / 8)
  let ones := hit.filter fun kv => kv.2 == .single
  let twos := hit.filter fun kv => kv.2 == .double
  if hit.isEmpty then s
  else
    let s1 := s.modMem fun m => { m with upsets := ones.foldl (fun l kv => Sparse.set .clean l kv.1 .clean) m.upsets }
    s1.eccNote u ones.length twos.length (match twos.getLast? with | some kv => storeLine u (8 * kv.1) | none => 0)

/-- Does a range hold a double-bit word? -/
def State.doubled (s : State) (a n : Nat) : Bool :=
  s.mem.upsets.any fun kv => decide (a / 8 ≤ kv.1) && decide (kv.1 ≤ (a + n - 1) / 8) && kv.2 == .double

/-! ### Stored HBM: sectors, their CRC, and the merge slots (R338, R347)

`Mem.bytes` and `Mem.poison` are what a read sees: the slot's copy of a sector valid in a slot, the stack's copy of any other. The slot keeps
the stack's own copy of its valid sectors in `old`. `Mem.crc` is, sector by sector of the stack, the stored CRC against the one that its
stored data and its address give: 0 where the sector passes. -/

/-- Controller of a page number (page = address div 4,096). -/
def pageMc (page : Nat) : McId := ⟨page / 0xA00000 % 24, Nat.mod_lt _ (by decide)⟩

/-- CRC-32C of a sector's data and its address (R338). -/
def sectorCrc (sector : Nat) (bs : List Byte) : BitVec 32 := BitVec.ofNat 32 (crc32c (bs ++ leBytes 6 (64 * sector)))

/-- The merge slot open on a page, and the stack's copies of its valid sectors. -/
def State.pageSlot (s : State) (page : Nat) : Option MergeSlot := (s.mcs[pageMc page]).slots.find? (·.page == page)
def State.slotOld (s : State) (page : Nat) : List (Nat × List Byte × Bool) := ((s.pageSlot page).map (·.old)).getD []

/-- Is the sector valid in an open slot? -/
def State.inSlot (s : State) (sector : Nat) : Bool := (s.slotOld (sector / 64)).any (·.1 == sector % 64)

/-- A byte of the parity regions (R342). -/
def State.parByte (s : State) (a : Nat) : Byte := Sparse.get 0 s.mem.parity a

/-- The stack's copy of a data sector: its bytes and its poison bit. -/
def State.stackCopy (s : State) (sector : Nat) : List Byte × Bool :=
  match (s.slotOld (sector / 64)).find? (·.1 == sector % 64) with
  | some o => o.2
  | none => (s.bytes (64 * sector) 64, s.poisonAt (64 * sector))

/-- The stack's copy of a data sector changes. -/
def State.setStack (s : State) (sector : Nat) (f : List Byte × Bool → List Byte × Bool) : State :=
  let new := f (s.stackCopy sector)
  if s.inSlot sector then
    s.modMc (pageMc (sector / 64)) fun c => { c with
      slots := c.slots.map fun sl => if sl.page = sector / 64 then
        { sl with old := sl.old.map fun o => if o.1 = sector % 64 then (o.1, new) else o } else sl }
  else s.modMem fun m => { m with bytes := putBytes m.bytes (64 * sector) new.1, poison := Sparse.set false m.poison sector new.2 }

/-- The stored CRC of a sector against what it holds. -/
def State.setCrc (s : State) (sector : Nat) (d : BitVec 32) : State := s.modMem fun m => { m with crc := Sparse.set 0 m.crc sector d }

/-- Failing sectors of a page, by their number in it (R339). -/
def State.badSectors (s : State) (page : Nat) : List Nat := (s.mem.crc.filter fun kv => kv.1 / 64 == page).map (·.1 % 64)

/-! ### The page code (R340 to R345) -/

/-- The strength code that serves a page, with the recode cursor of R346. -/
def State.pageCode (s : State) (page : Nat) : Nat :=
  let m := s.mcs[pageMc page]
  let n := page % 0xA00000
  let z := min 7 (n / 0x140000)
  if getF m.recode 63 1 = 1 ∧ getF m.recode 48 3 = z then
    (if n - z * 0x140000 < getF m.recode 0 21 then getF m.recode 40 2 else getF m.recode 44 2)
  else getF m.strength (2 * z) 2

/-- Parity symbols of a codeword, and parity bytes of a page, of a code (Table 16.2). -/
def codeSyms (code : Nat) : Nat := 4 * 2 ^ code
def parityBytes (code : Nat) : Nat := 20 * 2 ^ code

/-- Data pages of a controller (R342). -/
def State.dataPages (s : State) : Nat := (0xA00000000 - s.reserve) / 4096

/-- Address of a page's parity slot (R342). -/
def State.paritySlot (s : State) (page : Nat) : Nat :=
  page / 0xA00000 * 0xA00000000 + 0xA00000000 - s.reserve + page % 0xA00000 * parityBytes (getF s.mem.cfg 32 2)

/-- A page as one number, bit for bit; `old` gives the sectors that are read from elsewhere. -/
def State.pageNat (s : State) (page : Nat) (old : List (Nat × List Byte × Bool)) : Nat :=
  (s.mem.bytes.filter fun kv => kv.1 / 4096 == page && !old.any fun o => o.1 == kv.1 / 64 % 64).foldl
    (fun t kv => t + kv.2.toNat * 256 ^ (kv.1 % 4096)) (old.foldl (fun t o => t + leNat o.2.1 * 2 ^ (512 * o.1)) 0)

/-- The page as the stack holds it. -/
def State.stackNat (s : State) (page : Nat) : Nat := s.pageNat page (s.slotOld page)

/-- Sector k of a page number. -/
def sectorNat (n k : Nat) : Nat := n / 2 ^ (512 * k) % 2 ^ 512

/-- Data symbols of codeword w (R340). -/
def cwData (n w : Nat) : List Nat := (List.range (if w = 0 then 820 else 819)).map fun j => n / 1024 ^ (4 * j + w) % 1024

/-- A page's parity, packed as in its slot. -/
def parityOf (code n : Nat) : Nat :=
  rsPack (((List.range 4).flatMap fun w => rsParity (codeSyms code) (cwData n w)).reverse)

/-- The parity that the slot of a page holds. -/
def State.storedParity (s : State) (page : Nat) : Nat :=
  leNat ((List.range (parityBytes (s.pageCode page))).map fun i => s.parByte (s.paritySlot page + i))

/-- Sectors that the used part of a page's parity slot meets. -/
def State.paritySectors (s : State) (page : Nat) : List Nat :=
  let a := s.paritySlot page
  (List.range ((a + parityBytes (s.pageCode page) - 1) / 64 + 1 - a / 64)).map (a / 64 + ·)

/-- Symbols that sector `k` of a page covers. -/
def sectorSyms (k : Nat) : List Nat := (List.range ((512 * k + 511) / 10 + 1 - 512 * k / 10)).map (512 * k / 10 + ·)

/-- Decode the four codewords of a page with the erased sectors `eras`: the page, none where one fails (R343). -/
def State.decodePage (s : State) (page : Nat) (eras : List Nat) : Option Nat :=
  let p := codeSyms (s.pageCode page)
  let n := s.stackNat page
  let par := s.storedParity page
  let syms := (eras.flatMap sectorSyms).eraseDups
  let word := fun w => cwData n w ++ (List.range p).map fun j => par / 1024 ^ (w * p + j) % 1024
  let got := (List.range 4).map fun w => (rsDecode p (word w) ((syms.filter (· % 4 == w)).map (· / 4))).map fun x => x.zipIdx.foldl
    (fun t y => if y.2 < (if w = 0 then 820 else 819) then t + y.1 * 1024 ^ (4 * y.2 + w) else t) 0
  if got.all Option.isSome then some ((got.map (·.getD 0)).foldl (· + ·) 0 % 2 ^ 32768) else none

/-- Does every sector of a decoded page pass its stored CRC? -/
def State.pagePasses (s : State) (page n : Nat) : Bool :=
  let old := s.stackNat page
  (List.range 64).all fun k =>
    let sector := 64 * page + k
    let crc := fun (x : Nat) => sectorCrc sector (leBytes 64 x)
    let d := Sparse.get 0 s.mem.crc sector
    if sectorNat old k = sectorNat n k then d == 0 else d ^^^ crc (sectorNat old k) ^^^ crc (sectorNat n k) == 0

/-- The correction that R343 accepts: errors only, else with the failing sectors as erasures. -/
def State.mended (s : State) (page : Nat) : Option Nat :=
  let ok := fun (x : Option Nat) => x.filter (s.pagePasses page)
  match ok (s.decodePage page []) with
  | some n => some n
  | none => ok (s.decodePage page (s.badSectors page))

/-- The parity of a page is written: the parity bytes, each sector with a fresh CRC. -/
def State.putParity (s : State) (page code n : Nat) : State :=
  let a := s.paritySlot page
  (s.modMem fun m => { m with
    parity := (List.range (parityBytes code)).foldl (fun l i => Sparse.set 0 l (a + i) (BitVec.ofNat 8 (parityOf code n / 256 ^ i))) m.parity })

/-- Parity rewritten from data that is taken as correct (R345). -/
def State.rewriteParity (s : State) (page : Nat) : State :=
  (s.putParity page (s.pageCode page) (s.stackNat page)).modMc (pageMc page) fun c => { c with err := satF c.err 4 8 1 }

/-- R344: failing sectors are written back as stored, with a fresh CRC and the poison bit set, and the page is counted, recorded and
notified; WDN_FAULT.MEMUNC shows it (Table 18.10). -/
def State.uncorrectable (s : State) (page : Nat) : State :=
  let m := pageMc page
  let bad := s.badSectors page
  let first := match bad with | k :: _ => 64 * (64 * page + k) | [] => 0
  let s1 := bad.foldl (fun (t : State) k => (t.setStack (64 * page + k) fun x => (x.1, true)).setCrc (64 * page + k) 0) s
  let s2 := s1.modMc m fun c => { c with
    err := setB (setB (satF (satF c.err 40 24 bad.length) 12 12 1) 2 true) 0 true, errAddr := BitVec.ofNat 64 first }
  let s3 := { s2 with wdn := { s2.wdn with fault := setB s2.wdn.fault 7 true } }
  (s3.record (.uncorrectable m)).notice (.fault 4 1 first)

/-- Pages whose used parity meets a parity sector. -/
def State.servedBy (s : State) (sector : Nat) : List Nat :=
  let base := 64 * sector / 0xA00000000 * 0xA00000
  let start := s.paritySlot base
  let r := parityBytes (getF s.mem.cfg 32 2)
  ((List.range (64 / r + 2)).map fun i => base + ((64 * sector - start) / r + i)).filter fun p =>
    decide (p % 0xA00000 < s.dataPages) && (s.paritySectors p).contains sector

/-! ### Retraining (10 R225, R350) -/

/-- The pseudo-channel of a page is being retrained: its accesses wait (R225, R337). -/
def State.retraining (s : State) (page : Nat) : Bool :=
  let m : Mc := s.mcs[pageMc page]
  m.rt && decide (page % 0xA00000 % 32 = m.rtpc.toNat)

/-- The even controller of a stack (R336): it keeps the stack's turn. -/
def stackHead (m : McId) : McId := ⟨m.val / 2 * 2 % 24, Nat.mod_lt _ (by decide)⟩

/-- A retraining ends: with new settings, its temperature kept and the turn passing on where it was the one in turn, or on the old ones, and then the next attempt starts no sooner than 1 ms later (R225). -/
def State.endRetrain (s : State) (m : McId) (finished : Bool) : State :=
  let i := (if m = stackHead m then 0 else 32) + (s.mcs[m] : Mc).rtpc.toNat
  let s1 := s.modMc m fun c => { c with rt := false, retrains := if finished then c.retrains + 1 else c.retrains }
  s1.modMc (stackHead m) fun c =>
    if finished then
      { c with turn := if c.turn.toNat = i then c.turn + 1 else c.turn, rtTemps := c.rtTemps.filter (·.1 != i) ++ [(i, c.temp)] }
    else { c with rtFloor := s.chm.local_ + 3600000 }

/-- A foreground access waits for its pseudo-channel: the retraining ends first, how is free (DESIGN CHOICE, log entry 86). -/
def State.waitRetrain (s : State) (page : Nat) : State :=
  if s.retraining page then
    let (w, s1) := s.draw
    s1.endRetrain (pageMc page) (w.getLsbD 0)
  else s

/-- Pages of the parity region that the used part of a page's parity slot meets. -/
def State.parityPages (s : State) (page : Nat) : List Nat := ((s.paritySectors page).map (· / 64)).eraseDups

/-- A page, or its parity slot, lies in a pseudo-channel that is being retrained: what needs both waits (R225). -/
def State.pageWaits (s : State) (page : Nat) : Bool := s.retraining page || (s.parityPages page).any s.retraining

/-- An access that has begun waits for the pseudo-channel of the parity slot too (DESIGN CHOICE, log entry 86). -/
def State.waitParity (s : State) (page : Nat) : State :=
  if s.mcs.toList.all (fun c => !c.rt) then s else (s.parityPages page).foldl State.waitRetrain s

/-! ### Checks of a page -/

/-- A parity sector whose CRC fails (R345), which counts as any sector does (Table 16.7): the pages it serves get their parity from their data, a page with a failing data sector is
uncorrectable. -/
def State.lostParity (s : State) (sector : Nat) : State :=
  let s1 := s.modMc (pageMc (sector / 64)) fun c => { c with err := setB (satF c.err 40 24 1) 0 true }
  ((s.servedBy sector).foldl (fun (t : State) p =>
    let u := t.waitRetrain p
    if (u.badSectors p).isEmpty then u.rewriteParity p else u.uncorrectable p) s1).setCrc sector 0

/-- The failing parity sectors of a page are dealt with. -/
def State.mendParity (s : State) (page : Nat) : State :=
  ((s.paritySectors page).filter fun x => Sparse.get 0 s.mem.crc x != 0).foldl State.lostParity s

/-- A page with a failing sector is corrected (R343), or given up (R344). -/
def State.mendPage (s : State) (page : Nat) : State :=
  let bad := s.badSectors page
  match s.mended page with
  | none => s.uncorrectable page
  | some n =>
    let old := s.stackNat page
    let s1 := ((List.range 64).filter fun k => bad.contains k || sectorNat old k != sectorNat n k).foldl (fun (t : State) k =>
      (t.setStack (64 * page + k) fun x => (leBytes 64 (sectorNat n k), x.2)).setCrc (64 * page + k) 0) s
    (s1.modMc (pageMc page) fun c => { c with
      err := setB (setB (satF (satF c.err 40 24 bad.length) 24 16 1) 1 true) 0 true }).corrected 4 bad.length

/-- A check of a page's stack contents with its parity slot (R343 to R345, R349), which may lie in another pseudo-channel (R337, R342). -/
def State.checkPage (s : State) (page : Nat) : State :=
  let s1 := (s.waitParity page).mendParity page
  if (s1.badSectors page).isEmpty then
    (if s1.storedParity page = parityOf (s1.pageCode page) (s1.stackNat page) then s1 else s1.rewriteParity page)
  else s1.mendPage page

/-- A read of HBM sectors: each page with a failing sector among those read from the stack is corrected first (R339, R347). -/
def State.touchHbm (s : State) (a n : Nat) : State :=
  let pages := (List.range ((a + n - 1) / 4096 + 1 - a / 4096)).map (a / 4096 + ·)
  let s0 := if s.mcs.toList.all (fun c => !c.rt) then s else pages.foldl State.waitRetrain s
  let bad := ((s0.mem.crc.filter fun kv => decide (a / 64 ≤ kv.1) && decide (kv.1 ≤ (a + n - 1) / 64) && !s0.inSlot kv.1).map (·.1 / 64)).eraseDups
  bad.foldl State.checkPage s0

/-! ### Merge slots (R347, R348) -/

/-- Closing a slot: missing sectors that fail are corrected first, the valid ones go to the stack, and the page's parity is written; `cut`
tells that a loss of supply came before the parity (R352). -/
def State.closeSlot (s : State) (m : McId) (page : Nat) (cut : Bool := false) : State :=
  let s0 := s.waitRetrain page
  let held := (s0.slotOld page).map (·.1)
  let s1 := if (s0.badSectors page).all held.contains then s0 else s0.checkPage page
  let s2 := s1.modMc m fun c => { c with slots := c.slots.filter (·.page != page) }
  let s3 := held.foldl (fun (t : State) k => t.setCrc (64 * page + k) 0) s2
  if cut then s3
  else
    let s4 := (s3.waitParity page).mendParity page
    s4.putParity page (s4.pageCode page) (s4.stackNat page)

/-- A write opens the slot of its page: the least recently written slot closes when 32 are open, and the stack's copies of the sectors that
become valid are kept. -/
def State.slotOpen (s : State) (page : Nat) (valid : BitVec 64) : State :=
  let m := pageMc page
  let c : Mc := s.mcs[m]
  let s1 := match c.slots.find? (·.page == page) with
    | some _ => s
    | none =>
      if c.slots.length < 32 then s
      else match c.slots.foldl (fun (b : Option MergeSlot) (x : MergeSlot) => match b with
          | some y => if x.stamp < y.stamp then some x else b
          | none => some x) none with
        | some v => s.closeSlot m v.page
        | none => s
  let sl := (s1.pageSlot page).getD ⟨page, 0, 0, []⟩
  let new := (List.range 64).filter fun k => valid.getLsbD k && !sl.valid.getLsbD k
  s1.modMc m fun (c : Mc) => { c with
    stamp := c.stamp + 1
    slots := c.slots.filter (·.page != page) ++
      [⟨page, sl.valid ||| valid, c.stamp, sl.old ++ new.map fun k => (k, s1.stackCopy (64 * page + k))⟩] }

/-- A slot with all sectors valid closes. -/
def State.slotDone (s : State) (page : Nat) : State :=
  match s.pageSlot page with
  | some sl => if sl.valid = BitVec.allOnes 64 then s.closeSlot (pageMc page) page else s
  | none => s

/-- The mask of the sectors that `n` bytes at `a`, inside one page, meet. -/
def sectorMask (a n : Nat) : BitVec 64 :=
  let first := a / 64 % 64
  BitVec.ofNat 64 ((2 ^ ((a + n - 1) / 64 % 64 + 1 - first) - 1) * 2 ^ first)

/-- A write cut at page boundaries; `fuel` bounds the pieces. -/
def pagePieces : Nat → Nat → List Byte → List (Nat × List Byte)
  | 0, a, bs => [(a, bs)]
  | f + 1, a, bs =>
    let k := 4096 - a % 4096
    if bs.length ≤ k then [(a, bs)] else (a, bs.take k) :: pagePieces f (a + k) (bs.drop k)

/-! ### Reads and writes -/

/-- The effects of reading a range on the store's protection (DESIGN CHOICE, log entry 10). -/
def State.touch (s : State) (a n : Nat) : State :=
  if n = 0 then s
  else match s.region a with
    | .hbm _ => s.touchHbm a n
    | .comb c => s.touchSram (.comb c) a n
    | .square q => s.touchSram (.square q) a n
    | _ => s

/-- Is data read from a range poisoned, by a mark or a double-bit word (R36, R344)? -/
def State.poisoned (s : State) (a n : Nat) : Bool :=
  n != 0 && (s.doubled a n ||
    s.mem.poison.any fun kv => decide (a / 64 ≤ kv.1) && decide (kv.1 ≤ (a + n - 1) / 64) && kv.2)

/-- Protection effects of a write on SRAM words (R36): whole words get fresh check bits, a word covered in part is read and
merged, whole lines lose their poison bit. -/
def State.freshSram (s : State) (u : SweepUnit) (a n : Nat) : State :=
  let edge := fun (w : Nat) => decide (8 * w < a) || decide (a + n < 8 * w + 8)
  let hit := s.mem.upsets.filter fun kv => decide (a / 8 ≤ kv.1) && decide (kv.1 ≤ (a + n - 1) / 8)
  let ones := hit.filter fun kv => edge kv.1 && kv.2 == .single
  let twos := hit.filter fun kv => edge kv.1 && kv.2 == .double
  let s1 := s.modMem fun m => { m with
    upsets := hit.foldl (fun l kv => Sparse.set .clean l kv.1 .clean) m.upsets
    poison := twos.foldl (fun p kv => Sparse.set false p (kv.1 / 8) true)
      (m.poison.filter fun kv => !(decide (a ≤ 64 * kv.1) && decide (64 * kv.1 + 64 ≤ a + n))) }
  if ones.isEmpty && twos.isEmpty then s1
  else s1.eccNote u ones.length twos.length (match twos.getLast? with | some kv => storeLine u (8 * kv.1) | none => 0)

/-- Protection effects of a write inside one HBM page (R338, R347): sectors covered in part are read first, the write enters the merge slot
of its page, and whole sectors lose their poison bit. -/
def State.freshHbm (s : State) (a n : Nat) : State :=
  let s1 := if a % 64 = 0 then s else s.touchHbm a 1
  let s2 := if (a + n) % 64 = 0 then s1 else s1.touchHbm (a + n - 1) 1
  ((s2.waitRetrain (a / 4096)).slotOpen (a / 4096) (sectorMask a n)).modMem fun m => { m with
    poison := m.poison.filter fun kv => !(decide (a ≤ 64 * kv.1) && decide (64 * kv.1 + 64 ≤ a + n)) }

/-- Bytes put at an address, the lines they meet marked where the source was poisoned (R36). -/
def State.putMarked (s : State) (a : Nat) (bs : List Byte) (poison : Bool) : State :=
  let t := s.modMem fun m => { m with bytes := putBytes m.bytes a bs }
  if poison then t.poisonRange a bs.length else t

/-- A write inside one HBM page; a slot that it makes whole closes (R347, R348). -/
def State.storePage (s : State) (a : Nat) (bs : List Byte) (poison : Bool) : State :=
  ((s.freshHbm a bs.length).putMarked a bs poison).slotDone (a / 4096)

/-- A write of bytes at an open address, with its protection effects; a poisoned source marks the lines written (R36). -/
def State.store (s : State) (a : Nat) (bs : List Byte) (poison : Bool) : State :=
  if bs.isEmpty then s
  else
    match s.region a with
    | .hbm _ => (pagePieces (bs.length / 4096 + 1) a bs).foldl (fun (t : State) x => t.storePage x.1 x.2 poison) s
    | .comb c => (s.freshSram (.comb c) a bs.length).putMarked a bs poison
    | .square q => (s.freshSram (.square q) a bs.length).putMarked a bs poison
    | _ => s.putMarked a bs poison

/-- A stored 64-bit word. -/
def State.word64 (s : State) (a : Nat) : W64 := BitVec.ofNat 64 (leNat (s.bytes a 8))

/-- A range of bytes back to what an unlisted byte reads as, with fresh protection: a store that a reset zeroes (R378). -/
def Mem.zeroRange (m : Mem) (a n : Nat) : Mem :=
  let out := fun (lo k : Nat) => !(decide (a ≤ lo) && decide (lo + k ≤ a + n))
  { m with
    bytes := m.bytes.filter fun kv => out kv.1 1
    poison := m.poison.filter fun kv => out (64 * kv.1) 64
    upsets := m.upsets.filter fun kv => out (8 * kv.1) 8 }

end Sys2Proof.Machine
end

