-- ==== Sys2Proof/Machine/Issue.lean ====
section
/-!
DEFINITION. Issue of sequencer words (07 R131 to R156, 09 R185 to R187): what every word checks before it acts, the program
counter with the loop stack, branches, stalls and their release.
-/
namespace Sys2Proof.Machine

/-- The sequencer issues its next word: RUNNING, nothing stalls it. -/
def Seq.issuing (q : Seq) : Bool := q.st == .running && q.stall == .none && q.wait.isNone

/-- A predicate register; p0 reads as 1 (Table 7.1). -/
def Seq.pred (q : Seq) (i : Fin 8) : Bool := i == 0 || q.p.getLsbD i

/-- The second operand b (R185). -/
def Seq.b (q : Seq) (f : SForm) : W64 := if f.i then f.sext else q.s[f.sb]

/-- Next word index and loop stack after the word at index `w` issued without a taken branch; innermost entry first (R187). -/
def loopStep (w : Nat) : List LoopEntry → Nat × List LoopEntry
  | [] => (w + 1, [])
  | e :: es =>
    if e.last = w then (if e.left = 0 then loopStep w es else (e.start, { e with left := e.left - 1 } :: es))
    else (w + 1, e :: es)

/-- The loop stack after a taken br or jmp to word index `t`: an active body that does not hold the target is popped with
every entry inside it (R187) (DEDUCED, log entry 34). -/
def loopLeave (t : Nat) : List LoopEntry → List LoopEntry
  | [] => []
  | e :: es =>
    let out := loopLeave t es
    if out.length < es.length then out
    else if t < e.start ∨ e.last < t then es
    else e :: es

/-- The word at the program counter has issued: the next one is due. -/
def Seq.advance (q : Seq) : Seq :=
  let r := loopStep (q.pc.toNat / 8) q.loops
  { q with pc := BitVec.ofNat 18 (8 * r.1), loops := r.2, fetched := none }

/-- A taken br or jmp. -/
def Seq.branch (q : Seq) (t : Nat) : Seq :=
  { q with pc := BitVec.ofNat 18 t, loops := loopLeave (t / 8) q.loops, fetched := none }

/-- Issue stalls on the word at the program counter, or after it. -/
def Seq.stalled (q : Seq) (k : Stall) (t : SeqState) : Seq := { q with stall := k, st := t }

/-- A stall ends: RUNNING again. -/
def Seq.resumed (q : Seq) : Seq := { q with stall := .none, st := .running }

/-- An issue fault of the word at the program counter; the sequencer found it (R149, R150). -/
def State.issueFault (s : State) (c : CombId) (code : Nat) : State := s.fault c code (s.comb c).seq.pc.toNat 0

/-- The lowest fault code whose condition holds (R149). -/
def firstFault : List (Nat × Bool) → Option Nat
  | [] => none
  | (k, b) :: r => if b then some k else firstFault r

/-- Scalar registers that a sequencer word reads or writes (Tables 9.3, 9.5, R187 to R192). -/
def sRegs (op : SOp) (f : SForm) : List (Fin 32) :=
  let b := if f.i then [] else [f.sb]
  let a := if f.i then [] else [f.sa]
  match op with
  | .li => [f.sd]
  | .add | .sub | .mul | .and | .or | .xor | .shl | .shr => [f.sd, f.sa] ++ b
  | .cmp => f.sa :: b
  | .jmp | .dld | .dst | .tally => [f.sa]
  | .call => [f.sa, 31]
  | .ret => [31]
  | .loop | .wait | .dset => a
  | .csrr => f.sd :: a
  | .csrw => f.sb :: a
  | .chimew => a ++ (if f.xBit 27 then [f.sd] else [])
  | .commitPrep => [f.sd, f.sa]
  | .br | .fence | .halt | .frame => []

/-- The scoreboard holds a word that names the register which the commit decision will write (R143, R192)
(DEDUCED, log entry 39). -/
def Seq.held (q : Seq) (rs : List (Fin 32)) : Bool :=
  match q.vote with
  | some v => rs.contains v.1
  | none => false

/-- A sequencer word reaches issue: nothing happens while the comb does not issue; ILLEGAL is checked first; a predicate of
0 leaves only the program counter's step (R135); the scoreboard may hold the word (R143) (DESIGN CHOICE, log entry 2). -/
def State.issueS (s : State) (c : CombId) (op : SOp) (f : SForm) (act : State) : State :=
  let q := (s.comb c).seq
  if q.issuing then
    (if f.illegal op then s.issueFault c 1
     else if q.pred f.pred then (if q.held (sRegs op f) then s else act)
     else s.modSeq c Seq.advance)
  else s

/-- A scalar operation s[SD] := g(s[SA], b) (Table 9.3). -/
def State.scalar (s : State) (c : CombId) (op : SOp) (f : SForm) (g : W64 → W64 → W64) : State :=
  s.issueS c op f (s.modSeq c fun q => { q with s := q.s.set f.sd (g q.s[f.sa] (q.b f)) }.advance)

/-- Result of an arithmetic or logical shift right (Table 9.3). -/
def shiftRight (arith : Bool) (a : W64) (n : Nat) : W64 := if arith then a.sshiftRight n else a >>> n

/-- Conditions of cmp (Table 9.4). -/
def condHolds (cond : Nat) (a b : W64) : Bool :=
  match cond with
  | 0 => a == b
  | 1 => a.slt b
  | 2 => a.ult b
  | _ => (a &&& b) != 0

/-- A jump target that faults: not a multiple of 8, or past the instruction store (R186). -/
def badTarget (t : Nat) : Bool := t % 8 != 0 || decide (262144 ≤ t)

/-- Has the counter reached its target (R137)? -/
def reached (cnt target : W32) : Bool := decide ((cnt - target).toNat < 2 ^ 31)

/-- Targets of wait and chimew: (I ? IMM : s[SA] + IMM) mod 2^32, IMM read signed or not as the instruction says. -/
def Seq.target (q : Seq) (f : SForm) : W32 := if f.i then f.imm else (q.s[f.sa]).setWidth 32 + f.imm

/-- Every queue of the set is empty: bit 0 matrix, 1 vector, 2 courier, 3 fabric (R142). -/
def Seq.idle (q : Seq) (set : BitVec 4) : Bool :=
  (!set.getLsbD 0 || q.busy[0] == 0) && (!set.getLsbD 1 || q.busy[1] == 0) && (!set.getLsbD 2 || q.busy[2] == 0) &&
    (!set.getLsbD 3 || q.busy[3] == 0)

/-- The queue set that fence names; 0 means all four. -/
def fenceSet (f : SForm) : BitVec 4 := if f.x.toNat % 16 = 0 then 15 else BitVec.ofNat 4 f.x.toNat

end Sys2Proof.Machine
end

