-- ==== Sys2Proof/Machine/Tensor.lean ====
section
/-!
DEFINITION. Tensors in memory: reading elements and scales (03 R47 to R49), conversion of elements and blocks onto a
destination with its ceiling and census (06 R116 to R130), the byte runs of a destination, and the start and end of a tensor
instruction in its unit (07 R149).
-/
namespace Sys2Proof.Machine

/-! ### Reading -/

/-- `n` bits at bit address `bit`. -/
def State.bits (s : State) (bit n : Nat) : Nat :=
  leNat (s.bytes (bit / 8) ((bit % 8 + n + 7) / 8)) / 2 ^ (bit % 8) % 2 ^ n

/-- The stored code of an element. -/
def State.code (s : State) (d : Desc) (p : Pos) : Nat := s.bits (d.elemBit p) d.fmt.bits

/-- The scale code of an element's block, none for BLK = 0. -/
def State.scaleAt (s : State) (d : Desc) (p : Pos) : Option Nat :=
  if d.blk = 0 then none else some (s.byte (d.scale + d.scaleIndex p)).toNat

/-- The value of an element (R41 to R47, R51). -/
def State.val (s : State) (d : Desc) (p : Pos) : Val := d.fmt.decode (s.scaleAt d p) d.wexp (s.code d p)

/-- The byte run of an element. -/
def Desc.elemRun (d : Desc) (p : Pos) : Nat × Nat := (d.elemBit p / 8, (d.elemBit p % 8 + d.fmt.bits + 7) / 8)

/-- Join runs that touch or overlap the run before them (DESIGN CHOICE, log entry 14). -/
def joinRuns : List (Nat × Nat) → List (Nat × Nat)
  | [] => []
  | r :: rs =>
    match joinRuns rs with
    | [] => [r]
    | t :: ts => if r.1 ≤ t.1 ∧ t.1 ≤ r.1 + r.2 then (r.1, max (r.1 + r.2) (t.1 + t.2) - r.1) :: ts else r :: t :: ts

/-- The byte runs that a set of positions reads, elements first and then their scale bytes (DESIGN CHOICE, log entry 14). -/
def Desc.runs (d : Desc) (ps : List Pos) : List (Nat × Nat) :=
  joinRuns (ps.map d.elemRun) ++
    (if d.blk = 0 then [] else joinRuns ((ps.map d.scaleIndex).eraseDups.map fun i => (d.scale + i, 1)))

/-- Every run lies in open bytes (DESIGN CHOICE, log entry 28). -/
def State.openRuns (s : State) (rs : List (Nat × Nat)) : Bool := rs.all fun r => s.opened r.1 r.2

/-- The effects of reading runs. -/
def State.touchRuns (s : State) (rs : List (Nat × Nat)) : State := rs.foldl (fun t r => t.touch r.1 r.2) s

/-- Is an element read poisoned, itself or through its scale byte? (DESIGN CHOICE, log entry 19). -/
def State.poisonedPos (s : State) (d : Desc) (p : Pos) : Bool :=
  s.poisoned (d.elemRun p).1 (d.elemRun p).2 || (d.blk != 0 && s.poisoned (d.scale + d.scaleIndex p) 1)

/-- The tensor and its scale array lie in the window of comb c (R71, R144, R167); an empty tensor lies nowhere
(DESIGN CHOICE, log entry 28). -/
def Desc.inComb (d : Desc) (c : CombId) : Bool :=
  d.empty || (inWindow c d.base (d.span.2 + 1 - d.base) && (d.blk == 0 || inWindow c d.scale d.scaleBytes))

/-! ### Converting -/

/-- An element on its way to a destination: its position there, the exact value, the SR index, a poison mark and an overflow
mark that R95 brings from the slot. -/
structure Elem where
  pos    : Pos
  v      : Val
  gi     : Nat := 0
  poison : Bool := false
  ovf    : Bool := false
deriving DecidableEq, Repr

/-- An element written: its code, the value it decodes to, the census tallies it moves and its exponent. -/
structure Done where
  pos    : Pos
  code   : Nat
  poison : Bool
  tally  : List Nat
  exp    : Option Int
  ovfl   : Bool
deriving DecidableEq, Repr

/-- Is a code a nonzero subnormal of its format (Table 6.4 SUBN)? -/
def Fmt.subnormal (f : Fmt) (code : Nat) : Bool :=
  match f.params with
  | some (w, m, _) => code / 2 ^ m % 2 ^ w == 0 && code % 2 ^ m != 0
  | none => false

/-- The tallies that a written element moves, Table 6.4: 0 TOTAL, 1 OVF_SAT, 2 VANISH, 3 VANISH_BLK, 4 SUBN, 5 NAN, 6 INF. -/
def tallies (f : Fmt) (scale : Option Nat) (v w : Val) (code : Nat) (ovf : Bool) : List Nat :=
  let vanished := match v, w with
    | .fin .., .zero _ => true
    | _, _ => false
  let blk := match scale with
    | some c => c != 0
    | none => false
  [0] ++ (if ovf then [1] else []) ++ (if vanished && !blk then [2] else []) ++ (if vanished && blk then [3] else []) ++
    (if f.subnormal code then [4] else []) ++
    (if w == .nan || (v == .nan && f == .int8 && scale.isNone) then [5] else []) ++
    (match w with | .inf _ => [6] | _ => [])

/-- Mode of an element: under SR its random word comes from the generator (R120). -/
def modeFor (rm : BitVec 3) (seed : W64) (tid : W32) (gi : Nat) : Mode := Mode.ofCode rm (philoxWord seed tid.toNat gi)

/-- Convert one element at a scale code (R119, R44); SR starts from the extract form (R120) (DEDUCED, log entry 113). -/
def convertElem (d : Desc) (rm : BitVec 3) (seed : W64) (scale : Option Nat) (x : Elem) : Done :=
  let md := modeFor rm seed d.tid x.gi
  let v := match md with | .sr _ => x.v.extractForm | _ => x.v
  let c := match d.fmt with
    | .lf64 => convertLf64 d.wexp md v
    | f => f.convert d.sat scale.isSome md (match scale with | some k => v.shift (127 - (k : Int)) | none => v)
  let w := d.fmt.decode scale d.wexp c.code
  ⟨x.pos, c.code, false, tallies d.fmt scale x.v w c.code (c.ovf || x.ovf), w.exp, c.ovf⟩

/-- Convert the elements of one block (R121, R126); unscaled elements are blocks of their own. Answers the scale code. -/
def convertBlock (d : Desc) (rm : BitVec 3) (seed : W64) (xs : List Elem) : Option Nat × List Done :=
  if d.blk = 0 then
    (none, xs.map fun x =>
      let y := convertElem d rm seed none x
      if x.poison then ⟨x.pos, y.code, true, [], none, y.ovfl⟩ else y)
  else if xs.any (·.poison) then (some 255, xs.map fun x => ⟨x.pos, 0, true, [], none, false⟩)
  else
    let c := scaleCode d.fmt (xs.map (·.v))
    if c = 255 then (some 255, xs.map fun x => ⟨x.pos, 0, false, [0, 5], none, false⟩)
    else (some c, xs.map (convertElem d rm seed (some c)))

/-- Convert a list of elements block by block: the elements in their given order and the scale bytes by index. -/
def convertAll (d : Desc) (rm : BitVec 3) (seed : W64) (xs : List Elem) : List Done × List (Nat × Nat) :=
  if d.blk = 0 then ((convertBlock d rm seed xs).2, [])
  else
    let ids := (xs.map fun x => d.scaleIndex x.pos).eraseDups
    let bs := ids.map fun i => (i, convertBlock d rm seed (xs.filter fun x => d.scaleIndex x.pos == i))
    let dones := bs.flatMap fun b => b.2.2
    (xs.filterMap fun x => dones.find? (·.pos == x.pos), bs.map fun b => (b.1, b.2.1.getD 0))

/-- The largest element exponent written (R127). -/
def maxExp (ds : List Done) : Option Int := (ds.filterMap (·.exp)).foldl (fun m e => some (match m with | some x => max x e | none => e)) none

/-! ### The census (R128 to R130) -/

/-- Key of a histogram bin or a tally of a set in `Ext.census`. -/
def binKey (k : Fin 4) (b : Nat) : Nat := 256 * k.val + b
def tallyKey (k : Fin 4) (f : Fmt) (j : Nat) : Nat := 1024 + 88 * k.val + 8 * f.code + j

/-- HBk of EXT_CTRL. -/
def Ext.histBase (x : Ext) (k : Fin 4) : Int := signed 12 (getF x.ctrl (12 * k.val) 12)

/-- Histogram bin of an exponent (R129). -/
def binOf (hb e : Int) : Nat := (min 63 (max 0 (e - hb))).toNat

/-- Count one written element in set k. -/
def Ext.count (x : Ext) (k : Fin 4) (f : Fmt) (dn : Done) : Ext :=
  let up := fun (l : List (Nat × W32)) (i : Nat) => Sparse.set 0 l i (sat32 (Sparse.get 0 l i) 1)
  let c1 := dn.tally.foldl (fun l j => up l (tallyKey k f j)) x.census
  { x with census := match dn.exp with
      | some e => if dn.poison then c1 else up c1 (binKey k (binOf (x.histBase k) e))
      | none => c1 }

/-- Count a conversion's elements, except poisoned ones (R128). -/
def Ext.countAll (x : Ext) (k : Fin 4) (f : Fmt) (ds : List Done) : Ext :=
  ds.foldl (fun y dn => if dn.poison then y else y.count k f dn) x

/-! ### Writing -/

/-- Bytes of consecutive codes of `w` bits from bit address `bit`; bits of edge bytes outside them keep what memory holds. -/
def State.packRun (s : State) (bit w : Nat) (codes : List Nat) : Nat × List Byte :=
  let a := bit / 8
  let off := bit % 8
  let n := w * codes.length
  let nb := (off + n + 7) / 8
  let old := leNat (s.bytes a nb)
  let new := codes.foldr (fun c acc => c % 2 ^ w + 2 ^ w * acc) 0
  (a, leBytes nb (old % 2 ^ off + 2 ^ off * new + 2 ^ (off + n) * (old / 2 ^ (off + n))))

/-- Join byte runs that follow one another. -/
def joinBytes : List (Nat × List Byte) → List (Nat × List Byte)
  | [] => []
  | r :: rs =>
    match joinBytes rs with
    | [] => [r]
    | t :: ts => if t.1 = r.1 + r.2.length then (r.1, r.2 ++ t.2) :: ts else r :: t :: ts

/-- Group elements that stand in one row, in their order. -/
def byRow : List (Pos × Nat) → List (Pos × List Nat)
  | [] => []
  | (p, c) :: r =>
    match byRow r with
    | [] => [(p, [c])]
    | (p', cs) :: t =>
      if p'.i1 = p.i1 ∧ p'.i2 = p.i2 ∧ p'.i3 = p.i3 ∧ p'.i0 = p.i0 + 1 then (p, c :: cs) :: t else (p, [c]) :: (p', cs) :: t

/-- The byte runs of rows in order; each fills its edge bytes from what the rows before it left, so that shared storage keeps the element
written last (R55). -/
def State.packRuns (s : State) (d : Desc) : List (Pos × List Nat) → List (Nat × List Byte)
  | [] => []
  | r :: rs =>
    let w := s.packRun (d.elemBit r.1) d.fmt.bits r.2
    w :: (s.modMem fun m => { m with bytes := putBytes m.bytes w.1 w.2 }).packRuns d rs

/-- The byte runs of a destination: rows of elements, in rising order of the linear index (R55), then the scale bytes
(DESIGN CHOICE, log entry 14). -/
def State.destRuns (s : State) (d : Desc) (codes : List (Pos × Nat)) (scales : List (Nat × Nat)) : List (Nat × List Byte) :=
  joinBytes (s.packRuns d (byRow codes)) ++
    joinBytes (scales.map fun kv => (d.scale + kv.1, [BitVec.ofNat 8 kv.2]))

/-- Lines that poisoned elements mark, with their block's scale byte (R126) (DESIGN CHOICE, log entry 19). -/
def Desc.poisonLines (d : Desc) (ps : List Pos) : List Nat :=
  (ps.flatMap fun p => [(d.elemRun p).1 / 64, ((d.elemRun p).1 + (d.elemRun p).2 - 1) / 64] ++
    (if d.blk = 0 then [] else [(d.scale + d.scaleIndex p) / 64])).eraseDups

/-- Byte runs are written in order (DESIGN CHOICE, log entry 5). -/
def State.putRuns (s : State) (ws : List (Nat × List Byte)) : State := ws.foldl (fun t w => t.store w.1 w.2 false) s

/-- Lines are marked poisoned. -/
def State.poisonList (s : State) (ls : List Nat) : State :=
  if ls.isEmpty then s else s.modMem fun m => { m with poison := ls.foldl (fun p l => Sparse.set false p l true) m.poison }

/-- The ceiling updates of a completion (R127). -/
def State.raiseAll (s : State) (c : CombId) (cs : List (Fin 32 × Int)) : State :=
  cs.foldl (fun t r => t.modSeq c fun q => { q with d := q.d.set r.1 (q.d[r.1].raise r.2) }) s

/-! ### Execution -/

/-- Are an element's bytes, and its scale byte, at open addresses? -/
def State.posOpen (s : State) (d : Desc) (p : Pos) : Bool :=
  s.opened (d.elemRun p).1 (d.elemRun p).2 && (d.blk == 0 || s.opened (d.scale + d.scaleIndex p) 1)

/-- How far an instruction comes in its elements: none where all of them are at open addresses, else a free number of those before the first
that is not (R149, DESIGN CHOICE, log entry 6). -/
def State.cut (s : State) (ok : List Bool) : Option Nat × State :=
  if ok.all id then (none, s)
  else
    let (r, s1) := s.draw
    (some (r.toNat % ((ok.takeWhile id).length + 1)), s1)

/-- The elements that a cut leaves. -/
def cutTake {α : Type} (cut : Option Nat) (xs : List α) : List α :=
  match cut with
  | none => xs
  | some n => xs.take n

/-- The same for several destinations: where one meets an unpopulated address, each has come its own free way. -/
def State.cuts (s : State) (oks : List (List Bool)) : List (Option Nat) × State :=
  if oks.all fun ok => ok.all id then (oks.map fun _ => none, s)
  else
    oks.foldl (fun (t : List (Option Nat) × State) ok =>
      let (r, u) := t.2.draw
      (t.1 ++ [some (r.toNat % ((ok.takeWhile id).length + 1))], u)) ([], s)

/-- The farthest that any destination has come: the elements that were computed (R168, R182). -/
def farthest (cs : List (Option Nat)) : Option Nat :=
  cs.foldl (fun m c => match m, c with | some a, some b => some (max a b) | _, _ => none) (some 0)

/-- Byte runs and poisoned lines of converted elements, with the scale bytes of their blocks. -/
def State.convRuns (s : State) (d : Desc) (ds : List Done) (scales : List (Nat × Nat)) : List (Nat × List Byte) × List Nat :=
  let ids := (ds.map fun x => d.scaleIndex x.pos).eraseDups
  (s.destRuns d (ds.map fun x => (x.pos, x.code)) (scales.filter fun kv => ids.contains kv.1),
    d.poisonLines ((ds.filter (·.poison)).map (·.pos)))

/-- What an instruction of a closed unit has written when it is cut short: a free number of its runs (R149, DESIGN CHOICE, log entry 6). -/
def State.partWrites (s : State) (ws : List (Nat × List Byte)) : State :=
  let good := ws.takeWhile fun w => s.opened w.1 w.2.length
  let (r, s1) := s.draw
  s1.putRuns (good.take (r.toNat % (good.length + 1)))

/-- An execution fault of an instruction of queue `k`, whose writes so far are made: its counter does not move (R149)
(DESIGN CHOICE, log entry 28). -/
def State.execFault (s : State) (c : CombId) (e : QEntry) (k : Fin 4) (code : Nat) : State :=
  (s.busySub c k).fault c code e.pc.toNat (k.val + 1)

/-- Completion of an instruction of queue `k`: writes visible, poison marked, ceilings raised, counter moved (R141, R127)
(DESIGN CHOICE, log entry 5). -/
def State.complete (s : State) (c : CombId) (k : Fin 4) (fl : Flight) : State :=
  ((((s.putRuns fl.writes).poisonList fl.poisons).raiseAll c fl.ceils).busySub c k).bumpE c fl.e

/-- Poisoned data was consumed: the step aborts (R36, R373) (DESIGN CHOICE, log entry 19). -/
def State.consumeIf (s : State) (b : Bool) : State := if b then s.abortStep else s

end Sys2Proof.Machine
end

