-- ==== Sys2Proof/Machine/AtomicOps.lean ====
section
/-!
DEFINITION. Atomic operations at memory (05 R110 to R114): the element operations of Table 5.4 on the bytes of a line or of a drop.
-/
namespace Sys2Proof.Machine

/-- Bytes of one element of an atomic operation (Tables 5.4, 9.8). -/
def atomicSize (op : BitVec 3) : Nat :=
  match op.toNat with
  | 1 | 4 | 5 => 8
  | 2 => 4
  | _ => 2

/-- LF64 add on codes: the sum's code and whether a sum of finite operands left the range (R52, R114). -/
def lf64Add (a b : Nat) : Nat × Bool :=
  let x := Fmt.decode .lf64 none 0 a
  let y := Fmt.decode .lf64 none 0 b
  let r := convertLf64 0 .rne (Val.add false x y).1
  (r.code, r.ovf && (match x, y with | .inf _, _ | _, .inf _ | .nan, _ | _, .nan => false | _, _ => true))

/-- Addition on codes of a float format with one rounding to nearest even (Table 5.4). -/
def floatAdd (f : Fmt) (a b : Nat) : Nat :=
  (f.convert false false .rne (Val.add false (f.decode none 0 a) (f.decode none 0 b)).1).code

/-- The winner of two indexed pairs held as 64-bit words, the pair `a` held already (R110, R111). -/
def pairPick (mn : Bool) (a b : Nat) : Nat :=
  if pairWins mn (Fmt.decode .fp32 none 0 (b % 2 ^ 32)) (b / 2 ^ 32) (Fmt.decode .fp32 none 0 (a % 2 ^ 32)) (a / 2 ^ 32) then b else a

/-- One element: memory and operand give the result and its overflow. -/
def atomicElem (op : BitVec 3) (m x : Nat) : Nat × Bool :=
  match op.toNat with
  | 1 => lf64Add m x
  | 2 => (floatAdd .fp32 m x, false)
  | 3 => (floatAdd .bf16 m x, false)
  | 4 => (pairPick false m x, false)
  | _ => (pairPick true m x, false)

/-- All elements of a byte string: `n` elements of `w` bytes. -/
def atomicBytes (op : BitVec 3) (w : Nat) : Nat → List Byte → List Byte → List Byte × Nat
  | 0, _, _ => ([], 0)
  | n + 1, ms, xs =>
    let r := atomicElem op (leNat (ms.take w)) (leNat (xs.take w))
    let t := atomicBytes op w n (ms.drop w) (xs.drop w)
    (leBytes w r.1 ++ t.1, r.2.toNat + t.2)

/-- An operation met a poisoned sector of controller `m` (R351): counted, recorded and notified (DEDUCED, log entry 78). -/
def State.poisonedAtomic (s : State) (m : McId) (a : Nat) : State :=
  ((s.modMc m fun c => { c with err := satF c.err 12 12 1 }).record (.uncorrectable m)).notice (.fault 4 1 a)

/-- Apply an atomic operation to open memory at `a`; overflows count in the unit's register (R114). A poisoned operand or memory
line leaves the result poisoned (R36) (DESIGN CHOICE, log entry 50). -/
def State.atomicAt (s : State) (op : BitVec 3) (a : Nat) (xs : List Byte) (poison : Bool) : State :=
  let s1 := s.touch a xs.length
  let w := atomicSize op
  let r := atomicBytes op w (xs.length / w) (s1.bytes a xs.length) xs
  let bad := poison || s1.poisoned a xs.length
  let s2 := (s1.store a r.1 bad).consumeIf bad
  let up := fun (v : W64) => v + BitVec.ofNat 64 r.2
  match s.region a with
  | .hbm m =>
    let s3 := s2.modMc m fun c => { c with aovf := up c.aovf }
    if s1.poisoned a xs.length then s3.poisonedAtomic m a else s3
  | .square q => s2.modSquare q fun k => { k with aovf := up k.aovf }
  | _ => s2

end Sys2Proof.Machine
end

