-- ==== Sys2Proof/Machine/Keccak.lean ====
section
/-!
DEFINITION. SHAKE256 (FIPS 202), the digest of seals, chains, measurements and images (14 R306): the permutation over 25 lanes of 64
bits, absorption of 136-byte blocks with the XOF padding, and the first block squeezed.
-/
namespace Sys2Proof.Machine

/-- The 25 lanes, lane (x, y) at x + 5y. -/
abbrev Lanes := Vector W64 25

/-- The walk of the rotation step from lane (x, y): after `t` earlier lanes the offset is (t+1)(t+2)/2 modulo 64, and the next lane is
(y, 2x + 3y). -/
def rhoWalk : Nat → Nat → Nat → Nat → List (Nat × Nat)
  | 0, _, _, _ => []
  | n + 1, t, x, y => (x + 5 * y, (t + 1) * (t + 2) / 2 % 64) :: rhoWalk n (t + 1) y ((2 * x + 3 * y) % 5)

/-- Rotation offset of a lane; lane (0, 0), which the walk never meets, is not rotated. -/
def rhoOffset (i : Nat) : Nat := ((rhoWalk 24 0 1 0).lookup i).getD 0

/-- The shift register of the round constants: x^8 + x^6 + x^5 + x^4 + 1, clocked once. -/
def lfsrNext (r : Nat) : Nat := if r < 128 then 2 * r else (2 * r) ^^^ 0x171

/-- The round constant that the next seven bits of the register spell, bit j of them at place 2^j - 1, and the register after them. -/
def roundConst : Nat → Nat → Nat → Nat × Nat
  | 0, _, r => (0, r)
  | n + 1, j, r =>
    let (c, e) := roundConst n (j + 1) (lfsrNext r)
    (r % 2 * 2 ^ (2 ^ j - 1) + c, e)

/-- The constants of `n` rounds from the register's state on. -/
def roundConsts : Nat → Nat → List W64
  | 0, _ => []
  | n + 1, r => let (c, e) := roundConst 7 0 r; BitVec.ofNat 64 c :: roundConsts n e

/-- Lane (x, y), coordinates taken modulo 5. -/
def Lanes.at_ (a : Lanes) (x y : Nat) : W64 := a[(⟨x % 5 + 5 * (y % 5), by omega⟩ : Fin 25)]

/-- One round. -/
def keccakRound (a : Lanes) (rc : W64) : Lanes :=
  let col : Vector W64 5 := Vector.ofFn fun x => a.at_ x.val 0 ^^^ a.at_ x.val 1 ^^^ a.at_ x.val 2 ^^^ a.at_ x.val 3 ^^^ a.at_ x.val 4
  let par : Vector W64 5 := Vector.ofFn fun x =>
    col[(⟨(x.val + 4) % 5, Nat.mod_lt _ (by decide)⟩ : Fin 5)] ^^^ (col[(⟨(x.val + 1) % 5, Nat.mod_lt _ (by decide)⟩ : Fin 5)]).rotateLeft 1
  let t : Lanes := Vector.ofFn fun i => a[i] ^^^ par[(⟨i.val % 5, Nat.mod_lt _ (by decide)⟩ : Fin 5)]
  let b : Lanes := Vector.ofFn fun i =>
    let x := (i.val % 5 + 3 * (i.val / 5)) % 5
    let y := i.val % 5
    (t.at_ x y).rotateLeft (rhoOffset (x + 5 * y))
  let e : Lanes := Vector.ofFn fun i =>
    let x := i.val % 5
    let y := i.val / 5
    b.at_ x y ^^^ (~~~(b.at_ (x + 1) y) &&& b.at_ (x + 2) y)
  e.set 0 (e[0] ^^^ rc)

/-- The permutation. -/
def keccakF (a : Lanes) : Lanes := (roundConsts 24 1).foldl keccakRound a

/-- Absorb one block of 136 bytes. -/
def absorbBlock (a : Lanes) (bs : List Byte) : Lanes :=
  keccakF (Vector.ofFn fun i => a[i] ^^^ BitVec.ofNat 64 (leNat ((bs.drop (8 * i.val)).take 8)))

/-- Absorb `n` blocks. -/
def absorbAll : Nat → List Byte → Lanes → Lanes
  | 0, _, a => a
  | n + 1, bs, a => absorbAll n (bs.drop 136) (absorbBlock a (bs.take 136))

/-- Message with the padding of SHAKE: 0x1F, zeros, and bit 7 of the block's last byte. -/
def shakePad (bs : List Byte) : List Byte :=
  let r := bs.length % 136
  if r = 135 then bs ++ [0x9F] else bs ++ [0x1F] ++ List.replicate (134 - r) 0 ++ [0x80]

/-- SHAKE256 with an output of `n` bytes, n at most 136. -/
def shake256 (bs : List Byte) (n : Nat) : List Byte :=
  let p := shakePad bs
  let a := absorbAll (p.length / 136) p (Vector.replicate 25 0)
  (a.toList.flatMap fun w => leBytes 8 w.toNat).take n

end Sys2Proof.Machine
end

