-- ==== Sys2Proof/Machine/MatrixOps.lean ====
section
/-!
DEFINITION. The matrix array and the extractor: geometry (04 R69), what issue checks of mshape, mhold, mmul and mx against the
state that earlier instructions leave (08 R159 to R166, R420), the arithmetic of a slot element (05 R90 to R108) and the
extractor's stages (06 R116 to R123).
-/
namespace Sys2Proof.Machine

/-! ### Geometry -/

/-- Bypassed physical columns of a comb (Table 2.3). -/
def Comb.bypass (k : Comb) : List Nat :=
  (if getF k.map 15 1 = 1 then [getF k.map 8 5] else []) ++ (if getF k.map 23 1 = 1 then [getF k.map 16 5] else [])

/-- n' of R69. -/
def Comb.width (k : Comb) : Nat := 32 - k.bypass.length

/-- u of R69: the t-th physical column that is not bypassed. -/
def Comb.column (k : Comb) (t : Nat) : Nat := ((List.range 32).filter fun j => !k.bypass.contains j).getD t 0

/-- Rows of a shape. -/
def shapeM (shape : BitVec 3) : Nat := 32 / 2 ^ shape.toNat

/-- Presented columns of a shape (R69). -/
def Comb.shapeN (k : Comb) (shape : BitVec 3) : Nat := 2 ^ shape.toNat * k.width

/-- Key of the slot element of logical DPU (r, c) in `Mat.slots` (R69). -/
def Comb.slotKey (k : Comb) (shape : BitVec 3) (slot r c : Nat) : Nat :=
  1024 * slot + 32 * (r * 2 ^ shape.toNat + c / k.width) + k.column (c % k.width)

/-- Products per cycle of a format's class (R64). -/
def Fmt.rate : Fmt → Nat
  | .e3m2 | .e2m3 | .e2m1 | .int4 => 64
  | .e4m3 | .e5m2 | .int8 => 32
  | .fp16 | .bf16 => 16
  | _ => 4

/-- h of R76. -/
def holdH (p : Nat) : Nat := if p = 64 then 64 else 32

/-- Does a scaled operand's block run along the K dimension chosen by the flag (R50)? -/
def Desc.alongK (d : Desc) (t : Bool) : Bool :=
  match d.blk with
  | 1 => !t
  | 2 => t
  | _ => true

/-- Extent along K and across it, for a transpose flag (R72, R161). -/
def Desc.extK (d : Desc) (t : Bool) : Nat := if t then d.s1 else d.s0
def Desc.extX (d : Desc) (t : Bool) : Nat := if t then d.s0 else d.s1

/-- Position of K-position k and outer index x. -/
def Desc.posK (t : Bool) (k x : Nat) : Pos := if t then ⟨x, k, 0, 0⟩ else ⟨k, x, 0, 0⟩

/-- Rows and columns a mask register selects (R162): logical element (r, c). -/
def maskHas (mask : Option W64) (r c : Nat) : Bool :=
  match mask with
  | none => true
  | some m => m.toNat.testBit r && decide (getF m 32 10 ≤ c) && decide (c < getF m 32 10 + getF m 42 11)

/-- Active elements of an mmul, row by row (R162). -/
def activeList (mr nc : Nat) (mask : Option W64) : List (Nat × Nat) :=
  (List.range mr).flatMap fun r => ((List.range nc).filter fun c => maskHas mask r c).map fun c => (r, c)

/-! ### Issue checks -/

/-- Operands of an mmul as the word names them (Table 8.4). -/
def Seq.mmulOp (q : Seq) (f : TForm) : TOp :=
  let auto := f.bit 36
  .mmul q.d[f.reg 20] q.d[f.reg 25] ⟨f.fld 30 2 % 4, Nat.mod_lt _ (by decide)⟩ (f.bit 32) (f.bit 33)
    (if f.bit 33 then BitVec.ofNat 2 (f.fld 34 2) else 0) auto (if auto then 0 else signed 10 (f.fld 37 10))
    (if auto then (q.s[f.reg 37]).toNat else 0) (f.bit 47) (f.bit 48) (if f.bit 49 then some q.s[f.reg 50] else none)

/-- Columns an mmul serves: N of the shape in held feed, else B's other extent (R161). -/
def mmulCols (k : Comb) (mode : BitVec 2) (shape : BitVec 3) (b : Desc) (tb : Bool) : Nat :=
  if mode = 2 then k.shapeN shape else b.extX tb

/-- Keys of an mmul's active elements. -/
def mmulKeys (k : Comb) (mode : BitVec 2) (shape : BitVec 3) (a b : Desc) (slot : Nat) (ta tb : Bool) (mask : Option W64) :
    List Nat :=
  (activeList (a.extX ta) (mmulCols k mode shape b tb) mask).map fun rc => k.slotKey shape slot rc.1 rc.2

/-- Conditions of mshape (R159). -/
def mshapeFaults (f : TForm) : List (Nat × Bool) :=
  [(6, decide (f.fld 20 3 > 5) || f.fld 23 2 == 3 || (f.fld 23 2 != 1 && f.fld 20 3 != 0))]

/-- Conditions of mhold (R160). -/
def mholdFaults (k : Comb) (c : CombId) (f : TForm) : List (Nat × Bool) :=
  let b := k.seq.d[f.reg 20]
  let sk := k.seq.s[f.reg 25]
  [(2, !b.valid), (3, !b.inComb c),
   (6, k.mat.judged.mode != 2 || b.fmt == .fp32 || !b.alongK (f.bit 30) || getF sk 0 32 % 32 != 0 ||
     (f.bit 31 && b.fmt.rate != 64) || b.s2 != 1 || b.s3 != 1),
   (9, getF sk 48 16 != 0 || b.fmt == .lf64)]

/-- Conditions of mmul (Table 8.5, R161, R162), against the judged state (R420). -/
def mmulFaults (k : Comb) (c : CombId) (f : TForm) : List (Nat × Bool) :=
  match k.seq.mmulOp f with
  | .mmul a b slot ow seq g _ _ _ ta tb mask =>
    let j := k.mat.judged
    let held := j.mode == 2
    let p := min a.fmt.rate (if held then j.rate else b.fmt.rate)
    let h := holdH p
    let n := k.shapeN j.shape
    let nc := mmulCols k j.mode j.shape b tb
    let mr := a.extX ta
    let maskShape := match mask with
      | none => false
      | some m => decide (getF m 0 32 ≥ 2 ^ shapeM j.shape) || decide (getF m 32 10 + getF m 42 11 > n)
    let keys := mmulKeys k j.mode j.shape a b slot.val ta tb mask
    [(2, !a.valid || (!held && !b.valid)),
     (3, !a.inComb c || (!held && !b.inComb c)),
     (6, a.s2 != 1 || a.s3 != 1 || (!held && (b.s2 != 1 || b.s3 != 1 || a.extK ta != b.extK tb || !b.alongK tb)) ||
       !a.alongK ta || decide (mr > shapeM j.shape) || decide (nc > n) || maskShape ||
       (held && (seq || a.fmt == .fp32 || decide (a.extK ta > 32 * h) || j.heldH != some h))),
     (7, !ow && keys.any fun key => Sparse.get (false, 0) j.elems key != (seq, g)),
     (9, a.fmt == .lf64 || (!held && b.fmt == .lf64) || (match mask with | some m => getF m 53 11 != 0 | none => false))]
  | _ => []

/-- Operands of an mx (Table 8.6), with the shape it is judged against (R420). Without CLE the bounds are −∞ and +∞. -/
def Seq.mxOp (q : Seq) (shape : BitVec 3) (f : TForm) : TOp :=
  let sr := f.fld 27 3 == 4
  .mx shape (f.reg 20) q.d[f.reg 20] ⟨f.fld 25 2 % 4, Nat.mod_lt _ (by decide)⟩ (BitVec.ofNat 3 (f.fld 27 3))
    ⟨f.fld 30 2 % 4, Nat.mod_lt _ (by decide)⟩ (if f.bit 32 then some q.d[f.reg 33] else none)
    (if f.bit 38 then some q.d[f.reg 39] else none)
    (if f.bit 44 then (q.s[f.reg 45]).setWidth 32 else 0xFF800000) (if f.bit 44 then (q.s[f.reg 45] >>> 32).setWidth 32 else 0x7F800000)
    (if sr then q.s[f.reg 50] else 0) (if sr then q.s[f.reg 55] else 0)

/-- A scale or bias vector of mx: FP32, unblocked, rank 1 (R165). -/
def Desc.isVector (d : Desc) : Bool := d.fmt == .fp32 && d.blk == 0 && d.rank == 1

/-- Conditions of mx (R166, R122) (DESIGN CHOICE, log entry 111). -/
def mxFaults (k : Comb) (c : CombId) (f : TForm) : List (Nat × Bool) :=
  match k.seq.mxOp k.mat.judged.shape f with
  | .mx _ _ d _ _ _ sv bv lo hi _ _ =>
    let j := k.mat.judged
    let rows := min d.s1 (shapeM j.shape)
    let cols := min d.s0 (k.shapeN j.shape)
    let vs := sv.toList ++ bv.toList
    -- a write that covers no element covers no part of a block (R122)
    let wrote := rows != 0 && cols != 0
    let bounds := match fp32 lo, fp32 hi with
      | .nan, _ | _, .nan => true
      | l, h => decide (Val.cmp l h > 0)
    [(2, !d.valid || vs.any fun v => !v.valid),
     (3, !d.inComb c || vs.any fun v => !v.inComb c),
     (6, decide (d.rank > 2) || (vs.any fun v => decide (v.s0 < cols)) ||
       (wrote && (d.blk == 1 || d.blk == 3) && cols % 32 != 0) || (wrote && (d.blk == 2 || d.blk == 3) && rows % 32 != 0)),
     (9, (vs.any fun v => !v.isVector) || bounds || (d.fmt == .lf64 && (!vs.isEmpty || f.bit 44)))]
  | _ => []

/-- What issue of a matrix word leaves in the judged state (R420). -/
def Comb.judge (k : Comb) (kind : TKind) (f : TForm) : Judged :=
  let j := k.mat.judged
  match kind with
  | .mshape => { j with shape := BitVec.ofNat 3 (f.fld 20 3), mode := BitVec.ofNat 2 (f.fld 23 2) }
  | .mhold =>
    let b := k.seq.d[f.reg 20]
    { j with heldH := some (if f.bit 31 then 64 else 32), rate := b.fmt.rate, ceil := b.ceil, ceilv := b.ceilv }
  | .mmul =>
    match k.seq.mmulOp f with
    | .mmul a b slot true seq g _ _ _ ta tb mask =>
      let keys := mmulKeys k j.mode j.shape a b slot.val ta tb mask
      { j with elems := keys.foldl (fun l key => Sparse.set (false, 0) l key (seq, g)) j.elems }
    | _ => j
  | _ => j

/-- The matrix state that the instructions run so far have left: what later words are judged against once the queue has drained (R420). -/
def Mat.reached (m : Mat) : Judged :=
  let held := m.shadow.or m.active
  { shape := m.shape, mode := m.mode, heldH := held.map (·.h), rate := (held.map (·.rate)).getD 0, ceil := (held.map (·.ceil)).getD 0
    ceilv := (held.map (·.ceilv)).getD false
    elems := (m.slots.map fun kv => (kv.1, kv.2.seq, kv.2.g)).filter fun kv => kv.2 != (false, 0) }

/-! ### Slot elements -/

/-- A slot element (R90); unlisted ones are in the state of R91. -/
def Mat.elem (m : Mat) (key : Nat) : SlotElem := Sparse.get {} m.slots key

/-- VALUE as a signed integer. -/
def SlotElem.int (x : SlotElem) : Int := signed 96 x.value.toNat

/-- acc of a SEQ slot. -/
def SlotElem.acc (x : SlotElem) : Val := fp32 (x.value.setWidth 32)

/-- W_lo of the element. -/
def SlotElem.lo (x : SlotElem) : Int := signed 10 x.wlo.toNat

/-- The presented value (R107). -/
def SlotElem.present (x : SlotElem) : Val :=
  if x.nan || (x.pinf && x.ninf) || (x.seq && x.acc == .nan) then .nan
  else if x.pinf then .inf false
  else if x.ninf then .inf true
  else if x.seq then x.acc
  else Val.ofInt x.int x.lo

/-- W_lo of an AUTO window (R98). -/
def autoWlo (ca cb : Int) (va vb : Bool) (kc : Nat) : Int :=
  if !va || !vb then -512 else max (-512) (min 511 (ca + cb + (clog2 kc : Int) + 1 - 63))

/-- The aligned value of a finite product and whether it vanished or overflowed (R92). -/
def alignTo (wlo : Int) : Val → Int × Bool × Bool
  | .fin n m e =>
    let ex : Int := Nat.log2 m + e
    if ex < wlo then (0, true, false)
    else
      let mag := if 0 ≤ e - wlo then m * 2 ^ (e - wlo).toNat else m / 2 ^ (wlo - e).toNat
      let rest := 0 < wlo - e ∧ m % 2 ^ (wlo - e).toNat ≠ 0
      (if n then -((if rest then mag + 1 else mag : Nat) : Int) else (mag : Int), false, decide (ex ≥ wlo + 64))
  | _ => (0, false, false)

/-- Special-value flags of a product (R106, R107). -/
def SlotElem.special (x : SlotElem) (v : Val × Bool) : SlotElem :=
  let x1 := match v.1 with
    | .nan => { x with nan := true }
    | .inf false => { x with pinf := true }
    | .inf true => { x with ninf := true }
    | _ => x
  { x1 with inv := x1.inv || v.2 || (x1.pinf && x1.ninf) }

/-- EXACT accumulation of an element's products (R92 to R94): the element, products vanished and overflowed. -/
def SlotElem.exact (x : SlotElem) (vs : List (Val × Bool)) : SlotElem × Nat × Nat :=
  let al := vs.map fun v => alignTo x.lo v.1
  let sum := al.foldl (fun t a => t + a.1) 0
  let v0 := x.int
  let new := unsigned 96 (v0 + sum)
  let wraps := (v0 + sum - signed 96 new) / (2 ^ 96 : Nat)
  let k := min (x.kcount.toNat + vs.length) 0xFFFFFFFF
  let ovs := (al.filter (·.2.2)).length
  let x1 := vs.foldl SlotElem.special x
  ({ x1 with
     value := BitVec.ofNat 96 new
     ovf := x1.ovf || decide (ovs ≠ 0) || decide (k > 2 ^ 31) || decide (wraps ≠ 0)
     kcount := BitVec.ofNat 32 k
     wrap := BitVec.ofNat 7 ((x.wrap.toNat + wraps) % 127).toNat
     res := BitVec.ofNat 7 ((x.res.toNat + sum) % 127).toNat },
   (al.filter (·.2.1)).length, ovs)

/-- Is a value infinite, or NaN? -/
def Val.isInf : Val → Bool
  | .inf _ => true
  | _ => false

/-- One SEQ group (R100, R107). -/
def SlotElem.group (x : SlotElem) (vs : List (Val × Bool)) : SlotElem :=
  match vs with
  | [] => x
  | v :: r =>
    let grp := r.foldl (fun t w => (Val.add false t w.1).1) v.1
    let g := rne32 grp
    let sum := (Val.add false x.acc g).1
    let new := rne32 sum
    let x1 := vs.foldl SlotElem.special x
    { x1 with
      value := BitVec.ofNat 96 (Fmt.convert .fp32 false false .rne sum).code
      ovf := x1.ovf || (new.isInf && !x.acc.isInf && !grp.isInf)
      inv := x1.inv || (new == .nan && !(x.acc == .nan) && !(g == .nan)) }

/-- Groups of G products (R101). -/
def seqGroups (g : Nat) : Nat → List (Val × Bool) → SlotElem → SlotElem
  | 0, _, x => x
  | n + 1, vs, x => if vs.isEmpty then x else seqGroups g n (vs.drop g) (x.group (vs.take g))

/-- SEQ accumulation; KCOUNT passing 2^31 sets OVF (R93) (DESIGN CHOICE, log entry 26). -/
def SlotElem.seqAcc (x : SlotElem) (vs : List (Val × Bool)) : SlotElem :=
  let x1 := seqGroups (4 * 2 ^ x.g.toNat) vs.length vs x
  let k := min (x.kcount.toNat + vs.length) 0xFFFFFFFF
  { x1 with kcount := BitVec.ofNat 32 k, ovf := x1.ovf || decide (k > 2 ^ 31) }

/-- The element an overwrite begins with (R97, R105) (DESIGN CHOICE, log entry 103). -/
def SlotElem.fresh (seq : Bool) (g : BitVec 2) (wlo : Int) : SlotElem :=
  { seq := seq, g := g, wlo := if seq then 0 else BitVec.ofNat 10 (unsigned 10 wlo) }

/-! ### mmul -/

/-- Operands of one mmul once the array reads them: value and poison of A[r, k] and B[k, c]. -/
structure Feed where
  k : Nat
  a : Nat → Nat → Val × Bool
  b : Nat → Nat → Val × Bool

/-- The result of an mmul on one element: the element, vanished, overflowed and invalid products. -/
structure ElemOut where
  x       : SlotElem
  vanish  : Nat
  ovfl    : Nat
  invalid : Nat

/-- Accumulate one element (R163). Poisoned operand data poisons it (R36) (DESIGN CHOICE, log entry 26)
(DESIGN CHOICE, log entry 115). -/
def accumulate (x0 : SlotElem) (fd : Feed) (r c : Nat) : ElemOut :=
  let prods := (List.range fd.k).map fun k => Val.mul (fd.a r k).1 (fd.b k c).1
  let bad := (List.range fd.k).any fun k => (fd.a r k).2 || (fd.b k c).2
  let res := if x0.seq then (x0.seqAcc prods, 0, 0) else x0.exact prods
  ⟨{ res.1 with poison := res.1.poison || bad }, res.2.1, res.2.2, (prods.filter (·.2)).length⟩

/-- Feed cycles F and, in SEQ, F_SEQ (R67, R102). -/
def feedCycles (p k : Nat) (seq : Bool) (g : BitVec 2) : Nat :=
  let f := if p = 4 then 8 * ceilDiv k 32 else ceilDiv k p
  if seq then max f (ceilDiv k (16 * 2 ^ g.toNat)) else f

/-- Cycle at which an mmul's counter increments (Tables 4.3 to 4.5, R81, R162). -/
def mmulCycles (mode : BitVec 2) (p k ma : Nat) (seq : Bool) (g : BitVec 2) (none : Bool) : Nat :=
  if k = 0 ∨ none then 5
  else match mode.toNat with
    | 0 => 70 + feedCycles p k seq g
    | 1 => 9 + feedCycles p k seq g
    | _ => 8 + (if p = 16 then 2 else 1) * (ma + 31)

/-- The exception word for the first 0 × ∞ product (R152, Table 7.13). -/
def excWord (pc : BitVec 18) (slot r c : Nat) : W64 :=
  BitVec.ofNat 64 (pc.toNat + slot * 2 ^ 18 + r * 2 ^ 20 + c * 2 ^ 26 + 2 ^ 48)

/-- Execution of an mmul on the comb's slots, with its operands read. -/
def Comb.mmul (k : Comb) (e : QEntry) (slot : Nat) (ow seq : Bool) (g : BitVec 2) (wlo : Int) (act : List (Nat × Nat)) (fd : Feed)
    (cyc : Nat) : Comb :=
  let shape := k.mat.shape
  let outs := act.map fun rc =>
    let key := k.slotKey shape slot rc.1 rc.2
    (key, rc, accumulate (if ow then SlotElem.fresh seq g wlo else k.mat.elem key) fd rc.1 rc.2)
  let inv := outs.foldl (fun t o => t + o.2.2.invalid) 0
  let first := outs.find? fun o => o.2.2.invalid != 0
  { k with
    mat := { k.mat with
      slots := outs.foldl (fun l o => Sparse.set {} l o.1 o.2.2.x) k.mat.slots
      vanish := k.mat.vanish + BitVec.ofNat 64 (outs.foldl (fun t o => t + o.2.2.vanish) 0)
      ovfl := k.mat.ovfl + BitVec.ofNat 64 (outs.foldl (fun t o => t + o.2.2.ovfl) 0)
      run := k.mat.run ++ [{ e := e, cycles := cyc, keys := outs.map (·.1) }] }
    ext := { k.ext with invalid := k.ext.invalid + BitVec.ofNat 64 inv }
    seq := { k.seq with exc := match first with
      | some o => if getF k.seq.exc 48 1 = 1 then k.seq.exc else excWord e.pc slot o.2.1.1 o.2.1.2
      | none => k.seq.exc } }

/-- Value and poison of an element read by a feeder. -/
def State.feedVal (s : State) (d : Desc) (p : Pos) : Val × Bool := (s.val d p, s.poisonedPos d p)

/-- Byte runs that an mmul reads: the rows of A and the columns of B of its active elements (R164). -/
def Comb.mmulReads (k : Comb) (a b : Desc) (ta tb : Bool) (mask : Option W64) : List (Nat × Nat) :=
  let act := activeList (a.extX ta) (mmulCols k k.mat.mode k.mat.shape b tb) mask
  a.runs (a.positions.filter fun p => (act.map (·.1)).eraseDups.contains (if ta then p.i0 else p.i1)) ++
    (if k.mat.mode == 2 || act.isEmpty then []
     else b.runs (b.positions.filter fun p => (act.map (·.2)).eraseDups.contains (if tb then p.i0 else p.i1)))

/-- The array starts an mmul: operands are read, or an unpopulated address ends it (R164) (DEDUCED, log entry 45). -/
def State.startMmul (s : State) (c : CombId) (e : QEntry) (a b : Desc) (slot : Fin 4) (ow seq : Bool) (g : BitVec 2) (auto : Bool)
    (win : Int) (kc : Nat) (ta tb : Bool) (mask : Option W64) : State :=
  let k0 := s.comb c
  let held := k0.mat.mode == 2
  -- the shadow block becomes active when the first held mmul after its fill starts (R77)
  let k := if held && k0.mat.shadow.isSome then
      { k0 with mat := { k0.mat with active := k0.mat.shadow, shadow := none, full := false } } else k0
  let kk := a.extK ta
  let act := activeList (a.extX ta) (mmulCols k k.mat.mode k.mat.shape b tb) mask
  let rows := (act.map (·.1)).eraseDups
  let runs := k0.mmulReads a b ta tb mask
  if !s.openRuns runs then s.execFault c e 0 3
  else
    let s1 := s.touchRuns runs
    let blk := k.mat.active
    let p := min a.fmt.rate (if held then (blk.map (·.rate)).getD 4 else b.fmt.rate)
    let fd : Feed :=
      { k := kk
        a := fun r i => s1.feedVal a (Desc.posK ta i r)
        b := fun i cc => if held then
            (match blk with
              | some h => ((h.vals.getD i []).getD cc (.zero false), h.poison)
              | none => (.zero false, false))
          else s1.feedVal b (Desc.posK tb i cc) }
    let cb := if held then (match blk with | some h => (h.ceil, h.ceilv) | none => (0, false)) else (b.ceil, b.ceilv)
    let wlo := if auto then autoWlo a.ceil cb.1 a.ceilv cb.2 (if kc = 0 then kk else kc) else win
    let ate := act.any fun rc => (List.range kk).any fun i => (fd.a rc.1 i).2 || (fd.b i rc.2).2
    let cyc := mmulCycles k.mat.mode p kk rows.length seq g act.isEmpty
    (s1.modComb c fun k1 => ({ k1 with mat := k.mat }).mmul e slot.val ow seq g wlo act fd cyc).consumeIf ate

/-- Byte runs of the block of B that an mhold reads (R160). -/
def Comb.mholdReads (k : Comb) (b : Desc) (k0 c0 : Nat) (tb p64 : Bool) : List (Nat × Nat) :=
  let kEnd := min (k0 + 32 * (if p64 then 64 else 32)) (b.extK tb)
  let cEnd := min (c0 + k.width) (b.extX tb)
  b.runs (b.positions.filter fun p =>
    let kp := if tb then p.i1 else p.i0
    let cp := if tb then p.i0 else p.i1
    decide (k0 ≤ kp) && decide (kp < kEnd) && decide (c0 ≤ cp) && decide (cp < cEnd))

/-- The array starts an mhold (R160): the block is read into the shadow banks. -/
def State.startMhold (s : State) (c : CombId) (e : QEntry) (b : Desc) (k0 c0 : Nat) (tb p64 : Bool) : State :=
  let h := if p64 then 64 else 32
  let n := (s.comb c).width
  let kEnd := min (k0 + 32 * h) (b.extK tb)
  let cEnd := min (c0 + n) (b.extX tb)
  let runs := (s.comb c).mholdReads b k0 c0 tb p64
  if !s.openRuns runs then s.execFault c e 0 3
  else
    let s1 := s.touchRuns runs
    let poisoned := runs.any fun r => s1.poisoned r.1 r.2
    let vals := (List.range (32 * h)).map fun i => (List.range n).map fun j =>
      if k0 + i < kEnd ∧ c0 + j < cEnd then s1.val b (Desc.posK tb (k0 + i) (c0 + j)) else .zero false
    (s1.modMat c fun m => { m with
      shadow := some { h := h, k0 := k0, rate := b.fmt.rate, vals := vals, poison := poisoned, ceil := b.ceil, ceilv := b.ceilv }
      full := false
      run := m.run ++ [{ e := e, cycles := 36 }] }).consumeIf poisoned

/-! ### mx -/

/-- An entry of a scale or bias vector. -/
def State.entry (s : State) (v : Option Desc) (c : Nat) (dflt : Val) : Val × Bool :=
  match v with
  | some d => s.feedVal d ⟨c, 0, 0, 0⟩
  | none => (dflt, false)

/-- Stages 1 to 3 of Table 6.1 on a presented value; the count tells invalid operations (R118). A zero that equals a zero bound of the
other sign stays as it is (DESIGN CHOICE, log entry 81). -/
def mxStages (x : Val) (scale bias : Option Val) (lo hi : Val) (rdn : Bool) : Val × Nat :=
  let y := Val.mul (scale.getD (.fin false 1 0)) x
  let z := match bias with
    | some b => Val.add rdn y.1 b
    | none => (y.1, false)
  let clip := match z.1 with
    | .nan => .nan
    | v =>
      let w := if Val.cmp v lo < 0 then lo else v
      if Val.cmp w hi > 0 then hi else w
  (clip, y.2.toNat + z.2.toNat)

/-- Byte runs of the scale and bias vectors that an mx reads (R165). -/
def Comb.mxReads (k : Comb) (shape : BitVec 3) (d : Desc) (sv bv : Option Desc) : List (Nat × Nat) :=
  let rows := min d.s1 (shapeM shape)
  let cols := min d.s0 (k.shapeN shape)
  if rows = 0 ∨ cols = 0 then []
  else (sv.toList ++ bv.toList).flatMap fun v => v.runs ((List.range cols).map fun i => ⟨i, 0, 0, 0⟩)

/-- The extractor starts an mx (R165, R116 to R127). At an unpopulated address of the destination a prefix of its elements is written,
counted and marked, and the instruction ends in ADDR (R149) (DEDUCED, log entry 80). -/
def State.startMx (s : State) (c : CombId) (e : QEntry) (shape : BitVec 3) (dr : Fin 32) (d : Desc) (slot : Fin 4) (rm : BitVec 3)
    (cs : Fin 4) (sv bv : Option Desc) (lo hi : W32) (base pitch : W64) : State :=
  let k := s.comb c
  let rows := min d.s1 (shapeM shape)
  let cols := min d.s0 (k.shapeN shape)
  let runs := k.mxReads shape d sv bv
  if !s.openRuns runs then s.execFault c e 0 3
  else
    let s1 := s.touchRuns runs
    let lf := d.fmt == .lf64
    let raw := (List.range rows).flatMap fun r => (List.range cols).map fun cc =>
      let x := k.mat.elem (k.slotKey shape slot.val r cc)
      let sc := s1.entry sv cc (.fin false 1 0)
      let bi := s1.entry bv cc (.zero false)
      let z := mxStages x.present (sv.map fun _ => sc.1) (bv.map fun _ => bi.1) (fp32 lo) (fp32 hi) (rm == 3)
      let el : Elem := { pos := ⟨cc, r, 0, 0⟩, v := if lf then x.present else z.1
                         gi := base.toNat + r * pitch.toNat + cc, poison := x.poison || sc.2 || bi.2, ovf := lf && x.ovf }
      (el, if lf then 0 else z.2, sc.2 || bi.2)
    let res := convertAll d (if lf then 3 else rm) k.ext.seed (raw.map (·.1))
    let (cut, s2) := s1.cut (raw.map fun x => s1.posOpen d x.1.pos)
    let got := cutTake cut raw
    let dones := cutTake cut res.1
    let out := s2.convRuns d dones res.2
    let s3 := (s2.modExt c fun x => { x.countAll cs d.fmt dones with
      invalid := x.invalid + BitVec.ofNat 64 (got.foldl (fun t o => t + o.2.1) 0)
      poison := x.poison + BitVec.ofNat 64 (dones.filter (·.poison)).length }).consumeIf (raw.any (·.2.2) || res.1.any (·.poison))
    if cut.isSome then ((s3.putRuns out.1).poisonList out.2).execFault c e 0 3
    else
      let slow := d.blk = 2 ∨ d.blk = 3 ∨ (d.blk = 1 ∧ k.width < 32)
      s3.modExt c fun x => { x with run := x.run ++
        [{ e := e, cycles := if slow then 72 else 42, writes := out.1, poisons := out.2
           ceils := match maxExp res.1 with | some m => [(dr, m)] | none => [] }] }

end Sys2Proof.Machine
end

