-- ==== Sys2Proof/Machine/RouteOps.lean ====
section
/-!
DEFINITION. Names of chips and the routing tables that translate them (11 R227 to R251): chip ids, the drop header, logical and
physical coordinates, the fence map, group members, the commit leader and deputy, and the sending of a drop.
-/
namespace Sys2Proof
open Machine

/-! ### The drop header (Table 11.1) -/

def Drop.type (d : Drop) : Nat := getF d.hdr 0 4
def Drop.cls (d : Drop) : Nat := getF d.hdr 4 2
def Drop.esc (d : Drop) : Nat := getF d.hdr 6 2
def Drop.ep (d : Drop) : Fin 2 := ⟨getF d.hdr 8 1 % 2, Nat.mod_lt _ (by decide)⟩
def Drop.slice (d : Drop) : Nat := getF d.hdr 10 10
def Drop.dst (d : Drop) : ChipId := BitVec.ofNat 18 (getF d.hdr 20 18)
def Drop.group (d : Drop) : BitVec 8 := BitVec.ofNat 8 (getF d.hdr 20 8)
def Drop.src (d : Drop) : ChipId := BitVec.ofNat 18 (getF d.hdr 38 18)
def Drop.cid (d : Drop) : BitVec 13 := BitVec.ofNat 13 (getF d.hdr 56 13)
def Drop.seqoff (d : Drop) : Nat := getF d.hdr 69 11
def Drop.addr (d : Drop) : Nat := getF d.hdr 80 48

/-- The header's parity is even (R227). -/
def Drop.parityOk (d : Drop) : Bool := popCount 128 d.hdr.toNat % 2 == 0

/-- Set PAR so that the header holds an even number of ones. -/
def fixParity (h : BitVec 128) : BitVec 128 :=
  let h0 := setF h 9 1 0
  setF h0 9 1 (popCount 128 h0.toNat % 2)

/-- The drop with another ESC. -/
def Drop.setEsc (d : Drop) (e : Nat) : Drop := { d with hdr := fixParity (setF d.hdr 6 2 e) }

/-- Is the drop a multicast (MDATA or MMANIFEST)? -/
def Drop.multi (d : Drop) : Bool := d.type == 3 || d.type == 4

/-- Payload bytes, 48 of them (R227). -/
def pad48 (bs : List Byte) : List Byte := (bs ++ List.replicate 48 0).take 48

namespace Machine

/-! ### Chip ids -/

/-- The chip id x + 64y + 4096z. -/
def chipId (x y z : Nat) : ChipId := BitVec.ofNat 18 (x % 64 + 64 * (y % 64) + 4096 * (z % 64))

/-- Coordinate of an id on axis 0 X, 1 Y, 2 Z. -/
def axisOf (id : ChipId) (i : Nat) : Nat := getF id (6 * i) 6

/-- The three coordinates of an id in the layout of RTE_SELF and RTE_LOGICAL. -/
def idOfWord (w : W64) : ChipId := chipId (getF w 0 6) (getF w 8 6) (getF w 16 6)

def Rte.selfId (r : Rte) : ChipId := idOfWord r.self
def Rte.selfValid (r : Rte) : Bool := getF r.self 32 1 == 1

/-- The chip's id where RTE_SELF.VALID gives it one (R279). -/
def Rte.named (r : Rte) : Option ChipId := if r.selfValid then some r.selfId else none

/-- Positions of an axis (RTE_MACHINE). -/
def Rte.dim (r : Rte) (i : Nat) : Nat := getF r.machine (8 * i) 7

/-- Is the chip fenced (R251)? -/
def Rte.fenced (r : Rte) (id : ChipId) : Bool :=
  (Sparse.get 0 r.fence (id.toNat / 64)).getLsbD (id.toNat % 64)

/-! ### A table version -/

def Table.tag (t : Table) : Nat := getF t.slice 0 10
def Table.role (t : Table) : Nat := getF t.slice 10 2
def Table.wrap (t : Table) (i : Nat) : Bool := getF t.slice (12 + i) 1 == 1
def Table.origin (t : Table) (i : Nat) : Nat := getF t.slice (16 + 6 * i) 6
def Table.ext (t : Table) (i : Nat) : Nat := getF t.slice (34 + 7 * i) 7

/-- Does the table make the chip a member of its slice (R246: ROLE 1 or 2)? -/
def Table.inSlice (t : Table) : Bool := t.role == 1 || t.role == 2

/-- A logical coordinate lies in the slice's box. -/
def Table.inBox (t : Table) (l : ChipId) : Bool := (List.range 3).all fun i => decide (axisOf l i < t.ext i)

/-- The valid remap entry of lowest index that names logical coordinate `l` (R245). -/
def Table.remapOf (t : Table) (l : ChipId) : Option ChipId :=
  (t.remap.find? fun e => getF e.2 36 1 == 1 && getF e.2 0 18 == l.toNat).map fun e => BitVec.ofNat 18 (getF e.2 18 18)

/-- Does the table's slice or a corridor entry serve a slice tag, and with which wrap bits (R246, R247)? The Boolean tells a corridor. A chip
whose RTE_SELF.VALID is 0 (`valid`) takes part in no slice (R14). The wrap bits are the table's own: R19's conditions on them are not tested
again here (DESIGN CHOICE, log entry 91). -/
def Table.serves (t : Table) (valid : Bool) (tag : Nat) : Option (Bool × Nat) :=
  if valid = true ∧ t.inSlice ∧ t.tag = tag then some (false, getF t.slice 12 3)
  else (t.corr.toList.find? fun w => getF w 13 1 == 1 && getF w 0 10 == tag).map fun w => (true, getF w 10 3)

/-- Tags that the neighbour on a port accepts (Table 11.18). -/
def Table.accepts (t : Table) (p : Fin 6) (tag : Nat) : Bool :=
  (List.range 5).any fun k => getF t.portacc[p] (50 + k) 1 == 1 && getF t.portacc[p] (10 * k) 10 == tag

/-- The physical chip of a logical coordinate under version `v` (R245). -/
def Rte.physOf (r : Rte) (v : Fin 2) (l : ChipId) : ChipId :=
  let t := r.tab[v]
  match t.remapOf l with
  | some p => p
  | none =>
    let ax := fun i => (t.origin i + axisOf l i) % r.dim i
    chipId (ax 0) (ax 1) (ax 2)

/-- The chip's own logical coordinate under version `v` (R245); none where RTE_SELF.VALID is 0 (R14). -/
def Rte.logicalOf (r : Rte) (v : Fin 2) : Option ChipId :=
  let t := r.tab[v]
  if r.selfValid = false then none
  else if getF t.logical 32 1 = 1 then some (idOfWord t.logical)
  else if t.role = 1 then
    let ax := fun i => (axisOf r.selfId i + r.dim i - t.origin i) % r.dim i
    let l := chipId (ax 0) (ax 1) (ax 2)
    let moved := t.remap.any fun e => getF e.2 36 1 == 1 && getF e.2 0 18 == l.toNat && getF e.2 18 18 != r.selfId.toNat
    if t.inBox l ∧ ¬ moved then some l else none
  else none

/-! ### Groups (R254, R255) -/

def Table.groupWord (t : Table) (g : BitVec 8) : W64 := Sparse.get 0 t.group g.toNat
def Table.groupValid (t : Table) (g : BitVec 8) : Bool := getF (t.groupWord g) 63 1 == 1
def Table.groupCount (t : Table) (g : BitVec 8) : Nat := getF (t.groupWord g) 0 13
def Table.groupBox (t : Table) (g : BitVec 8) : Bool := getF (t.groupWord g) 13 1 == 1
def Table.groupExt (t : Table) (g : BitVec 8) (i : Nat) : Nat := getF (t.groupWord g) (16 + 7 * i) 7

/-- Member n of a group. -/
def Table.member (t : Table) (g : BitVec 8) (n : Nat) : ChipId :=
  BitVec.ofNat 18 (getF (Sparse.get 0 t.mem (2048 * g.toNat + n / 2)) (32 * (n % 2)) 18)

/-- The members 0 to N − 1 as logical coordinates. -/
def Table.members (t : Table) (g : BitVec 8) : List ChipId := (List.range (t.groupCount g)).map (t.member g)

/-- R255's conditions on a header about to be written. -/
def Table.groupOk (t : Table) (g : BitVec 8) (w : W64) : Bool :=
  let n := getF w 0 13
  let ms := (List.range n).map (t.member g)
  decide (1 ≤ n ∧ n ≤ 4096) && decide ms.Nodup && ms.all t.inBox &&
    (getF w 13 1 == 0 ||
      (let ex := getF w 16 7
       let ey := getF w 23 7
       let ez := getF w 30 7
       let o := t.member g 0
       n == ex * ey * ez && (ms.map fun m => (axisOf m 0, axisOf m 1, axisOf m 2)) ==
         ((List.range ez).flatMap fun k => (List.range ey).flatMap fun j => (List.range ex).map fun i =>
           (axisOf o 0 + i, axisOf o 1 + j, axisOf o 2 + k))))

/-- Is this chip a member of the group under version `v`, and at which index? -/
def Rte.memberIndex (r : Rte) (v : Fin 2) (g : BitVec 8) : Option Nat :=
  match r.logicalOf v with
  | some l => (r.tab[v].members g).findIdx? (· == l)
  | none => none

/-! ### Box order: leaders and deputies (R324) -/

/-- The box members in ascending index x + EX·(y + EY·z). -/
def Table.boxMembers (t : Table) : List ChipId :=
  (List.range (t.ext 2)).flatMap fun z => (List.range (t.ext 1)).flatMap fun y => (List.range (t.ext 0)).map fun x => chipId x y z

/-- The unfenced box members in order, as logical coordinates. -/
def Rte.liveBox (r : Rte) : List ChipId :=
  (r.tab[r.inj].boxMembers).filter fun l => !r.fenced (r.physOf r.inj l)

/-- Commit leader and deputy in this chip's view, as physical chips (R324). -/
def Rte.leader (r : Rte) : Option ChipId := r.liveBox.head?.map (r.physOf r.inj)
def Rte.deputy (r : Rte) : Option ChipId := (r.liveBox.drop 1).head?.map (r.physOf r.inj)

/-! ### Sending -/

/-- A drop of this chip under its injection version (R227, R245). -/
def State.mkDrop (s : State) (ty cls : Nat) (dst : ChipId) (cid : BitVec 13) (so addr : Nat) (bs : List Byte) : Drop :=
  let v := s.rte.inj
  let h := ty + cls * 2 ^ 4 + v.val * 2 ^ 8 + s.rte.tab[v].tag * 2 ^ 10 + dst.toNat * 2 ^ 20 + s.rte.selfId.toNat * 2 ^ 38 +
    cid.toNat * 2 ^ 56 + (so % 2048) * 2 ^ 69 + (addr % 2 ^ 48) * 2 ^ 80
  ⟨fixParity (BitVec.ofNat 128 h), pad48 bs⟩

/-- The router takes drops that this chip injects. -/
def State.inject (s : State) (ds : List Drop) : State :=
  { s with rte := { s.rte with drops := s.rte.drops ++ ds.map fun d => { drop := d, from_ := none } } }

/-- A reply to an arrived drop in its class and with its CID (R229). -/
def State.answer (s : State) (d : Drop) (ty addr : Nat) (bs : List Byte) : State :=
  s.inject [s.mkDrop ty d.cls d.src d.cid 0 addr bs]

/-- One copy of a delivered drop is taken from the router. -/
def State.taken (s : State) (d : Drop) : State := { s with rte := { s.rte with arrived := s.rte.arrived.erase d } }

/-- Discard counts of Tables 11.13 and 11.14. -/
def State.disc0 (s : State) (lo : Nat) : State := { s with rte := { s.rte with discard0 := satF s.rte.discard0 lo 16 1 } }
def State.disc1 (s : State) (lo : Nat) : State := { s with rte := { s.rte with discard1 := satF s.rte.discard1 lo 16 1 } }

/-- Counts by name: HDR 0, TAG 16, NOROUTE 32, STALE 48; FULL 0, EARLY 16, FENCED 32, DUP 48. -/
def State.discHdr (s : State) : State := s.disc0 0
def State.discTag (s : State) : State := s.disc0 16
def State.discNoRoute (s : State) : State := s.disc0 32
def State.discStale (s : State) : State := s.disc0 48
def State.discFull (s : State) : State := s.disc1 0
def State.discEarly (s : State) : State := s.disc1 16
def State.discFenced (s : State) : State := s.disc1 32
def State.discDup (s : State) : State := s.disc1 48

end Machine
end Sys2Proof
end

