-- ==== Sys2Proof/Machine/Regs.lean ====
section
/-!
DEFINITION. The control registers: their addresses (each block's own offset tables), what a read of each returns, and a write
under the access codes of R8 to R10 with the values that a field takes another value for. Registers whose write has a rule of
its own answer in Machine/OrderOps.lean before they come here.
-/
namespace Sys2Proof.Machine

/-! ### Addresses -/

/-- Index below `n` of an address in an array of registers `step` bytes apart. -/
def slotIx (n step off : Nat) : Option (Fin n) := if h : off / step < n ∧ off % step = 0 then some ⟨off / step, h.1⟩ else none

/-- A register of a comb's own block (Tables 2.6, 4.7, 5.5, 6.5, 7.9, 8.13, 9.12). -/
def combRegAt (n : CombId) (o : Nat) : Option Reg :=
  if o = 0x000 then some (.cmbEcc n) else if o = 0x008 then some (.cmbEccAddr n) else if o = 0x010 then some (.cmbSweep n)
  else if o = 0x018 then some (.cmbEnergy n) else if o = 0x020 then some (.cmbAgain n)
  else if o = 0x100 then some (.matStatus n) else if o = 0x108 then some (.matFault n) else if o = 0x110 then some (.matFaultPc n)
  else if o = 0x118 then some (.matSelftest n) else if o = 0x120 then some (.matAgain n) else if o = 0x128 then some (.matVanish n)
  else if o = 0x130 then some (.matOvfl n)
  else if o = 0x200 then some (.extSeed n) else if o = 0x208 then some (.extCtrl n) else if o = 0x210 then some (.extInvalid n)
  else if o = 0x218 then some (.extPoison n)
  else if o = 0x300 then some (.vecStatus n) else if o = 0x308 then some (.vecAgain n)
  else if 0x400 ≤ o ∧ o < 0x980 then
    (match slotIx 4 8 ((o - 0x400) % 0x20) with
      | some j => if h : (o - 0x400) % 0x160 / 0x20 < 11 then
          some (.extRange n ⟨(o - 0x400) / 0x160 % 4, Nat.mod_lt _ (by decide)⟩ ⟨(o - 0x400) % 0x160 / 0x20, h⟩ j) else none
      | none => none)
  else if 0xA00 ≤ o ∧ o < 0xE00 then
    (match slotIx 32 8 ((o - 0xA00) % 0x100) with
      | some j => some (.extHist n ⟨(o - 0xA00) / 0x100 % 4, Nat.mod_lt _ (by decide)⟩ j)
      | none => none)
  else if o = 0xE00 then some (.seqStatus n) else if o = 0xE08 then some (.seqPc n) else if o = 0xE10 then some (.seqFault n)
  else if o = 0xE18 then some (.seqExc n) else if o = 0xE20 then some (.seqFrame n) else if o = 0xE28 then some (.seqId n)
  else if o = 0xE30 then some (.seqQcount n) else if o = 0xE38 then some (.seqAgain n)
  else if o = 0xF00 then some (.crrStatus n) else if o = 0xF08 then some (.crrOob n) else if o = 0xF10 then some (.crrAgain n)
  else none

/-- Square-store registers (Table 2.11). -/
def squareRegAt (m : SqId) (o : Nat) : Option Reg :=
  match o with
  | 0x00 => some (.sqrEcc m) | 0x08 => some (.sqrEccAddr m) | 0x10 => some (.sqrSweep m) | 0x18 => some (.sqrAovf m)
  | 0x20 => some (.sqrAgain m) | _ => none

/-- Link registers (10). -/
def linkRegAt (i : LinkId) (o : Nat) : Option Reg :=
  match o with
  | 0x00 => some (.lnkStatus i) | 0x08 => some (.lnkCtrl i) | 0x10 => some (.lnkErr i) | 0x18 => some (.lnkReplay i)
  | 0x20 => some (.lnkRw i) | 0x28 => some (.lnkDelay i) | 0x30 => some (.lnkAgain i) | _ => none

/-- Router registers (Table 11.6). -/
def rteRegAt (o : Nat) : Option Reg :=
  match o with
  | 0x00 => some .rteSelf | 0x08 => some .rteCableFault | 0x10 => some .rteMachine | 0x18 => some .rteEpoch | 0x20 => some .rteFlip
  | 0x28 => some .rteDrain | 0x30 => some .rteHeld | 0x38 => some .rteRetx | 0x40 => some .rteDiscard0 | 0x48 => some .rteDiscard1
  | 0x50 => some .rteAgain | _ => none

/-- Collective registers. -/
def colRegAt (o : Nat) : Option Reg :=
  match o with
  | 0x00 => some .colCfg | 0x08 => some .colSpill | 0x10 => some .colStatus | 0x18 => some .colCount | 0x20 => some .colAgain
  | _ => none

/-- Time registers (Table 13.8). -/
def chmRegAt (o : Nat) : Option Reg :=
  match o with
  | 0x00 => some .chmStatus | 0x08 => some .chmNow | 0x10 => some .chmChime | 0x18 => some .chmInterval | 0x20 => some .chmPending
  | 0x28 => some .chmPendat | 0x30 => some .chmRoot | 0x38 => some .chmCfg | 0x40 => some .chmBase | 0x48 => some .chmAgain
  | _ => (if 0x100 ≤ o then (slotIx 24 8 (o - 0x100)).map .chmLink else none)

/-- Seal registers (Table 14.5). -/
def sealRegAt (o : Nat) : Option Reg :=
  match o with
  | 0x00 => some .sealLevel | 0x08 => some .sealLevelat | 0x10 => some .sealStatus | 0x18 => some .sealCount | 0x20 => some .sealAgain
  | _ => none

/-- Step registers (Table 15.5). -/
def stpRegAt (o : Nat) : Option Reg :=
  match o with
  | 0x00 => some .stpMasterBank | 0x08 => some .stpStep | 0x10 => some .stpLast | 0x18 => some .stpStatus | 0x20 => some .stpCfg
  | 0x28 => some .stpDecideat | 0x30 => some .stpAgain
  | _ => (if 0x800 ≤ o then (slotIx 256 8 (o - 0x800)).map .stpStage else none)

/-- Memory-controller registers (Table 16.3). -/
def memRegAt (c : McId) (o : Nat) : Option Reg :=
  match o with
  | 0x00 => some (.memStatus c) | 0x08 => some (.memStrength c) | 0x10 => some (.memRecode c) | 0x18 => some (.memErr c)
  | 0x20 => some (.memErrAddr c) | 0x28 => some (.memSweep c) | 0x30 => some (.memAovf c) | 0x38 => some (.memAgain c) | _ => none

/-- Ethernet registers (Table 17.8). -/
def ethRegAt (o : Nat) : Option Reg :=
  match o with
  | 0x00 => some .ethStatus | 0x08 => some .ethCfg | 0x10 => some .ethNotify | 0x18 => some .ethCount | 0x20 => some .ethAgain
  | _ => none

/-- Warden, chronicle and power registers (Tables 18.9, 19.9, 20.6). -/
def wdnRegAt (o : Nat) : Option Reg :=
  match o with
  | 0x000 => some .wdnStatus | 0x008 => some .wdnFw | 0x010 => some .wdnProt
  | 0x100 => some .wdnFault | 0x108 => some .wdnRstcause | 0x110 => some .wdnLatent | 0x118 => some .wdnAgain
  | 0x200 => some .chrStatus | 0x208 => some .chrRefused
  | 0x300 => some .pwrStatus | 0x308 => some .pwrVin | 0x310 => some .pwrTherm | 0x318 => some .pwrCtrl | 0x320 => some .pwrEnergy
  | 0x328 => some .pwrAgain | _ => none

/-- A register of a versioned table block (Table 11.5, R254). -/
def tableRegAt (v : Fin 2) (o : Nat) : Option Reg :=
  if o = 0 then some (.rteSlice v) else if o = 8 then some (.rteLogical v) else if o = 0x10 then some (.rteBuddy v)
  else if 0x40 ≤ o ∧ o < 0x70 then (slotIx 6 8 (o - 0x40)).map (.rtePortacc v)
  else if 0x80 ≤ o ∧ o < 0xA0 then (slotIx 4 8 (o - 0x80)).map (.rteCorr v)
  else if 0x1000 ≤ o ∧ o < 0x3000 then (slotIx 1024 8 (o - 0x1000)).map (.rteRemap v)
  else if 0x100000 ≤ o ∧ o < 0x100800 then (slotIx 256 8 (o - 0x100000)).map (.colGroup v)
  else if 0x200000 ≤ o ∧ o < 0x600000 then
    (match slotIx 2048 8 ((o - 0x200000) % 0x4000) with
      | some w => some (.colMem v ⟨(o - 0x200000) / 0x4000 % 256, Nat.mod_lt _ (by decide)⟩ w)
      | none => none)
  else none

/-- The register at a device address; none where no register lies or the address is no multiple of 8 (R7). -/
def regAt (a : Nat) : Option Reg :=
  let o := a - 0x010200000000
  if a < 0x010200000000 ∨ a % 8 ≠ 0 then none
  else if 0x1000 ≤ o ∧ o < 0x1200 then (slotIx 64 8 (o - 0x1000)).map .cmbMap
  else if 0x100000 ≤ o ∧ o < 0x140000 then combRegAt ⟨(o - 0x100000) / 0x1000 % 64, Nat.mod_lt _ (by decide)⟩ (o % 0x1000)
  else if 0x200000 ≤ o ∧ o < 0x220000 then
    (slotIx 256 8 (o % 0x800)).map (.cnt ⟨(o - 0x200000) / 0x800 % 64, Nat.mod_lt _ (by decide)⟩)
  else if 0x300000 ≤ o ∧ o < 0x301000 then squareRegAt ⟨(o - 0x300000) / 0x100 % 16, Nat.mod_lt _ (by decide)⟩ (o % 0x100)
  else if 0x1000000 ≤ o ∧ o < 0x1001800 then linkRegAt ⟨(o - 0x1000000) / 0x100 % 24, Nat.mod_lt _ (by decide)⟩ (o % 0x100)
  else if o = 0x1002000 then some .lnkCfg
  else if 0x2000000 ≤ o ∧ o < 0x2001000 then rteRegAt (o - 0x2000000)
  else if 0x2010000 ≤ o ∧ o < 0x2018000 then (slotIx 4096 8 (o - 0x2010000)).map .rteFence
  else if 0x3000000 ≤ o ∧ o < 0x3001000 then colRegAt (o - 0x3000000)
  else if 0x4000000 ≤ o ∧ o < 0x4001000 then chmRegAt (o - 0x4000000)
  else if 0x5000000 ≤ o ∧ o < 0x5001000 then sealRegAt (o - 0x5000000)
  else if 0x5100000 ≤ o ∧ o < 0x5500000 then
    some (.sealSlot ⟨(o - 0x5100000) / 64 % 65536, Nat.mod_lt _ (by decide)⟩ ⟨o / 8 % 8, Nat.mod_lt _ (by decide)⟩)
  else if 0x6000000 ≤ o ∧ o < 0x6001000 then stpRegAt (o - 0x6000000)
  else if 0x7000000 ≤ o ∧ o < 0x7001800 then memRegAt ⟨(o - 0x7000000) / 0x100 % 24, Nat.mod_lt _ (by decide)⟩ (o % 0x100)
  else if o = 0x7002000 then some .memCfg
  else if 0x8000000 ≤ o ∧ o < 0x8001000 then ethRegAt (o - 0x8000000)
  else if 0x9000000 ≤ o ∧ o < 0x9001000 then wdnRegAt (o - 0x9000000)
  else if 0x10000000 ≤ o ∧ o < 0x12000000 then
    tableRegAt ⟨(o - 0x10000000) / 0x1000000 % 2, Nat.mod_lt _ (by decide)⟩ (o % 0x1000000)
  else none

/-- A control-register address as csrr and csrw of comb c mean it: the self window first (R139). -/
def regFor (c : CombId) (a : Nat) : Option Reg :=
  if a % 8 ≠ 0 then none
  else if 0x010200010000 ≤ a ∧ a < 0x010200011000 then combRegAt c (a - 0x010200010000)
  else if 0x010200011000 ≤ a ∧ a < 0x010200011800 then (slotIx 256 8 (a - 0x010200011000)).map (.cnt c)
  else regAt a

/-- May a csrw of comb c write it: the comb's own block or one of its counters (R138)? -/
def ownReg (c : CombId) : Reg → Bool
  | .cmbEcc n | .cmbEccAddr n | .cmbSweep n | .cmbEnergy n | .cmbAgain n | .matStatus n | .matFault n | .matFaultPc n
  | .matSelftest n | .matAgain n | .matVanish n | .matOvfl n | .extSeed n | .extCtrl n | .extInvalid n | .extPoison n
  | .extRange n _ _ _ | .extHist n _ _ | .vecStatus n | .vecAgain n | .seqStatus n | .seqPc n | .seqFault n | .seqExc n
  | .seqFrame n | .seqId n | .seqQcount n | .seqAgain n | .crrStatus n | .crrOob n | .crrAgain n | .cnt n _ => n == c
  | _ => false

/-! ### Reads -/

/-- A word from (low bit, value) fields. -/
def pack (fs : List (Nat × Nat)) : W64 := BitVec.ofNat 64 (fs.foldl (fun t f => t + f.2 * 2 ^ f.1) 0)

/-- Home square of a logical comb (R23). -/
def homeSquare (n : CombId) : SqId := ⟨4 * (n.val / 8 / 2) + n.val % 8 / 2, by have := n.isLt; omega⟩

/-- Attachment square of a physical comb (R23, Table 2.2). -/
def attachSquare (p : Nat) : Nat :=
  if p < 64 then 4 * (p / 8 / 2) + p % 8 / 2 else [5, 6, 9, 10].getD (p - 64) 0

/-- Codes of LNK_STATUS.STATE (Table 10.7). -/
def LinkState.code : LinkState → Nat
  | .off => 0 | .down => 1 | .training => 2 | .aligned => 3 | .active => 4 | .notice => 5 | .roadworks => 6 | .failed => 7

/-- The throttle step in force (R409). -/
def State.step_ (s : State) : Nat :=
  min s.wdn.prof.deepest.toNat (max s.pwr.thstep.toNat (max s.pwr.curstep.toNat s.pwr.stepmin.toNat))

/-- WDN_FAULT with its live bits (Table 18.10). -/
def State.wdnFault (s : State) : W64 := setB s.wdn.fault 8 (s.dev.st == .fenced)

/-- SVN field of a bank's image (Table 19.3). -/
def FwBank.svn (b : FwBank) : Nat := leNat ((b.bytes.drop 8).take 4)

/-- ROUND of STP_STATUS (Table 15.9). -/
def Stp.roundCode (p : Stp) : Nat :=
  match p.round with
  | none => 0
  | some r => if r.decision.isSome then 3 else if r.chipVote.isSome then 2 else 1

/-- The eight words of a seal slot (Table 14.3). -/
def SealSlot.word (x : SealSlot) (w : Nat) : W64 :=
  if w < 6 then BitVec.ofNat 64 (leNat ((x.digest.drop (8 * w)).take 8))
  else if w = 6 then x.chime
  else pack [(63, x.valid.toNat), (62, x.poison.toNat), (61, x.clash.toNat), (58, x.src.toNat), (0, x.length.toNat)]

/-- Seal slot s. -/
def Seals.slot (x : Seals) (i : Nat) : SealSlot := Sparse.get {} x.slots i

/-- A command that is a datagram at the host port. -/
def isOrder : Instr → Bool
  | .status .. | .regRead .. | .regWrite .. | .bulkWrite .. | .bulkRead .. | .muster .. | .load .. | .start .. | .quiesce .. | .resume ..
  | .certify .. | .attest .. | .chrRead .. | .nameRoot .. | .tableWrite .. | .resetComb .. | .resetCompute .. | .resetCore .. | .resetFull ..
  | .profileSelect .. | .ethernetDefaults .. | .fwStageImage .. | .fwStageProfile .. | .fwStageKeySet .. | .fwSwitch .. | .chrClear ..
  | .protQuery .. | .rteSelfWrite .. | .rteFlipWrite .. | .rteEpochRelease .. | .rteFenceWrite .. | .colGroupWrite .. | .colMemWrite ..
  | .colCfgWrite .. | .chmPendingWrite .. | .chmRootWrite .. | .chmCfgWrite .. | .sealLevelPendWrite .. | .sealLevelatWrite ..
  | .stpRegisterWrite .. | .memStrengthWrite .. | .sweeperDisable .. | .rwnow .. | .linkEnWrite .. | .txanWrite .. | .stepminWrite ..
  | .prefWrite .. => true
  | _ => false

/-- Orders waiting (Table 17.9) (DESIGN CHOICE, log entry 97). -/
def State.waiting (s : State) : Nat := (s.pending.filter isOrder).length

/-- What a read of a register returns. -/
def State.readReg (s : State) : Reg → W64
  | .cmbMap n => (s.comb n).map
  | .cmbEcc n => (s.comb n).ecc
  | .cmbEccAddr n => (s.comb n).eccAddr
  | .cmbSweep n => (s.comb n).sweep
  | .cmbEnergy n => (s.comb n).energy
  | .cmbAgain n => (s.comb n).again
  | .matStatus n =>
    let k := s.comb n
    pack [(28, k.mat.shape.toNat), (16, k.shapeN k.mat.shape), (8, k.width), (5, k.mat.full.toNat), (4, k.mat.active.isSome.toNat),
      (1, k.mat.mode.toNat)]
  | .matFault n => (s.comb n).mat.fault
  | .matFaultPc n => (s.comb n).mat.faultPc
  | .matSelftest n => (s.comb n).mat.selftest
  | .matAgain n => (s.comb n).mat.again
  | .matVanish n => (s.comb n).mat.vanish
  | .matOvfl n => (s.comb n).mat.ovfl
  | .extSeed n => (s.comb n).ext.seed
  | .extCtrl n => (s.comb n).ext.ctrl
  | .extInvalid n => (s.comb n).ext.invalid
  | .extPoison n => (s.comb n).ext.poison
  | .extRange n k f j =>
    let t := fun i => (Sparse.get 0 (s.comb n).ext.census (1024 + 88 * k.val + 8 * f.val + i)).toNat
    match j.val with
    | 0 => pack [(32, t 1), (0, t 0)]
    | 1 => pack [(32, t 3), (0, t 2)]
    | 2 => pack [(32, t 5), (0, t 4)]
    | _ => pack [(0, t 6)]
  | .extHist n k j =>
    let b := fun i => (Sparse.get 0 (s.comb n).ext.census (256 * k.val + i)).toNat
    pack [(32, b (2 * j.val + 1)), (0, b (2 * j.val))]
  | .vecStatus n => (s.comb n).vecStatus
  | .vecAgain n => (s.comb n).vecAgain
  | .seqStatus n =>
    let q := (s.comb n).seq
    pack [(19, (q.busy[3] != 0).toNat), (18, (q.busy[2] != 0).toNat), (17, (q.busy[1] != 0).toNat), (16, (q.busy[0] != 0).toNat),
      (0, q.st.code)]
  | .seqPc n => (s.comb n).seq.pc.setWidth 64
  | .seqFault n => (s.comb n).seq.fault
  | .seqExc n => (s.comb n).seq.exc
  | .seqFrame n => (s.comb n).seq.frame
  | .seqId n =>
    let p := getF (s.comb n).map 0 7
    pack [(24, attachSquare p), (16, (homeSquare n).val), (8, p), (0, n.val)]
  | .seqQcount n =>
    let q := (s.comb n).seq
    pack [(48, q.busy[3]), (32, q.busy[2]), (16, q.busy[1]), (0, q.busy[0])]
  | .seqAgain n => (s.comb n).seq.again
  | .crrStatus n => (s.comb n).crrStatus
  | .crrOob n => (s.comb n).crrOob
  | .crrAgain n => (s.comb n).crrAgain
  | .cnt n i => ((s.comb n).seq.cnt[i]).setWidth 64
  | .sqrEcc m => s.squares[m].ecc
  | .sqrEccAddr m => s.squares[m].eccAddr
  | .sqrSweep m => s.squares[m].sweep
  | .sqrAovf m => s.squares[m].aovf
  | .sqrAgain m => s.squares[m].again
  | .lnkStatus i =>
    let l := s.links[i]
    let lane := fun (x : Option (Fin 8)) => match x with | some v => v.val | none => 0
    pack [(23, l.rxSpare.isSome.toNat), (20, lane l.rxSpare), (19, l.txSpare.isSome.toNat), (16, lane l.txSpare),
      (8, l.chimex.toNat), (0, l.st.code)]
  | .lnkCtrl i => pack [(0, s.links[i].en.toNat)]
  | .lnkErr i => s.links[i].err
  | .lnkReplay i => s.links[i].replay
  | .lnkRw i => s.links[i].rw
  | .lnkDelay i => s.links[i].delay
  | .lnkAgain i => s.links[i].again
  | .lnkCfg => s.lnkCfg
  | .rteSelf => s.rte.self
  | .rteCableFault => s.rte.cableFault
  | .rteMachine => s.rte.machine
  | .rteEpoch => pack [(2, (s.rte.flip != 0).toNat), (1, s.rte.released.toNat), (0, s.rte.inj.val)]
  | .rteFlip => s.rte.flip
  | .rteDrain => s.rte.zeroSince ++ (if s.rte.run then 1#1 else 0#1)
  | .rteHeld => s.rte.held1 ++ s.rte.held0
  | .rteRetx => s.rte.retx
  | .rteDiscard0 => s.rte.discard0
  | .rteDiscard1 => s.rte.discard1
  | .rteAgain => s.rte.again
  | .rteFence w => Sparse.get 0 s.rte.fence w.val
  | .rteSlice v => s.rte.tab[v].slice
  | .rteLogical v => s.rte.tab[v].logical
  | .rteBuddy v => s.rte.tab[v].buddy
  | .rtePortacc v p => s.rte.tab[v].portacc[p]
  | .rteCorr v j => s.rte.tab[v].corr[j]
  | .rteRemap v i => Sparse.get 0 s.rte.tab[v].remap i.val
  | .colGroup v g => Sparse.get 0 s.rte.tab[v].group g.val
  | .colMem v g w => Sparse.get 0 s.rte.tab[v].mem (2048 * g.val + w.val)
  | .colCfg => s.col.cfgNext.getD s.col.cfg
  | .colSpill => s.col.spillNext.getD s.col.spill
  | .colStatus =>
    s.col.status ||| pack [(48, (s.col.colls.filter (·.admitted)).length + (s.col.bars.filter (·.started)).length), (32, s.col.queue.length), (16, 16 * s.pool - s.col.used)]
  | .colCount => s.col.count
  | .colAgain => s.col.again
  | .chmStatus => pack [(56, s.chm.hops.toNat), (48, s.chm.offset.toNat), (7, s.chm.syncloss.toNat), (6, s.chm.drift.toNat),
      (5, s.chm.orphan.toNat), (4, s.chm.isDeputy.toNat), (3, s.chm.isRoot.toNat), (0, s.chm.phase.toNat)]
  | .chmNow => BitVec.ofNat 64 s.chm.tb
  | .chmChime => s.chm.n
  | .chmInterval => s.chm.ival.setWidth 64
  | .chmPending => pack [(26, s.chm.pendV.toNat), (0, s.chm.pendC.toNat)]
  | .chmPendat => s.chm.pendAt
  | .chmRoot => pack [(40, s.chm.deputy.toNat), (20, s.chm.elected.toNat), (18, s.chm.prefV.toNat), (0, s.chm.pref.toNat)]
  | .chmCfg => s.chm.cfg
  | .chmBase => s.chm.base
  | .chmAgain => s.chm.again
  | .chmLink i => s.chm.link[i]
  | .sealLevel => pack [(8, s.seals.pend.toNat), (0, s.seals.level.toNat)]
  | .sealLevelat => s.seals.at_
  | .sealStatus => s.seals.status
  | .sealCount => pack [(32, s.seals.count.toNat), (0, s.seals.bytes / 2 ^ 30 % 2 ^ 32)]
  | .sealAgain => s.seals.again
  | .sealSlot i w => (s.seals.slot i.val).word w.val
  | .stpMasterBank => pack [(32, s.stp.flips.toNat), (0, s.stp.bank.toNat)]
  | .stpStep => s.stp.step
  | .stpLast => s.stp.last
  | .stpStatus => pack [(32, s.stp.skips.toNat), (10, s.stp.undecided.toNat), (9, s.stp.late.toNat),
      (7, (s.rte.leader == some s.rte.selfId).toNat), (6, (s.rte.deputy == some s.rte.selfId).toNat),
      (5, s.stp.decision.toNat), (4, s.stp.vote.toNat), (0, s.stp.roundCode)]
  | .stpCfg => s.stp.cfg
  | .stpDecideat => s.stp.decideAt
  | .stpAgain => s.stp.again
  | .stpStage k => Sparse.get 0 s.stp.stages k.val
  | .memStatus c =>
    let m := s.mcs[c]
    pack [(48, m.retrains.toNat), (32, m.slots.length), (16, m.rtpc.toNat), (8, m.rt.toNat), (0, m.temp.toNat)]
  | .memStrength c => s.mcs[c].strength
  | .memRecode c => s.mcs[c].recode
  | .memErr c => s.mcs[c].err
  | .memErrAddr c => s.mcs[c].errAddr
  | .memSweep c => s.mcs[c].sweep
  | .memAovf c => s.mcs[c].aovf
  | .memAgain c => s.mcs[c].again
  | .memCfg => s.mem.cfg
  | .ethStatus => pack [(16, min 255 s.eth.bulks.length), (8, min 255 s.waiting), (7, s.eth.pnexh.toNat), (6, s.eth.linkUp.toNat),
      (0, s.dev.st.code)]
  | .ethCfg => s.eth.cfg
  | .ethNotify => s.eth.notify
  | .ethCount => s.eth.count
  | .ethAgain => s.eth.again
  | .wdnStatus => pack [(17, s.wdn.pins.toNat), (16, s.wdn.profArm.isSome.toNat), (8, s.wdn.profNo.toNat), (3, s.wdn.closed.toNat),
      (0, s.wdn.phase.toNat)]
  | .wdnFw => pack [(32, (s.wdn.banks[(if s.wdn.bank then 1 else 0 : Fin 2)]).svn % 2 ^ 32), (8, s.wdn.svnMin.toNat % 2 ^ 24), (4, s.wdn.armed.toNat),
      (3, s.wdn.staged.toNat), (2, s.wdn.nofw.toNat), (1, s.wdn.fallback.toNat), (0, s.wdn.bank.toNat)]
  | .wdnProt => pack [(8, s.wdn.jtag.toNat), (0, (s.wdn.keys.toList.zipIdx.foldl (fun t k => t + (if k.1.isSome then 2 ^ k.2 else 0)) 0))]
  | .wdnFault => s.wdnFault
  | .wdnRstcause => s.wdn.rstcause
  | .wdnLatent => s.wdn.latent
  | .wdnAgain => s.wdn.again
  | .chrStatus => pack [(32, s.chr.queue.length), (18, s.chr.clearing.isSome.toNat), (0, s.chr.records.length)]
  | .chrRefused => pack [(32, s.chr.full.toNat), (0, s.chr.qfull.toNat)]
  | .pwrStatus => pack [(48, s.pwr.xfers.toNat), (7, s.pwr.ilim.toNat), (6, s.pwr.overT.toNat), (4, s.pwr.vaux.2.toNat),
      (3, s.pwr.vaux.1.toNat), (2, s.pwr.vin.2.toNat), (1, s.pwr.vin.1.toNat), (0, s.pwr.onB.toNat)]
  | .pwrVin => pack [(48, s.pwr.ib.toNat), (32, s.pwr.ia.toNat), (16, s.pwr.vb.toNat), (0, s.pwr.va.toNat)]
  | .pwrTherm => pack [(32, s.pwr.tjmax.toNat), (24, s.wdn.prof.deepest.toNat), (16, s.step_), (8, s.pwr.curstep.toNat),
      (0, s.pwr.thstep.toNat)]
  | .pwrCtrl => pack [(8, s.pwr.pref.toNat), (0, s.pwr.stepmin.toNat)]
  | .pwrEnergy => s.pwr.energy
  | .pwrAgain => s.pwr.again

/-- The energy counters rise by what the units have drawn since they were last read: a free value (R38, R419, DESIGN CHOICE, log entry 6). -/
def State.meter (s : State) : Reg → State
  | .cmbEnergy n => let (e, s1) := s.draw; s1.modComb n fun k => { k with energy := k.energy + e }
  | .pwrEnergy => let (e, s1) := s.draw; { s1 with pwr := { s1.pwr with energy := s1.pwr.energy + e } }
  | _ => s

/-! ### Writes under the access codes -/

/-- A value taken at the nearer end of a range. -/
def clamp (lo hi v : Nat) : Nat := max lo (min hi v)

/-- RW bits and W1C bits of a register: those a write reaches (R8, R10). -/
def regMasks : Reg → W64 × W64
  | .cmbEcc _ | .sqrEcc _ => (0, 3)
  | .cmbSweep _ | .sqrSweep _ | .memSweep _ => (0x10000FFFF, 0)
  | .matFault _ => (0, 0xF)
  | .extSeed _ => (BitVec.allOnes 64, 0)
  | .extCtrl _ => (0xFFFFFFFFFFFF, 0)
  | .vecStatus _ | .crrStatus _ => (0, 3)
  | .seqExc _ => (0, 0x1000000000000)
  | .cnt _ _ => (0xFFFFFFFF, 0)
  | .lnkCtrl _ => (1, 0)
  | .lnkErr _ => (0, 7)
  | .lnkCfg => (0x00FFFFFF00FFFFFF, 0)
  | .rteSelf => (0x1003F3F3F, 0)
  | .rteCableFault => (0, 0xFFFFFF)
  | .rteMachine => (0x77F7F7F, 0)
  | .rteFlip => (BitVec.allOnes 64, 0)
  | .rteRetx => (0xF03FFF, 0)
  | .rteFence _ => (BitVec.allOnes 64, 0)
  | .rteSlice _ => (0x7FFFFFFFFF7FFF, 0)
  | .rteLogical _ => (0x1003F3F3F, 0)
  | .rteBuddy _ => (0x13F3F3F013F3F3F, 0)
  | .rtePortacc _ _ => (0x7FFFFFFFFFFFFF, 0)
  | .rteCorr _ _ => (0x3FFF, 0)
  | .rteRemap _ _ => (0x1FFFFFFFFF, 0)
  | .colGroup _ _ => (0x8000001FFFFF3FFF, 0)
  | .colMem _ _ _ => (0x3FFFF0003FFFF, 0)
  | .colCfg => (0x1000F, 0)
  | .colSpill => (BitVec.allOnes 64, 0)
  | .colStatus => (0, 0x1F)
  | .chmStatus => (0, 0xC0)
  | .chmPending => (0x3FFFFFF, 0)
  | .chmRoot => (0x3FFFF0000000000 ||| 0x7FFFF, 0)
  | .chmCfg => (0xFFF0000000F, 0)
  | .sealLevel => (0x300, 0)
  | .sealLevelat => (BitVec.allOnes 64, 0)
  | .sealStatus => (0, 0xF)
  | .stpMasterBank => (1, 0)
  | .stpStep => (BitVec.allOnes 64, 0)
  | .stpStatus => (0, 0x600)
  | .stpCfg => (0xFFFF01FFFFFF, 0)
  | .stpStage _ => (0x1EFFF00FF, 0)
  | .memStrength _ => (0xFFFF, 0)
  | .memErr _ => (0, 7)
  | .memCfg => (0xFFFF0000, 0)
  | .ethStatus => (0, 0x80)
  | .ethCfg => (0xE0FFFFFFF, 0)
  | .ethNotify => (0xC0FFFFFF0000FFFF, 0)
  | .wdnFault => (0, 0xF8)
  | .wdnRstcause => (0, 8)
  | .wdnLatent => (0, 0x3F)
  | .wdnProt => (0x13F, 0)
  | .pwrStatus => (0, 0xC0)
  | .pwrCtrl => (0x107, 0)
  | _ => (0, 0)

/-- The AGAIN counters (R9). -/
def regIsAgain : Reg → Bool
  | .cmbAgain _ | .matAgain _ | .vecAgain _ | .seqAgain _ | .crrAgain _ | .sqrAgain _ | .lnkAgain _ | .rteAgain | .colAgain
  | .chmAgain | .sealAgain | .stpAgain | .memAgain _ | .ethAgain | .wdnAgain | .pwrAgain => true
  | _ => false

/-- What a register holds after a write of `v` over `old` (R8): RW bits from `v`, W1C bits cleared where `v` has 1, and the
values that its description takes for others. -/
def regMerge (r : Reg) (old v : W64) : W64 :=
  let m := regMasks r
  let w := ((old &&& ~~~m.1) ||| (v &&& m.1)) &&& ~~~(v &&& m.2)
  match r with
  | .cmbSweep _ | .sqrSweep _ => setF w 0 16 (clamp 600 60000 (getF w 0 16))
  | .memSweep _ => setF w 0 16 (clamp 12 3600 (getF w 0 16))
  | .lnkCfg => setF (setF w 0 16 (clamp 1 3600 (getF w 0 16))) 16 8 (max 1 (getF w 16 8))
  | .rteRetx => setF (setF w 0 14 (clamp 5 10000 (getF w 0 14))) 20 4 (max 1 (getF w 20 4))
  | .colCfg => setF w 0 4 (min 14 (getF w 0 4))
  | .chmCfg => setF (setF w 32 12 (clamp 10 4000 (getF w 32 12))) 0 4 (max 1 (getF w 0 4))
  | .stpCfg => setF (setF w 32 16 (clamp 10 10000 (getF w 32 16))) 0 16 (max 1 (getF w 0 16))
  | .memCfg => setF w 16 16 (clamp 100 60000 (getF w 16 16))
  | _ => w

/-- Cause bits of WDN_FAULT whose cause is still present: they set again in the next cycle (R384). -/
def State.faultCauses (s : State) : W64 :=
  pack [(4, (!s.dev.refclkOk || s.chm.syncloss).toNat), (3, (!(s.pwr.vin.1 || s.pwr.vin.2)).toNat)]

/-- Put a merged word back where the register lives. -/
def State.putReg (s : State) (r : Reg) (w : W64) : State :=
  match r with
  | .cmbEcc n => s.modComb n fun k => { k with ecc := w }
  | .cmbSweep n => s.modComb n fun k => { k with sweep := w }
  | .cmbAgain n => s.modComb n fun k => { k with again := w }
  | .matFault n => s.modMat n fun m => { m with fault := w }
  | .matAgain n => s.modMat n fun m => { m with again := w }
  | .extSeed n => s.modExt n fun x => { x with seed := w }
  | .extCtrl n => s.modExt n fun x => { x with ctrl := w }
  | .vecStatus n => s.modComb n fun k => { k with vecStatus := w }
  | .vecAgain n => s.modComb n fun k => { k with vecAgain := w }
  | .seqExc n => s.modSeq n fun q => { q with exc := w }
  | .seqAgain n => s.modSeq n fun q => { q with again := w }
  | .crrStatus n => s.modComb n fun k => { k with crrStatus := w }
  | .crrAgain n => s.modComb n fun k => { k with crrAgain := w }
  | .cnt n i => s.modSeq n fun q => { q with cnt := q.cnt.set i (w.setWidth 32) }
  | .sqrEcc m => s.modSquare m fun x => { x with ecc := w }
  | .sqrSweep m => s.modSquare m fun x => { x with sweep := w }
  | .sqrAgain m => s.modSquare m fun x => { x with again := w }
  | .lnkCtrl i => s.modLink i fun l => { l with en := getF w 0 1 == 1 }
  | .lnkErr i => s.modLink i fun l => { l with err := w }
  | .lnkAgain i => s.modLink i fun l => { l with again := w }
  | .lnkCfg => { s with lnkCfg := w }
  | .rteSelf => { s with rte := { s.rte with self := w } }
  | .rteCableFault => { s with rte := { s.rte with cableFault := w } }
  | .rteMachine => { s with rte := { s.rte with machine := w } }
  | .rteFlip => { s with rte := { s.rte with flip := w } }
  | .rteRetx => { s with rte := { s.rte with retx := w } }
  | .rteAgain => { s with rte := { s.rte with again := w } }
  | .rteFence i => { s with rte := { s.rte with fence := Sparse.set 0 s.rte.fence i.val w } }
  | .rteSlice v => { s with rte := { s.rte with tab := s.rte.tab.set v { s.rte.tab[v] with slice := w } } }
  | .rteLogical v => { s with rte := { s.rte with tab := s.rte.tab.set v { s.rte.tab[v] with logical := w } } }
  | .rteBuddy v => { s with rte := { s.rte with tab := s.rte.tab.set v { s.rte.tab[v] with buddy := w } } }
  | .rtePortacc v p => { s with rte := { s.rte with tab := s.rte.tab.set v { s.rte.tab[v] with portacc := s.rte.tab[v].portacc.set p w } } }
  | .rteCorr v j => { s with rte := { s.rte with tab := s.rte.tab.set v { s.rte.tab[v] with corr := s.rte.tab[v].corr.set j w } } }
  | .rteRemap v i => { s with rte := { s.rte with tab := s.rte.tab.set v { s.rte.tab[v] with remap := Sparse.set 0 s.rte.tab[v].remap i.val w } } }
  | .colGroup v g => { s with rte := { s.rte with tab := s.rte.tab.set v { s.rte.tab[v] with group := Sparse.set 0 s.rte.tab[v].group g.val w } } }
  | .colMem v g i => { s with rte := { s.rte with tab := s.rte.tab.set v { s.rte.tab[v] with
      mem := Sparse.set 0 s.rte.tab[v].mem (2048 * g.val + i.val) w } } }
  | .colCfg => { s with col := { s.col with cfg := w } }
  | .colSpill => { s with col := { s.col with spill := w } }
  | .colStatus => { s with col := { s.col with status := w &&& 0x1F } }
  | .colAgain => { s with col := { s.col with again := w } }
  | .chmStatus => { s with chm := { s.chm with syncloss := getF w 7 1 == 1, drift := getF w 6 1 == 1 } }
  | .chmPending => { s with chm := { s.chm with pendC := BitVec.ofNat 26 (getF w 0 26) } }
  | .chmRoot => { s with chm := { s.chm with
      deputy := BitVec.ofNat 18 (getF w 40 18), prefV := getF w 18 1 == 1, pref := BitVec.ofNat 18 (getF w 0 18) } }
  | .chmCfg => { s with chm := { s.chm with cfg := w } }
  | .chmAgain => { s with chm := { s.chm with again := w } }
  | .sealLevel => { s with seals := { s.seals with pend := BitVec.ofNat 2 (getF w 8 2) } }
  | .sealLevelat => { s with seals := { s.seals with at_ := w } }
  | .sealStatus => { s with seals := { s.seals with status := w } }
  | .sealAgain => { s with seals := { s.seals with again := w } }
  | .stpMasterBank => { s with stp := { s.stp with bank := getF w 0 1 == 1 } }
  | .stpStep => { s with stp := { s.stp with step := w } }
  | .stpStatus => { s with stp := { s.stp with undecided := getF w 10 1 == 1, late := getF w 9 1 == 1 } }
  | .stpCfg => { s with stp := { s.stp with cfg := w } }
  | .stpAgain => { s with stp := { s.stp with again := w } }
  | .stpStage k => { s with stp := { s.stp with stages := Sparse.set 0 s.stp.stages k.val w } }
  | .memStrength c => s.modMc c fun m => { m with strength := w }
  | .memErr c => s.modMc c fun m => { m with err := w }
  | .memSweep c => s.modMc c fun m => { m with sweep := w }
  | .memAgain c => s.modMc c fun m => { m with again := w }
  | .memCfg => s.modMem fun m => { m with cfg := w }
  | .ethStatus => { s with eth := { s.eth with pnexh := getF w 7 1 == 1 } }
  | .ethCfg => { s with eth := { s.eth with cfg := w } }
  | .ethNotify => { s with eth := { s.eth with notify := w } }
  | .ethAgain => { s with eth := { s.eth with again := w } }
  | .wdnFault => { s with wdn := { s.wdn with fault := setB w 8 false ||| s.faultCauses } }
  | .wdnRstcause => { s with wdn := { s.wdn with rstcause := w } }
  | .wdnLatent => { s with wdn := { s.wdn with latent := w } }
  | .wdnAgain => { s with wdn := { s.wdn with again := w } }
  | .pwrStatus => { s with pwr := { s.pwr with ilim := getF w 7 1 == 1, overT := getF w 6 1 == 1 } }
  | .pwrCtrl => { s with pwr := { s.pwr with pref := getF w 8 1 == 1, stepmin := BitVec.ofNat 3 (min (getF w 0 3) s.wdn.prof.deepest.toNat) } }
  | .pwrAgain => { s with pwr := { s.pwr with again := w } }
  | _ => s

/-- A write clears a sweeper's EN: recorded in the chronicle (R37, R39, R349). -/
def State.sweepNote (s : State) (r : Reg) (old new : W64) : State :=
  if getF old 32 1 = 1 ∧ getF new 32 1 = 0 then
    (match r with
      | .cmbSweep n => s.record (.sweepOff (.comb n))
      | .sqrSweep m => s.record (.sweepOff (.square m))
      | .memSweep c => s.record (.sweepOff (.hbm c))
      | _ => s)
  else s

/-- SEAL_STATUS cleared whole: the sums of TAINT bit 3 start again from here (Table 14.4)
(DESIGN CHOICE, log entry 37; DESIGN CHOICE, log entry 50). -/
def State.aovfSum (s : State) : Nat :=
  s.mcs.foldl (fun t m => t + m.aovf.toNat) 0 + s.squares.foldl (fun t q => t + q.aovf.toNat) 0

/-- A write of a register under its access code alone. -/
def State.writeReg (s : State) (r : Reg) (v : W64) : State :=
  if regIsAgain r then s.putReg r 0
  else
    let old := s.readReg r
    let new := regMerge r old v
    let s1 := (s.putReg r new).sweepNote r old new
    match r with
    | .sealStatus => { s1 with seals := { s1.seals with aovfAt := if v &&& 0xF = 0 then s1.seals.aovfAt else s1.aovfSum } }
    | .wdnProt =>
      -- RWL: ignored with a record once boot has closed the protection setup (R8, R394)
      if s.wdn.closed then s.record .rwlWrite else s
    | _ => s1

end Sys2Proof.Machine
end

