-- ==== Sys2Proof/Machine/Seals.lean ====
section
/-!
DEFINITION. Seals (14 R305 to R312): the canonical stream of a tensor, its tree digest, chains, the slot table and the requests to
the 26 seal engines.
-/
namespace Sys2Proof.Machine

/-- The 32-byte header of Table 14.2. -/
def Desc.sealHeader (d : Desc) (body : Nat) : List Byte :=
  leBytes 1 d.fmtCode ++ leBytes 1 d.blk ++ leBytes 2 0 ++ leBytes 2 (if d.fmt == .lf64 then unsigned 16 d.wexp else 0) ++ leBytes 2 0 ++
    leBytes 4 d.s0 ++ leBytes 4 d.s1 ++ leBytes 4 d.s2 ++ leBytes 4 d.s3 ++ leBytes 8 body

/-- One row's bytes with the unused high bits of its last byte zero (R305). -/
def rowMasked (d : Desc) (bs : List Byte) : List Byte :=
  let r := d.s0 * d.fmt.bits % 8
  if r = 0 then bs
  else match bs.getLast? with
    | some b => bs.dropLast ++ [b &&& BitVec.ofNat 8 (2 ^ r - 1)]
    | none => bs

/-- The body of the canonical stream (R305). -/
def State.sealBody (s : State) (d : Desc) : List Byte :=
  if d.empty then []
  else (d.rows.flatMap fun a => rowMasked d (s.bytes a d.rowBytes)) ++ s.bytes d.scale d.scaleBytes

/-- The leaves of 16 KiB of a body. -/
def leaves : Nat → Nat → List Byte → List Byte
  | 0, _, _ => []
  | n + 1, j, bs => shake256 ([0x00] ++ leBytes 8 j ++ bs.take 16384) 48 ++ leaves n (j + 1) (bs.drop 16384)

/-- The seal of a header and a body (R306). -/
def sealOf (hdr body : List Byte) : Digest :=
  shake256 ([0x01] ++ hdr ++ leaves (ceilDiv body.length 16384) 0 body) 48

/-- The chain of R311. -/
def chainOf (p : Digest) (is ws : List Digest) : Digest :=
  shake256 ([0x02] ++ p ++ leBytes 4 is.length ++ is.flatten ++ leBytes 4 ws.length ++ ws.flatten) 48

/-- The seal of `n` bytes taken as a rank-1 INT8 tensor (R310). -/
def plainSeal (bs : List Byte) : Digest :=
  sealOf (leBytes 1 (Fmt.code .int8) ++ leBytes 7 0 ++ leBytes 4 bs.length ++ leBytes 4 1 ++ leBytes 4 1 ++ leBytes 4 1 ++
    leBytes 8 bs.length) bs

/-! ### Engines -/

/-- Square of controller m (Table 2.4: two controllers of stack j on the j-th perimeter square). -/
def mcSquare (m : Nat) : Nat := [0, 1, 2, 3, 4, 7, 8, 11, 12, 13, 14, 15].getD (m / 2) 0

/-- Streets between two squares. -/
def squareDist (a b : Nat) : Nat :=
  (max (a % 4) (b % 4) - min (a % 4) (b % 4)) + (max (a / 4) (b / 4) - min (a / 4) (b / 4))

/-- The controller nearest a comb's home square; the lowest number on a tie (R307, DESIGN CHOICE, log entry 15). -/
def nearestMc (c : CombId) : Fin 26 :=
  (List.range 24).foldl (fun (b : Fin 26) m =>
    if squareDist (mcSquare m) (homeSquare c).val < squareDist (mcSquare b.val) (homeSquare c).val then ⟨m % 26, Nat.mod_lt _ (by decide)⟩
    else b) 0

/-- The engine of the controller that holds an HBM address (DESIGN CHOICE, log entry 15). -/
def mcEngine (a : Nat) : Fin 26 := ⟨a / 0xA00000000 % 24 % 26, Nat.mod_lt _ (by decide)⟩

/-- A request joins the engines' queues; two recordings of one slot that overlap both clash (R308)
(DESIGN CHOICE, log entry 15). -/
def State.askSeal (s : State) (r : SealReq) : State :=
  let same := fun (x : SealReq) => r.slot != 0 && x.slot == r.slot
  { s with seals := { s.seals with
      reqs := (s.seals.reqs.map fun x => if same x then { x with clash := true } else x) ++
        [{ r with clash := r.clash || s.seals.reqs.any same }] } }

/-- A seal is recorded: its slot, SEAL_STATUS and SEAL_COUNT (R308, R309, Tables 14.3, 14.8, 14.9). -/
def State.recordSeal (s : State) (r : SealReq) : State :=
  let st1 := if r.poison then setB s.seals.status 3 true else s.seals.status
  let st2 := if r.clash then setB st1 2 true else st1
  let slot : SealSlot :=
    { digest := sealOf r.header r.body, chime := s.chm.n, valid := true, poison := r.poison, clash := r.clash, src := r.src
      length := BitVec.ofNat 48 r.body.length }
  { s with seals := { s.seals with
      status := st2
      count := s.seals.count + 1
      bytes := s.seals.bytes + r.body.length
      slots := if r.slot = 0 then s.seals.slots else Sparse.set {} s.seals.slots r.slot.toNat slot } }

end Sys2Proof.Machine
end

