-- ==== Sys2Proof/Machine/CourierOps.lean ====
section
/-!
DEFINITION. The courier (09 R193 to R198): issue checks of cpy, gather, scatter, seal and amo, and what each does when the courier
starts it.
-/
namespace Sys2Proof.Machine

/-! ### Issue checks -/

/-- Operands of a courier word (Table 9.7). -/
def Seq.courierOp (q : Seq) (k : TKind) (f : TForm) : TOp :=
  match k with
  | .cpy => .cpy (f.reg 20) q.d[f.reg 20] q.d[f.reg 25] (f.bit 35)
  | .gather => .gather (f.reg 20) q.d[f.reg 20] q.d[f.reg 25] q.d[f.reg 30]
  | .scatter => .scatter (f.reg 20) q.d[f.reg 20] q.d[f.reg 25] q.d[f.reg 30]
  | .seal => .seal q.d[f.reg 25] q.s[f.reg 30]
  | _ => .amo (BitVec.ofNat 3 (f.fld 35 3)) q.d[f.reg 20] q.d[f.reg 25]

/-- A tensor that meets the control-register range (R7, R144). -/
def Desc.hitsRegs (d : Desc) : Bool := d.ranges.any fun r => hitsCtrl r.1 r.2

/-- A byte range inside the address ranges of HBM or of the square stores (Table 0.3). -/
def atomicRange (a n : Nat) : Bool :=
  decide (a + n ≤ 0x00F000000000) || (decide (0x010100000000 ≤ a) && decide (a + n ≤ 0x010110000000))

/-- Every byte of the tensor lies in the address ranges that atomic operations reach (R144). -/
def Desc.atomicRegion (d : Desc) : Bool := d.ranges.all fun r => atomicRange r.1 r.2

/-- Does the format match an atomic operation (Table 9.8)? -/
def amoFmt (op : BitVec 3) (f : Fmt) : Bool :=
  match op.toNat with
  | 1 => f == .lf64
  | 2 | 4 | 5 => f == .fp32
  | 3 => f == .bf16
  | _ => true

/-- D's BASE, strides and dim-0 bytes are multiples of 64 (R198). -/
def Desc.lineAligned (d : Desc) : Bool :=
  d.base % 64 == 0 && (d.s0 * d.fmt.bits) % 512 == 0 && (decide (d.rank < 2) || d.stride1 % 64 == 0) &&
    (decide (d.rank < 3) || d.stride2 % 64 == 0) && (decide (d.rank < 4) || d.stride3 % 64 == 0)

/-- FP32 or BF16 add below the relaxed level (R113). -/
def State.fpRefused (s : State) (op : BitVec 3) : Bool := (op == 2 || op == 3) && s.seals.level != 2

/-- Rules that an atomic operation puts on destination and source, for amo and for put with OP ≠ 0 (R198, R200). -/
def State.amoFaults (s : State) (op : BitVec 3) (d a : Desc) : List (Nat × Bool) :=
  [(3, !d.atomicRegion), (5, s.fpRefused op), (6, !d.lineAligned), (8, op == 1 && d.fmt == .lf64 && a.fmt == .lf64 && d.wexp != a.wexp),
   (9, !amoFmt op d.fmt || !amoFmt op a.fmt)]

/-- Two fault lists together, code by code. -/
def joinFaults (a b : List (Nat × Bool)) : List (Nat × Bool) :=
  [1, 2, 3, 4, 5, 6, 7, 8, 9].map fun k => (k, (a ++ b).any fun x => x.1 == k && x.2)

/-- Conditions of the courier words (Table 9.15) (DESIGN CHOICE, log entry 28). -/
def State.courierFaults (s : State) (c : CombId) (k : TKind) (f : TForm) : List (Nat × Bool) :=
  match (s.comb c).seq.courierOp k f with
  | .cpy _ d a z =>
    [(2, !d.valid || (!z && !a.valid)), (3, d.hitsRegs || (!z && a.hitsRegs)),
     (6, !z && (d.fmtCode != a.fmtCode || d.blk != a.blk || !d.sameExt a)), (9, !z && d.badOverlap a)]
  | .gather _ d a di =>
    [(2, !d.valid || !a.valid || !di.valid), (3, d.hitsRegs || a.hitsRegs || di.hitsRegs),
     (6, d.fmtCode != a.fmtCode || d.blk != a.blk || d.s0 != a.s0 || d.s2 != 1 || d.s3 != 1 || a.s2 != 1 || a.s3 != 1 ||
       decide (d.blk > 1) || d.s1 != di.s0),
     (9, di.fmt != .lf64 || di.wexp != 0 || di.rank != 1)]
  | .scatter _ d a di =>
    [(2, !d.valid || !a.valid || !di.valid), (3, d.hitsRegs || a.hitsRegs || di.hitsRegs),
     (6, d.fmtCode != a.fmtCode || d.blk != a.blk || d.s0 != a.s0 || d.s2 != 1 || d.s3 != 1 || a.s2 != 1 || a.s3 != 1 ||
       decide (d.blk > 1) || a.s1 != di.s0),
     (9, di.fmt != .lf64 || di.wexp != 0 || di.rank != 1)]
  | .seal a addr => [(2, !a.valid), (3, a.hitsRegs || addr.toNat % 64 != 0 || decide (2 ^ 48 ≤ addr.toNat) || hitsCtrl addr.toNat 64)]
  | .amo op d a =>
    joinFaults (s.amoFaults op d a) [(2, !d.valid || !a.valid), (3, a.hitsRegs), (6, d.fmtCode != a.fmtCode || d.blk != a.blk || !d.sameExt a)]
  | _ => []

/-! ### Execution -/

/-- Number the next flight of a comb. -/
def State.nextId (s : State) (c : CombId) : Nat × State :=
  ((s.comb c).serial, s.modComb c fun k => { k with serial := k.serial + 1 })

/-- An automatic seal of a courier write or of a coll's final write into HBM (R307): the content as the writes leave it, with the poison of what
the stream read or wrote (R309). -/
def State.autoSeal (s : State) (c : CombId) (id : Nat) (d : Desc) (ws : List (Nat × List Byte)) (pl : List Nat) (src : BitVec 3) (poison : Bool) :
    Nat × State :=
  if d.sealSlot ≠ 0 ∧ d.base < 0x00F000000000 then
    let u := (s.putRuns ws).poisonList pl
    let body := u.sealBody d
    (1, s.askSeal { engine := mcEngine d.base, slot := d.sealSlot, src := src, header := d.sealHeader body.length, body := body
                    poison := poison || d.ranges.any (fun r => u.poisoned r.1 r.2), owner := some (c, id), addr := none })
  else (0, s)

/-- A move of elements: destination position and source position, none for zero. -/
abbrev Move := Pos × Option Pos

/-- Rows of a destination that an automatically sealed instruction reads without writing them: the rest of a scatter's D (R307, R309). -/
def Desc.restRuns (d : Desc) (mv : List Move) : List (Nat × Nat) :=
  if d.sealSlot ≠ 0 ∧ d.base < 0x00F000000000 then
    let rows := (mv.map (·.1.i1)).eraseDups
    d.runs (d.positions.filter fun p => !rows.contains p.i1)
  else []

/-- The courier starts an instruction that moves elements (R195, R196): `idx` are the index runs read, `bad` the destination
positions that a poisoned index leaves poisoned, `ate` that one was read poisoned, `oob` the rows counted in CRR_OOB. -/
def State.startMove (s : State) (c : CombId) (e : QEntry) (dr : Fin 32) (d a : Desc) (mv : List Move) (idx : List (Nat × Nat))
    (bad : Pos → Bool) (ate : Bool) (oob : Nat) : State :=
  let runs := a.runs (mv.filterMap (·.2)) ++ idx
  if !s.openRuns runs then s.execFault c e 2 3
  else
    let s1 := ((s.touchRuns runs).touchRuns (d.restRuns mv)).modComb c fun k => { k with crrOob := k.crrOob + BitVec.ofNat 64 oob }
    let (cut, s2) := s1.cut (mv.map fun m => s1.posOpen d m.1)
    let codes := (cutTake cut mv).map fun m => (m.1, match m.2 with | some p => s1.code a p | none => 0)
    let scales := if d.blk = 0 then []
      else ((cutTake cut mv).map fun m =>
        (d.scaleIndex m.1, match m.2 with | some p => (s1.byte (a.scale + a.scaleIndex p)).toNat | none => 0)).eraseDups
    let dirt := fun (m : Move) => bad m.1 || (match m.2 with | some p => s1.poisonedPos a p | none => false)
    let dirty := ((cutTake cut mv).filter dirt).map (·.1)
    let ws := s1.destRuns d codes scales
    let pl := d.poisonLines dirty
    let s3 := s2.consumeIf (ate || mv.any dirt)
    if cut.isSome then ((s3.putRuns ws).poisonList pl).execFault c e 2 3
    else
      let scaleOf := fun (p : Pos) => if d.blk = 0 then none else some ((scales.find? (·.1 == d.scaleIndex p)).map (·.2) |>.getD 0)
      let exps := codes.filterMap fun pc => (d.fmt.decode (scaleOf pc.1) d.wexp pc.2).exp
      let top := exps.foldl (fun (m : Option Int) x => some (match m with | some y => max y x | none => x)) none
      let (id, s4) := s3.nextId c
      let (w, s5) := s4.autoSeal c id d ws pl 1 (!dirty.isEmpty)
      s5.modComb c fun k => { k with crrRun := k.crrRun ++
        [{ e := e, id := id, cycles := 4, writes := ws, poisons := pl, waits := w
           ceils := match top with | some m => [(dr, m)] | none => [] }] }

/-- cpy (R195). -/
def State.startCpy (s : State) (c : CombId) (e : QEntry) (dr : Fin 32) (d a : Desc) (z : Bool) : State :=
  s.startMove c e dr d a (d.positions.map fun p => (p, if z then none else some p)) [] (fun _ => false) false 0

/-- The integer that an LF64 index with WEXP = 0 holds; none for special codes and negative numbers (R196). -/
def indexOf : Val → Option Nat
  | .zero _ => some 0
  | .fin false m e => some (if 0 ≤ e then m * 2 ^ e.toNat else m / 2 ^ (-e).toNat)
  | _ => none

/-- An index below the bound. -/
def inRange (n : Nat) (v : Val) : Option Nat :=
  match indexOf v with
  | some i => if i < n then some i else none
  | none => none

/-- The index of each row, and whether it was read poisoned. -/
def State.indices (s : State) (di : Desc) (bound : Nat) : List (Nat × Option Nat × Bool) :=
  (List.range di.s0).map fun i => (i, inRange bound (s.val di ⟨i, 0, 0, 0⟩), s.poisonedPos di ⟨i, 0, 0, 0⟩)

/-- gather (R196): row i of D := row DI[i] of A, +0 where the index is out of range. -/
def State.startGather (s : State) (c : CombId) (e : QEntry) (dr : Fin 32) (d a di : Desc) : State :=
  let idxRuns := di.runs di.positions
  if !s.openRuns idxRuns then s.execFault c e 2 3
  else
    let ix := (s.touchRuns idxRuns).indices di a.s1
    let mv := ix.flatMap fun r => (List.range d.s0).map fun i0 => ((⟨i0, r.1, 0, 0⟩ : Pos), r.2.1.map fun n => (⟨i0, n, 0, 0⟩ : Pos))
    let dirtyRows := (ix.filter (·.2.2)).map (·.1)
    s.startMove c e dr d a mv idxRuns (fun p => dirtyRows.contains p.i1) (ix.any (·.2.2)) (ix.filter fun r => r.2.1.isNone).length

/-- Put a pair in its place in a list of rising first components. -/
def insertRow (x : Nat × Nat) : List (Nat × Nat) → List (Nat × Nat)
  | [] => [x]
  | y :: ys => if x.1 ≤ y.1 then x :: y :: ys else y :: insertRow x ys

/-- The rows that a scatter moves, as (row of D, row of A) in rising rows of D: the highest row of A is left where several name one row of
D, and the highest row of D where two share storage (R196, R55). -/
def scatterRows (ix : List (Nat × Option Nat × Bool)) : List (Nat × Nat) :=
  let named := ix.filterMap fun r => r.2.1.map fun n => (n, r.1)
  (named.filter fun r => !named.any fun t => t.1 == r.1 && decide (r.2 < t.2)).foldr insertRow []

/-- scatter (R196): row DI[i] of D := row i of A. Only the rows that are left raise the ceiling (DESIGN CHOICE, log entry 83). -/
def State.startScatter (s : State) (c : CombId) (e : QEntry) (dr : Fin 32) (d a di : Desc) : State :=
  let idxRuns := di.runs di.positions
  if !s.openRuns idxRuns then s.execFault c e 2 3
  else
    let ix := (s.touchRuns idxRuns).indices di d.s1
    let mv := (scatterRows ix).flatMap fun r =>
      (List.range d.s0).map fun i0 => ((⟨i0, r.1, 0, 0⟩ : Pos), some (⟨i0, r.2, 0, 0⟩ : Pos))
    let dirtyRows := (ix.filter (·.2.2)).filterMap (·.2.1)
    s.startMove c e dr d a mv idxRuns (fun p => dirtyRows.contains p.i1) (ix.any (·.2.2)) (ix.filter fun r => r.2.1.isNone).length

/-- seal (R197, R309): the stream goes to the engine nearest the comb's home square. -/
def State.startSeal (s : State) (c : CombId) (e : QEntry) (a : Desc) (addr : W64) : State :=
  if !(s.openRuns a.ranges && s.opened addr.toNat 64) then s.execFault c e 2 3
  else
    let s1 := s.touchRuns a.ranges
    let poison := a.ranges.any fun r => s1.poisoned r.1 r.2
    let body := s1.sealBody a
    let (id, s2) := s1.nextId c
    let s3 := s2.askSeal { engine := nearestMc c, slot := a.sealSlot, src := 0, header := a.sealHeader body.length, body := body
                           poison := poison, owner := some (c, id), addr := some addr.toNat }
    s3.modComb c fun k => { k with crrRun := k.crrRun ++ [{ e := e, id := id, cycles := 4, waits := 1 }] }

/-- The atomic unit of an address: 0 to 23 the controllers, 24 to 39 the squares (R32). -/
def atomicUnit (a : Nat) : Nat := if a < 0x00F000000000 then a / 0xA00000000 % 24 else 24 + a / 0x01000000 % 16

/-- Pairs of (target line, operand line) of an amo. -/
def amoLines (d a : Desc) : List (Nat × Nat) :=
  if d.empty then []
  else (d.rows.zip a.rows).flatMap fun r => (List.range (d.rowBytes / 64)).map fun j => (r.1 + 64 * j, r.2 + 64 * j)

/-- amo (R198): one operation for each line goes to its atomic unit, in order (DESIGN CHOICE, log entry 99). -/
def State.startAmo (s : State) (c : CombId) (e : QEntry) (op : BitVec 3) (d a : Desc) : State :=
  let ls := amoLines d a
  let open_ := fun (l : Nat × Nat) => s.opened l.1 64 && s.opened l.2 64
  let req := fun (st : State) (own : Option (CombId × Nat)) (l : Nat × Nat) =>
    (atomicUnit l.1, ({ op := op, addr := l.1, data := st.bytes l.2 64, poison := st.poisoned l.2 64, src := own } : AtomicReq))
  if !ls.all open_ then
    let good := ls.takeWhile open_
    let (r, s1) := s.draw
    let sent := good.take (r.toNat % (good.length + 1))
    let s2 := s1.touchRuns (sent.map fun l => (l.2, 64))
    (s2.modMem fun m => { m with atomics := m.atomics ++ sent.map (req s2 none) }).execFault c e 2 3
  else
    let s1 := s.touchRuns (ls.map fun l => (l.2, 64))
    let (id, s2) := s1.nextId c
    let s3 := s2.modMem fun m => { m with atomics := m.atomics ++ ls.map (req s1 (some (c, id))) }
    s3.modComb c fun k => { k with crrRun := k.crrRun ++ [{ e := e, id := id, cycles := 4, waits := ls.length }] }

/-- Something that a courier flight waited for is done. -/
def State.unwait (s : State) (owner : Option (CombId × Nat)) : State :=
  match owner with
  | some (c, id) => s.modComb c fun k => { k with crrRun := k.crrRun.map fun fl => if fl.id = id then { fl with waits := fl.waits - 1 } else fl }
  | none => s

end Sys2Proof.Machine
end

