-- ==== Sys2Proof/Machine/FabricOps.lean ====
section
/-!
DEFINITION. Consignments (09 R199 to R201, 11 R230 to R236): issue checks of put, get and mcast, the map from drops to bytes, the
sender's numbering and window, and the receiver's source entries, consignment table and early buffer.
-/
namespace Sys2Proof.Machine

/-! ### Issue checks -/

/-- Operands of put, get and mcast (Table 9.10). -/
def Seq.fabricOp (q : Seq) (k : TKind) (f : TForm) : TOp :=
  match k with
  | .put => .put q.d[f.reg 20] q.d[f.reg 25] q.s[f.reg 30] (BitVec.ofNat 3 (f.fld 35 3))
  | .get => .get (f.reg 20) q.d[f.reg 20] q.d[f.reg 25] q.s[f.reg 30]
  | _ => .mcast q.d[f.reg 20] q.d[f.reg 25] q.s[f.reg 30]

/-- Logical coordinate of a coordinate word (Table 9.9). -/
def coordOf (w : W64) : ChipId := chipId (getF w 0 6) (getF w 8 6) (getF w 16 6)

/-- Descriptors that disagree in FMT, BLK or extents (R200). -/
def Desc.disagree (d a : Desc) : Bool := d.fmtCode != a.fmtCode || d.blk != a.blk || !d.sameExt a

/-- Conditions of put, get and mcast (R199, R200, R202, Table 9.15) (DEDUCED, log entry 38). -/
def State.fabricFaults (s : State) (c : CombId) (k : TKind) (f : TForm) : List (Nat × Bool) :=
  let t := s.rte.tab[s.rte.inj]
  let big := fun (d : Desc) => decide (d.elemBytes + d.scaleBytes > 2 ^ 30)
  match (s.comb c).seq.fabricOp k f with
  | .put d a w op =>
    joinFaults (if op = 0 then [] else s.amoFaults op d a)
      [(2, !d.valid || !a.valid), (3, d.hitsRegs || a.hitsRegs || !t.inBox (coordOf w)), (6, d.disagree a || big a),
       (9, w &&& ~~~0x1FF3F3F3F3F != 0)]
  | .get _ d a w =>
    [(2, !d.valid || !a.valid), (3, d.hitsRegs || a.hitsRegs || !t.inBox (coordOf w)), (6, d.disagree a || big a),
     (9, w &&& ~~~0x3F3F3F != 0)]
  | .mcast d a w =>
    [(2, !d.valid || !a.valid), (3, d.hitsRegs || a.hitsRegs), (5, !t.groupValid (w.setWidth 8)), (6, d.disagree a),
     (9, w &&& ~~~0x1FF3F0000FF != 0)]
  | _ => []

/-! ### Drops and bytes (R230) -/

/-- Data drops of a tensor: those of the element stream, and all (R201). -/
def Desc.elemDrops (d : Desc) : Nat := ceilDiv d.elemBytes 48
def Desc.dropCount (d : Desc) : Nat := d.elemDrops + ceilDiv d.scaleBytes 48

/-- Address of byte `b` of the element stream. -/
def Desc.streamAddr (d : Desc) (b : Nat) : Nat :=
  let r := b / d.rowBytes
  d.rowAddr (r % d.s1) (r / d.s1 % d.s2) (r / (d.s1 * d.s2)) + b % d.rowBytes

/-- Addresses of the payload bytes of data drop `i`; padding has none. -/
def Desc.dropAddrs (d : Desc) (i : Nat) : List Nat :=
  if i < d.elemDrops then (List.range (min 48 (d.elemBytes - 48 * i))).map fun j => d.streamAddr (48 * i + j)
  else
    let j := i - d.elemDrops
    (List.range (min 48 (d.scaleBytes - 48 * j))).map fun k => d.scale + 48 * j + k

/-- ADDR of data drop `i`. -/
def Desc.dropAddr (d : Desc) (i : Nat) : Nat := (d.dropAddrs i).headD 0

/-- Runs of bytes with their addresses (DESIGN CHOICE, log entry 14). -/
def runsOf (as_ : List Nat) (bs : List Byte) : List (Nat × List Byte) := joinBytes ((as_.zip bs).map fun x => (x.1, [x.2]))

/-- The runs that drop `i` writes after the drops `got`: a byte of storage that two drops share keeps the later index (R55). -/
def Desc.freshRuns (d : Desc) (i : Nat) (got : List Nat) (bs : List Byte) : List (Nat × List Byte) :=
  let later := (got.filter (i < ·)).flatMap d.dropAddrs
  let kept := ((d.dropAddrs i).zip bs).filter fun x => !later.contains x.1
  runsOf (kept.map (·.1)) (kept.map (·.2))

/-- Payload of the manifest (Table 11.3). -/
def Desc.manifest (d : Desc) (op : BitVec 3) : List Byte :=
  leBytes 6 d.base ++ leBytes 6 d.scale ++ leBytes 1 (d.fmtCode + 16 * d.blk + 64 * (d.rank - 1)) ++
    leBytes 4 d.s0 ++ leBytes 4 d.s1 ++ leBytes 4 d.s2 ++ leBytes 4 d.s3 ++
    leBytes 6 d.stride1 ++ leBytes 6 d.stride2 ++ leBytes 6 d.stride3 ++ leBytes 1 op.toNat

/-- The descriptor that a manifest's payload spells, and its OP. -/
def manifestDesc (bs : List Byte) : Desc × BitVec 3 :=
  let n := fun lo k => leNat ((bs.drop lo).take k)
  let fbr := n 12 1
  (#v[pack [(0, n 0 6), (48, fbr % 16), (52, fbr / 16 % 4), (54, fbr / 64)], pack [(0, n 6 6)], pack [(0, n 13 4), (32, n 17 4)],
      pack [(0, n 21 4), (32, n 25 4)], pack [(0, n 29 6)], pack [(0, n 35 6)], pack [(0, n 41 6)], 0], BitVec.ofNat 3 (n 47 1))

/-! ### Numbering (R231) -/

/-- Key of a numbering: the destination chip, or 2^18 plus the group. -/
def peerNum : PeerKey → Nat
  | .chip id => id.toNat
  | .group g => 2 ^ 18 + g.toNat

/-- Array cycles in a millisecond. -/
def cyclesPerMs : Nat := 3600000

/-- The two limits of R231 leave room for a start (DEDUCED, log entry 38). -/
def State.mayStart (s : State) (k : PeerKey) : Bool :=
  decide ((s.fab.open_.filter fun x => x.key == k).length < 256) &&
    decide ((s.fab.recent.filter fun r => r.1 == peerNum k && decide (s.chm.local_ < r.2 + cyclesPerMs)).length < 4096)

/-- Take the next CID toward a peer. -/
def State.newCid (s : State) (k : PeerKey) : BitVec 13 × State :=
  let cid := Sparse.get 0 s.fab.next (peerNum k)
  (cid, { s with fab := { s.fab with
    next := Sparse.set 0 s.fab.next (peerNum k) (cid + 1)
    recent := (s.fab.recent.filter fun r => decide (s.chm.local_ < r.2 + cyclesPerMs)) ++ [(peerNum k, s.chm.local_)] } })

/-- OLDEST of a manifest: the CID of the sender's oldest open consignment to the peer (Table 11.3) (DEDUCED, log entry 36). -/
def State.oldest (s : State) (k : PeerKey) (cid : BitVec 13) : BitVec 13 :=
  match s.fab.open_.find? fun x => x.key == k with
  | some x => x.cid
  | none => cid

/-- Replace an open consignment. -/
def State.putCons (s : State) (x : Cons) : State :=
  { s with fab := { s.fab with open_ := updFirst (fun y => y.key == x.key && y.cid == x.cid) (fun _ => x) s.fab.open_ } }

/-! ### Consignments of the hall and of collectives (R231, R276) -/

/-- Drops of such a consignment: those of a collective keep the version that it entered with, the hall's go out under INJ (Table 12.8, R248). -/
def State.waitDrops (s : State) (w : ConsWait) (cid : BitVec 13) : List Drop :=
  let t : State := if w.coll.isSome then { s with rte := { s.rte with inj := w.ver } } else s
  if w.seg then
    (List.range (max 1 (ceilDiv w.data.length 48))).map fun i => t.mkDrop w.ty w.cls w.dst cid i w.addr ((w.data.drop (48 * i)).take 48)
  else [t.mkDrop w.ty w.cls w.dst cid 0 w.addr w.data]

/-- It starts: numbered, opened and injected. -/
def State.startWait (s : State) (w : ConsWait) : State :=
  let (cid, s1) := s.newCid (.chip w.dst)
  let ds := s1.waitDrops w cid
  let x : Cons :=
    { key := .chip w.dst, cid := cid, kind := if w.seg then .segment ds else .single (ds.headD (s1.mkDrop w.ty w.cls w.dst cid 0 w.addr w.data))
      comb := none, e := none, coll := w.coll, deputy := w.deputy, n := ds.length, members := [(w.dst, 0)], sent := ds.length }
  ({ s1 with fab := { s1.fab with open_ := s1.fab.open_ ++ [x] } } : State).inject ds

/-- It starts at once where R231 allows and none before it waits for the same destination; otherwise it waits
(DEDUCED, log entry 38). -/
def State.startOrWait (s : State) (w : ConsWait) : State :=
  if s.mayStart (.chip w.dst) && !s.fab.wait.any (·.dst == w.dst) then s.startWait w
  else { s with fab := { s.fab with wait := s.fab.wait ++ [w] } }

/-- Those that wait start in order as far as R231 now allows (DEDUCED, log entry 38). -/
def State.pumpWait (s : State) : State :=
  s.fab.wait.foldl State.startOrWait { s with fab := { s.fab with wait := [] } }

/-- A one-drop consignment of the hall or of a collective in class `cls` (R276, R324) (DEDUCED, log entry 38). -/
def State.sendSingle (s : State) (ty cls : Nat) (ver : Fin 2) (dst : ChipId) (addr : Nat) (bs : List Byte) (coll : Option CollKey)
    (deputy : Bool) : State :=
  s.startOrWait { ty := ty, cls := cls, ver := ver, dst := dst, addr := addr, data := bs, coll := coll, deputy := deputy }

/-- A collective's data segment (R265, R276): one consignment of up to 1,024 drops. -/
def State.sendSegment (s : State) (ver : Fin 2) (dst : ChipId) (addr : Nat) (bs : List Byte) (coll : CollKey) : State :=
  s.startOrWait { ty := 0xB, cls := 1, ver := ver, dst := dst, addr := addr, data := bs, seg := true, coll := some coll }

/-- Remove an open consignment; one that waits may start. -/
def State.dropCons (s : State) (x : Cons) : State :=
  ({ s with fab := { s.fab with open_ := s.fab.open_.filter fun y => !(y.key == x.key && y.cid == x.cid) } } : State).pumpWait

/-! ### Sending -/

/-- DST field of a consignment's drops. -/
def peerDst : PeerKey → ChipId
  | .chip id => id
  | .group g => g.setWidth 18

/-- The manifest drop of a put or mcast (R230, Table 11.3). -/
def State.manifestDrop (s : State) (x : Cons) (ty : Nat) (d : Desc) (op : BitVec 3) (coord : W64) : Drop :=
  s.mkDrop ty 2 (peerDst x.key) x.cid 0
    (getF coord 24 6 + getF coord 40 1 * 2 ^ 6 + getF coord 32 8 * 2 ^ 8 + (s.oldest x.key x.cid).toNat * 2 ^ 16) (d.manifest op)

/-- Data drop `i` of a put or mcast: its payload is read from the source now (R236). -/
def State.dataDrop (s : State) (x : Cons) (ty : Nat) (d a : Desc) (i : Nat) : Drop :=
  s.mkDrop ty 2 (peerDst x.key) x.cid i (d.dropAddr i) ((a.dropAddrs i).map s.byte)

/-- The GETREQ of a get from index `i` (R235) (DEDUCED, log entry 35). -/
def State.getreqDrop (s : State) (x : Cons) (a : Desc) (i : Nat) : Drop :=
  s.mkDrop 5 2 (peerDst x.key) x.cid 0 i (a.manifest 0)

/-- Lowest ACK of a consignment's members. -/
def Cons.ack (x : Cons) : Nat := x.members.foldl (fun m r => min m r.2) x.n

/-- Drops with indexes from `lo` up to `hi`. -/
def State.consDrops (s : State) (x : Cons) (lo hi : Nat) : List Drop :=
  let ix := (List.range (hi - lo)).map (lo + ·)
  match x.kind with
  | .put d a _ _ => ix.map (s.dataDrop x 1 d a)
  | .mcast d a _ => ix.map (s.dataDrop x 3 d a)
  | .get _ _ => []
  | .single d => if lo = 0 ∧ 0 < hi then [d] else []
  | .segment ds => (ds.drop lo).take (hi - lo)

/-- The sender reads its source: corrections and the consumption of poisoned data (R36). -/
def State.readSource (s : State) (x : Cons) (lo hi : Nat) : State :=
  match x.kind with
  | .put _ a _ _ | .mcast _ a _ =>
    let runs := (List.range (hi - lo)).flatMap fun i => (runsOf (a.dropAddrs (lo + i)) (List.replicate 48 0)).map fun r => (r.1, r.2.length)
    let s1 := s.touchRuns runs
    s1.consumeIf (runs.any fun r => s1.poisoned r.1 r.2)
  | _ => s

/-- Does the sender send the consignment's data (R233)? A get asks for its drops instead (R235). -/
def Cons.sends (x : Cons) : Bool := match x.kind with | .get .. => false | _ => true

/-- Send the data drops that the window allows: index i only below the ACK plus 1,024 (R233). -/
def State.pumpCons (s : State) (x : Cons) : State :=
  let hi := min x.n (x.ack + 1024)
  if x.sends && decide (x.sent < hi) then
    let s1 := s.readSource x x.sent hi
    (s1.inject (s1.consDrops x x.sent hi)).putCons { x with sent := hi }
  else s.putCons x

/-- A drop sent again goes out under the current table version (R236, R249). -/
def State.restamp (s : State) (d : Drop) : Drop :=
  { d with hdr := fixParity (setF (setF d.hdr 8 1 s.rte.inj.val) 10 10 s.rte.tab[s.rte.inj].tag) }

/-- Resend under R236: the manifest or GETREQ, and every data drop from the highest ACK up to the highest index sent. -/
def State.resendCons (s : State) (x : Cons) : State :=
  let head := match x.kind with
    | .put d _ op w => [s.manifestDrop x 2 d op w]
    | .mcast d _ w => [s.manifestDrop x 4 d 0 w]
    | .get _ a => [s.getreqDrop x a x.base]
    | _ => []
  let s1 := s.readSource x x.ack x.sent
  (s1.inject (head ++ (s1.consDrops x x.ack x.sent).map s1.restamp)).putCons (if x.sends then x else { x with sent := x.base })

/-! ### Ends of a consignment -/

/-- CRR_STATUS after a fenced or an error completion (Table 9.13) (DEDUCED, log entry 49). -/
def State.crrFenced (s : State) (c : CombId) : State :=
  s.modComb c fun k => { k with crrStatus := setB (satF k.crrStatus 16 16 1) 0 true }
def State.crrError (s : State) (c : CombId) : State :=
  s.modComb c fun k => { k with crrStatus := setB (satF k.crrStatus 32 16 1) 1 true }

/-- A fabric instruction completes: its counter moves (R201). -/
def State.fabDone (s : State) (c : CombId) (e : QEntry) : State := (s.busySub c 3).bumpE c e

/-- A fabric instruction ends in REMOTE (R201, R258). -/
def State.fabRemote (s : State) (c : CombId) (e : QEntry) : State := (s.busySub c 3).fault c 0x0D e.pc.toNat 4

/-- A member answers no more: the last one ends the instruction, whose counter moves unless a member failed (R201, R149), and the window
goes on for those that are left (R233) (DEDUCED, log entry 36). -/
def State.lessMember (s : State) (x : Cons) (m : ChipId) : State :=
  let x1 : Cons := { x with members := x.members.filter fun r => r.1 != m }
  if x1.members.isEmpty then
    (match x.comb, x.e with
      | some c, some e => if x.failed then (s.dropCons x1).busySub c 3 else (s.dropCons x1).fabDone c e
      | _, _ => s.dropCons x1)
  else s.pumpCons x1

/-- A member of a consignment is done (R201). -/
def State.memberDone (s : State) (x : Cons) (m : ChipId) (fenced : Bool) : State :=
  let s1 := match x.comb with
    | some c => if fenced then s.crrFenced c else s
    | none => s
  s1.lessMember { x with fenced := x.fenced || fenced, timeouts := if fenced then x.timeouts else 0 } m

/-- A member of a put, get or mcast answers with an error completion: REMOTE on its comb, and one more in REMOTE_ERR; the other members
of an mcast go on, since each destination is a consignment of its own (R201) (DEDUCED, log entry 36). -/
def State.memberFailed (s : State) (x : Cons) (m : ChipId) (c : CombId) (e : QEntry) : State :=
  ((s.crrError c).fault c 0x0D e.pc.toNat 4).lessMember { x with failed := true } m

/-! ### Starting (R231) -/

/-- The head of a comb's fabric queue leaves it. -/
def State.popFab (s : State) (c : CombId) : State := s.modSeq c fun q => { q with qFab := q.qFab.drop 1 }

/-- A consignment is opened, its first drops are injected and the window is filled. -/
def State.openCons (s : State) (k : PeerKey) (kind : ConsKind) (c : CombId) (e : QEntry) (n : Nat) (ms : List ChipId) : State :=
  let (cid, s1) := s.newCid k
  let x : Cons := { key := k, cid := cid, kind := kind, comb := some c, e := some e, n := n, members := ms.map fun m => (m, 0), sent := 0 }
  let head := match kind with
    | .put d _ op w => [s1.manifestDrop x 2 d op w]
    | .mcast d _ w => [s1.manifestDrop x 4 d 0 w]
    | .get _ a => [s1.getreqDrop x a 0]
    | _ => []
  let s2 := { s1 with fab := { s1.fab with open_ := s1.fab.open_ ++ [x] } }
  (s2.inject head).pumpCons x

/-- The courier starts the put, get or mcast at the head of a comb's fabric queue once R231 allows; a fenced destination completes
at once (R251). -/
def State.startFab (s : State) (c : CombId) (e : QEntry) : State :=
  match e.op with
  | .put d a w op =>
    let dst := s.rte.physOf s.rte.inj (coordOf w)
    if s.rte.fenced dst then ((s.popFab c).crrFenced c).fabDone c e
    else if !s.mayStart (.chip dst) then s
    else if !s.openRuns a.ranges then (s.popFab c).execFault c e 3 3
    else (s.popFab c).openCons (.chip dst) (.put d a op w) c e a.dropCount [dst]
  | .get _ d a w =>
    let dst := s.rte.physOf s.rte.inj (coordOf w)
    if s.rte.fenced dst then ((s.popFab c).crrFenced c).fabDone c e
    else if !s.mayStart (.chip dst) then s
    else if d.dropCount = 0 then (s.popFab c).fabDone c e
    else (s.popFab c).openCons (.chip dst) (.get d a) c e d.dropCount [dst]
  | .mcast d a w =>
    let g : BitVec 8 := w.setWidth 8
    let all := ((s.rte.tab[s.rte.inj].members g).map (s.rte.physOf s.rte.inj)).filter (· != s.rte.selfId)
    let live := all.filter fun p => !s.rte.fenced p
    let s1 := (List.replicate (all.length - live.length) ()).foldl (fun (t : State) _ => t.crrFenced c) s
    if live.isEmpty then (s1.popFab c).fabDone c e
    else if !s.mayStart (.group g) then s
    else if !s.openRuns a.ranges then (s.popFab c).execFault c e 3 3
    else (s1.popFab c).openCons (.group g) (.mcast d a w) c e a.dropCount live
  | _ => s

/-! ### The receiver (R232 to R234) -/

/-- Is the CID completed, or among the 7,936 below LOW (R232)? (DEDUCED, log entry 75). -/
def SrcEntry.dup (x : SrcEntry) (cid : BitVec 13) : Bool := decide ((cid - x.low).toNat ≥ 256) || x.done.contains cid

/-- LOW after completed CIDs at it (DEDUCED, log entry 75). -/
def SrcEntry.slide (x : SrcEntry) (n : Nat) : SrcEntry :=
  match n with
  | 0 => x
  | n + 1 => if x.done.contains x.low then SrcEntry.slide { x with low := x.low + 1, done := x.done.filter (· != x.low) } n else x

/-- The entry of a source, or of a source and group. -/
def Fab.entry (f : Fab) (src : ChipId) (g : Option (BitVec 8)) : Option SrcEntry := f.srcs.find? fun x => x.src == src && x.group == g

/-- A CID of a source is completed. -/
def State.closeCid (s : State) (src : ChipId) (g : Option (BitVec 8)) (cid : BitVec 13) : State :=
  let close := fun (x : SrcEntry) => ({ x with done := x.done ++ [cid] } : SrcEntry).slide 256
  let srcs := updFirst (fun x => x.src == src && x.group == g) close s.fab.srcs
  { s with fab := { s.fab with srcs := srcs } }

/-- The entry of a drop's source, made with `low` where it is new; none where the table is full (R232)
(DESIGN CHOICE, log entry 17). -/
def State.entryFor (s : State) (src : ChipId) (g : Option (BitVec 8)) (low : BitVec 13) : Option State :=
  match s.fab.entry src g with
  | some _ => some s
  | none =>
    if s.fab.srcs.length < 32768 then some { s with fab := { s.fab with srcs := s.fab.srcs ++ [⟨src, g, low, []⟩] } } else none

/-- The receiver's open consignment of a drop. -/
def Fab.rxOf (f : Fab) (src : ChipId) (g : Option (BitVec 8)) (cid : BitVec 13) : Option RxCons :=
  f.rx.find? fun x => x.src == src && x.group == g && x.cid == cid

/-- Replace or remove an open consignment of the receiver. -/
def State.putRx (s : State) (x : RxCons) : State :=
  { s with fab := { s.fab with rx := updFirst (fun y => y.src == x.src && y.group == x.group && y.cid == x.cid) (fun _ => x) s.fab.rx } }
def State.dropRx (s : State) (x : RxCons) : State :=
  { s with fab := { s.fab with rx := s.fab.rx.filter fun y => !(y.src == x.src && y.group == x.group && y.cid == x.cid) } }

/-- Base after index `i` arrived: below it every drop has arrived (R233). -/
def slideBase : Nat → Nat → List Nat → Nat × List Nat
  | 0, b, got => (b, got)
  | n + 1, b, got => if got.contains b then slideBase n (b + 1) (got.filter (· != b)) else (b, got)

/-- The index of SEQOFF `so` against a base, none for a duplicate (R233). -/
def resolveIx (b so : Nat) (got : List Nat) : Option Nat :=
  let i := b + (so + 2048 - b % 2048) % 2048
  if i < b + 1024 ∧ ¬ got.contains i then some i else none

/-- Group of a multicast drop. -/
def dropGroup (d : Drop) : Option (BitVec 8) := if d.multi then some d.group else none

/-- RCE of a manifest's ADDR (Table 11.3). -/
def movesCount (d : Drop) : Bool := getF (BitVec.ofNat 48 d.addr) 6 1 == 1

/-- A consignment is whole: RCNT, close, DONE, in this order (R234). -/
def State.finishRx (s : State) (x : RxCons) : State :=
  let a := x.man.addr
  let s1 := if movesCount x.man then
      s.bump ⟨a % 64, Nat.mod_lt _ (by decide)⟩ ⟨a / 256 % 256, Nat.mod_lt _ (by decide)⟩ 1 else s
  ((s1.dropRx x).closeCid x.src x.group x.cid).answer x.man 8 0 []

/-- An arrived consignment ends with ERROR code 0x01 (R234). -/
def State.failRx (s : State) (x : RxCons) (addr : Nat) : State :=
  ((s.dropRx x).closeCid x.src x.group x.cid).answer x.man 9 addr [0x01]

/-- Index `i` of an open consignment has been taken: base, ACK each 512, completion (R233, R234) (DEDUCED, log entry 35). -/
def State.tookIx (s : State) (x : RxCons) (n i : Nat) : State :=
  let r := slideBase n x.base (x.got ++ [i])
  let step := decide (x.acked + 512 ≤ r.1)
  let x1 := { x with base := r.1, got := r.2, acked := if step then r.1 else x.acked }
  let s1 := s.putRx x1
  let s2 := if step then s1.answer x.man 7 r.1 [] else s1
  if r.1 = n then s2.finishRx x1 else s2

/-- A waiting operation of an atomic unit is applied (R112). -/
def State.runAtomic (s : State) (x : Nat × AtomicReq) : State :=
  ((s.modMem fun m => { m with atomics := m.atomics.erase x }).atomicAt x.2.op x.2.addr x.2.data x.2.poison).unwait x.2.src

/-- A run of bytes cut at a sector's edge: each sector takes an operation of its own (R112, R351). -/
def sectorPieces (a : Nat) (bs : List Byte) : List (Nat × List Byte) :=
  let k := 64 - a % 64
  if bs.length ≤ k then [(a, bs)] else [(a, bs.take k), (a + k, bs.drop k)]

/-- An arrived operation is applied behind those that reached the sector's unit before it (R351). -/
def State.atomicInTurn (s : State) (op : BitVec 3) (a : Nat) (bs : List Byte) : State :=
  ((s.mem.atomics.filter fun x => x.2.addr / 64 == a / 64).foldl State.runAtomic s).atomicAt op a bs false

/-- One data drop of an open consignment (R233, R234). -/
def State.rxData (s : State) (x : RxCons) (d : Drop) : State :=
  let (desc, op) := manifestDesc x.man.payload
  let n := desc.dropCount
  match resolveIx x.base d.seqoff x.got with
  | none => s.discDup
  | some i =>
    if n ≤ i ∨ d.addr ≠ desc.dropAddr i then s.discHdr
    else
      let runs := if op = 0 then desc.freshRuns i x.got d.payload else runsOf (desc.dropAddrs i) d.payload
      match (desc.dropAddrs i).find? fun a => !(s.opened a 1 && (op == 0 || atomicRange a 1)) with
      | some a => s.failRx x a
      | none =>
        let s1 := if op = 0 then s.putRuns runs else (runs.flatMap fun r => sectorPieces r.1 r.2).foldl (fun t r => t.atomicInTurn op r.1 r.2) s
        s1.tookIx x n i

/-- A DATA or MDATA drop (R232, R233): duplicates are discarded, a drop before its manifest waits in the early buffer. -/
def State.onData (s : State) (d : Drop) : State :=
  let g := dropGroup d
  match s.fab.rxOf d.src g d.cid with
  | some x => s.rxData x d
  | none =>
    let dup := match s.fab.entry d.src g with | some e => e.dup d.cid | none => false
    if dup then s.discDup
    else if s.fab.early.length < 2048 then { s with fab := { s.fab with early := s.fab.early ++ [d] } }
    else s.discEarly

/-- A compute reset is under way. -/
def State.computeResetting (s : State) : Bool := match s.dev.reset with | some r => r.kind == 2 | none => false

/-- An address of a comb store or a control register (R252) (DEDUCED, log entry 41). -/
def resetAddr (a : Nat) : Bool := decide (0x010000000000 ≤ a) && decide (a < 0x010300000000) && !(decide (0x010100000000 ≤ a) && decide (a < 0x010200000000))

/-- Is the drop the last one of an open consignment that moves a counter (R234)? (DEDUCED, log entry 41). -/
def State.endsCount (s : State) (d : Drop) : Bool :=
  match s.fab.rxOf d.src (dropGroup d) d.cid with
  | some x =>
    movesCount x.man && (match resolveIx x.base d.seqoff x.got with
      | some i => let n := (manifestDesc x.man.payload).1.dropCount
                  (slideBase n x.base (x.got ++ [i])).1 == n
      | none => false)
  | none => false

/-- A compute reset holds drops for comb stores and control registers, the combs' counters among these, at the router (R252)
(DEDUCED, log entry 41; DEDUCED, log entry 75). -/
def State.heldByReset (s : State) (d : Drop) : Bool := s.computeResetting && (resetAddr d.addr || s.endsCount d)

/-- So it holds a manifest whose consignment is whole at once and moves a counter
(DEDUCED, log entry 41; DEDUCED, log entry 75). -/
def State.manifestHeld (s : State) (d : Drop) : Bool :=
  s.computeResetting && movesCount d && (manifestDesc d.payload).1.dropCount == 0

/-- And a GETREQ whose layout meets such an address (DEDUCED, log entry 41; DEDUCED, log entry 75). -/
def State.getreqHeld (s : State) (d : Drop) : Bool :=
  s.computeResetting && ((manifestDesc d.payload).1.ranges.any fun r => resetAddr r.1 || resetAddr (r.1 + r.2 - 1))

/-- A MANIFEST or MMANIFEST drop (R232): a new consignment opens and takes its early drops; those that a compute reset holds wait at the
router (R252). -/
def State.onManifest (s : State) (d : Drop) : State :=
  let g := dropGroup d
  match s.entryFor d.src g (BitVec.ofNat 13 (d.addr / 2 ^ 16)) with
  | none => s.discFull
  | some s1 =>
    let dup := match s1.fab.entry d.src g with | some e => e.dup d.cid | none => false
    if dup then s1.discDup.answer d 8 0 []
    else if (s1.fab.rxOf d.src g d.cid).isSome then s1.discDup
    else if s1.fab.rx.length ≥ 8192 then s1.discFull
    else
      let x : RxCons := { src := d.src, group := g, cid := d.cid, man := d, base := 0, got := [], acked := 0 }
      let mine := fun (y : Drop) => y.src == d.src && dropGroup y == g && y.cid == d.cid
      let held := s1.fab.early.filter mine
      let s2 := { s1 with fab := { s1.fab with rx := s1.fab.rx ++ [x], early := s1.fab.early.filter fun y => !mine y } }
      if (manifestDesc d.payload).1.dropCount = 0 then s2.finishRx x
      else held.foldl (fun (t : State) y =>
        if t.heldByReset y then { t with rte := { t.rte with arrived := t.rte.arrived ++ [y] } }
        else match t.fab.rxOf d.src g d.cid with
          | some r => t.rxData r y
          | none => t.discDup) s2

/-- A one-drop consignment without a manifest (R276): the state after it is closed and answered with DONE, and whether it is new. A
source entry that it makes takes LOW from it. -/
def State.rxSingle (s : State) (d : Drop) : State × Bool :=
  match s.entryFor d.src none d.cid with
  | none => (s.discFull, false)
  | some s1 =>
    let dup := match s1.fab.entry d.src none with | some e => e.dup d.cid | none => false
    if dup then (s1.discDup.answer d 8 0 [], false) else ((s1.closeCid d.src none d.cid).answer d 8 0 [], true)

/-- The responder to a GETREQ (R235): an RDATA drop for each index, or ERROR where an address is not open
(DEDUCED, log entry 35). -/
def State.onGetreq (s : State) (d : Drop) : State :=
  let desc := (manifestDesc d.payload).1
  let hi := min desc.dropCount (d.addr + 1024)
  let ix := (List.range (hi - d.addr)).map (d.addr + ·)
  let bad := ix.flatMap fun i => (desc.dropAddrs i).filter fun a => !s.opened a 1
  match bad with
  | a :: _ => s.answer d 9 a [0x01]
  | [] =>
    let runs := ix.flatMap fun i => (runsOf (desc.dropAddrs i) (List.replicate 48 0)).map fun r => (r.1, r.2.length)
    let s1 := s.touchRuns runs
    let s2 := s1.consumeIf (runs.any fun r => s1.poisoned r.1 r.2)
    s2.inject (ix.map fun i => s2.mkDrop 6 d.cls d.src d.cid i i ((desc.dropAddrs i).map s2.byte))

/-- The open consignment that an answer names: one to the chip it came from, else a multicast with that member
(DEDUCED, log entry 36; DESIGN CHOICE, log entry 47). -/
def Fab.consFor (f : Fab) (src : ChipId) (cid : BitVec 13) : Option Cons :=
  match f.open_.find? fun x => x.key == .chip src && x.cid == cid with
  | some x => some x
  | none => f.open_.find? fun x => x.cid == cid && (match x.key with | .group _ => true | _ => false) && x.members.any fun r => r.1 == src

/-- An RDATA drop (R235): written once through the local descriptor; once the base has advanced by 512 since the last GETREQ the next one
asks from it. -/
def State.onRdata (s : State) (d : Drop) : State :=
  match s.fab.consFor d.src d.cid with
  | some x =>
    (match x.kind, x.comb, x.e with
      | .get desc a, some c, some e =>
        let i := d.addr
        if i < x.base ∨ x.base + 1024 ≤ i ∨ x.n ≤ i ∨ x.got.contains i then s.discDup
        else
          let runs := desc.freshRuns i x.got d.payload
          if !runs.all (fun r => s.opened r.1 r.2.length) then (s.dropCons x).execFault c e 3 3
          else
            let s1 := s.putRuns runs
            let r := slideBase x.n x.base (x.got ++ [i])
            let x1 := { x with base := r.1, got := r.2, timeouts := if r.1 = x.base then x.timeouts else 0 }
            if r.1 = x.n then (s1.dropCons x1).fabDone c e
            else if r.1 ≥ x.sent + 512 then
              (s1.inject [s1.getreqDrop x1 a r.1]).putCons { x1 with sent := r.1 }
            else s1.putCons x1
      | _, _, _ => s.discDup)
  | none => s.discDup

end Sys2Proof.Machine
end

