-- ==== Sys2Proof/Machine/RouterOps.lean ====
section
/-!
DEFINITION. The router (11 R228, R237 to R247, R251): productive directions, adaptive and escape channels, multicast branches,
delivery and discards, and the slots of a link transmitter (R242).
-/
namespace Sys2Proof
open Machine

/-- Version tables by which the chip handles a drop (R244). -/
def Drop.serve (d : Drop) (r : Rte) : Option (Bool × Nat) := r.tab[d.ep].serves r.selfValid d.slice

/-- Channel of a drop on this chip: 3 × CLS + ESC in its own slice, 9 + ESC in a corridor (R229). -/
def Drop.chan (d : Drop) (r : Rte) (esc : Nat) : Nat :=
  match d.serve r with
  | some (true, _) => 9 + esc
  | _ => 3 * d.cls + esc

/-- A COLL drop of a reserved KIND (R276). -/
def Drop.badKind (d : Drop) : Bool := d.type == 0xB && (d.addr / 2 ^ 24 % 16 == 0 || decide (6 < d.addr / 2 ^ 24 % 16))

namespace Machine

/-! ### Directions -/

/-- A port (0 XP, 1 XN, … 5 ZN) of an axis and a direction. -/
def portOf (axis : Nat) (neg : Bool) : Nat := 2 * axis + neg.toNat

/-- Productive directions of an axis toward coordinate `t` from `h` (R238): false is positive. -/
def dirsOf (wrap : Bool) (dim h t : Nat) : List Bool :=
  if h = t then []
  else if wrap then
    let up := (t + dim - h) % dim
    let down := (h + dim - t) % dim
    if up < down then [false] else if down < up then [true] else [false, true]
  else [decide (t < h)]

/-- Productive (axis, direction) pairs from chip `h` to chip `t`, axes ascending, positive first. -/
def Rte.productive (r : Rte) (wraps : Nat) (h t : ChipId) : List (Nat × Bool) :=
  [0, 1, 2].flatMap fun a => (dirsOf (wraps.testBit a) (r.dim a) (axisOf h a) (axisOf t a)).map fun d => (a, d)

/-- The neighbour of chip `c` on a port. -/
def Rte.beside (r : Rte) (c : ChipId) (axis : Nat) (neg : Bool) : ChipId :=
  let step := fun (i : Nat) =>
    let h := axisOf c i
    let n := r.dim i
    if i = axis then (if neg then (h + n - 1) % n else (h + 1) % n) else h
  chipId (step 0) (step 1) (step 2)

/-- The neighbour of this chip on a port. -/
def Rte.neighbour (r : Rte) (axis : Nat) (neg : Bool) : ChipId := r.beside r.selfId axis neg

/-- Links of a port that may carry a drop of a tag: ACTIVE, the tag accepted, the neighbour not fenced (R238). -/
def State.usable (s : State) (v : Fin 2) (tag axis : Nat) (neg : Bool) : List LinkId :=
  let p := portOf axis neg
  if h : p < 6 then
    if s.rte.tab[v].accepts ⟨p, h⟩ tag && !s.rte.fenced (s.rte.neighbour axis neg) then
      (List.finRange 24).filter fun l => decide (l.val / 4 = p) && s.links[l].st == .active
    else []
  else []

/-- Credits of a channel that queued drops have not claimed yet. -/
def State.spare_ (s : State) (l : LinkId) (ch : Nat) : Nat :=
  let k : Link := s.links[l]
  k.credits.toList.getD ch 0 - (k.txq.filter fun d => d.chan s.rte d.esc == ch).length

/-- The link whose transmit queue holds the fewest drops, the lowest index on a tie (R238) (DESIGN CHOICE, log entry 46). -/
def State.shortest (s : State) (ls : List LinkId) : Option LinkId :=
  ls.foldl (fun (b : Option LinkId) l => match b with
    | some x => if s.links[l].txq.length < s.links[x].txq.length then some l else b
    | none => some l) none

/-- Has a drop from `src` crossed the dateline of an axis in its direction of travel, at coordinate `h` (R239)? -/
def crossed (neg : Bool) (src h : Nat) : Bool := if neg then decide (src < h) else decide (h < src)

/-- ESC of the escape channel on an axis (R239). -/
def escOf (wrap : Bool) (neg : Bool) (src h : Nat) : Nat := if wrap && crossed neg src h then 2 else 1

/-! ### Discards -/

/-- A drop meets a fenced chip `f`: counted, and FENCED returns to its SRC in the drop's slice (R251). -/
def State.fenceOff (s : State) (d : Drop) (f : ChipId) : State :=
  let x := s.mkDrop 0xA d.cls d.src d.cid 0 f.toNat []
  s.discFenced.inject [{ x with hdr := fixParity (setF x.hdr 10 10 d.slice) }]

/-- NOROUTE: counted, with one chronicle record for each port and chime (R240). -/
def State.noRouteOff (s : State) (ports : List Nat) : State :=
  ports.foldl (fun (t : State) p =>
    if t.rte.noroute.contains p then t
    else ({ t with rte := { t.rte with noroute := t.rte.noroute ++ [p] } } : State).record (.noRoute p)) s.discNoRoute

/-- A drop is delivered to this chip. -/
def State.deliver (s : State) (d : Drop) : State := { s with rte := { s.rte with arrived := s.rte.arrived ++ [d] } }

/-- A drop joins the transmit queue of a link. -/
def State.queueOn (s : State) (l : LinkId) (d : Drop) : State := s.modLink l fun k => { k with txq := k.txq ++ [d] }

/-! ### One-destination drops -/

/-- Route a drop addressed elsewhere (R238, R239, R240): none where it must wait for a credit. -/
def State.forward (s : State) (d : Drop) (wraps : Nat) : Option State :=
  let r := s.rte
  let dirs := r.productive wraps r.selfId d.dst
  let links := dirs.flatMap fun x => s.usable d.ep d.slice x.1 x.2
  if links.isEmpty then some (s.noRouteOff (dirs.map fun x => portOf x.1 x.2))
  else
    match s.shortest (links.filter fun l => decide (0 < s.spare_ l (d.chan r 0))) with
    | some l => some (s.queueOn l (d.setEsc 0))
    | none =>
      match dirs with
      | [] => none
      | (a, neg) :: _ =>
        let e := escOf (wraps.testBit a) neg (axisOf d.src a) (axisOf r.selfId a)
        (s.shortest ((s.usable d.ep d.slice a neg).filter fun l => decide (0 < s.spare_ l (d.chan r e)))).map fun l => s.queueOn l (d.setEsc e)

/-! ### Multicast (R241) -/

/-- Positions from coordinate `x` to `y` of an axis in a direction (DESIGN CHOICE, log entry 17). -/
def ahead (neg : Bool) (dim x y : Nat) : Nat := if neg then (x + dim - y) % dim else (y + dim - x) % dim

/-- May the route from `src` to member `m` pass chip `at_` on an axis in a direction? The direction is productive from the source, and
`at_` lies no farther than `m` (R238) (DESIGN CHOICE, log entry 17). -/
def Rte.passes (r : Rte) (wrap : Bool) (src at_ m : ChipId) (axis : Nat) (neg : Bool) : Bool :=
  let n := r.dim axis
  let from_ := axisOf src axis
  (dirsOf wrap n from_ (axisOf m axis)).contains neg &&
    decide (ahead neg n from_ (axisOf at_ axis) ≤ ahead neg n from_ (axisOf m axis))

/-- Is that direction the first one productive (R239), or is the chip beside the source on the positive way fenced, so that no route
leaves by it? (DESIGN CHOICE, log entry 17). -/
def Rte.first (r : Rte) (wrap : Bool) (src at_ m : ChipId) (axis : Nat) (neg : Bool) : Bool :=
  let pick := fun (i : Nat) => axisOf (if axis = i then src else at_) i
  (dirsOf wrap (r.dim axis) (axisOf src axis) (axisOf m axis)).head? == some neg ||
    r.fenced (r.beside (chipId (pick 0) (pick 1) (pick 2)) axis false)

/-- Does a copy of `src` that came by a link, or began here, serve member `m`? Not where the member's route cannot pass this chip in the
direction of travel. It does where that direction is the member's first and each axis below is settled, or its productive neighbours of
the chip that sent the copy are all fenced. Else (none) the answer hangs on which links of that chip, or of one before it, were usable
when it sent the copy, and this chip cannot know. A copy handed back (`back`) was sent by this chip to the next on its way
(DESIGN CHOICE, log entry 17). -/
def Rte.onBranch (r : Rte) (wraps : Nat) (from_ : Option LinkId) (back : Bool) (src m : ChipId) : Option Bool :=
  match from_ with
  | none => some true
  | some l =>
    let a := l.val / 8
    let neg := l.val / 4 % 2 == 0
    let prev := if back then r.selfId else r.neighbour a (!neg)
    let at_ := if back then r.neighbour a neg else r.selfId
    let below := (List.range a).all fun b =>
      (dirsOf (wraps.testBit b) (r.dim b) (axisOf prev b) (axisOf m b)).all fun d => r.fenced (r.beside prev b d)
    if !r.passes (wraps.testBit a) src at_ m a neg then some false
    else if below && r.first (wraps.testBit a) src at_ m a neg then some true
    else none

/-- The members that a copy serves; what this chip cannot know is a free value (DESIGN CHOICE, log entry 17). -/
def State.serving (s : State) (wraps : Nat) (from_ : Option LinkId) (back : Bool) (src : ChipId) (ms : List ChipId) : List ChipId × State :=
  ms.foldl (fun (t : List ChipId × State) m =>
    match s.rte.onBranch wraps from_ back src m with
    | some true => (t.1 ++ [m], t.2)
    | some false => t
    | none =>
      let (w, u) := t.2.draw
      (if w.getLsbD 0 then t.1 ++ [m] else t.1, u)) ([], s)

/-- The first productive direction of a member whose port has a usable link (DESIGN CHOICE, log entry 17). -/
def State.branchOf (s : State) (d : Drop) (wraps : Nat) (m : ChipId) : Option (Nat × Bool) :=
  (s.rte.productive wraps s.rte.selfId m).find? fun x => !(s.usable d.ep d.slice x.1 x.2).isEmpty

/-- A multicast drop: one copy on each port that some member's route leaves by, delivery where this chip is a member (R246), NOROUTE
for a member without a port, FENCED for a branch with fenced members alone (DESIGN CHOICE, log entry 17)
(DESIGN CHOICE, log entry 92). -/
def State.spread (s : State) (d : Drop) (from_ : Option LinkId) (back own : Bool) (wraps : Nat) : State :=
  let r := s.rte
  let all := (r.tab[d.ep].members d.group).map (r.physOf d.ep)
  let here := all.contains r.selfId && d.src != r.selfId
  let (served, s0) := s.serving wraps from_ back d.src (all.filter fun m => m != r.selfId && m != d.src)
  let live := served.filter fun m => !r.fenced m
  let ports := (live.filterMap (s.branchOf d wraps)).eraseDups
  let s1 := if !here then s0 else if own && (r.memberIndex d.ep d.group).isSome then s0.deliver d else s0.discTag
  let s2 := ports.foldl (fun (t : State) x =>
    let e := escOf (wraps.testBit x.1) x.2 (axisOf d.src x.1) (axisOf r.selfId x.1)
    match t.shortest (t.usable d.ep d.slice x.1 x.2) with
    | some l => t.queueOn l (d.setEsc e)
    | none => t) s1
  let s3 := (live.filter fun m => (s.branchOf d wraps m).isNone).foldl (fun (t : State) _ => t.discNoRoute) s2
  (served.filter fun m => r.fenced m && !(match s.branchOf d wraps m with | some x => ports.contains x | none => false)).foldl
    (fun (t : State) m => t.fenceOff d m) s3

/-! ### One drop at the router -/

/-- What the router does with a drop; none where it waits. A foreign slice's multicast at a corridor chip is spread by this chip's own group
table and origin (DESIGN CHOICE, log entry 92). -/
def State.routeOne (s : State) (h : HeldDrop) : Option State :=
  let d := h.drop
  let r := s.rte
  if d.type = 0 ∨ 0xD ≤ d.type ∨ d.esc = 3 ∨ !d.parityOk then some s.discHdr
  else if r.fenced d.src then some s.discFenced
  else if !d.multi && r.fenced d.dst then some (s.fenceOff d d.dst)
  else if !d.multi && d.dst == r.selfId then
    (match d.serve r with
      | some (false, _) => some (if d.badKind then s.discHdr else s.deliver d)
      | _ => some s.discTag)
  else match d.serve r with
    | none => some s.discTag
    | some (corr, wraps) =>
      if d.multi then some (if r.tab[d.ep].groupValid d.group then s.spread d h.from_ h.back (!corr) wraps else s.discTag)
      else s.forward d wraps

/-- The i-th drop that the router holds is routed. -/
def State.routeAt (s : State) (i : Nat) : State :=
  match s.rte.drops[i]? with
  | none => s
  | some h => (({ s with rte := { s.rte with drops := s.rte.drops.eraseIdx i } } : State).routeOne h).getD s

/-! ### The choice for a transmitter's slot (R242) -/

/-- Buckets after one slot: C0 gains a drop every 50 slots, channels 9 to 11 every 8. -/
def Link.slot (k : Link) : Link :=
  let n := k.slotNo + 1
  { k with
    slotNo := n
    c0Bucket := if n % 50 = 0 then min 64 (k.c0Bucket + 1) else k.c0Bucket
    coBucket := if n % 8 = 0 then min 64 (k.coBucket + 1) else k.coBucket }

/-- Class that a channel is served in. -/
def chanClass (ch : Nat) : Nat := ch / 3

/-- Index of the oldest queued drop of a class that holds a credit. -/
def Link.ready (k : Link) (chan : Drop → Nat) (cls : Nat) : Option Nat :=
  k.txq.findIdx? fun d => chanClass (chan d) == cls && decide (0 < k.credits.toList.getD (chan d) 0)

/-- The class that has the slot: C0 first, then C1 to C3 in turn (R242). -/
def Link.pick (k : Link) (chan : Drop → Nat) : Option (Nat × Nat) :=
  let may := fun (c : Nat) => if c = 0 then decide (0 < k.c0Bucket) else if c = 3 then decide (0 < k.coBucket) else true
  let turns := [0, k.turn, k.turn % 3 + 1, (k.turn + 1) % 3 + 1]
  turns.findSome? fun c => if may c then (k.ready chan c).map fun i => (c, i) else none

/-! ### Age (R237) -/

/-- Place of the j-th drop that waits in the transmit queues, link by link. -/
def State.queuedAt (s : State) (j : Nat) : Option (LinkId × Nat) :=
  ((List.finRange 24).flatMap fun l => (List.range s.links[l].txq.length).map fun i => (l, i))[j]?

/-- A drop of C1 to C3 that has waited 10 µs leaves the router: index i counts the router's drops, then those of the transmit queues, then
those delivered and not yet taken (R237, R252). -/
def State.staleOff (s : State) (i : Nat) : State :=
  let queued := s.links.foldl (fun (t : Nat) k => t + k.txq.length) 0
  match s.rte.drops[i]? with
  | some h => if h.drop.cls = 0 then s else ({ s with rte := { s.rte with drops := s.rte.drops.eraseIdx i } } : State).discStale
  | none =>
    match s.queuedAt (i - s.rte.drops.length) with
    | some (l, j) => (match s.links[l].txq[j]? with
        | some d => if d.cls = 0 then s else (s.modLink l fun k => { k with txq := k.txq.eraseIdx j }).discStale
        | none => s)
    | none =>
      match s.rte.arrived[i - s.rte.drops.length - queued]? with
      | some d => if d.cls = 0 then s else (s.taken d).discStale
      | none => s

end Machine
end Sys2Proof
end

