-- ==== Sys2Proof/Machine/LinkOps.lean ====
section
/-!
DEFINITION. The Lankar link layer (10): codewords in both directions with their code, lanes and control words, credits and replay, lane
sparing, failure, bring-up, and roadworks.
-/
namespace Sys2Proof.Machine

/-! ### Codewords (R211 to R214) -/

/-- One bit into the CRC-12 register, polynomial x¹² + x¹¹ + x³ + x² + x + 1 (Table 10.1). -/
def crc12Step (r : Nat) (b : Bool) : Nat :=
  let s := r * 2 % 4096
  if xor b (r / 2048 % 2 == 1) then s ^^^ 0x80F else s

/-- CRC-12 of `n` bits in ascending order. -/
def crc12 : Nat → Nat → Nat → Nat
  | 0, _, r => r
  | n + 1, w, r => crc12 n (w / 2) (crc12Step r (w % 2 == 1))

/-- The CRC of a message is right. -/
def crcOk (m : BitVec 5140) : Bool := getF m 5128 12 == crc12 5128 (getF m 0 5128) 0xFFF

/-- Slot `i` of a message, its link-symbol index and its control nibble. -/
def slotOf (m : BitVec 5140) (i : Nat) : Nat := getF m (512 * i) 512
def symIx (m : BitVec 5140) : Nat := getF m 5120 4
def ctlNibble (m : BitVec 5140) : BitVec 4 := BitVec.ofNat 4 (getF m 5124 4)

/-- A symbol of a type and, for MUSTER, a kind that Tables 10.2 and 13.3 define. -/
def symKnown (w : Nat) : Bool :=
  decide (1 ≤ w % 256) && decide (w % 256 ≤ 10) && (w % 256 != 4 || (decide (1 ≤ w / 256 % 256) && decide (w / 256 % 256 ≤ 4)))

/-- The drop in a slot (R212, R227). -/
def slotDrop (w : Nat) : Drop := ⟨BitVec.ofNat 128 w, leBytes 48 (w / 2 ^ 128)⟩

/-- The drops of a message in slot order: slots that are neither the link symbol nor empty. -/
def slotDrops (m : BitVec 5140) : List Drop :=
  (((List.range 10).filter (· != symIx m)).map (slotOf m)).filterMap fun w => if w = 0 then none else some (slotDrop w)

/-- A message that passes R213: CRC right, and no reserved link symbol. -/
def messageOk (m : BitVec 5140) : Bool := crcOk m && (decide (10 ≤ symIx m) || symKnown (slotOf m (symIx m)))

/-! ### When a link talks, and over which lanes -/

/-- States in which a link is up. -/
def LinkState.up : LinkState → Bool
  | .aligned | .active | .notice | .roadworks => true
  | _ => false

/-- Codewords are exchanged: the link is up and not under adaptation, or exchanges IDENT (Tables 10.4, 10.5). -/
def Link.talks (k : Link) : Bool := (k.st.up && !(k.st == .roadworks && k.settled)) || (k.st == .training && k.phase == .identity)

/-- New drops are sent (R221). -/
def Link.carries (k : Link) : Bool := k.st == .active || k.st == .notice

/-- Active lane positions of a direction: eight, or seven without the spared one (R211, R218). -/
def activeLanes (spare : Option (Fin 8)) : List Nat := (List.range 8).filter fun i => spare.map (·.val) != some i

/-- Lane position of symbol `j` of a codeword that begins at place `pos` of the round (R211). -/
def laneAt (spare : Option (Fin 8)) (pos j : Nat) : Nat :=
  let ls := activeLanes spare
  ls.getD ((pos + j) % ls.length) 0

/-- Place in the round after one codeword of 544 symbols. -/
def nextPlace (spare : Option (Fin 8)) (pos : Nat) : Nat := (pos + 544) % (activeLanes spare).length

/-! ### Ports -/

/-- The other links of a link's port. -/
def portMates (l : LinkId) : List LinkId := (List.finRange 24).filter fun x => decide (x.val / 4 = l.val / 4) && x != l

/-- The owner end is the P end (R208). -/
def ownerEnd (l : LinkId) : Bool := l.val / 4 % 2 == 0

/-- The link of the same number on the opposite port of the axis. -/
def facing (l : LinkId) : LinkId :=
  if ownerEnd l then ⟨(l.val + 4) % 24, Nat.mod_lt _ (by decide)⟩ else ⟨(l.val + 20) % 24, Nat.mod_lt _ (by decide)⟩

/-- The chip that R12 puts at the far end. -/
def State.expectedFar (s : State) (l : LinkId) : ChipId := s.rte.neighbour (l.val / 8) (!ownerEnd l)

/-! ### Failure (R223, R224) -/

/-- A deferred or withdrawn request is counted (Table 10.11), and waits. -/
def Link.defer (k : Link) : Link := { k with rw := satF k.rw 16 8 1, rwWait := true }

/-- What a failure does to another link of the port (R224): a notice is cancelled by the owner unless it closes the
link for EN = 0, a calibration is cut short. -/
def Link.mateFailed (k : Link) (owner : Bool) : Link :=
  if k.st = .notice ∧ k.en then
    (if owner then { k.defer with st := .active, rwAt := none, symOut := k.symOut ++ [.rwCancel (k.rwAt.getD 0)] } else k)
  else if k.st = .roadworks ∧ k.rwCut = false then { (if owner then k.defer else k) with rwCut := true }
  else k

/-- What a link had in transit or in hand is gone: queues, codeword, control words, windows. -/
def Link.cleared (k : Link) : Link :=
  { k with
    buf := [], resend := [], carry := none, cwSlots := [], cwSym := none, symOut := [], hunting := false, nibbles := some [], ctl := []
    hits := [], discAt := [], rxSwitch := none, txSwitch := none, rwAt := none, closeAt := none, settled := false, rwCut := false
    rwWait := false, matched := false, phase := .signal, samples := [], pings := 0 }

/-- Drops go back to the router as if they had come by the facing link, so that the far side of a multicast copy's tree is kept by the
direction it travelled in (DESIGN CHOICE, log entry 46). -/
def State.handBack (s : State) (l : LinkId) (ds : List Drop) : State :=
  { s with rte := { s.rte with drops := s.rte.drops ++ ds.map fun d => { drop := d, from_ := some (facing l), back := true } } }

/-- A link goes to FAILED: its buffered and queued drops return to the router, keeping their class (R223). -/
def State.linkFail (s : State) (l : LinkId) : State :=
  let k : Link := s.links[l]
  if k.st = .off ∨ k.st = .failed then s
  else
    let s1 := s.modLink l fun k => { k.cleared with st := .failed, err := setB k.err 2 true, txq := [] }
    let s2 := s1.handBack l (k.buf.map (·.2) ++ k.txq)
    let s3 := (portMates l).foldl (fun (t : State) m => t.modLink m fun k => k.mateFailed (ownerEnd m)) s2
    (s3.record (.linkFailed l)).notice (.fault 5 1 l.val)

/-- A link of an unused port (R13, R414): an axis of one position, or the end of a line without its wrap cable. -/
def State.unusedPort (s : State) (l : LinkId) : Bool :=
  let a := l.val / 8
  let x := axisOf s.rte.selfId a
  s.rte.dim a == 1 || (getF s.rte.machine (24 + a) 1 == 0 && (if ownerEnd l then x + 1 == s.rte.dim a else x == 0))

/-! ### Lane sparing (R218) -/

/-- First codeword count that is a multiple of 16 and at least 64 codewords later. -/
def switchPoint (n : W64) : W64 := BitVec.ofNat 64 ((n.toNat + 64 + 15) / 16 * 16)

/-- A receive lane fails: SPARE goes out, or a second failed lane fails the link. -/
def State.laneFail (s : State) (l : LinkId) (lane : Fin 8) : State :=
  let k : Link := s.links[l]
  if !k.st.up ∨ k.rxSpare = some lane ∨ k.rxSwitch.map (·.1) = some lane then s
  else if k.rxSpare.isSome ∨ k.rxSwitch.isSome then s.linkFail l
  else s.modLink l fun k => { k with
    rxSwitch := some (lane, switchPoint k.cwCount), symOut := k.symOut ++ [.spare (ownerEnd l) lane (switchPoint k.cwCount)] }

/-- A SPARE arrives for the transmit direction; one that names a second lane fails the link. One that names the direction it came by is no
symbol of R218 and has no effect (DESIGN CHOICE, log entry 87). -/
def State.onSpare (s : State) (l : LinkId) (x : SpareSym) : State :=
  let k : Link := s.links[l]
  if !k.st.up ∨ x.toOwner = ownerEnd l ∨ k.txSpare = some x.lane ∨ k.txSwitch.map (·.1) = some x.lane then s
  else if k.txSpare.isSome ∨ k.txSwitch.isSome then s.linkFail l
  else s.modLink l fun k => { k with txSwitch := some (x.lane, x.at_) }

/-- A direction switches to seven lanes at its switch point. -/
def Link.switch (k : Link) (rx : Bool) : Link :=
  match rx, k.rxSwitch, k.txSwitch with
  | true, some (lane, n), _ =>
    if n.toNat ≤ k.cwCount.toNat then { k with rxSpare := some lane, rxSwitch := none, rxPos := k.rxPos % 7, err := setB k.err 1 true } else k
  | false, _, some (lane, n) =>
    if n.toNat ≤ k.cwTx.toNat then { k with txSpare := some lane, txSwitch := none, txPos := k.txPos % 7, err := setB k.err 1 true } else k
  | _, _, _ => k

/-! ### Receiving codewords (R213 to R215) -/

/-- The message of a codeword with the indices of its corrected symbols, none where the code cannot correct it (R209, R213). -/
def cwMessage (w : CodewordIn) : Option (BitVec 5140 × List Nat) :=
  let syms := (List.range 544).map fun j => w.raw.toNat / 1024 ^ j % 1024
  (rsDecode 30 syms []).map fun fixed => (BitVec.ofNat 5140 (rsPack (fixed.take 514).reverse), rsChanged syms fixed)

/-- Events of the last millisecond. -/
def recentMs (now : Nat) (t : Nat) : Bool := decide (now < t + cyclesPerMs)

/-- The control-word position moves by one codeword: `x` is its nibble, none where it was discarded (R214). -/
def Link.nibble (k : Link) (x : Option (BitVec 4)) : Link :=
  let ns := match k.nibbles, x with
    | some l, some b => some (l ++ [b])
    | _, _ => none
  let ends := (k.cwCount + 1).toNat % 16 == 0
  { k with
    cwCount := k.cwCount + 1
    rxPos := nextPlace k.rxSpare k.rxPos
    nibbles := if ends then some [] else ns
    ctl := match ends, ns with
      | true, some l => k.ctl ++ [BitVec.ofNat 64 (l.zipIdx.foldl (fun t b => t + b.1.toNat * 2 ^ (4 * b.2)) 0)]
      | _, _ => k.ctl }

/-- A codeword is discarded whole (R213); the 64th within a millisecond fails the link (R223) (DESIGN CHOICE, log entry 93). -/
def State.discardCodeword (s : State) (l : LinkId) : State :=
  let now := s.chm.local_
  let s1 := s.modLink l fun k =>
    let k1 := k.nibble none
    { k1 with
      err := setB (satF k1.err 16 16 1) 0 true, hunting := true, symOut := k1.symOut ++ [.nak k1.rxSeq]
      discAt := k1.discAt.filter (recentMs now) ++ [now] }
  if 64 ≤ (s1.links[l] : Link).discAt.length then s1.linkFail l else s1

/-- Corrected symbols: counted on the link and its block, and per lane for LANE_LIMIT (R218, Tables 10.9, 19.7)
(DESIGN CHOICE, log entry 93). -/
def State.noteHits (s : State) (l : LinkId) (fixed : List Nat) : State :=
  let now := s.chm.local_
  let k : Link := s.links[l]
  let new := fixed.map fun j => (now, laneAt k.rxSpare k.rxPos j)
  let s1 := (s.modLink l fun k => { k with
    err := satF k.err 32 32 fixed.length, hits := k.hits.filter (fun h => recentMs now h.1) ++ new }).corrected 5 fixed.length
  let worn := (List.finRange 8).filter fun p =>
    decide (getF s.lnkUse 32 24 < ((s1.links[l] : Link).hits.filter fun h => h.2 == p.val).length)
  if fixed.isEmpty then s else worn.foldl (fun (t : State) p => t.laneFail l p) s1

/-- The drops of a codeword that are next in sequence, and the number expected after them (R215). -/
def inSequence (n seq : BitVec 16) : List Drop → List Drop × BitVec 16
  | [] => ([], n)
  | d :: ds => if seq = n then let r := inSequence (n + 1) (seq + 1) ds; (d :: r.1, r.2) else inSequence n (seq + 1) ds

/-- A decoded codeword is used (R213): its drops are accepted in sequence and handed to the router, unless a replay is awaited; its nibble
joins the control word (DESIGN CHOICE, log entry 46). -/
def State.useCodeword (s : State) (l : LinkId) (w : CodewordIn) (m : BitVec 5140) : State :=
  let k : Link := s.links[l]
  let hunting := k.hunting && !w.replay
  let r := if hunting || !k.st.up || k.st == .aligned then ([], k.rxSeq) else inSequence k.rxSeq w.seq (slotDrops m)
  let back := fun (ch : Nat) => (r.1.filter fun d => d.chan s.rte d.esc == ch).length
  let s1 := s.modLink l fun k => { k.nibble (some (ctlNibble m)) with
    hunting := hunting, rxSeq := r.2, lent := Vector.ofFn fun ch => k.lent[ch] - back ch.val }
  { s1 with rte := { s1.rte with drops := s1.rte.drops ++ r.1.map fun d => { drop := d, from_ := some l } } }

/-- A codeword arrives (R211, R213): a due switch to seven lanes comes first. -/
def State.onCodeword (s : State) (l : LinkId) (w : CodewordIn) : State :=
  if !(s.links[l] : Link).talks then s
  else
    let s0 := s.modLink l fun k => k.switch true
    match cwMessage w with
    | none => s0.discardCodeword l
    | some (m, fixed) => if messageOk m then (s0.noteHits l fixed).useCodeword l w m else (s0.noteHits l fixed).discardCodeword l

/-- Does sequence number `x` lie before `n`, modulo 2^16? -/
def seqBefore (x n : BitVec 16) : Bool := decide (0x8000 ≤ (x - n).toNat)

/-- Credits returned for a channel. -/
def Link.credit (k : Link) (ch n : Nat) : Link :=
  { k with credits := Vector.ofFn fun j => if j.val = ch then k.credits[j] + n else k.credits[j] }

/-- A control word that has arrived whole is used (R214, Table 10.3) (DESIGN CHOICE, log entry 76). -/
def Link.control (k : Link) (w : W64) : Link :=
  let ack : BitVec 16 := w.setWidth 16
  (({ k with ctl := k.ctl.erase w, buf := k.buf.filter (fun x => !seqBefore x.1 ack), resend := k.resend.filter fun x => !seqBefore x.1 ack } :
    Link).credit (getF w 16 4) (getF w 20 12)).credit (getF w 32 4) (getF w 36 12)

/-- A NAK makes the transmitter resend every buffered drop from number `n` on (R215). -/
def Link.replayFrom (k : Link) (n : BitVec 16) : Link :=
  { k with resend := k.buf.filter fun x => !seqBefore x.1 n, carry := none, replay := satF k.replay 32 32 1 }

/-! ### Forming codewords (R211, R212, R214, R215, R217, R242) -/

/-- A symbol as the 512 bits of its slot (Tables 10.2, 13.3, 13.4) (DESIGN CHOICE, log entry 87). -/
def SymOut.word (x : SymOut) : Nat :=
  let at_ := fun (fs : List (Nat × Nat)) => fs.foldl (fun (t : Nat) f => t + f.2 * 256 ^ f.1) 0
  let other := fun (ty : Nat) (fs : List Nat) => ty + 256 * (Config.symBytes ty fs).toNat
  match x with
  | .nak n => at_ [(0, 1), (1, n.toNat)]
  | .ident chip link iface alloc => other 2 ([chip.toNat, link, iface.toNat] ++ alloc)
  | .chime y => at_ [(0, 3), (2, y.launch.toNat), (4, y.hops.toNat), (5, y.root.toNat), (8, y.n.toNat), (16, y.base.toNat), (24, y.ival.toNat),
      (28, y.pend.toNat), (32, y.pendAt.toNat), (40, y.deputy.toNat)]
  | .ping t1 => at_ [(0, 4), (1, 1), (8, t1.toNat)]
  | .echo t1 t2 t3 => at_ [(0, 4), (1, 2), (8, t1.toNat), (16, t2.toNat), (24, t3.toNat)]
  | .elect y => at_ [(0, 4), (1, 3), (8, y.best.toNat), (11, y.bestPref.toNat), (12, y.second.toNat), (15, y.secondPref.toNat),
      (16, y.running.toNat), (24, y.base.toNat)]
  | .time y => at_ [(0, 4), (1, 4), (2, y.launch.toNat), (8, y.tb.toNat), (16, y.frac.toNat), (17, y.hops.toNat), (18, y.root.toNat), (24, y.base.toNat),
      (32, y.t0.toNat), (40, y.ival.toNat), (44, y.nextN.toNat), (52, y.nextAt.toNat)]
  | .rwNotice ts => other 5 [ts.toNat]
  | .rwCancel ts => other 6 [ts.toNat]
  | .rwRequest => other 7 []
  | .close n => other 8 [n.toNat]
  | .open_ d rx tx => other 9 [d.toNat, rx.toNat, tx.toNat]
  | .spare dir lane n => other 10 [dir.toNat, lane.val, n.toNat]

/-- A drop as the 512 bits of its slot. -/
def dropWord (d : Drop) : Nat := d.hdr.toNat + leNat d.payload * 2 ^ 128

/-- Highest occupancy of the replay buffer is kept (Table 10.10). -/
def peakOf (r : W64) (n : Nat) : W64 := setF r 16 16 (max (getF r 16 16) n)

/-- The drop `d` at queue index `i` is sent: credit and bucket spent, numbered, kept for replay. -/
def Link.send (k : Link) (chan : Drop → Nat) (c i : Nat) (d : Drop) : Link :=
  let ch := chan d
  { k with
    txq := k.txq.eraseIdx i
    credits := Vector.ofFn fun j => if j.val = ch then k.credits[j] - 1 else k.credits[j]
    c0Bucket := if c = 0 then k.c0Bucket - 1 else k.c0Bucket
    coBucket := if c = 3 then k.coBucket - 1 else k.coBucket
    turn := if c = 0 then k.turn else c % 3 + 1
    buf := k.buf ++ [(k.txSeq, d)]
    cwSlots := k.cwSlots ++ [some (k.txSeq, d)]
    txSeq := k.txSeq + 1
    replay := peakOf k.replay (k.buf.length + 1) }

/-- The queued drop that R242 picks: its class, index and itself; none where the link takes no new drop (R215, R221). -/
def Link.next (k : Link) (chan : Drop → Nat) : Option (Nat × Nat × Drop) :=
  if !k.carries || decide (4688 ≤ k.buf.length) then none
  else match k.pick chan with
    | some (c, i) => (k.txq[i]?).map fun d => (c, i, d)
    | none => none

/-- One slot is filled: with the drop that a symbol displaced, one of a replay, or the one that R242 picks. -/
def Link.fill (k : Link) (chan : Drop → Nat) : Link :=
  match k.carry, k.resend, k.next chan with
  | some x, _, _ => { k with carry := none, cwSlots := k.cwSlots ++ [some x] }
  | none, x :: xs, _ => { k with resend := xs, cwSlots := k.cwSlots ++ [some x] }
  | none, [], some (c, i, d) => k.send chan c i d
  | none, [], none => { k with cwSlots := k.cwSlots ++ [none] }

/-- A codeword starts: a due switch, and the oldest symbol that is due. -/
def Link.startCw (k : Link) : Link :=
  if k.cwSlots.isEmpty then
    let k1 := k.switch false
    { k1 with cwSym := k1.symOut.head?, symOut := k1.symOut.drop 1 }
  else k

/-- Credits of each channel that this end may return: its share less what the far end holds and what still lies here (R217). -/
def State.returns (s : State) (l : LinkId) : List Nat :=
  let k : Link := s.links[l]
  (List.finRange 12).map fun ch =>
    k.own.getD ch.val 0 - k.lent[ch] - (s.rte.drops.filter fun h => h.from_ == some l && !h.back && h.drop.chan s.rte h.drop.esc == ch.val).length

/-- Up to two channels with credits to return, in turn. -/
def creditTurn (turn : Nat) (rs : List Nat) : List Nat :=
  (((List.range 12).map fun i => (turn + i) % 12).filter fun ch => 0 < rs.getD ch 0).take 2

/-- The control word of a group of 16 codewords (Table 10.3): ACK, and two credit returns. -/
def State.formControl (s : State) (l : LinkId) : State :=
  let rs := s.returns l
  s.modLink l fun k =>
    let chs := creditTurn k.vcTurn rs
    let give := fun (ch : Nat) => if chs.contains ch then min 4095 (rs.getD ch 0) else 0
    let a := chs.getD 0 0
    let b := chs.getD 1 a
    { k with
      ctlTx := pack [(0, k.rxSeq.toNat), (16, a), (20, give a), (32, b), (36, if b = a then 0 else give b)]
      vcTurn := (chs.getLastD k.vcTurn + 1) % 12
      lent := Vector.ofFn fun ch => k.lent[ch] + give ch.val }

/-- The slots of a full codeword with its symbol, that symbol's slot, and the drop it displaced (R212). -/
def Link.slotted (k : Link) : List Nat × Nat × Option (BitVec 16 × Drop) :=
  let ws := k.cwSlots.map fun x => match x with | some d => dropWord d.2 | none => 0
  match k.cwSym with
  | none => (ws, 15, none)
  | some x => match k.cwSlots.findIdx? (·.isNone) with
    | some i => (ws.set i x.word, i, none)
    | none => (ws.set 9 x.word, 9, (k.cwSlots.getD 9 none))

/-- Message bits of slots, SYM and a control nibble, with the CRC (Table 10.1). -/
def messageOf (slots : List Nat) (sym nib : Nat) : Nat :=
  let body := slots.zipIdx.foldl (fun t x => t + x.1 % 2 ^ 512 * 2 ^ (512 * x.2)) 0 + sym * 2 ^ 5120 + nib * 2 ^ 5124
  body + crc12 5128 body 0xFFF * 2 ^ 5128

/-- The 544 symbols of a message, each with its physical lane, inverted where the profile says so (R211, R12). -/
def laneSyms (p : Profile) (l : Nat) (spare : Option (Fin 8)) (pos msg : Nat) : List (Nat × Nat) :=
  let data := (List.range 514).map fun j => msg / 1024 ^ j % 1024
  (data ++ rsParity 30 data).zipIdx.map fun x =>
    let lane := p.lane l (laneAt spare pos x.2)
    (lane.1, if lane.2 then 1023 - x.1 else x.1)

/-- A full codeword goes out. -/
def State.closeCw (s : State) (l : LinkId) : State :=
  let s1 := if (s.links[l] : Link).cwTx.toNat % 16 = 0 then s.formControl l else s
  s1.modLink l fun k =>
    let x := k.slotted
    let msg := messageOf x.1 x.2.1 (getF k.ctlTx (4 * (k.cwTx.toNat % 16)) 4)
    { k with
      cwSlots := [], cwSym := none, carry := x.2.2, cwTx := k.cwTx + 1, txPos := nextPlace k.txSpare k.txPos
      cwOut := k.cwOut ++ [laneSyms s.wdn.core l.val k.txSpare k.txPos msg] }

/-- One slot of a link that talks; the tenth completes its codeword. -/
def State.transmit (s : State) (l : LinkId) : State :=
  if !(s.links[l] : Link).talks then s
  else
    let s1 := s.modLink l fun k => (k.startCw.slot).fill fun d => d.chan s.rte d.esc
    if (s1.links[l] : Link).cwSlots.length < 10 then s1 else s1.closeCw l

/-! ### Bring-up (R219, Table 10.4) -/

/-- One PING goes out; its stamp of the local count is a free value (R280). -/
def State.ping (s : State) (l : LinkId) : State :=
  if 256 ≤ (s.links[l] : Link).pings then s
  else
    let (t1, s1) := s.draw
    s1.modLink l fun k => { k with pings := k.pings + 1, symOut := k.symOut ++ [.ping t1] }

/-- This end begins the 256 exchanges of an ALIGNED link (R280). -/
def State.startPings (s : State) (l : LinkId) : State := (s.modLink l fun k => { k with pings := 0, samples := [] }).ping l

/-- May the chip train its links: in the muster's phase 1, or once it runs a time base? -/
def State.trains (s : State) : Bool := (s.dev.st == .muster && s.chm.phase == 1) || s.chm.running

/-- Start of bring-up: the link waits for signal. -/
def Link.restart (k : Link) : Link := { k.cleared with st := .down, far := none, rxSpare := none, txSpare := none }

/-- Numbers, lanes and control words as alignment fixes them anew (DESIGN CHOICE, log entry 46). -/
def Link.aligned_ (k : Link) : Link :=
  { k with
    cwCount := 0, cwTx := 0, rxPos := 0, txPos := 0, nibbles := some [], ctl := [], hunting := false, txSeq := 0, rxSeq := 0, buf := []
    resend := [], carry := none, cwSlots := [], cwSym := none, hits := [], discAt := [] }

/-- Credits as a list of allocations gives them. -/
def creditsOf (alloc : List Nat) : Vector Nat 12 := Vector.ofFn fun j => alloc.getD j.val 0

/-- Alignment ends, perhaps on seven lanes of a direction, and IDENT goes out with this end's division of its buffer (R217, R219). -/
def State.toIdentity (s : State) (l : LinkId) (rx tx : Option (Fin 8)) : State :=
  let p := s.wdn.core
  s.modLink l fun k =>
    { k.aligned_ with
      phase := .identity, rxSpare := rx, txSpare := tx, err := if rx.isSome ∨ tx.isSome then setB k.err 1 true else k.err
      own := p.shares, lent := creditsOf p.shares
      symOut := k.symOut ++ [.ident s.rte.selfId l.val (p.ifaces.getD l.val 0) p.shares] }

/-- A bring-up phase ends; `rx` and `tx` name the lane that alignment leaves out. A link that a running chip trains again is ALIGNED until its
delay matches by OPEN (R224), or until a joiner at its far end measures it (R284). A failed phase fails the link, but one of an unused port
stays DOWN (R414) (DESIGN CHOICE, log entry 46). -/
def State.linkPhase (s : State) (l : LinkId) (ok : Bool) (rx tx : Option (Fin 8)) : State :=
  let k : Link := s.links[l]
  if !(k.en && s.trains && (k.st == .down || k.st == .training)) then s
  else if !ok then (if k.phase = .signal ∧ s.unusedPort l = true then s else s.linkFail l)
  else match k.phase with
    | .signal => s.modLink l fun k => { k with st := .training, phase := .equalisation }
    | .equalisation => s.modLink l fun k => { k with phase := .alignment }
    | .alignment => s.toIdentity l rx tx
    | .identity =>
      if k.far.isSome then
        s.modLink l fun k => { k with st := .aligned, phase := .delay, calAt := s.chm.local_, calTemp := none }
      else s
    | .delay => s

/-- IDENT (R217, R14): credits are set; a coordinate or link that R12 does not predict marks the link's cable fault and keeps it out of
service until it trains again. A chip whose RTE_SELF.VALID is 0 predicts nothing and makes no check (DESIGN CHOICE, log entry 94). -/
def State.onIdent (s : State) (l : LinkId) (x : IdentSym) : State :=
  let k : Link := s.links[l]
  if !(k.st == .training && k.phase == .identity) then s
  else
    let bad := s.rte.selfValid && !(x.chip == s.expectedFar l && x.link.toNat == (facing l).val)
    let s1 := s.modLink l fun k => { k with
      far := some x.chip, farIface := x.iface, alloc := x.alloc, credits := creditsOf x.alloc, badCable := bad }
    if bad then ({ s1 with rte := { s1.rte with cableFault := setB s1.rte.cableFault l.val true } } : State).record (.cableFault l) else s1

/-- The link failed the R12 check when it last trained. -/
def State.miscabled (s : State) (l : LinkId) : Bool := (s.links[l] : Link).badCable

/-- Link `n` of a port (R208). -/
def linkAt (port : Fin 6) (n : Fin 4) : LinkId := ⟨4 * port.val + n.val, by omega⟩

/-- A FAILED link goes through Table 10.4 again (R224). -/
def State.linkRetry (s : State) (l : LinkId) : State :=
  let k : Link := s.links[l]
  if k.st = .failed ∧ k.en ∧ s.trains then s.modLink l Link.restart else s

/-! ### Roadworks (R220 to R222) -/

/-- Device states in which roadworks and retraining run. -/
def DevState.working : DevState → Bool
  | .ready | .running | .quiesced => true
  | _ => false

/-- May roadworks of a link start (R220)? -/
def State.rwMay (s : State) (l : LinkId) : Bool :=
  s.dev.st.working && (s.links[l] : Link).st == .active && (portMates l).all fun m => (s.links[m] : Link).st == .active

/-- Roadworks starts with its notice. -/
def State.rwStart (s : State) (l : LinkId) : State :=
  let t : W64 := BitVec.ofNat 64 (s.chm.tb + 3600)
  s.modLink l fun k => { k with st := .notice, rwAt := some t, rwWait := false, symOut := k.symOut ++ [.rwNotice t] }

/-- A roadworks decision uses LNK_CFG as it stands (R226). -/
def State.rwDecide (s : State) : State := { s with lnkUse := s.lnkCfg }

/-- A request for roadworks at the owner end: it starts, or is deferred. -/
def State.rwTry (s : State) (l : LinkId) : State :=
  if s.rwMay l then s.rwDecide.rwStart l else s.rwDecide.modLink l Link.defer

/-- Requests that wait start in ascending link order as soon as they may (R220) (DESIGN CHOICE, log entry 95). -/
def State.rwPump (s : State) : State :=
  (List.finRange 24).foldl (fun (t : State) l => if (t.links[l] : Link).rwWait && t.rwMay l then t.rwDecide.rwStart l else t) s

/-- How far a temperature has moved from the one at the last calibration; a first one is taken as it. -/
def Link.moved (k : Link) (temp : BitVec 8) : Nat :=
  match k.calTemp with
  | some t => max t.toNat temp.toNat - min t.toNat temp.toNat
  | none => 0

/-- The monitors of a link report a temperature (R220): PERIOD_S has passed, or the temperature has moved by TSTEP since the last
calibration. The owner starts or defers, the far end asks (DESIGN CHOICE, log entry 95). -/
def State.rwSchedule (s : State) (l : LinkId) (temp : BitVec 8) : State :=
  let k : Link := s.links[l]
  let hot := decide (max 1 (getF s.lnkCfg 16 8) ≤ k.moved temp)
  let old := decide (k.calAt + getF s.lnkCfg 0 16 * 3600000000 ≤ s.chm.local_)
  let s1 := s.rwDecide.modLink l fun k => { k with calTemp := some (k.calTemp.getD temp) }
  if k.st = .notice ∨ k.st = .roadworks ∨ !k.en then s1
  else if ownerEnd l then (if hot || old then s1.rwTry l else s1)
  else if hot ∧ k.st = .active then s1.modLink l fun k => { k with symOut := k.symOut ++ [.rwRequest] }
  else s1

/-- Drops of a link move to the other links of its port, each to the shortest queue, or back to the router where none is ACTIVE. -/
def State.moveOff (s : State) (l : LinkId) (ds : List Drop) : State :=
  ds.foldl (fun (t : State) d =>
    match t.shortest ((portMates l).filter fun m => (t.links[m] : Link).st == .active) with
    | some m => t.queueOn m d
    | none => t.handBack l [d]) s

/-- T_s: CLOSE goes out, the link enters ROADWORKS and its queue moves (Table 10.5). -/
def State.rwClose (s : State) (l : LinkId) : State :=
  let k : Link := s.links[l]
  match k.st, k.rwAt with
  | .notice, some t =>
    ((s.until t.toNat).modLink l fun k =>
      { k with st := .roadworks, txq := [], settled := false, symOut := k.symOut ++ [.close (k.txSeq - 1)] }).moveOff l k.txq
  | _, _ => s

/-- The settle span ends: unacknowledged drops are resent over the other links; a link closed by EN = 0 stays closed. -/
def State.rwSettle (s : State) (l : LinkId) : State :=
  let k : Link := s.links[l]
  if k.st = .roadworks ∧ k.settled = false then
    (s.modLink l fun k => { k with
      buf := [], resend := [], carry := none, hunting := false, settled := true, st := if k.en then .roadworks else .off }).moveOff l
      (k.buf.map (·.2))
  else s

/-- The delay echoed differs from the one of the muster: no CHIME or MUSTER symbol uses the link until the next muster (R222). -/
def State.chimeOut (s : State) (l : LinkId) (delay : BitVec 16) : State :=
  if getF (s.links[l] : Link).delay 0 16 = delay.toNat then s
  else (s.modLink l fun k => { k with chimex := true }).record (.chimeExcluded l)

/-- Longest one-way delay of a link in array cycles: 0.6 µs (R210). -/
def flightMax : Nat := 2160

/-- The link as roadworks leaves it: a calibration cut short keeps the settings from before (R224). -/
def Link.reopen (k : Link) (now : Nat) (x : OpenSym) : Link :=
  let k1 := { k.aligned_ with
    st := .active, rwAt := none, closeAt := none, settled := false, rwCut := false, txSeq := k.txSeq
    rxSeq := match k.closeAt with | some n => n + 1 | none => k.rxSeq
    credits := creditsOf k.alloc, lent := creditsOf k.own, symOut := k.symOut ++ [SymOut.open_ x.delay x.rxOk x.txOk]
    delay := setF k.delay 32 16 x.delay.toNat }
  let r := setF k1.rw 24 8 (min 200 x.dur.toNat)
  if k.rwCut then { k1 with rw := r }
  else { k1 with
    rxSpare := if x.rxOk then none else k1.rxSpare, txSpare := if x.txOk then none else k1.txSpare
    rw := setF (wrapF r 32 32 1) 0 8 x.temp.toNat, calAt := now, calTemp := some x.own }

/-- OPEN (R222, R224): roadworks ends, or a retrained link's delay is matched; a delay over R210's limit matches nothing. -/
def State.onOpen (s : State) (l : LinkId) (x : OpenSym) : State :=
  let k : Link := s.links[l]
  if k.st = .roadworks ∧ k.settled then ((s.modLink l fun k => k.reopen s.chm.local_ x).chimeOut l x.delay).rwPump
  else if k.st = .aligned ∧ k.phase = .delay ∧ s.chm.running then
    (s.modLink l fun k => { k with
      delay := setF k.delay 32 16 x.delay.toNat
      matched := getF k.delay 0 16 == x.delay.toNat && getF k.delay 0 16 != 0 && decide (s.chm.link[l].toNat ≤ flightMax * 64) &&
        !k.badCable }).chimeOut l x.delay
  else s

/-- ALIGNED links whose delay is known enter service at a chime (R224); each return is recorded (DESIGN CHOICE, log entry 46). -/
def State.linksBack (s : State) (rec : Bool) : State :=
  ((List.finRange 24).foldl (fun (t : State) l =>
    let k : Link := t.links[l]
    if k.st = .aligned ∧ k.matched ∧ k.en then
      let t1 := t.modLink l fun k => { k with st := .active, matched := false }
      if rec then t1.record (.linkBack l) else t1
    else t) s).rwPump

/-- EN (R224): a link in service closes as Table 10.5 describes, another one, or one that has settled, closes at once; EN = 1 trains it again
(DESIGN CHOICE, log entry 46). -/
def State.linkEnable (s : State) (l : LinkId) (en : Bool) : State :=
  let s1 := s.modLink l fun k => { k with en := en }
  let k : Link := s1.links[l]
  if en then (if k.st = .off ∧ s.trains then s1.modLink l Link.restart else s1)
  else if k.st = .active then s1.rwStart l
  else if k.st = .notice ∨ (k.st = .roadworks ∧ k.settled = false) then s1
  else (s1.modLink l fun k => { k.restart with st := .off, txq := [] }).handBack l (k.buf.map (·.2) ++ k.txq)

end Sys2Proof.Machine
end

