-- ==== Sys2Proof/Machine/VectorOps.lean ====
section
/-!
DEFINITION. The vector unit (08 R167 to R182): issue checks, the element operations with their single rounding, reductions,
conversions and the update family, and the start of a vector instruction.
-/
namespace Sys2Proof.Machine

/-! ### Issue checks -/

/-- Operands of a vector word (Table 8.7). -/
def Seq.vecOp (q : Seq) (op : VOp) (f : TForm) : TOp :=
  .vec op (f.reg 20) q.d[f.reg 20] q.d[f.reg 25] q.d[f.reg 30] q.d[f.reg 35]
    (if f.bit 40 then some ((q.s[f.reg 30]).setWidth 32) else none) ⟨f.fld 41 2 % 4, Nat.mod_lt _ (by decide)⟩
    (BitVec.ofNat 3 (f.fld 43 3)) q.s[f.reg 46] q.s[f.reg 51]

/-- The register `n` after one named by a field. -/
def regPlus (f : TForm) (lo n : Nat) : Fin 32 := ⟨(f.fld lo 5 + n) % 32, Nat.mod_lt _ (by decide)⟩

/-- Operands of an update word (R179). -/
def Seq.updOp (q : Seq) (op : UOp) (f : TForm) : TOp :=
  .upd op (f.reg 25) (Vector.ofFn fun i : Fin 7 => q.d[regPlus f 25 i.val]) (Vector.ofFn fun i : Fin 4 => q.s[regPlus f 30 i.val])
    (f.fld 35 2) ⟨f.fld 41 2 % 4, Nat.mod_lt _ (by decide)⟩ (BitVec.ofNat 3 (f.fld 43 3)) q.s[f.reg 46] q.s[f.reg 51]

/-- FP32 or BF16. -/
def Fmt.arith (f : Fmt) : Bool := f == .fp32 || f == .bf16

/-- INT8 with BLK = 0. -/
def Desc.isMask (d : Desc) : Bool := d.fmt == .int8 && d.blk == 0

/-- The tensors that an instruction reads. -/
def vecSources (op : VOp) (a b c : Desc) (bs : Option W32) : List Desc :=
  let ub := op.uses.1 && bs.isNone
  [a] ++ (if ub then [b] else []) ++ (if op.uses.2.1 then [c] else [])

/-- Shape rule of an instruction (R167 item 3, R174, R175). -/
def vecShapeBad (op : VOp) (d a : Desc) (srcs : List Desc) : Bool :=
  match op with
  | .vsum => !(d.s0 == 1 && d.s1 == a.s1 && d.s2 == a.s2 && d.s3 == a.s3)
  | .vargmax | .vargmin => !(d.s0 == 2 && d.s1 == a.s1 && d.s2 == a.s2 && d.s3 == a.s3 && a.s0 != 0)
  | _ => srcs.any fun x => !d.sameExt x

/-- Format rule of an instruction (R167 item 4, R172, R173, R175, R177). -/
def vecFmtBad (op : VOp) (d a b c : Desc) (bs : Option W32) : Bool :=
  match op with
  | .vld => a.fmt == .lf64 || d.fmt != .fp32
  | .vst => !a.fmt.arith || d.fmt == .lf64
  | .vcvt => false
  | .vcmp => !a.fmt.arith || (bs.isNone && !b.fmt.arith) || !d.isMask
  | .vsel => !a.fmt.arith || (bs.isNone && !b.fmt.arith) || !d.fmt.arith || !c.isMask
  | .vfma => !a.fmt.arith || (bs.isNone && !b.fmt.arith) || !c.fmt.arith || !d.fmt.arith
  | .vargmax | .vargmin => !a.fmt.arith || d.fmt != .fp32
  | .vsum | .vexp2 | .vlog2 | .vrcp | .vrsqrt => !a.fmt.arith || !d.fmt.arith
  | _ => !a.fmt.arith || (bs.isNone && !b.fmt.arith) || !d.fmt.arith

/-- Conditions of a vector word (R167). -/
def vecFaults (q : Seq) (c : CombId) (op : VOp) (f : TForm) : List (Nat × Bool) :=
  match q.vecOp op f with
  | .vec _ _ d a b cc bs _ _ _ _ =>
    let srcs := vecSources op a b cc bs
    [(2, !d.valid || srcs.any fun x => !x.valid), (3, !d.inComb c || srcs.any fun x => !x.inComb c),
     (6, vecShapeBad op d a srcs), (9, vecFmtBad op d a b cc bs || srcs.any fun x => d.badOverlap x)]
  | _ => []

/-- Sources and destinations of an update (Table 8.11). -/
def updTensors (op : UOp) (ds : Vector Desc 7) (wc : Nat) : List Desc × List Desc :=
  let mom := match op with | .m2 => [ds[3], ds[4]] | .m1 => [ds[3]] | .plain => []
  let wcs := (if wc ≥ 1 then [ds[5]] else []) ++ (if wc ≥ 2 then [ds[6]] else [])
  ([ds[0], ds[1]] ++ mom, [ds[2]] ++ mom ++ wcs)

/-- Conditions of an update word (R179, R167). -/
def updFaults (q : Seq) (c : CombId) (op : UOp) (f : TForm) : List (Nat × Bool) :=
  match q.updOp op f with
  | .upd _ _ ds _ wc _ _ _ _ =>
    let (src, dst) := updTensors op ds wc
    let fmtBad := !ds[0].fmt.arith || ds[1].fmt != .fp32 || ds[2].fmt != .fp32 || (op != .plain && ds[3].fmt != .fp32) ||
      (op == .m2 && ds[4].fmt != .fp32) || (decide (wc ≥ 1) && ds[5].fmt == .lf64) || (decide (wc ≥ 2) && ds[6].fmt == .lf64)
    [(2, ds.toList.any fun d => !d.valid), (3, (src ++ dst).any fun d => !d.inComb c), (6, (src ++ dst).any fun d => !ds[2].sameExt d),
     (9, fmtBad || dst.any fun d => src.any fun x => d.badOverlap x)]
  | _ => []

/-! ### Element operations -/

/-- Flags that element operations collect (R168). -/
structure VFlags where
  inv : Nat := 0
  ovf : Bool := false
  non : Bool := false
deriving DecidableEq, Repr

/-- Two flag sets together (DEDUCED, log entry 20). -/
def VFlags.join (a b : VFlags) : VFlags := ⟨a.inv + b.inv, a.ovf || b.ovf, a.non || b.non⟩

/-- VEC_STATUS after an instruction's flags (R168, R182) (DEDUCED, log entry 20). -/
def VFlags.apply (g : VFlags) (r : W64) : W64 :=
  let r1 := if g.inv = 0 then r else satF r 32 32 g.inv
  let r2 := if g.ovf then setB r1 1 true else r1
  if g.non then setB r2 0 true else r2

/-- The last rounding of a result: the code and its flags (R168). -/
def roundTo (d : Desc) (x : Val × Bool) : Nat × VFlags :=
  let c := d.fmt.convert d.sat false .rne x.1
  (c.code, { inv := x.2.toNat, ovf := c.ovf })

/-- A rounding before the last: IEEE rne32 (R168). -/
def rnd (x : Val × Bool) (g : VFlags) : Val × VFlags :=
  (rne32 x.1, { g with inv := g.inv + x.2.toNat, ovf := g.ovf || Fmt.overflows .fp32 false x.1 })

/-- a × b + c with one rounding: the exact sum. -/
def fmaExact (a b c : Val) : Val × Bool :=
  let p := Val.mul a b
  let s := Val.add false p.1 c
  (s.1, p.2 || s.2)

/-- A stored value chosen unchanged when the formats agree, else rounded; NaN canonical (R171, R173). -/
def keepCode (d : Desc) (f : Fmt) (code : Nat) (v : Val) : Nat × VFlags :=
  if v = .nan then (d.fmt.nanCode, {})
  else if f == d.fmt then (code, {})
  else roundTo d (v, false)

/-- vcmp conditions (Table 8.9). -/
def vcmpHolds (cond : Nat) (a b : Val) : Bool :=
  match a, b with
  | .nan, _ | _, .nan => cond == 1 || cond == 6
  | a, b =>
    let k := Val.cmp a b
    match cond with
    | 0 => k == 0
    | 1 => k != 0
    | 2 => decide (k < 0)
    | 3 => decide (k ≤ 0)
    | 4 => decide (k > 0)
    | 5 => decide (k ≥ 0)
    | _ => false

/-- One operand element: format, stored code and value. -/
structure Opnd where
  f    : Fmt
  code : Nat
  v    : Val

/-- Element-wise results (R168, R171 to R173, R176). -/
def vecElem (op : VOp) (rm : BitVec 3) (d : Desc) (a b c : Opnd) : Nat × VFlags :=
  match op with
  | .vadd => roundTo d (Val.add false a.v b.v)
  | .vsub => roundTo d (Val.add false a.v b.v.neg)
  | .vmul => roundTo d (Val.mul a.v b.v)
  | .vfma => roundTo d (fmaExact a.v b.v c.v)
  | .vmax => if pairWins false a.v 0 b.v 1 then keepCode d a.f a.code a.v else keepCode d b.f b.code b.v
  | .vmin => if pairWins true a.v 0 b.v 1 then keepCode d a.f a.code a.v else keepCode d b.f b.code b.v
  | .vexp2 => roundTo d (a.v.exp2, false)
  | .vlog2 => roundTo d a.v.log2
  | .vrcp => roundTo d (a.v.rcp, false)
  | .vrsqrt => roundTo d a.v.rsqrt
  | .vcmp => ((vcmpHolds rm.toNat a.v b.v).toNat, {})
  | .vsel => if c.v.exp.isSome then keepCode d a.f a.code a.v else keepCode d b.f b.code b.v
  | _ => (0, {})

/-! ### Reductions (R174, R175) -/

/-- One level of the pairwise order: neighbours are added, an odd last value is carried. -/
def pairLevel : List Val → VFlags → List Val × VFlags
  | x :: y :: r, g =>
    let s := rnd (Val.add false x y) g
    let t := pairLevel r s.2
    (s.1 :: t.1, t.2)
  | l, g => (l, g)

/-- Levels until at most two values are left. -/
def pairFold : Nat → List Val → VFlags → List Val × VFlags
  | 0, l, g => (l, g)
  | n + 1, l, g => if l.length ≤ 2 then (l, g) else let r := pairLevel l g; pairFold n r.1 r.2

/-- vsum of one run (R174): the last addition follows SAT for an FP32 destination. -/
def runSum (d : Desc) (xs : List Val) : Nat × VFlags :=
  let r := pairFold xs.length xs {}
  match r.1 with
  | [] => (0, {})
  | [x] => let c := roundTo d (x, false); (c.1, r.2.join c.2)
  | x :: y :: _ =>
    let s := Val.add false x y
    if d.fmt == .fp32 then let c := roundTo d s; (c.1, r.2.join c.2)
    else
      let t := rnd s r.2
      let c := roundTo d (t.1, false)
      (c.1, t.2.join c.2)

/-- The winning pair of a run: its stored bits, widened to FP32, and the index (R110, R111, R175) (DEDUCED, log entry 25). -/
def runArg (mn : Bool) (xs : List (Opnd × Nat)) : Nat × Nat :=
  match xs with
  | [] => (0, 0)
  | x :: r =>
    let w := r.foldl (fun h y => if pairWins mn y.1.v y.2 h.1.v h.2 then y else h) x
    (if w.1.f == .bf16 then w.1.code * 65536 else w.1.code, w.2)

/-! ### Updates (R180, R181) -/

/-- Results of an update on one element: exact last values of w', m and v before their rounding, and the flags. -/
structure UpdOut where
  w : Val
  m : Val
  v : Val
  g : VFlags

/-- FP32 constants of an update (Table 8.12). -/
structure UpdConst where
  lr : Val
  wd : Val
  b1 : Val
  b2 : Val
  eps : Val
  c1 : Val
  c2 : Val
  gs : Val

/-- Constants from the four scalar registers. -/
def updConst (sc : Vector W64 4) : UpdConst :=
  let lo := fun (w : W64) => fp32 (w.setWidth 32)
  let hi := fun (w : W64) => fp32 ((w >>> 32).setWidth 32)
  ⟨lo sc[0], hi sc[0], lo sc[1], hi sc[1], lo sc[2], hi sc[2], lo sc[3], hi sc[3]⟩

/-- w' := w − lr · (u + wd · w), its last subtraction exact. -/
def updMaster (k : UpdConst) (w u : Val) (g : VFlags) : (Val × Bool) × VFlags :=
  let a := rnd (Val.mul k.wd w) g
  let b := rnd (Val.add false u a.1) a.2
  let c := rnd (Val.mul k.lr b.1) b.2
  (Val.add false w c.1.neg, c.2)

/-- The rounding that writes a value: IEEE flags; its code is formed with the destination's SAT when it is written. -/
def updFinish (w m v : Val) (iw : Bool) (g : VFlags) : UpdOut :=
  let bad := fun (x : Val) => match rne32 x with | .nan | .inf _ => true | _ => false
  let ov := Fmt.overflows .fp32 false w
  ⟨w, m, v, { inv := g.inv + iw.toNat, ovf := g.ovf || ov, non := bad w || bad m || bad v }⟩

/-- upd.m2 (R180) (DESIGN CHOICE, log entry 112). -/
def updM2 (k : UpdConst) (grad w m v : Val) : UpdOut :=
  let g0 := rnd (Val.mul k.gs grad) {}
  let m1 := rnd (Val.mul k.b1 m) g0.2
  let o1 := rne32 (Val.add false (.fin false 1 0) k.b1.neg).1
  let m2 := rnd (Val.mul o1 g0.1) m1.2
  let mx := Val.add false m1.1 m2.1
  let mr := rnd mx m2.2
  let v1 := rnd (Val.mul k.b2 v) mr.2
  let o2 := rne32 (Val.add false (.fin false 1 0) k.b2.neg).1
  let gg := rnd (Val.mul g0.1 g0.1) v1.2
  let v2 := rnd (Val.mul o2 gg.1) gg.2
  let vx := Val.add false v1.1 v2.1
  let vr := rnd vx v2.2
  let vc := rnd (Val.mul vr.1 k.c2) vr.2
  let q := rnd vc.1.sqrt vc.2
  let d := rnd (Val.add false q.1 k.eps) q.2
  let mc := rnd (Val.mul mr.1 k.c1) d.2
  let u := rnd (Val.div mc.1 d.1) mc.2
  let ww := updMaster k w u.1 u.2
  updFinish ww.1.1 mx.1 vx.1 ww.1.2 ww.2

/-- upd.m1 (R181). -/
def updM1 (k : UpdConst) (grad w m : Val) : UpdOut :=
  let g0 := rnd (Val.mul k.gs grad) {}
  let m1 := rnd (Val.mul k.b1 m) g0.2
  let mx := Val.add false m1.1 g0.1
  let mr := rnd mx m1.2
  let ww := updMaster k w mr.1 mr.2
  updFinish ww.1.1 mx.1 (.zero false) ww.1.2 ww.2

/-- upd.plain (R181). -/
def updPlain (k : UpdConst) (grad w : Val) : UpdOut :=
  let g0 := rnd (Val.mul k.gs grad) {}
  let ww := updMaster k w g0.1 g0.2
  updFinish ww.1.1 (.zero false) (.zero false) ww.1.2 ww.2

/-! ### Start -/

/-- Read an element with its format and code. -/
def State.opnd (s : State) (d : Desc) (p : Pos) : Opnd := ⟨d.fmt, s.code d p, s.val d p⟩

/-- The global element index of a conversion (R178). -/
def srIndex (base pitch : W64) (d : Desc) (p : Pos) : Nat :=
  base.toNat + p.i0 + pitch.toNat * (p.i1 + d.s1 * (p.i2 + d.s2 * p.i3))

/-- A conversion of the vector unit into one destination, `cut` of its elements (R177, R182): byte runs, poisoned lines, the largest exponent,
an overflow, and the state with what is written counted in the census set (DESIGN CHOICE, log entry 110). -/
def State.vecConvert (s : State) (c : CombId) (d : Desc) (cs : Option (Fin 4)) (rm : BitVec 3) (cut : Option Nat) (xs : List Elem) :
    List (Nat × List Byte) × List Nat × Option Int × Bool × State :=
  let res := convertAll d rm (s.comb c).ext.seed xs
  let dones := cutTake cut res.1
  let s1 := match cs with
    | some k => s.modExt c fun x => x.countAll k d.fmt dones
    | none => s
  let out := s.convRuns d dones res.2
  (out.1, out.2, maxExp dones, (dones.zip xs).any (fun dx => dx.1.ovfl && dx.2.v.exp.isSome), s1)

/-- Elements per cycle (Table 8.8). -/
def VOp.rate : VOp → Nat
  | .vexp2 | .vlog2 | .vrcp | .vrsqrt => 64
  | _ => 256

/-- Counter cycle of a vector instruction (R170). -/
def vecCycles (op : VOp) (d a : Desc) : Nat :=
  if d.empty then 5
  else 12 + ceilDiv (max d.count a.count) op.rate + (match op with | .vsum | .vargmax | .vargmin => clog2 a.s0 | _ => 0)

/-- Run the flight, or end it at an unpopulated address with the writes made before it (R149) (DEDUCED, log entry 80). -/
def State.launchVec (s : State) (c : CombId) (cut : Bool) (fl : Flight) (g : VFlags) (ate : Bool) : State :=
  let s1 := (s.modComb c fun k => { k with vecStatus := g.apply k.vecStatus }).consumeIf ate
  if cut then ((s1.putRuns fl.writes).poisonList fl.poisons).execFault c fl.e 1 3
  else s1.modComb c fun k => { k with vecRun := k.vecRun ++ [fl] }

/-- Byte runs that an instruction of Table 8.8 reads: none where its destination is empty (R167). -/
def vecReads (op : VOp) (d a b cc : Desc) (bs : Option W32) : List (Nat × Nat) :=
  if d.empty then [] else (vecSources op a b cc bs).flatMap fun x => x.runs x.positions

/-- The vector unit starts an instruction of Table 8.8 (R167 to R178) (DESIGN CHOICE, log entry 114). -/
def State.startVec (s : State) (c : CombId) (e : QEntry) (op : VOp) (dr : Fin 32) (d a b cc : Desc) (bs : Option W32) (cs : Fin 4)
    (rm : BitVec 3) (base pitch : W64) : State :=
  let srcs := vecSources op a b cc bs
  let runs := vecReads op d a b cc bs
  if !s.openRuns runs then s.execFault c e 1 3
  else
    let s1 := s.touchRuns runs
    let fl : Flight := { e := e, cycles := vecCycles op d a }
    let (cut, s2) := s1.cut (d.positions.map fun p => s1.posOpen d p)
    match op with
    | .vld | .vst | .vcvt =>
      let xs := d.positions.map fun p =>
        ({ pos := p, v := s1.val a p, gi := srIndex base pitch d p, poison := s1.poisonedPos a p } : Elem)
      let (ws, pl, mx, ov, s3) := s2.vecConvert c d (if op == .vld then none else some cs) (if op == .vld then 0 else rm) cut xs
      s3.launchVec c cut.isSome { fl with writes := ws, poisons := pl, ceils := match mx with
          | some m => if op == .vld then [] else [(dr, m)]
          | none => [] } { ovf := ov } (xs.any (·.poison))
    | .vsum =>
      let outs := cutTake cut (d.positions.map fun p =>
        let ps := (List.range a.s0).map fun i => ({ p with i0 := i } : Pos)
        (p, runSum d (ps.map fun p' => s1.val a p'), ps.any fun p' => s1.poisonedPos a p'))
      s2.launchVec c cut.isSome { fl with writes := s1.destRuns d (outs.map fun o => (o.1, o.2.1.1)) []
                                          poisons := d.poisonLines ((outs.filter (·.2.2)).map (·.1)) }
        (outs.foldl (fun g o => g.join o.2.1.2) {}) (outs.any (·.2.2))
    | .vargmax | .vargmin =>
      let outs := cutTake cut ((d.positions.filter (·.i0 == 0)).flatMap fun p =>
        let ps := (List.range a.s0).map fun i => (({ p with i0 := i } : Pos), (base.toNat + i) % 2 ^ 32)
        let r := runArg (op == .vargmin) (ps.map fun x => (s1.opnd a x.1, x.2))
        let bad := ps.any fun x => s1.poisonedPos a x.1
        [(p, r.1, bad), ({ p with i0 := 1 }, r.2, bad)])
      s2.launchVec c cut.isSome { fl with writes := s1.destRuns d (outs.map fun o => (o.1, o.2.1)) []
                                          poisons := d.poisonLines ((outs.filter (·.2.2)).map (·.1)) }
        {} (outs.any (·.2.2))
    | _ =>
      let outs := cutTake cut (d.positions.map fun p =>
        let oa := s1.opnd a p
        let ob := match bs with
          | some w => ⟨.fp32, w.toNat, fp32 w⟩
          | none => if op.uses.1 then s1.opnd b p else oa
        let oc := if op.uses.2.1 then s1.opnd cc p else oa
        (p, vecElem op rm d oa ob oc, srcs.any fun x => s1.poisonedPos x p))
      s2.launchVec c cut.isSome { fl with writes := s1.destRuns d (outs.map fun o => (o.1, o.2.1.1)) []
                                          poisons := d.poisonLines ((outs.filter (·.2.2)).map (·.1)) }
        (outs.foldl (fun g o => g.join o.2.1.2) {}) (outs.any (·.2.2))

/-- The vector unit starts an update (R179 to R182) (DEDUCED, log entry 80). -/
def State.startUpd (s : State) (c : CombId) (e : QEntry) (op : UOp) (da : Fin 32) (ds : Vector Desc 7) (sc : Vector W64 4) (wc : Nat)
    (cs : Fin 4) (rm : BitVec 3) (base pitch : W64) : State :=
  let src := (updTensors op ds wc).1
  let d := ds[2]
  let runs := if d.empty then [] else src.flatMap fun x => x.runs x.positions
  if !s.openRuns runs then s.execFault c e 1 3
  else
    let s1 := s.touchRuns runs
    let k := updConst sc
    let outs := d.positions.map fun p =>
      let o := match op with
        | .m2 => updM2 k (s1.val ds[0] p) (s1.val ds[1] p) (s1.val ds[3] p) (s1.val ds[4] p)
        | .m1 => updM1 k (s1.val ds[0] p) (s1.val ds[1] p) (s1.val ds[3] p)
        | .plain => updPlain k (s1.val ds[0] p) (s1.val ds[1] p)
      (p, o, src.any fun x => s1.poisonedPos x p)
    let states : List (Desc × (UpdOut → Val)) := [(ds[2], fun o => o.w)] ++ (if op == .plain then [] else [(ds[3], fun o => o.m)]) ++
      (if op == .m2 then [(ds[4], fun o => o.v)] else [])
    let copies := (if wc ≥ 1 then [(da.val + 5, ds[5])] else []) ++ (if wc ≥ 2 then [(da.val + 6, ds[6])] else [])
    let (cs', s2) := s1.cuts ((states.map (·.1) ++ copies.map (·.2)).map fun t => d.positions.map fun p => s1.posOpen t p)
    let cut := fun (i : Nat) => cs'.getD i none
    let put := fun (x : (Desc × (UpdOut → Val)) × Nat) =>
      let os := cutTake (cut x.2) outs
      (s1.destRuns x.1.1 (os.map fun o => (o.1, (roundTo x.1.1 (x.1.2 o.2.1, false)).1)) [],
        x.1.1.poisonLines ((os.filter (·.2.2)).map (·.1)))
    let done := states.zipIdx.map put
    let acc := copies.zipIdx.foldl (fun (st : State × List (Nat × List Byte) × List Nat × List (Fin 32 × Int) × Bool) x =>
      let t := x.1.2
      let r := st.1.vecConvert c t (some cs) rm (cut (states.length + x.2))
        (outs.map fun o => { pos := o.1, v := rne32 o.2.1.w, gi := srIndex base pitch t o.1, poison := o.2.2 })
      (r.2.2.2.2, st.2.1 ++ r.1, st.2.2.1 ++ r.2.1,
        st.2.2.2.1 ++ (match r.2.2.1 with | some m => [(⟨x.1.1 % 32, Nat.mod_lt _ (by decide)⟩, m)] | none => []),
        st.2.2.2.2 || r.2.2.2.1)) (s2, [], [], [], false)
    let g := (cutTake (farthest cs') outs).foldl (fun g o => g.join o.2.1.g) { ovf := acc.2.2.2.2 }
    acc.1.launchVec c (cs'.any (·.isSome))
      { e := e, cycles := if d.empty then 5 else 12 + ceilDiv d.count (match op with | .m2 => 16 | .m1 => 32 | .plain => 64)
        writes := done.flatMap (·.1) ++ acc.2.1, poisons := done.flatMap (·.2) ++ acc.2.2.1, ceils := acc.2.2.2.1 }
      g (outs.any (·.2.2))

end Sys2Proof.Machine
end

