-- ==== Sys2Proof/Machine/CollOps.lean ====
section
/-!
DEFINITION. Collectives and barriers (12): issue checks, members and axes, the stages of each operation as flows of items between
members (R265), summing (R263, R264), segments and grants (R276), signatures and eras (R257 to R259, R421), admission and spill
(R268), the final write (R260, R262), and the barrier tree (R271, R272). Orders within a phase that R265 leaves open are those of log
entry 16.
-/
namespace Sys2Proof.Machine

/-! ### Issue checks (R202, R203, R260, R261, R268) -/

/-- Number of the next coll or bar of a group. -/
def Col.nextColl (x : Col) (g : BitVec 8) : BitVec 16 := BitVec.ofNat 16 (Sparse.get 0 x.collNum g.toNat)
def Col.nextBar (x : Col) (g : BitVec 8) : BitVec 16 := BitVec.ofNat 16 (Sparse.get 0 x.barNum g.toNat)

/-- Operands of coll and bar (Table 9.10). -/
def State.collOp (s : State) (c : CombId) (k : TKind) (f : TForm) : TOp :=
  let q := (s.comb c).seq
  let gw := q.s[f.reg 30]
  match k with
  | .coll => .coll (BitVec.ofNat 4 (f.fld 35 4)) (f.bit 39) (BitVec.ofNat 3 (f.fld 40 3)) ⟨f.fld 43 2 % 4, Nat.mod_lt _ (by decide)⟩
      (f.reg 20) q.d[f.reg 20] q.d[f.reg 25] gw (s.col.nextColl (gw.setWidth 8)) s.col.era s.rte.inj
  | _ => .bar gw (s.col.nextBar (gw.setWidth 8)) s.col.era s.rte.inj

/-- Group of a coll or bar in a queue. -/
def TOp.group? : TOp → Option (BitVec 8)
  | .coll _ _ _ _ _ _ _ gw _ _ _ | .bar gw _ _ _ => some (gw.setWidth 8)
  | _ => none

/-- Another comb of the chip has an open coll or bar of the group (R202). -/
def State.groupBusy (s : State) (c : CombId) (g : BitVec 8) : Bool :=
  (s.col.colls.any fun x => x.comb != c && x.key.group == g) || (s.col.bars.any fun x => x.comb != c && x.key.group == g) ||
    (List.finRange 64).any fun k => k != c && (s.comb k).seq.qFab.any fun e => e.op.group? == some g

/-- Operations that claim pool banks, and wide sums (R203, R268). -/
def collClaims (op : BitVec 4) : Bool := op == 0 || op == 1 || op == 4 || op == 6 || op == 7
def collSums (op : BitVec 4) : Bool := op == 0 || op == 1 || op == 4
def collWide (op : BitVec 4) (rf : Bool) : Bool := collSums op && !rf

/-- K of R268. -/
def collBanks (op : BitVec 4) (a : Desc) : Nat := if collClaims op then min 4 (ceilDiv (a.elemBytes + a.scaleBytes) (2 ^ 20)) else 0

/-- Element counts of Table 12.3. -/
def collCountBad (op : BitVec 4) (n : Nat) (d a : Desc) : Bool :=
  match op.toNat with
  | 1 => n == 0 || a.count % n != 0 || d.count != a.count / n
  | 2 => d.count != n * a.count
  | 5 => n == 0 || a.count % n != 0 || d.count != a.count
  | 6 | 7 => d.count != a.count || a.count % 2 != 0
  | _ => d.count != a.count

/-- Layout rules of the moving operations and of max and min (R261). -/
def collLayoutBad (op : BitVec 4) (n : Nat) (d a : Desc) : Bool :=
  if collSums op then false
  else
    let cut := fun (e : Nat) => a.blk == 1 && (e % a.s0 != 0 || e % d.s0 != 0)
    d.fmtCode != a.fmtCode || d.blk != a.blk || decide (a.blk > 1) || (op == 2 && cut a.count) || (op == 5 && cut (a.count / n)) ||
      ((op == 6 || op == 7) && (a.fmt != .fp32 || a.blk != 0 || a.s0 % 2 != 0 || d.s0 % 2 != 0))

/-- Conditions of coll and bar. -/
def State.collFaults (s : State) (c : CombId) (k : TKind) (f : TForm) : List (Nat × Bool) :=
  let v := s.rte.inj
  let t := s.rte.tab[v]
  match s.collOp c k f with
  | .coll op rf rm cs _ d a gw _ _ _ =>
    let g : BitVec 8 := gw.setWidth 8
    let n := t.groupCount g
    let wide := collWide op rf
    let kb := collBanks op a
    let spillable := wide && getF s.col.cfg 16 1 == 1 && decide (kb ≤ getF s.col.spill 48 16)
    [(2, !d.valid || !a.valid),
     (3, d.hitsRegs || a.hitsRegs || (wide && d.fmt != .lf64 && !d.inComb c)),
     (5, !t.groupValid g || (s.rte.memberIndex v g).isNone || s.groupBusy c g || (rf && s.seals.level == 0) ||
       (decide (kb > 16 * s.pool) && !spillable)),
     (6, collCountBad op n d a || collLayoutBad op n d a),
     (8, wide && d.fmt == .lf64 && a.fmt == .lf64 && d.wexp != a.wexp),
     (9, gw &&& ~~~0x3F3F3FFF != 0 || ((op == 3 || op == 4) && !(t.members g).contains (chipId (getF gw 8 6) (getF gw 16 6) (getF gw 24 6))) ||
       (wide && a.fmt != .lf64) || (collSums op && rf && (!(a.fmt == .fp32 || a.fmt == .bf16) || d.fmtCode != a.fmtCode)) ||
       (!collSums op && (rf || rm != 0 || cs != 0)))]
  | .bar gw _ _ _ =>
    let g : BitVec 8 := gw.setWidth 8
    [(5, !t.groupValid g || (s.rte.memberIndex v g).isNone || s.groupBusy c g), (9, gw &&& ~~~0xFF != 0)]
  | _ => []

/-! ### Members and axes (R256) -/

/-- Number of members. -/
def CollInst.n (k : CollInst) : Nat := k.members.length

/-- Axes that take part: those of extent above 1 in a box group, axis 3 (the list ring) in a list group. -/
def CollInst.axes (k : CollInst) : List Nat :=
  if k.ext.isEmpty then (if k.n > 1 then [3] else []) else [0, 1, 2].filter fun a => decide (k.ext.getD a 1 > 1)

/-- Extent of an axis. -/
def CollInst.len (k : CollInst) (a : Nat) : Nat := if a = 3 then k.n else k.ext.getD a 1

/-- Members between neighbours on an axis. -/
def CollInst.stride (k : CollInst) (a : Nat) : Nat :=
  if a = 3 ∨ a = 0 then 1 else if a = 1 then k.ext.getD 0 1 else k.ext.getD 0 1 * k.ext.getD 1 1

/-- Position of member m on an axis, and the member at position p of this chip's line. -/
def CollInst.digit (k : CollInst) (a m : Nat) : Nat := m / k.stride a % k.len a
def CollInst.at_ (k : CollInst) (a p : Nat) : Nat := k.me - k.digit a k.me * k.stride a + p * k.stride a

/-- Ring axes, and the list ring. -/
def CollInst.isRing (k : CollInst) (a : Nat) : Bool := a == 3 || k.ring.getD a false

/-- The folded ring over positions 0 to n − 1: even positions upward, the rest downward (R265). -/
def foldedRing (n : Nat) : List Nat := (List.range n).filter (· % 2 == 0) ++ ((List.range n).filter (· % 2 == 1)).reverse

/-- Operands of an instance. -/
structure CollArgs where
  op   : BitVec 4
  rf   : Bool
  rm   : BitVec 3
  cs   : Fin 4
  dr   : Fin 32
  d    : Desc
  a    : Desc
  root : ChipId

/-- Operands of an instance's instruction. -/
def CollInst.args (k : CollInst) : CollArgs :=
  match k.e.op with
  | .coll op rf rm cs dr d a gw _ _ _ => ⟨op, rf, rm, cs, dr, d, a, chipId (getF gw 8 6) (getF gw 16 6) (getF gw 24 6)⟩
  | _ => ⟨0, false, 0, 0, 0, Vector.replicate 8 0, Vector.replicate 8 0, 0⟩

/-- Member index of the root. -/
def CollInst.rootIx (k : CollInst) : Nat := (k.members.findIdx? (· == k.args.root)).getD 0

/-! ### Items

The items of a collective are its elements, in the index space of the source (of the destination for all-gather), and after them the
scale bytes of a DIM0 tensor that moves. -/

/-- Elements, and scale items after them. -/
def CollInst.elems (k : CollInst) : Nat := if k.args.op = 2 then k.n * k.args.a.count else k.args.a.count
def CollInst.scales (k : CollInst) : Nat := if k.args.a.blk = 1 ∧ ¬ collSums k.args.op then k.elems / 32 else 0

/-- Elements that stay together: a pair of max and min. -/
def collUnit (op : BitVec 4) : Nat := if op = 6 ∨ op = 7 then 2 else 1

/-- Elements in a member's block (Table 12.3). -/
def CollInst.block (k : CollInst) : Nat := collUnit k.args.op * ceilDiv (ceilDiv k.elems (collUnit k.args.op)) k.n

/-- The element that an item belongs to: a scale byte to the first of its block. -/
def CollInst.elemOf (k : CollInst) (i : Nat) : Nat := if i < k.elems then i else 32 * (i - k.elems)

/-- The member that owns an item. -/
def CollInst.owner (k : CollInst) (i : Nat) : Nat := min (k.n - 1) (k.elemOf i / max 1 k.block)

/-- Bits of an item on the wire: LF64 for wide sums, else the source's own format; scale items are bytes. -/
def CollInst.bits (k : CollInst) (i : Nat) : Nat := if i < k.elems then k.args.a.fmt.bits else 8

/-- All items. -/
def CollInst.items (k : CollInst) : List Nat := List.range (k.elems + k.scales)

/-! ### Stages and flows -/

/-- How a phase moves items. -/
inductive Pat where
  | scatter | gather | chain (share : Bool) | bcast | toRoot | direct
deriving DecidableEq, Repr

/-- Stages of an operation: axis and pattern (R265, Table 12.4). -/
def CollInst.stages (k : CollInst) : List (Nat × Pat) :=
  let ax := k.axes
  let up := fun p => ax.map fun a => (a, p)
  let down := fun p => ax.reverse.map fun a => (a, p)
  if k.n ≤ 1 then []
  else match k.args.op.toNat with
    | 0 => if k.args.rf then up (.chain false) else up .scatter ++ down .gather
    | 1 => if k.args.rf then up (.chain true) else up .scatter
    | 2 => down .gather
    | 3 => down .bcast
    | 4 => if k.args.rf then up (.chain false) else up .scatter ++ down .toRoot
    | 5 => [(3, .direct)]
    | _ => up .scatter ++ down .gather

/-- A flow of items through this member: from `pred` (none: it begins here) to `succs`; `fold`: the own value is added. `late`: it
begins only when the stage's other flows have ended here. -/
structure Flow where
  dir   : Bool
  chunk : Nat
  items : List Nat
  pred  : Option Nat
  succs : List Nat
  fold  : Bool
  late  : Bool := false

/-- Axes before `a` among those that take part. -/
def CollInst.before (k : CollInst) (a : Nat) : List Nat := k.axes.takeWhile (· != a)
def CollInst.after (k : CollInst) (a : Nat) : List Nat := (k.axes.dropWhile (· != a)).drop 1

/-- Items whose owner shares this member's positions on some axes. -/
def CollInst.mine (k : CollInst) (axs : List Nat) : List Nat :=
  k.items.filter fun i => axs.all fun b => k.digit b (k.owner i) == k.digit b k.me

/-- Chunk of position p on axis a: the items owned there. -/
def CollInst.chunk (k : CollInst) (a p : Nat) : List Nat := (k.mine (k.before a)).filter fun i => k.digit a (k.owner i) == p

/-- Where the second half of a phase's elements begins on axis `a` (R265) (DESIGN CHOICE, log entry 16). -/
def CollInst.half (k : CollInst) (a : Nat) : Nat :=
  let es := (k.mine (k.before a)).filter (· < k.elems)
  es.getD (collUnit k.args.op * ceilDiv (ceilDiv es.length (collUnit k.args.op)) 2) k.elems

/-- Items that a direction carries on a ring axis: the first half of the phase's elements goes the positive way (R265). -/
def CollInst.halfOf (k : CollInst) (a : Nat) (dir : Bool) (l : List Nat) : List Nat :=
  l.filter fun i => dir == decide (k.half a ≤ k.elemOf i)

/-- Flows around a ring order: chunk of ring place c begins at place c + off and ends `n − 1` places on. -/
def CollInst.ringFlows (k : CollInst) (a : Nat) (ord : List Nat) (dir split : Bool) (off : Nat) (fold : Bool) : List Flow :=
  let n := ord.length
  let i := (ord.findIdx? (· == k.digit a k.me)).getD 0
  (List.range n).map fun c =>
    let p := ord.getD c 0
    let its := k.chunk a p
    let st := (c + off) % n
    let hop := (i + n - st) % n
    { dir := dir, chunk := p, items := if split then k.halfOf a dir its else its
      pred := if hop = 0 then none else some (k.at_ a (ord.getD ((i + n - 1) % n) 0))
      succs := if hop = n - 1 then [] else [k.at_ a (ord.getD ((i + 1) % n) 0)], fold := fold }

/-- Both rings of a ring axis, or the folded ring of a line axis. -/
def CollInst.wideFlows (k : CollInst) (a off : Nat) (fold : Bool) : List Flow :=
  let n := k.len a
  if k.isRing a then
    k.ringFlows a (List.range n) false true off fold ++ k.ringFlows a (List.range n).reverse true true off fold
  else k.ringFlows a (foldedRing n) false false off fold

/-- Steps outward from position r in the positive (dir = false) or negative direction that serve an axis. -/
def CollInst.reach (k : CollInst) (a r : Nat) (dir : Bool) : Nat :=
  let n := k.len a
  if k.isRing a then (if dir then (n - 1) / 2 else n / 2) else if dir then r else n - 1 - r

/-- Distance of position p from r in a direction, on an axis. -/
def CollInst.offset (k : CollInst) (a r p : Nat) (dir : Bool) : Nat :=
  let n := k.len a
  if k.isRing a then (if dir then (r + n - p) % n else (p + n - r) % n) else if dir then r - p else p - r

/-- Position at distance x from r. -/
def CollInst.posAt (k : CollInst) (a r x : Nat) (dir : Bool) : Nat :=
  let n := k.len a
  if dir then (r + n - x % n) % n else (r + x) % n

/-- Flows of one stage through this member (R265) (DESIGN CHOICE, log entry 16). -/
def CollInst.flows (k : CollInst) (st : Nat × Pat) : List Flow :=
  let a := st.1
  let n := k.len a
  let i := k.digit a k.me
  let at_ := fun p => k.at_ a p
  let atRoot := fun (axs : List Nat) => axs.all fun b => k.digit b k.me == k.digit b k.rootIx
  match st.2 with
  | .scatter => k.wideFlows a 1 true
  | .gather => k.wideFlows a 0 false
  | .chain share =>
    let its := if share then k.mine (k.before a) else k.items
    let up : Flow :=
      { dir := false, chunk := 0, items := its, pred := if i = 0 then none else some (at_ (i - 1))
        succs := if i + 1 = n then [] else [at_ (i + 1)], fold := true }
    let back := fun (c : Nat) (l : List Nat) (stop : Nat) =>
      ({ dir := true, chunk := c, items := l, pred := if i + 1 = n then none else some (at_ (i + 1))
         succs := if i = stop then [] else [at_ (i - 1)], fold := false, late := decide (i + 1 = n) } : Flow)
    up :: (if share then ((List.range n).filter (· ≤ i)).map fun j => back j (k.chunk a j) j else [back 0 its 0])
  | .bcast =>
    if !atRoot (k.before a) then []
    else
      let r := k.digit a k.rootIx
      [false, true].flatMap fun dir =>
        let x := k.offset a r i dir
        let far := k.reach a r dir
        let here := if i = r then true else decide (1 ≤ x ∧ x ≤ far) && (k.isRing a || (if dir then decide (i < r) else decide (r < i)))
        if here ∧ 0 < far then
          [{ dir := dir, chunk := 0, items := k.items, pred := if i = r then none else some (at_ (k.posAt a r (x - 1) dir))
             succs := if x < far then [at_ (k.posAt a r (x + 1) dir)] else [], fold := false }]
        else []
  | .toRoot =>
    if !atRoot (k.after a) then []
    else
      let r := k.digit a k.rootIx
      ((List.range n).filter (· != r)).flatMap fun p =>
        -- a chunk at offset x on the positive side of the root travels in the negative direction, and the other way round
        let side := if k.isRing a then decide (k.offset a r p false > n / 2) else decide (p < r)
        let x := k.offset a r p side
        let y := k.offset a r i side
        let on := i == r || (decide (y ≤ x) && (k.isRing a || (if side then decide (i < r) else decide (r < i))))
        if on then
          let y' := if i = r then 0 else y
          [{ dir := !side, chunk := p, items := k.chunk a p, pred := if y' = x then none else some (at_ (k.posAt a r (y' + 1) side))
             succs := if y' = 0 then [] else [at_ (k.posAt a r (y' - 1) side)], fold := false }]
        else []
  | .direct =>
    ((List.range k.n).filter (· != k.me)).flatMap fun j =>
      let blk := k.items.filter fun x => k.owner x == j
      [{ dir := false, chunk := 0, items := blk, pred := none, succs := [j], fold := false },
       { dir := false, chunk := 0, items := blk, pred := some j, succs := [], fold := false }]

/-- The stage in progress. -/
def CollInst.stageNow (k : CollInst) : Option (Nat × Pat) := k.stages[k.stage]?

/-- GATHER bit of a stage (Table 12.9). -/
def gatherBit : Pat → Bool
  | .gather | .bcast | .toRoot => true
  | _ => false

/-- PHASE code of a stage: 0 X, 1 Y, 2 Z, 3 the list ring and the direct exchange. -/
def stageKey (st : Nat × Pat) : Nat := st.1 + 4 * (gatherBit st.2).toNat

/-- Members that a stage exchanges data with (R258). -/
def CollInst.neighbours (k : CollInst) (st : Nat × Pat) : List Nat :=
  let ring := match st.2 with
    | .scatter | .gather =>
      let ord := if k.isRing st.1 then List.range (k.len st.1) else foldedRing (k.len st.1)
      let n := ord.length
      let i := (ord.findIdx? (· == k.digit st.1 k.me)).getD 0
      [k.at_ st.1 (ord.getD ((i + 1) % n) 0), k.at_ st.1 (ord.getD ((i + n - 1) % n) 0)]
    | _ => (k.flows st).flatMap fun (f : Flow) => f.pred.toList ++ f.succs
  (ring.filter (· != k.me)).eraseDups

/-- Neighbours in every phase. -/
def CollInst.allNeighbours (k : CollInst) : List Nat := (k.stages.flatMap k.neighbours).eraseDups

/-! ### Values and segments -/

/-- A value formed here. -/
def CollInst.formedVal (k : CollInst) (i : Nat) : Option Part := (k.buf.find? (·.1 == i)).map (·.2)

/-- A value as it travels: a sum as its LF64 code, an infinity outside the range (R52, R263). -/
def Part.wire : Part → W64
  | .code w => w
  | .sum v => BitVec.ofNat 64 (lf64OfInt v.toInt).code

/-- Units of a finite LF64 value, none for a special code. -/
def Part.units : Part → Option Int
  | .code w => if w = 0x8000000000000000 ∨ w = 0x8000000000000001 ∨ w = 0x7FFFFFFFFFFFFFFF then none else some w.toInt
  | .sum v => some v.toInt

/-- The value of a part of format `f` with window `wexp`. -/
def Part.val (f : Fmt) (wexp : Int) : Part → Val
  | .code w => f.decode none wexp w.toNat
  | .sum v => if v.toInt = 0 then .zero false else .fin (decide (v.toInt < 0)) v.toInt.natAbs wexp

/-- Items of the members before this one. -/
def CollInst.ownFrom (k : CollInst) : Nat := if k.args.op = 2 then k.me * k.args.a.count else 0

/-- The bytes of the source that hold an item: an element code, or a scale byte. -/
def CollInst.ownRun (k : CollInst) (i : Nat) : Nat × Nat :=
  let a := k.args.a
  if i < k.elems then a.elemRun (a.pos (i - k.ownFrom)) else (a.scale + (i - k.elems) - k.ownFrom / 32, 1)

/-- The source's own value of an item. -/
def State.ownItem (s : State) (k : CollInst) (i : Nat) : W64 :=
  let a := k.args.a
  if i < k.elems then BitVec.ofNat 64 (s.code a (a.pos (i - k.ownFrom))) else (s.byte (k.ownRun i).1).setWidth 64

/-- The source bytes of items are read: checked and corrected (R36, R339), and poison among them poisons the collective (R344). -/
def State.readOwn (s : State) (k : CollInst) (its : List Nat) : State × CollInst :=
  let rs := its.map k.ownRun
  let s1 := s.touchRuns rs
  let bad := rs.any fun r => s1.poisoned r.1 r.2
  (s1.consumeIf bad, { k with poison := k.poison || bad })

/-- Items among these whose value has not been formed here. -/
def CollInst.unformed (k : CollInst) (its : List Nat) : List Nat := its.filter fun i => (k.formedVal i).isNone

/-- The value of an item at this member: what was formed, else its own; a direct exchange always sends its own. -/
def State.itemVal (s : State) (k : CollInst) (i : Nat) : Part :=
  if k.args.op = 5 then .code (s.ownItem k i)
  else match k.formedVal i with
    | some v => v
    | none => .code (s.ownItem k i)

/-- One addition of a collective: the partial sum and OVF. A wide sum of finite values is held as an integer, and in spill mode as the LF64
code that the controllers form (R263, R268); a data-format sum is rounded at each addition (R264). -/
def sumParts (k : CollArgs) (spill : Bool) (r : W64) (o : Part) : Part × Bool :=
  if k.rf then (.code (BitVec.ofNat 64 (floatAdd k.a.fmt r.toNat o.wire.toNat)), false)
  else match (Part.code r).units, o.units with
    | some x, some y =>
      let p : Part := .sum (BitVec.ofInt 96 (x + y))
      (if spill then .code p.wire else p, decide (lf64Max < (x + y).natAbs))
    | _, some _ => (.code r, false)
    | _, none => (.code (BitVec.ofNat 64 (lf64Add r.toNat o.wire.toNat).1), false)

/-- Fold received values onto own ones: sums element by element, max and min pair by pair. The number counts overflows. -/
def foldVals (k : CollArgs) (spill : Bool) : List W64 → List Part → List Part × Nat
  | r :: ri :: rs, o :: oi :: os =>
    if k.op = 6 ∨ k.op = 7 then
      let t := foldVals k spill rs os
      let w := pairPick (k.op == 7) (o.wire.toNat + 2 ^ 32 * oi.wire.toNat) (r.toNat + 2 ^ 32 * ri.toNat)
      (.code (BitVec.ofNat 64 (w % 2 ^ 32)) :: .code (BitVec.ofNat 64 (w / 2 ^ 32)) :: t.1, t.2)
    else
      let x := sumParts k spill r o
      let y := sumParts k spill ri oi
      let t := foldVals k spill rs os
      (x.1 :: y.1 :: t.1, x.2.toNat + y.2.toNat + t.2)
  | [r], [o] => let x := sumParts k spill r o; ([x.1], x.2.toNat)
  | rs, _ => (rs.map .code, 0)

/-- Bits of a segment: 49,152 bytes (R265). -/
def segBits : Nat := 393216

/-- Bits of a run of items. -/
def CollInst.bitsOf (k : CollInst) (its : List Nat) : Nat := its.foldl (fun t i => t + k.bits i) 0

/-- Items with the bit at which each begins in their run. -/
def CollInst.placed (k : CollInst) (at_ : Nat) : List Nat → List (Nat × Nat)
  | [] => []
  | i :: is => (i, at_) :: k.placed (at_ + k.bits i) is

/-- Segments of one chunk in a stage: the largest chunk of the line decides, so that both ends agree. -/
def CollInst.chunkSegs (k : CollInst) (st : Nat × Pat) : Nat :=
  let most := ((k.flows st).map fun f => k.bitsOf f.items).foldl max 0
  let line := match st.2 with
    | .scatter | .gather | .toRoot => ((List.range (k.len st.1)).map fun p => k.bitsOf (k.chunk st.1 p)).foldl max 0
    | .direct => ((List.range k.n).map fun p => k.bitsOf (k.items.filter fun x => k.owner x == p)).foldl max 0
    | _ => k.bitsOf k.items
  max 1 (ceilDiv (max most line) segBits)

/-- Segment numbers of a flow with the items of each: those that begin in each 49,152 bytes of the flow (DESIGN CHOICE, log entry 16). -/
def CollInst.segments (k : CollInst) (st : Nat × Pat) (f : Flow) : List (Nat × List Nat) :=
  let spc := k.chunkSegs st
  let ps := k.placed 0 f.items
  (List.range (ceilDiv (k.bitsOf f.items) segBits)).map fun t =>
    (f.chunk * spc + t, (ps.filter fun p => p.2 / segBits == t).map (·.1))

/-- Bytes of a segment: the codes of its items packed from bit 0. -/
def CollInst.packSeg (k : CollInst) (its : List Nat) (vs : List W64) : List Byte :=
  let r := (its.zip vs).foldl (fun (t : Nat × Nat) x => (t.1 + x.2.toNat % 2 ^ k.bits x.1 * 2 ^ t.2, t.2 + k.bits x.1)) (0, 0)
  leBytes ((r.2 + 7) / 8) r.1

/-- Values that a segment's bytes spell. -/
def CollInst.unpackSeg (k : CollInst) (its : List Nat) (bs : List Byte) : List W64 :=
  let n := leNat bs
  (its.foldl (fun (t : List W64 × Nat) i => (t.1 ++ [BitVec.ofNat 64 (n / 2 ^ t.2 % 2 ^ k.bits i)], t.2 + k.bits i)) ([], 0)).1

/-- Key of a member and direction in a stage, and of a segment from a member. -/
def linkKey (st dir m : Nat) : Nat := (st * 2 + dir) * 4096 + m
def segKey (st dir m seg : Nat) : Nat := linkKey st dir m * 65536 + seg

/-- ADDR of a COLL drop (Table 12.9). -/
def collAddr (key : CollKey) (kind : Nat) (phase : Nat) (dir gather : Bool) (seg : Nat) : Nat :=
  key.group.toNat + key.num.toNat * 2 ^ 8 + kind * 2 ^ 24 + phase % 4 * 2 ^ 28 + dir.toNat * 2 ^ 30 + gather.toNat * 2 ^ 31 + seg * 2 ^ 32

/-- A one-drop COLL consignment to a member: class C0 for ARRIVE and RELEASE, else C1. -/
def State.sendColl (s : State) (key : CollKey) (ver : Fin 2) (dst : ChipId) (kind phase : Nat) (dir gather : Bool) (seg : Nat)
    (bs : List Byte) : State :=
  s.sendSingle 0xB (if kind = 5 ∨ kind = 6 then 0 else 1) ver dst (collAddr key kind phase dir gather seg) bs (some key) false

/-- Physical chip of a member. -/
def CollInst.chipOf (k : CollInst) (m : Nat) : ChipId := k.phys.getD m 0

/-! ### The instance in the state -/

/-- Replace an instance. -/
def State.putColl (s : State) (k : CollInst) : State :=
  { s with col := { s.col with colls := updFirst (fun y => y.key == k.key) (fun _ => k) s.col.colls } }

/-- Take an instance away with its claim. -/
def State.dropColl (s : State) (k : CollInst) : State :=
  { s with col := { s.col with
      colls := s.col.colls.filter fun y => y.key != k.key
      queue := s.col.queue.filter (· != k.key)
      used := if k.admitted ∧ k.spill.isNone then s.col.used - k.banks else s.col.used } }

/-- Set a bit of COL_STATUS. -/
def State.colBit (s : State) (i : Nat) : State := { s with col := { s.col with status := setB s.col.status i true } }

/-- E of the signature: the element count of Table 12.3 on each member (DESIGN CHOICE, log entry 16). -/
def CollArgs.signE (x : CollArgs) (n : Nat) : Nat := if x.op = 5 then x.a.count / n else x.a.count

/-- The signature payload (Table 12.9). -/
def State.signBytes (k : CollInst) : List Byte :=
  let x := k.args
  leBytes 1 (x.op.toNat + 16 * x.rf.toNat) ++ leBytes 1 x.a.fmtCode ++ leBytes 2 (if x.a.fmt == .lf64 then unsigned 16 x.a.wexp else 0) ++
    leBytes 6 (x.signE k.n) ++ leBytes 1 k.ver.val ++ leBytes 3 (if x.op = 3 ∨ x.op = 4 then x.root.toNat else 0) ++ leBytes 2 0 ++
    leBytes 8 k.key.era.toNat

/-- Segments that a member expects from a sender in a stage and direction. -/
def CollInst.expected (k : CollInst) (st : Nat × Pat) (m : Nat) (dir : Bool) : List (Nat × List Nat × Flow) :=
  (k.flows st).flatMap fun f => if f.pred = some m ∧ f.dir = dir then (k.segments st f).map fun x => (x.1, x.2, f) else []

/-- Segments that the claim or the spill space takes at once: its whole capacity; without a claim, everything (R276). -/
def CollInst.capacity (k : CollInst) : Nat := if collClaims k.args.op then max 1 (k.banks * 2 ^ 20 / 49152) else 65535

/-- Senders of a stage. -/
def CollInst.preds (k : CollInst) (st : Nat × Pat) : List (Nat × Bool) :=
  ((k.flows st).filterMap fun f => f.pred.map fun m => (m, f.dir)).eraseDups

/-- Grant further segments to a sender: beyond what arrived from it, its equal share of what the claim takes, so that the grants of a stage
stay within the claim (R276) (DESIGN CHOICE, log entry 16). -/
def State.grantTo (s : State) (k : CollInst) (st : Nat × Pat) (m : Nat) (dir : Bool) : State :=
  let key := linkKey k.stage dir.toNat m
  let total := (k.expected st m dir).length
  let here := (k.whole.filter fun w => w / 65536 == key).length
  let given := ((k.given.find? (·.1 == key)).map (·.2)).getD 0
  let more := min total (here + max 1 (k.capacity / (k.preds st).length)) - given
  if more = 0 then s
  else
    let k1 := { k with given := (k.given.filter (·.1 != key)) ++ [(key, given + more)] }
    (s.putColl k1).sendColl k.key k.ver (k.chipOf m) 2 st.1 dir (gatherBit st.2) 0 (leBytes 2 more)

/-- Send what grants allow, oldest first. -/
def State.sendOut (s : State) (k : CollInst) (st : Nat × Pat) : State :=
  let go := fun (t : State × CollInst) (o : SegOut) =>
    let key := linkKey (stageKey st) o.dir.toNat o.dest
    let g : Nat := ((t.2.grants.find? (·.1 == key)).map (·.2)).getD 0
    if g == 0 then t
    else
      let k1 := { t.2 with grants := (t.2.grants.filter (·.1 != key)) ++ [(key, g - 1)], out := t.2.out.erase o }
      (t.1.sendSegment k1.ver (k1.chipOf o.dest) (collAddr k1.key 3 st.1 o.dir (gatherBit st.2) o.seg) o.data k1.key, k1)
  let r := k.out.foldl go (s, k)
  r.1.putColl r.2

/-- Flows with received segments all taken. -/
def CollInst.flowDone (k : CollInst) (st : Nat × Pat) (f : Flow) : Bool :=
  match f.pred with
  | none => true
  | some m => (k.segments st f).all fun x => k.whole.contains (segKey k.stage f.dir.toNat m x.1)

/-- A segment that begins here for member `m` is put into the output, once; what it takes from the source is read. -/
def State.putSeg (x : State × CollInst) (f : Flow) (m : Nat) (seg : Nat × List Nat) : State × CollInst :=
  let k := x.2
  let key := segKey k.stage f.dir.toNat m seg.1
  if k.formed.contains key then x
  else
    let y := x.1.readOwn k (if k.args.op = 5 then seg.2 else k.unformed seg.2)
    (y.1, { y.2 with
      formed := k.formed ++ [key]
      out := k.out ++ [⟨m, f.dir, seg.1, k.packSeg seg.2 (seg.2.map fun i => (y.1.itemVal k i).wire)⟩] })

/-- Segments of the flows that begin here and may start. -/
def State.originate (s : State) (k : CollInst) (st : Nat × Pat) : State × CollInst :=
  let fs := k.flows st
  let ready := fun (f : Flow) => f.pred.isNone && (!f.late || fs.all fun g => g.late || k.flowDone st g)
  fs.foldl (fun x f =>
    if !ready f then x
    else (k.segments st f).foldl (fun x1 seg => f.succs.foldl (fun x2 m => State.putSeg x2 f m seg) x1) x) (s, k)

/-- Everything of the stage is done here. -/
def CollInst.stageDone (k : CollInst) (st : Nat × Pat) : Bool :=
  (k.flows st).all (fun f => k.flowDone st f && f.succs.all fun m => (k.segments st f).all fun x =>
    k.formed.contains (segKey k.stage f.dir.toNat m x.1)) && k.out.isEmpty

/-- Begin a stage: SIGN to every neighbour (R258), grants where the signature is already matched, and the first segments
(DESIGN CHOICE, log entry 16). -/
def State.beginStage (s : State) (k : CollInst) : State :=
  match k.stageNow with
  | none => s.putColl k
  | some st =>
    let s1 := (k.neighbours st).foldl (fun (t : State) m =>
      t.sendColl k.key k.ver (k.chipOf m) 1 st.1 false (gatherBit st.2) 0 (State.signBytes k)) (s.putColl k)
    let s2 := (k.preds st).foldl (fun (t : State) p =>
      match t.col.colls.find? (·.key == k.key) with
      | some k1 => if k1.signs.contains (linkKey (stageKey st) 0 p.1) then t.grantTo k1 st p.1 p.2 else t
      | none => t) s1
    match s2.col.colls.find? (·.key == k.key) with
    | some k2 => let o := s2.originate k2 st; o.1.sendOut o.2 st
    | none => s2

/-! ### The final write (R260, R262, R273) -/

/-- Items that this member writes, as (destination element, item), and scale bytes likewise. -/
def CollInst.writes (k : CollInst) : List (Nat × Nat) × List (Nat × Nat) :=
  let all := (List.range k.elems).map fun i => (i, i)
  let sc := (List.range k.scales).map fun i => (i, k.elems + i)
  match k.args.op.toNat with
  | 1 => ((all.filter fun x => k.owner x.1 == k.me).map fun x => (x.1 - k.me * k.block, x.2), [])
  | 3 => if k.me = k.rootIx then ([], []) else (all, sc)
  | 4 => if k.me = k.rootIx then (all, []) else ([], [])
  | _ => (all, sc)

/-- The value that the member writes for an item: in all-to-all the own block comes from the source at its own index. -/
def State.finalVal (s : State) (k : CollInst) (i : Nat) : Part :=
  if k.args.op = 5 then (match k.formedVal i with | some v => v | none => .code (s.ownItem k i)) else s.itemVal k i

/-- The final write becomes a flight with its rounding, census and automatic seal; one that meets an unpopulated address comes only part of
the way (R149). -/
def State.finishColl (s1 : State) (k1 : CollInst) : State :=
  let (es, sc) := k1.writes
  let own := s1.readOwn k1 (k1.unformed ((es ++ sc).map (·.2)))
  let s := own.1
  let k := own.2
  let x := k.args
  let all := es.map fun p => (x.d.pos p.1, s.finalVal k p.2)
  let (cut, s0) := s.cut (all.map fun p => s.posOpen x.d p.1)
  let vals := cutTake cut all
  let wide := collWide x.op x.rf && x.d.fmt != .lf64
  let res := if wide then
      convertAll x.d x.rm (s.comb k.comb).ext.seed (vals.map fun p => ({ pos := p.1, v := p.2.val x.a.fmt x.a.wexp, poison := k.poison } : Elem))
    else ([], [])
  let s1 := if wide then s0.modExt k.comb fun y => y.countAll x.cs x.d.fmt res.1 else s0
  let codes := if wide then res.1.map fun dn => (dn.pos, dn.code) else vals.map fun p => (p.1, p.2.wire.toNat)
  let ids := (vals.map fun p => x.d.scaleIndex p.1).eraseDups
  let scales := if wide then res.2 else (sc.filter fun p => ids.contains p.1).map fun p => (p.1, (s.finalVal k p.2).wire.toNat)
  let scaleOf := fun (p : Pos) => if x.d.blk = 0 then none else some (((scales.find? (·.1 == x.d.scaleIndex p)).map (·.2)).getD 0)
  let top := if wide then maxExp res.1
    else (codes.filterMap fun pc => (x.d.fmt.decode (scaleOf pc.1) x.d.wexp pc.2).exp).foldl
      (fun (m : Option Int) y => some (match m with | some z => max y z | none => y)) none
  let ws := s1.destRuns x.d codes scales
  let pl := if k.poison then x.d.poisonLines (codes.map (·.1)) else []
  if cut.isSome then (((s1.dropColl k).putRuns ws).poisonList pl).execFault k.comb k.e 3 3
  else
    let (id, s2) := s1.nextId k.comb
    let (w, s3) := if es.isEmpty then (0, s2) else s2.autoSeal k.comb id x.d ws pl 2 k.poison
    let fl : Flight := { e := k.e, id := id, writes := ws, poisons := pl, waits := w
                         ceils := match top with | some m => [(x.dr, m)] | none => [] }
    s3.putColl { k with fin := some fl }

/-- The automatic seal of a coll's final write is recorded (R307). -/
def State.collUnwait (s : State) (owner : Option (CombId × Nat)) : State :=
  match owner with
  | some (c, id) => { s with col := { s.col with colls := s.col.colls.map fun k => match k.fin with
      | some fl => if k.comb = c ∧ fl.id = id then { k with fin := some { fl with waits := fl.waits - 1 } } else k
      | none => k } }
  | none => s

/-- Pass every stage that is done; after the last one the final write is formed. -/
def State.advanceColl (s : State) (key : CollKey) (fuel : Nat) : State :=
  match fuel with
  | 0 => s
  | n + 1 =>
    match s.col.colls.find? (·.key == key) with
    | none => s
    | some k =>
      if !k.admitted || k.fin.isSome then s
      else match k.stageNow with
        | none => s.finishColl k
        | some st =>
          let o := s.originate k st
          let s1 := o.1.sendOut o.2 st
          (match s1.col.colls.find? (·.key == key) with
            | none => s1
            | some k1 =>
              if k1.stageDone st then
                (s1.beginStage { k1 with stage := k1.stage + 1, got := [], whole := [], formed := [], given := [] }).advanceColl key n
              else s1)

/-- Stages are at most seven. -/
def collFuel : Nat := 8

/-! ### Issue, admission and spill (R256, R268, R421) -/

/-- End a coll with REMOTE on its comb (R258, R421). -/
def State.failColl (s : State) (k : CollInst) : State :=
  let s1 := (s.dropColl k).modSeq k.comb fun q => { q with qFab := q.qFab.filter fun e => e != k.e }
  let s2 := match k.fin with
    | some fl => s1.partWrites fl.writes
    | none => s1
  s2.fabRemote k.comb k.e

/-- ABORT for a coll to its neighbours in every phase (R258) (DESIGN CHOICE, log entry 48). -/
def State.abortNeighbours (s : State) (k : CollInst) (code : Nat) : State :=
  k.allNeighbours.foldl (fun (t : State) m =>
    t.sendColl k.key k.ver (k.chipOf m) 4 0 false false 0 (leBytes 1 code ++ leBytes 7 0 ++ leBytes 8 k.key.era.toNat)) s

/-- Parent and children of a member in the barrier tree (R271). -/
def barNear (me n : Nat) : List Nat :=
  (if me = 0 then [] else [(me - 1) / 8]) ++ ((List.range 8).map fun j => 8 * me + 1 + j).filter (· < n)

/-- Code and era of an ABORT drop. -/
def abortCode (d : Drop) : Nat := leNat (d.payload.take 1)
def abortEra (d : Drop) : W64 := BitVec.ofNat 64 (leNat ((d.payload.drop 8).take 8))

/-- The coll, and the bar, that a COLL drop names in an era. -/
def dropKey (d : Drop) (era : W64) : CollKey := { group := BitVec.ofNat 8 d.addr, num := BitVec.ofNat 16 (d.addr / 2 ^ 8), era := era }
def barKey (d : Drop) (era : W64) : CollKey := { dropKey d era with bar := true }

/-- KIND of a COLL drop. -/
def collKind (d : Drop) : Nat := d.addr / 2 ^ 24 % 16

/-- An ABORT held for this coll or bar (R421). The two numberings are separate, and an ABORT names one by group and number alone; a
held one meets whichever the chip issues (DESIGN CHOICE, log entry 48). -/
def State.heldAbort (s : State) (key : CollKey) : Option Drop :=
  s.col.staged.find? fun d => collKind d == 4 && (dropKey d (abortEra d) == key || barKey d (abortEra d) == key)

/-- Staged drops other than one. -/
def State.unstage (s : State) (d : Drop) : State := { s with col := { s.col with staged := s.col.staged.erase d } }

/-- Era of a SIGN and of an ARRIVE (Table 12.9). -/
def signEra (d : Drop) : W64 := BitVec.ofNat 64 (leNat ((d.payload.drop 16).take 8))
def arriveEra (d : Drop) : W64 := BitVec.ofNat 64 (leNat (d.payload.take 8))

/-- PHASE with GATHER of a COLL drop as a stage key, and its DIR and SEG. -/
def dropStage (d : Drop) : Nat := d.addr / 2 ^ 28 % 4 + 4 * (d.addr / 2 ^ 31 % 2)
def dropDir (d : Drop) : Bool := d.addr / 2 ^ 30 % 2 == 1
def dropSeg (d : Drop) : Nat := d.addr / 2 ^ 32

/-- Member index of a chip. -/
def memberOf (phys : List ChipId) (src : ChipId) : Option Nat := phys.findIdx? (· == src)

/-- A SIGN for an issued coll (R258): the same signature is noted and may bring a grant; another one ends the coll. -/
def State.matchSign (s : State) (k : CollInst) (d : Drop) : State :=
  match memberOf k.phys d.src with
  | none => s
  | some m =>
    if d.payload.take 14 ≠ (State.signBytes k).take 14 then
      ((s.colBit 4).abortNeighbours k 1).failColl k
    else
      let k1 := { k with signs := k.signs ++ [linkKey (dropStage d) 0 m] }
      let s1 := s.putColl k1
      match k1.stageNow with
      | some st =>
        if k1.admitted ∧ stageKey st = dropStage d then
          ((k1.preds st).filter (·.1 == m)).foldl (fun (t : State) p => match t.col.colls.find? (·.key == k.key) with
            | some k2 => t.grantTo k2 st p.1 p.2
            | none => t) s1
        else s1
      | none => s1

/-- A GRANT for an issued coll (R276): further segments may be sent (DESIGN CHOICE, log entry 47). -/
def State.takeGrant (s : State) (k : CollInst) (d : Drop) : State :=
  match memberOf k.phys d.src with
  | none => s
  | some m =>
    let key := linkKey (dropStage d) (dropDir d).toNat m
    let old : Nat := ((k.grants.find? (·.1 == key)).map (·.2)).getD 0
    (s.putColl { k with grants := (k.grants.filter (·.1 != key)) ++ [(key, old + leNat (d.payload.take 2))] }).advanceColl k.key collFuel

/-- A SIGN or GRANT held for a coll. -/
def heldFor (key : CollKey) (d : Drop) : Bool :=
  (collKind d == 1 && dropKey d (signEra d) == key) || (collKind d == 2 && dropKey d key.era == key)

/-- SIGN and GRANT drops held for a coll that has issued now. -/
def State.replaySigns (s : State) (key : CollKey) : State :=
  (s.col.staged.filter (heldFor key)).foldl
    (fun (t : State) d => match t.col.colls.find? (·.key == key) with
      | some k => if collKind d = 1 then (t.unstage d).matchSign k d else (t.unstage d).takeGrant k d
      | none => t.unstage d) s

/-! ### Completion as fenced (R274) -/

/-- The undefined mix of old and new elements at a destination: a free choice for each element, and a free new value where the chip
had not formed it (DESIGN CHOICE, log entry 6). -/
def State.mixColl (s : State) (k : CollInst) : State :=
  let d := k.args.d
  let ps := k.writes.1.map fun p => d.pos p.1
  let sc := if d.blk = 0 then [] else (ps.map d.scaleIndex).eraseDups
  let after := k.fin.map fun fl => s.putRuns fl.writes
  let pick := fun (t : State) (old new : Nat) =>
    let (w, t1) := t.draw
    let (v, t2) := t1.draw
    ((if w.getLsbD 0 then (if after.isSome then new else v.toNat) else old : Nat), t2)
  let es := ps.foldl (fun (x : List (Pos × Nat) × State) p =>
    let r := pick x.2 (s.code d p) ((after.getD s).code d p)
    (x.1 ++ [(p, r.1)], r.2)) ([], s)
  let bs := sc.foldl (fun (x : List (Nat × Nat) × State) i =>
    let r := pick x.2 (s.byte (d.scale + i)).toNat ((after.getD s).byte (d.scale + i)).toNat
    (x.1 ++ [(i, r.1)], r.2)) ([], es.2)
  bs.2.putRuns ((bs.2.destRuns d es.1 bs.1).filter fun w => s.opened w.1 w.2.length)

/-- A coll completes: COL_COUNT.DONE (Table 12.11) (DEDUCED, log entry 49). -/
def State.collCount (s : State) : State := { s with col := { s.col with count := wrapF s.col.count 32 32 1 } }

/-- An open coll or bar of a comb completes as fenced: status bits and counter (R274) (DEDUCED, log entry 49). -/
def State.doneFenced (s : State) (c : CombId) (e : QEntry) : State := ((s.crrFenced c).colBit 0).fabDone c e

/-- A coll whose group holds a fenced member completes as fenced (DESIGN CHOICE, log entry 108). -/
def State.fencedColl (s : State) (k : CollInst) : State :=
  let s1 := (s.mixColl k).dropColl k
  ((s1.modSeq k.comb fun q => { q with qFab := q.qFab.filter fun e => e != k.e }).collCount).doneFenced k.comb k.e

/-! ### Barriers (R271, R272) -/

/-- Minimal distance between two chips under a version's wraps (R238). -/
def Rte.dist (r : Rte) (v : Fin 2) (p q : ChipId) : Nat :=
  (List.range 3).foldl (fun t a =>
    let x := axisOf p a
    let y := axisOf q a
    let far := max x y - min x y
    t + (if r.tab[v].wrap a then min far (r.dim a - far) else far)) 0

/-- The C0 bound L over h hops in array cycles: (0.30 + 0.045·h) µs × 3.6 GHz (R243, R272). -/
def c0Cycles (h : Nat) : Nat := 1080 + 162 * h

/-- Depth of the 8-ary tree over n members (R271). -/
def barDepth (n : Nat) : Nat := ((List.range 5).find? fun d => decide (n ≤ (8 ^ (d + 1) - 1) / 7)).getD 4

/-- Greatest distance between two chips under a version (R272). -/
def Rte.span (r : Rte) (v : Fin 2) (ps : List ChipId) : Nat :=
  ps.foldl (fun t p => ps.foldl (fun u q => max u (r.dist v p q)) t) 0

/-- Replace or remove a barrier. -/
def State.putBar (s : State) (b : BarInst) : State :=
  { s with col := { s.col with bars := updFirst (fun y => y.key == b.key) (fun _ => b) s.col.bars } }
def State.dropBar (s : State) (b : BarInst) : State := { s with col := { s.col with bars := s.col.bars.filter fun y => y.key != b.key } }

/-- Send RELEASE to the children. -/
def State.sendRelease (s : State) (b : BarInst) (t : W64) : State :=
  ((barNear b.me b.phys.length).filter (· > b.me)).foldl (fun (st : State) m =>
    st.sendColl b.key b.ver (b.phys.getD m 0) 6 0 false false 0 (leBytes 8 t.toNat)) s

/-- Once the bar has started and the tree below this member is complete: ARRIVE to the parent, or at the leader the release cycle
(R271, R272). -/
def State.barAdvance (s : State) (b : BarInst) : State :=
  let kids := (barNear b.me b.phys.length).filter (· > b.me)
  if !b.started ∨ b.sentUp ∨ ¬ kids.all b.arrived.contains then s.putBar b
  else if b.me = 0 then
    let t : W64 := BitVec.ofNat 64 (s.chm.tb + barDepth b.phys.length * c0Cycles b.span)
    (s.putBar { b with sentUp := true, trel := some t }).sendRelease b t
  else
    (s.putBar { b with sentUp := true }).sendColl b.key b.ver (b.phys.getD ((b.me - 1) / 8) 0) 5 0 false false 0
      (leBytes 8 b.key.era.toNat)

/-- A bar ends with REMOTE. -/
def State.failBar (s : State) (b : BarInst) : State :=
  ((s.dropBar b).modSeq b.comb fun q => { q with qFab := q.qFab.filter fun e => e != b.e }).fabRemote b.comb b.e

/-- ABORT for a bar to its parent and children (R259). -/
def State.abortBar (s : State) (b : BarInst) (code : Nat) : State :=
  (barNear b.me b.phys.length).foldl (fun (t : State) m =>
    t.sendColl b.key b.ver (b.phys.getD m 0) 4 0 false false 0 (leBytes 1 code ++ leBytes 7 0 ++ leBytes 8 b.key.era.toNat)) s

/-- ARRIVE drops held for a barrier. -/
def State.heldArrives (s : State) (key : CollKey) : List Drop :=
  s.col.staged.filter fun d => collKind d == 5 && barKey d (arriveEra d) == key

/-- The bar at the head of a comb's fabric queue starts (R271); with a fenced member it completes as fenced (DEDUCED, log entry 32). -/
def State.startBar (s : State) (b : BarInst) : State :=
  let s1 := s.popFab b.comb
  if b.phys.any s.rte.fenced then (s1.dropBar b).doneFenced b.comb b.e else s1.barAdvance { b with started := true }

/-- Every bar at the head of its comb's fabric queue starts at once, except between a quiesce vote of 1 and its decision (R294)
(DEDUCED, log entry 32). -/
def State.pumpBars (s : State) (c : CombId) (fuel : Nat) : State :=
  match fuel with
  | 0 => s
  | n + 1 =>
    if s.col.noAdmit then s
    else match (s.comb c).seq.qFab with
    | e :: _ => (match s.col.bars.find? fun b => b.comb == c && b.e == e && !b.started with
        | some b => (s.startBar b).pumpBars c n
        | none => s)
    | [] => s

/-- Bars at the head of every comb's fabric queue start. -/
def State.pumpAllBars (s : State) : State := (List.finRange 64).foldl (fun (t : State) c => t.pumpBars c 17) s

/-- A coll has issued: it is numbered and joins the admission queue, and ends at once where an ABORT waits for it. A bar has issued: it is
numbered, takes the arrivals held for it, and ends at once where an ABORT waits for it (R257, R421). -/
def State.collIssued (s : State) (c : CombId) (e : QEntry) : State :=
  match e.op with
  | .coll _ _ _ _ _ _ _ gw num era ver =>
    let g : BitVec 8 := gw.setWidth 8
    let t := s.rte.tab[ver]
    let ms := t.members g
    let box := t.groupBox g
    let ext := if box then (List.range 3).map (t.groupExt g) else []
    let k : CollInst :=
      { comb := c, e := e, key := { group := g, num := num, era := era }, ver := ver, members := ms, phys := ms.map (s.rte.physOf ver)
        me := (s.rte.memberIndex ver g).getD 0, ext := ext
        ring := if box then (List.range 3).map fun a => t.groupExt g a == t.ext a && t.wrap a else [] }
    let s1 := { s with col := { s.col with
      collNum := Sparse.set 0 s.col.collNum g.toNat (Sparse.get 0 s.col.collNum g.toNat + 1), colls := s.col.colls ++ [k], queue := s.col.queue ++ [k.key] } }
    (match s1.heldAbort k.key with
      | some d =>
        let s2 : State := { s1 with col := { s1.col with staged := (s1.col.staged.erase d).filter fun x => !heldFor k.key x } }
        (s2.abortNeighbours k (abortCode d)).failColl k
      | none => s1.replaySigns k.key)
  | .bar gw num era ver =>
    let g : BitVec 8 := gw.setWidth 8
    let key : CollKey := { group := g, num := num, era := era, bar := true }
    let phys := (s.rte.tab[ver].members g).map (s.rte.physOf ver)
    let held := s.heldArrives key
    let b : BarInst :=
      { comb := c, e := e, key := key, ver := ver, phys := phys, me := (s.rte.memberIndex ver g).getD 0, span := s.rte.span ver phys
        arrived := held.filterMap fun d => memberOf phys d.src }
    let s1 := held.foldl State.unstage { s with col := { s.col with
      barNum := Sparse.set 0 s.col.barNum g.toNat (Sparse.get 0 s.col.barNum g.toNat + 1), bars := s.col.bars ++ [b] } }
    (match s1.heldAbort key with
      | some d => ((s1.unstage d).abortBar b (abortCode d)).failBar b
      | none => s1)
  | _ => s

/-- K MiB of the spill region that no other collective uses, by their places in MiB; none where fewer are free (R268). -/
def State.spillRoom (s : State) (kb : Nat) : Option (List Nat) :=
  let used := s.col.colls.flatMap fun x => x.spill.getD []
  let free := (List.range (getF s.col.spill 48 16)).filter fun o => !used.contains o
  if kb ≤ free.length then some (free.take kb) else none

/-- The head of the admission queue starts (R268): it claims its banks, or spill space that is zeroed first. With a fenced member it
completes at once; a source or a spill region at an address that is not open ends it with ADDRESS (R6). -/
def State.startColl (s : State) (k : CollInst) (spill : Option (List Nat)) : State :=
  let x := k.args
  let kb := collBanks x.op x.a
  let reads := if x.op = 3 ∧ k.me ≠ k.rootIx then [] else x.a.ranges
  let s1 := { s with col := { s.col with
    queue := s.col.queue.filter (· != k.key), used := if spill.isNone then s.col.used + kb else s.col.used
    count := if spill.isSome then wrapF s.col.count 0 32 1 else s.col.count } }
  let room := (spill.getD []).map fun o => (getF s.col.spill 0 48 + o * 2 ^ 20, 2 ^ 20)
  let s2 := match spill with
    | some _ =>
      if s.openRuns room then room.foldl (fun (t : State) (r : Nat × Nat) => t.store r.1 (List.replicate r.2 0) false) (s1.colBit 1) else s1.colBit 1
    | none => s1
  let k1 := { k with admitted := true, banks := kb, spill := spill }
  let s3 := (s2.popFab k.comb).putColl k1
  if k.phys.any s.rte.fenced then s3.fencedColl k1
  else if !s.openRuns (room ++ reads) then (s3.dropColl k1).execFault k.comb k.e 3 3
  else
    let s4 := s3.touchRuns reads
    let bad := reads.any fun r => s4.poisoned r.1 r.2
    ((s4.consumeIf bad).beginStage { k1 with poison := bad }).advanceColl k.key collFuel

/-! ### Eras (R257, R259, R421) -/

/-- Of `n` issued in the era in force, numbered modulo 2^16: has this number gone by? The 32,768 numbers behind the next one count as gone by
(DESIGN CHOICE, log entry 48). -/
def goneBy (n : Nat) (num : BitVec 16) : Bool :=
  let back := (BitVec.ofNat 16 n - num).toNat
  decide (1 ≤ back ∧ back ≤ min n 0x8000)

/-- Did the chip issue this coll, or this bar? In an era that is over, one of its `n` numbers modulo 2^16 is this one
(DESIGN CHOICE, log entry 48). -/
def Col.issuedColl (x : Col) (key : CollKey) : Bool :=
  if key.era = x.era then goneBy (Sparse.get 0 x.collNum key.group.toNat) key.num
  else x.past.any fun p => p.1 == key.era && decide (key.num.toNat < Sparse.get 0 p.2.1 key.group.toNat)
def Col.issuedBar (x : Col) (key : CollKey) : Bool :=
  if key.era = x.era then goneBy (Sparse.get 0 x.barNum key.group.toNat) key.num
  else x.past.any fun p => p.1 == key.era && decide (key.num.toNat < Sparse.get 0 p.2.2 key.group.toNat)

/-- A SIGN or ARRIVE that can never be matched (R259): ABORT to its sender, and the end of every open coll and bar of its group. -/
def State.eraMismatch (s : State) (d : Drop) (key : CollKey) : State :=
  let s1 := (s.colBit 4).sendColl key d.ep d.src 4 0 false false 0 (leBytes 1 3 ++ leBytes 7 0 ++ leBytes 8 key.era.toNat)
  let s2 := (s1.col.colls.filter (·.key.group == key.group)).foldl (fun (t : State) k =>
    (t.abortNeighbours k 3).failColl k) s1
  (s2.col.bars.filter (·.key.group == key.group)).foldl (fun (t : State) b => (t.abortBar b 3).failBar b) s2

/-- Both numberings of every group restart and the era becomes chime `n`. Held drops of eras now over are discarded, or mismatch
(DEDUCED, log entry 51). -/
def State.restartNums (s : State) (n : W64) : State :=
  let x := s.col
  let old := fun (d : Drop) => match collKind d with
    | 1 => decide ((signEra d).toNat < n.toNat)
    | 5 => decide ((arriveEra d).toNat < n.toNat)
    | 4 => decide ((abortEra d).toNat < n.toNat)
    | _ => true
  let s1 : State := { s with col := { x with
    past := x.past ++ [(x.era, x.collNum, x.barNum)], collNum := [], barNum := [], era := n
    staged := x.staged.filter fun d => !old d } }
  (x.staged.filter old).foldl (fun (t : State) d => match collKind d with
    | 1 => if x.issuedColl (dropKey d (signEra d)) then t else t.eraMismatch d (dropKey d (signEra d))
    | 5 => if x.issuedBar (barKey d (arriveEra d)) then t else t.eraMismatch d (barKey d (arriveEra d))
    | _ => t) s1

/-- A member was fenced (R274): every open coll and bar of a group that holds it completes as fenced. -/
def State.fenceColls (s : State) (f : ChipId) : State :=
  let s1 := (s.col.colls.filter fun k => k.admitted && k.phys.contains f).foldl State.fencedColl s
  let s2 := (s1.col.bars.filter fun b => b.started && b.phys.contains f).foldl (fun (t : State) b => (t.dropBar b).doneFenced b.comb b.e) s1
  s2.pumpAllBars

end Sys2Proof.Machine
end

