-- ==== Sys2Proof/Machine/Hall.lean ====
section
/-!
DEFINITION. The hall's own operations: replies and the reply cache (17 R357, R358), program images (07 R153, R154), and the map of
physical combs (02 R24 to R28).
-/
namespace Sys2Proof.Machine

/-! ### Replies -/

/-- Distance of a sequence number below the highest one, modulo 2^32. -/
def below (high seq : BitVec 32) : Nat := (high - seq).toNat

/-- A reply goes out, and every reply but BUSY enters its source's cache (R357). -/
def State.reply (s : State) (h : OrderHdr) (code : BitVec 8) (res : Result) (body : ReplyBody) : State :=
  let r : Reply := { src := h.src, code := code, seq := h.seq, result := res, st := s.dev.st, body := body }
  let keep := fun (e : Nat × BitVec 32 × List Reply) =>
    if e.1 = h.src ∧ res ≠ .busy then (e.1, e.2.1, (e.2.2.filter fun x => decide (below e.2.1 x.seq < 64)) ++ [r]) else e
  ({ s with eth := { s.eth with cache := s.eth.cache.map keep } } : State).sendReply r

/-- A reply outside the cache: bulk pieces, progress and final replies (R358, R363). -/
def State.replyBare (s : State) (src : Nat) (code : BitVec 8) (seq : BitVec 32) (res : Result) (body : ReplyBody) : State :=
  s.sendReply { src := src, code := code, seq := seq, result := res, st := s.dev.st, body := body }

/-- The final reply of a bulk consignment: CODE 0x04, SEQ equal to the CID (R363). -/
def State.bulkFinal (s : State) (b : Bulk) (res : Result) (count : Nat) : State :=
  s.replyBare b.src 0x04 b.piece.cid res (.bulk b.piece.cid count true)

/-- Bytes of a bulk consignment received without a gap. -/
def gapless : Nat → Nat → List (Nat × Nat) → Nat
  | 0, at_, _ => at_
  | n + 1, at_, rs =>
    match rs.find? fun r => decide (r.1 ≤ at_ ∧ at_ < r.1 + r.2) with
    | some r => gapless n (r.1 + r.2) rs
    | none => at_

def Bulk.count (b : Bulk) : Nat := gapless b.got.length 0 b.got

/-! ### Program images (R153, R154) -/

/-- A program image as its header gives it. -/
structure Image where
  addr  : Nat
  words : Nat
  entry : BitVec 18
  bytes : List Byte
  /-- words read poisoned, by word index (R36) -/
  bad   : List Nat := []

/-- The image at an address; none where its header breaks Table 7.8 or a byte of it is not open. -/
def State.imageAt (s : State) (a : Nat) : Option Image :=
  if !s.opened a 64 then none
  else
    let h := s.bytes a 64
    let f := fun lo n => leNat ((h.drop lo).take n)
    let w := f 8 4
    if f 0 4 = 0x4F445256 ∧ f 4 2 = 1 ∧ f 6 2 = 0 ∧ 1 ≤ w ∧ w ≤ 32768 ∧ f 12 4 % 8 = 0 ∧ f 12 4 < 8 * w ∧ f 16 48 = 0 ∧
        s.opened a (64 + 8 * w) = true then
      some { addr := a, words := w, entry := BitVec.ofNat 18 (f 12 4), bytes := s.bytes a (64 + 8 * w)
             bad := if s.poisoned a (64 + 8 * w) then (List.range w).filter fun i => s.poisoned a 64 || s.poisoned (a + 64 + 8 * i) 8 else [] }
    else none

/-- The hall reads an image: its header, then the words, each with the effects of a read (DEDUCED, log entry 84). -/
def State.readImage (s : State) (a : Nat) : Option Image × State :=
  if !s.opened a 64 then (none, s)
  else
    let s1 := s.touch a 64
    match s1.imageAt a with
    | none => (none, s1)
    | some im =>
      let s2 := s1.touch a (64 + 8 * im.words)
      (s2.imageAt a, s2)

/-- Words of an image by word index, all-zero words unlisted. -/
def imageWords (n : Nat) (bs : List Byte) : List (Nat × W64) :=
  ((List.range n).map fun i => (i, BitVec.ofNat 64 (leNat ((bs.drop (64 + 8 * i)).take 8)))).filter fun x => x.2 != 0

/-- The hall loads an image into a comb (R154): the store, registers and counters at zero, CODE cleared, image and seal recorded.
A word read poisoned is stored so that its fetch finds a double-bit error (R36; DEDUCED, log entry 84). A decision still awaited writes no
register of the new program (DESIGN CHOICE, log entry 62). -/
def State.loadComb (s : State) (c : CombId) (im : Image) : State :=
  (s.modSeq c fun q => { q with
    stall := .none, wait := none, vote := none, fetched := none
    s := Vector.replicate 32 0, d := Vector.replicate 32 (Vector.replicate 8 0), p := 0, cnt := Vector.replicate 256 0
    loops := [], fault := setF q.fault 0 8 0, istore := imageWords im.words im.bytes, upsets := im.bad.map fun i => (i, .double)
    prog := some ⟨im.addr, im.entry, im.words, plainSeal im.bytes⟩ }).setSeqSt c .loaded

/-- The hall reloads a comb's recorded program after a reset (R28, R151): a seal that differs leaves the comb EMPTY. -/
def State.reloadComb (s : State) (c : CombId) : State :=
  match (s.comb c).seq.prog with
  | none => s
  | some p =>
    let drop := fun (t : State) => (t.modSeq c fun q => { q with prog := none }).record (.sealMismatch c)
    let r := s.readImage p.image
    match r.1 with
    | some im => if plainSeal im.bytes = p.digest then r.2.loadComb c im else drop r.2
    | none => drop r.2

/-! ### The comb map (R24 to R28) -/

/-- Field of a logical comb: the quadrant of its home square (Table 2.2). -/
def fieldOf (n : CombId) : Nat := n.val % 8 / 4 + 2 * (n.val / 8 / 4)

/-- Findings on a physical comb: faulty columns, and whether it failed. -/
def Dev.cols (d : Dev) (p : Nat) : List Nat := bitsOf 32 (getF (Sparse.get 0 d.phys p) 0 32)
def Dev.failed (d : Dev) (p : Nat) : Bool := getF (Sparse.get 0 d.phys p) 32 1 == 1 || decide (2 < (d.cols p).length)

/-- Map entry of a physical comb with its bypasses (Table 2.3). -/
def Dev.mapWord (d : Dev) (p : Nat) : W64 :=
  match d.cols p with
  | a :: b :: _ => pack [(23, 1), (16, b), (15, 1), (8, a), (0, p)]
  | [a] => pack [(15, 1), (8, a), (0, p)]
  | [] => pack [(0, p)]

/-- The spare a logical comb takes: that of its field, else the lowest free one (R24). -/
def pickSpare (n : CombId) (ok : Nat → Bool) : Option Nat :=
  if ok (64 + fieldOf n) then some (64 + fieldOf n) else [64, 65, 66, 67].find? ok

/-- Physical comb that serves a logical one. -/
def Comb.phys (k : Comb) : Nat := getF k.map 0 7

/-- A spare that passed and serves no logical comb. -/
def State.spareFree (s : State) (p : Nat) : Bool := !s.dev.failed p && !(List.finRange 64).any fun n => (s.comb n).phys == p

/-- The map entry that a comb takes at a reset that changes the map (R28, R24): its own physical comb with the bypasses found, or a spare
where that one failed; none where no spare is free (DESIGN CHOICE, log entry 44). -/
def State.nextMap (s : State) (c : CombId) : Option W64 :=
  let p := (s.comb c).phys
  if s.dev.failed p then (pickSpare c s.spareFree).map s.dev.mapWord else some (s.dev.mapWord p)

/-- Note findings on a physical comb. -/
def State.findCols (s : State) (p : Nat) (cols : BitVec 32) (failed : Bool) : State :=
  { s with dev := { s.dev with
    phys := Sparse.set 0 s.dev.phys p (Sparse.get 0 s.dev.phys p ||| pack [(32, failed.toNat), (0, cols.toNat)]) } }

end Sys2Proof.Machine
end

