-- ==== Sys2Proof/Machine/RoundOps.lean ====
section
/-!
DEFINITION. The commit round (15 R322 to R328) and the chime instants it is laid on (13 R286, R287): votes, the decisions of leader and
deputy, lodging and announcement. Round drops are the one-drop SYNC consignments of Table 15.2.
-/
namespace Sys2Proof.Machine

/-! ### Chime instants -/

/-- Instant of chime k after the last one, under the interval in force and a pending change (R286, R287). -/
def Chm.instant (t : Chm) (k : W64) : Nat :=
  let ahead := (k - (t.n + 1)).toNat
  if t.pendV ∧ t.pendAt.toNat < k.toNat ∧ (t.n + 1).toNat ≤ t.pendAt.toNat then
    t.nextAt + (t.pendAt - (t.n + 1)).toNat * t.ival.toNat + (k - t.pendAt).toNat * t.pendC.toNat
  else t.nextAt + ahead * t.ival.toNat

/-- First chime whose instant lies at or after `x`. -/
def Chm.firstAt (t : Chm) (x : Nat) : W64 :=
  let next := t.n + 1
  if x ≤ t.nextAt then next
  else
    let edge := t.nextAt + (t.pendAt - next).toNat * t.ival.toNat
    if t.pendV ∧ next.toNat ≤ t.pendAt.toNat ∧ edge < x then t.pendAt + BitVec.ofNat 64 (ceilDiv (x - edge) t.pendC.toNat)
    else next + BitVec.ofNat 64 (ceilDiv (x - t.nextAt) t.ival.toNat)

/-! ### Drops -/

/-- A SYNC drop of the round (Table 15.2); `deputy` marks the VOTE to the deputy (R324). -/
def State.sendRound (s : State) (kind : Nat) (dst : ChipId) (step : W64) (v : Bool) (c : W64) (decider : ChipId) (deputy : Bool) : State :=
  s.sendSingle 0xC 0 s.rte.inj dst kind
    (leBytes 8 step.toNat ++ leBytes 8 v.toNat ++ leBytes 8 c.toNat ++ leBytes 3 decider.toNat) none deputy

/-- Fields of a SYNC drop's payload. -/
def syncStep (d : Drop) : W64 := BitVec.ofNat 64 (leNat (d.payload.take 8))
def syncValue (d : Drop) : Bool := leNat ((d.payload.drop 8).take 1) == 1
def syncChime (d : Drop) : W64 := BitVec.ofNat 64 (leNat ((d.payload.drop 16).take 8))
def syncDecider (d : Drop) : ChipId := BitVec.ofNat 18 (leNat ((d.payload.drop 24).take 3))

/-! ### Opening and voting -/

/-- Combs that take part in a round opening now (R322). -/
def State.votersNow (s : State) : List (CombId × Option Bool) :=
  ((List.finRange 64).filter fun c => (s.comb c).seq.st.active && (s.comb c).seq.st != .armed).map fun c => (c, none)

/-- The round for a step opens (DEDUCED, log entry 39; DEDUCED, log entry 42). -/
def State.openRound (s : State) (step : W64) : State :=
  { s with stp := { s.stp with
    round := some { step := step, openedAt := s.chm.n, cfg := s.stp.cfg, voters := s.votersNow } } }

/-- Change the open round (DEDUCED, log entry 42). -/
def State.modRound (s : State) (f : Round → Round) : State := { s with stp := { s.stp with round := s.stp.round.map f } }

/-- Does this chip hold a logical coordinate of its slice, so that it votes (R245, R361)? -/
def State.inBox (s : State) : Bool := (s.rte.logicalOf s.rte.inj).isSome && s.dev.st != .fenced

/-- Box members as physical chips, in member order. -/
def Rte.boxChips (r : Rte) : List ChipId := (r.tab[r.inj].boxMembers).map (r.physOf r.inj)

/-- A vote is held; the first one of a member stands (R325). -/
def Round.hold (r : Round) (m : ChipId) (v : Bool) : Round :=
  if r.votes.any fun x => x.1 == m then r else { r with votes := r.votes ++ [(m, v)] }

/-- Has chime C passed already (R328)? (DEDUCED, log entry 42). -/
def State.past (s : State) (c : W64) : Bool := s.chm.n != BitVec.allOnes 64 && decide (c.toNat ≤ s.chm.n.toNat)

/-! ### Deciding (R325 to R327) -/

/-- The round of the step in force, as far as it is open. -/
def State.roundNow (s : State) : Option Round := s.stp.round.filter fun r => r.step == s.stp.step

/-- The round for the step in force is open after this: an older one that was left undecided is over (R322, R329)
(DEDUCED, log entry 42). -/
def State.needRound (s : State) : State := if s.roundNow.isSome then s else s.openRound s.stp.step

/-- A verdict on the step in force. -/
def State.current (s : State) (w : Option Verdict) : Option Verdict := w.filter fun x => x.step == s.stp.step

/-- The chip holds the decision, to be applied at C; the first one stands (R326). -/
def State.holdDecision (s : State) (v : Bool) (c : W64) : State :=
  s.needRound.modRound fun r => if r.decision.isSome then r else { r with decision := some (v, c), late := s.past c }

/-- Every member but this chip learns the decision, and this chip holds it. -/
def State.announce (s : State) (w : Verdict) : State :=
  let others := s.rte.boxChips.filter fun m => m != s.rte.selfId && !s.rte.fenced m
  (others.foldl (fun (t : State) m => t.sendRound 0xB m w.step w.commit w.at_ w.by_ false) s).holdDecision w.commit w.at_

/-- A decision is lodged with the deputy first; without one it is announced at once. -/
def State.lodgeOut (s : State) (w : Verdict) : State :=
  let s1 : State := { s with stp := { s.stp with made := some w } }
  match s.rte.deputy with
  | some d => s1.sendRound 0x9 d w.step w.commit w.at_ w.by_ false
  | none => s1.announce w

/-- The decider sets C: the first chime at least LEAD_US after now (R327). -/
def State.makeDecision (s : State) (v : Bool) : State :=
  match s.roundNow with
  | none => s
  | some r => s.lodgeOut ⟨r.step, v, s.chm.firstAt (s.chm.tb + getF r.cfg 32 16 * 3600), s.rte.selfId⟩

/-- This chip acts as leader and the step in force is undecided here. -/
def State.leads (s : State) : Bool :=
  s.rte.leader == some s.rte.selfId && s.inBox && (s.current s.stp.made).isNone && !s.roundNow.any (·.decision.isSome)

/-- The leader decides when it can: the decision lodged with it, a 0 vote, a fenced member without a vote, or every vote 1. -/
def State.decideRound (s : State) : State :=
  if !s.leads then s
  else match s.current s.stp.lodged, s.roundNow with
    | some w, _ => s.lodgeOut w
    | none, some r =>
      let ms := s.rte.boxChips
      let held := fun (m : ChipId) => (r.votes.find? fun x => x.1 == m).map (·.2)
      if ms.any fun m => held m == some false || (s.rte.fenced m && (held m).isNone) then s.makeDecision false
      else if ms.all fun m => held m == some true then s.makeDecision true
      else s
    | none, none => s

/-- The round opens where it is not open, and a leader decides at once where it can (R322, R325). -/
def State.roundFor (s : State) : State := if s.roundNow.isSome then s else s.needRound.decideRound

/-- Send the chip vote to the chip of a role, or hold it here. -/
def State.sendVote (s : State) (r : Round) (v : Bool) (m : ChipId) (deputy : Bool) : State :=
  if m = s.rte.selfId then s.modRound fun r => r.hold m v else s.sendRound 0x8 m r.step v 0 0 deputy

/-- The chip vote forms once every voter has voted (R322, R323), and goes to leader and deputy (R324). -/
def State.formVote (s : State) : State :=
  match s.stp.round with
  | none => s
  | some r =>
    if r.chipVote.isSome ∨ r.voters = [] ∨ r.voters.any (·.2.isNone) ∨ !s.inBox then s
    else
      let v := r.voters.all (fun x => x.2 == some true) && !s.stp.abort
      let s1 := ({ s with stp := { s.stp with vote := v } } : State).modRound fun r => { r with chipVote := some v }
      let s2 := match s.rte.leader with | some m => s1.sendVote r v m false | none => s1
      let s3 := match s.rte.deputy with | some m => s2.sendVote r v m true | none => s2
      s3.decideRound

/-- A comb's vote enters the round (R192). -/
def State.combVote (s : State) (c : CombId) (v : Bool) : State :=
  (s.modRound fun r =>
    if r.voters.any fun x => x.1 == c then
      { r with voters := r.voters.map fun x => if x.1 = c ∧ x.2 = none then (c, some v) else x }
    else { r with voters := r.voters ++ [(c, some v)] }).formVote

/-- A VOTE reaches a leader or deputy (R322, R325). -/
def State.onVote (s : State) (d : Drop) : State :=
  let mine := s.rte.leader == some s.rte.selfId || s.rte.deputy == some s.rte.selfId
  if syncStep d ≠ s.stp.step then s
  else
    let s1 := if mine then s.needRound else s
    match s1.roundNow with
    | some _ => (s1.modRound fun r => r.hold d.src (syncValue d)).decideRound
    | none => s1

/-- A decision that this chip has applied already: its step is past, or its chime is the last one decided or earlier
(DEDUCED, log entry 42). -/
def State.applied (s : State) (d : Drop) : Bool :=
  decide ((syncStep d).toNat < s.stp.step.toNat) || (s.stp.decideAt != 0 && decide ((syncChime d).toNat ≤ s.stp.decideAt.toNat))

/-- A LODGE reaches the deputy: the decision is stored, unless the chip has applied it, and LODGED answers (R326). -/
def State.onLodge (s : State) (d : Drop) : State :=
  let s1 : State := if s.applied d then s
    else { s with stp := { s.stp with lodged := some ⟨syncStep d, syncValue d, syncChime d, syncDecider d⟩ } }
  s1.sendRound 0xA d.src (syncStep d) (syncValue d) (syncChime d) (syncDecider d) false

/-- A LODGED reaches the decider, which announces (R326). -/
def State.onLodged (s : State) (d : Drop) : State :=
  match s.current s.stp.made with
  | some w =>
    if w.step = syncStep d ∧ s.roundNow.any (·.decision.isSome) = false ∧ s.rte.deputy = some d.src then s.announce w else s
  | none => s

/-- A DECIDE: the first one for STP_STEP is kept, and opens the round where it comes first (R326). -/
def State.onDecide (s : State) (d : Drop) : State :=
  if syncStep d ≠ s.stp.step ∨ s.applied d = true then s else s.holdDecision (syncValue d) (syncChime d)

/-- A LODGE to the deputy in this chip's view is still open, or waits to start. -/
def State.lodging (s : State) : Bool :=
  let heir := fun (m : ChipId) => s.rte.deputy == some m
  (s.fab.open_.any fun x => (match x.key with | .chip m => heir m | _ => false) && (match x.kind with
    | .single d => d.type == 0xC && d.addr % 16 == 9
    | _ => false)) || s.fab.wait.any fun w => heir w.dst && w.ty == 0xC && w.addr % 16 == 9

/-- The fence map changed (R324 to R326): a lodging goes to the new deputy, or the round is decided. -/
def State.roundFenced (s : State) : State :=
  match s.current s.stp.made with
  | some w => if s.roundNow.any (·.decision.isSome) || s.lodging then s else s.lodgeOut w
  | none => s.decideRound

/-- STP_STEP is set by order: an undecided round is over, and with it what was decided for it (R329, R334); a fault after its vote forces the
next vote (R374) (DEDUCED, log entry 42). -/
def State.endRound (s : State) : State :=
  { s with stp := { s.stp with round := none, made := none, lodged := none, abort := s.stp.abort || s.stp.abortNext, abortNext := false } }

/-! ### At chime C (R327, R328) -/

/-- A voter receives the outcome in its register and counter (R192). -/
def State.giveOutcome (s : State) (v : Bool) (c : CombId) : State :=
  match (s.comb c).seq.vote with
  | none => s
  | some (sd, ce, cnt) =>
    let s1 := s.modSeq c fun q => { q with s := q.s.set sd (if v then 1 else 0), vote := none }
    if ce then s1.bump c (cntIx cnt) 1 else s1

/-- The outcome applies at chime C, or at the first chime after it arrived late. -/
def State.applyDecision (s : State) (v : Bool) (c : W64) (r : Round) : State :=
  let p := s.stp
  let s1 : State := { s with stp := { p with
    bank := if v then !p.bank else p.bank
    flips := if v then p.flips + 1 else p.flips
    last := if v then r.step else p.last
    step := if v then r.step + 1 else p.step
    skips := if v then p.skips else p.skips + 1
    late := p.late || r.late
    decision := v, decideAt := c, round := none, made := none, lodged := p.lodged.filter fun w => decide (r.step.toNat < w.step.toNat)
    abort := p.abortNext, abortNext := false } }
  ((r.voters.map (·.1)).foldl (fun (t : State) k => t.giveOutcome v k) s1).notice (.commit r.step v c)

end Sys2Proof.Machine
end

