-- ==== Sys2Proof/Machine/ResetOps.lean ====
section
/-!
DEFINITION. Resets (18 R378 to R381): what a comb, a compute and a core reset leave, their merging, the retirement of a comb (R28, R375),
the comb reset after LOCKSTEP or ISTORE (07 R151) and the entry to FENCED (17 R361, 11 R251).
-/
namespace Sys2Proof.Machine

/-! ### WDN_RSTCAUSE and WDN_FAULT -/

/-- A reset of a kind is recorded (Table 18.11): comb resets count one per comb. -/
def State.noteReset (s : State) (kind cause n : Nat) : State :=
  let r := s.wdn.rstcause
  let r1 := match kind with
    | 1 => satF r 16 16 n
    | 2 => satF r 32 16 n
    | 3 => satF r 48 16 n
    | _ => r
  { s with wdn := { s.wdn with rstcause := setF (setF r1 8 8 cause) 0 3 kind } }

/-- A cause bit of WDN_FAULT is set. -/
def State.faultBit (s : State) (i : Nat) : State := { s with wdn := { s.wdn with fault := setB s.wdn.fault i true } }

/-! ### Comb reset -/

/-- A comb after its reset (Tables 18.6, 18.7): CMB_ registers, MAT_FAULT.COUNT and the hall's records stay. -/
def Comb.afterReset (k : Comb) (keepProg : Bool) : Comb :=
  { seq := { prog := if keepProg then k.seq.prog else none }
    serial := k.serial
    mat := { fault := setF 0 32 16 (getF k.mat.fault 32 16) }
    ecc := k.ecc, eccAddr := k.eccAddr, sweep := k.sweep, energy := k.energy, again := k.again, sweepAt := k.sweepAt
    map := k.map
    testDue := k.testDue || k.testing
    cleanTests := k.cleanTests, seqFaults := k.seqFaults }

/-- What a comb's queues still hold elsewhere ends with them: its collectives and barriers with ABORT 0x02 to their neighbours (Table
12.8), its consignments, and the owners of its seal requests and atomic operations (DEDUCED, log entry 41). -/
def State.cutComb (s : State) (c : CombId) : State :=
  let s1 := (s.col.colls.filter (·.comb == c)).foldl (fun (t : State) k => (t.abortNeighbours k 2).dropColl k) s
  let s2 := (s1.col.bars.filter (·.comb == c)).foldl (fun (t : State) b => (t.abortBar b 2).dropBar b) s1
  let own := fun (o : Option (CombId × Nat)) => match o with | some x => if x.1 = c then none else o | none => o
  { s2 with
    fab := { s2.fab with open_ := s2.fab.open_.filter fun x => x.comb != some c }
    seals := { s2.seals with reqs := s2.seals.reqs.map fun r => { r with owner := own r.owner } }
    mem := { s2.mem with atomics := s2.mem.atomics.map fun x => (x.1, { x.2 with src := own x.2.src }) } }

/-- A voter that had not voted votes 0 (R322). -/
def Round.combGone (r : Round) (c : CombId) : Round :=
  { r with voters := r.voters.map fun v => if v.1 = c ∧ v.2 = none then (c, some false) else v }

/-- The reset of one comb: it enters EMPTY and its store is zeroed (DEDUCED, log entry 41). -/
def State.resetOne (s : State) (c : CombId) (keepProg : Bool) : State :=
  let s1 := (s.cutComb c).modComb c fun k => k.afterReset keepProg
  { s1 with mem := s1.mem.zeroRange (combBase c) 0x03C00000, stp := { s1.stp with round := s1.stp.round.map fun r => r.combGone c } }

/-- A comb takes a map entry. What is counted against a unit starts anew where another physical comb serves now (Table 18.3). -/
def Comb.remapped (k : Comb) (w : W64) : Comb :=
  let same := getF w 0 7 == k.phys
  { k with
    map := w, due := k.due.map fun d => { d with remap := false }
    cleanTests := if same then k.cleanTests else [], seqFaults := if same then k.seqFaults else [] }

/-- Logical combs whose next reset changes the map, in ascending order. -/
def State.remapDue (s : State) : List CombId :=
  (List.finRange 64).filter fun c => match (s.comb c).due with | some d => d.remap | none => false

/-- One of them takes its entry, recorded; without a spare that is recorded, and the entry stays (DESIGN CHOICE, log entry 44). -/
def State.takeMap (s : State) (c : CombId) : State :=
  match s.nextMap c with
  | some w => (s.modComb c fun k => k.remapped w).record (.combMap c)
  | none => s.record (.noSpare c)

/-- The map changes due take effect as their combs are reset (R28, R24) (DESIGN CHOICE, log entry 44). -/
def State.takeMaps (s : State) : State := s.remapDue.foldl State.takeMap s

/-- Wider of two reset kinds: 1 comb, 2 compute, 3 core, 4 full. -/
def wider (a b : BitVec 3) : BitVec 3 := if a.toNat < b.toNat then b else a

/-- State that a comb or compute reset returns to (Table 17.5). -/
def backState (d : DevState) : DevState := match d with | .running | .quiesced => .ready | d => d

/-- A comb or compute reset enters RESETTING, except in FENCED, and merges with one in progress (R361). -/
def State.enterReset (s : State) (kind : BitVec 3) (jobs : List ResetJob) : State :=
  if s.dev.st = .fenced then s
  else match s.dev.reset with
    | some r => { s with dev := { s.dev with reset := some { r with kind := wider r.kind kind, jobs := r.jobs ++ jobs } } }
    | none => ({ s with dev := { s.dev with
        reset := some { kind := kind, back := backState s.dev.st, hold := .none, jobs := jobs } } } : State).setDev .resetting

/-- Combs whose program is to be loaded again once the reset ends. -/
def State.reloads (s : State) : List CombId :=
  (List.finRange 64).filter fun c => (s.comb c).seq.st == .empty && (s.comb c).seq.prog.isSome

/-- Load them again (R28, R151) (DEDUCED, log entry 43). -/
def State.reloadAll (s : State) : State := s.reloads.foldl State.reloadComb s

/-- Comb resets of a set of combs under a cause of Table 18.8 (R380); a class A fault (R373), and a vote of 0 of every voter among them,
with which the chip vote may form (R322). -/
def State.combResets (s : State) (cs : List (CombId × Bool)) (cause : Nat) (jobs : List ResetJob) : State :=
  let s1 := (cs.foldl (fun (t : State) c => t.resetOne c.1 c.2) s).abortStep
  let s2 := (s1.formVote.noteReset 1 cause cs.length).enterReset 1 jobs
  if s2.dev.st = .fenced then s2.reloadAll else s2

/-! ### Compute reset -/

/-- Bulk consignments into comb stores are closed with a notice (R369, Table 17.7). -/
def State.closeBulks (s : State) (p : Bulk → Bool) : State :=
  let gone := s.eth.bulks.filter p
  gone.foldl (fun (t : State) b => t.notice (.bulkLost b.piece.cid))
    { s with eth := { s.eth with bulks := s.eth.bulks.filter fun b => !p b } }

/-- Does a bulk consignment write a comb store? (DEDUCED, log entry 41). -/
def Bulk.toComb (b : Bulk) : Bool := decide (0x010000000000 ≤ b.piece.dest.toNat) && decide (b.piece.dest.toNat < 0x010100000000)

/-- A compute reset: every comb. -/
def State.computeReset (s : State) (cause : Nat) (jobs : List ResetJob) : State :=
  let s1 := ((List.finRange 64).foldl (fun (t : State) c => t.resetOne c false) s.takeMaps).abortStep
  ((s1.formVote.closeBulks Bulk.toComb).noteReset 2 cause 1).enterReset 2 jobs

/-! ### The TAP as the device leaves boot (R418) -/

/-- The instructions that drive the pins (R418). -/
def TapInstr.drives (i : TapInstr) : Bool := match i with | .extest | .extestPulse | .extestTrain => true | _ => false

/-- Test-Logic-Reset. -/
def Tap.reset (t : Tap) : Tap := { t with instr := .idcode, drive := false }

/-- The device leaves WARDEN-UP or CORE-UP while such an instruction is loaded: from now on it is a BYPASS, with one record (R418). -/
def State.freePins (s : State) : State :=
  if TapInstr.drives s.dev.tap.instr then
    ({ s with dev := { s.dev with tap := { s.dev.tap with instr := .bypass, drive := false } } } : State).record .tapBypass
  else s

/-! ### FENCED (R361) -/

/-- Ordered resets that wait for their chime or their end are answered, and are no more (R358) (DESIGN CHOICE, log entry 106). -/
def State.answerJobs (s : State) (r : Result) : State :=
  let jobs := s.dev.jobs ++ (match s.dev.reset with | some x => x.jobs | none => [])
  let s1 := jobs.foldl (fun (t : State) j => t.reply j.hdr 0x21 r .none) s
  { s1 with dev := { s1.dev with jobs := [], reset := s1.dev.reset.map fun x => { x with jobs := [] } } }

/-- PROFILE and FW_SWITCH orders that wait for their chime are answered, and are no more (R358) (DESIGN CHOICE, log entry 106). -/
def State.answerSwitches (s : State) (r : Result) : State :=
  let s1 := s.wdn.profSwitch.foldl (fun (t : State) x => t.reply x.2 0x22 r .none) s
  let s2 := s1.wdn.fwSwitchAt.foldl (fun (t : State) x => t.reply x 0x24 r .none) s1
  { s2 with wdn := { s2.wdn with profSwitch := [], fwSwitchAt := [] } }

/-- On entry to FENCED: orders in execution are answered FENCED, loads leave their combs EMPTY, and every comb is reset
(DEDUCED, log entry 31) (DESIGN CHOICE, log entry 106). -/
def State.enterFenced (s : State) : State :=
  if s.dev.st = .fenced then s
  else
    let s1 := s.eth.bulks.foldl (fun (t : State) b => t.bulkFinal b .fenced b.count) (s.freePins.setDev .fenced)
    let s2 := s1.answerJobs .fenced
    let s3 := s2.wdn.staging.foldl (fun (t : State) x => match x.hdr with
      | some h => if x.verifying then t.reply h 0x23 .fenced .none else t
      | none => t) s2
    let s4 := match s3.chr.clearing with | some (some h, _) => s3.reply h 0x25 .fenced .none | _ => s3
    let s5 := s4.answerSwitches .fenced
    let s6 : State := { s5 with
      eth := { s5.eth with bulks := [], loads := [] }
      dev := { s5.dev with reset := none }
      chr := { s5.chr with clearing := s5.chr.clearing.map fun x => ((none, x.2) : Option OrderHdr × Nat) }
      wdn := { s5.wdn with staging := s5.wdn.staging.map fun x => if x.verifying then { x with hdr := none } else x } }
    s6.computeReset 4 []

/-! ### Retirement (R28, R375) -/

/-- A comb is to take another map entry at the next chime; the cause is that of Table 18.8, 2 after LOCKSTEP or ISTORE and 3 after a
self-test (DESIGN CHOICE, log entry 44). -/
def State.remapAt (s : State) (c : CombId) (cause : BitVec 8) : State :=
  s.modComb c fun k => { k with due := some { cause := cause, reload := true, remap := true } }

/-- Retire the physical comb behind logical comb `c`: a spare takes its place at the next chime
(DESIGN CHOICE, log entry 44). -/
def State.retire (s : State) (c : CombId) (cause : BitVec 8) : State := (s.findCols (s.comb c).phys 0 true).remapAt c cause

/-- Bypass located columns at the next chime; a third one makes the comb failed (R26, R87) (DESIGN CHOICE, log entry 102). -/
def State.bypass (s : State) (c : CombId) (cols : BitVec 32) : State := (s.findCols (s.comb c).phys cols false).remapAt c 3

/-- A LOCKSTEP or ISTORE fault asks for a comb reset with reload at the next chime, and retires the comb where it persists (R151, Table
18.3) (DESIGN CHOICE, log entry 44). -/
def State.seqRetry (s : State) (c : CombId) (istore : Bool) (addr : BitVec 18) : State :=
  let old := (s.comb c).seqFaults
  let near := old.any fun x => decide ((s.chm.n - x.1).toNat < 10000)
  let again := istore && old.any fun x => x.2.1 && x.2.2 == addr
  let s1 := s.modComb c fun k => { k with
    seqFaults := k.seqFaults ++ [(s.chm.n, istore, addr)]
    due := match k.due with | some d => some { d with reload := true } | none => some { cause := 2, reload := true } }
  if near || again then s1.retire c 2 else s1

/-! ### Core reset (Tables 18.6, 18.7, R252, R352) -/

/-- Every open merge slot closes; a loss of supply cuts freely chosen ones short before their parity (R352). -/
def State.closeSlots (s : State) (lost : Bool) : State :=
  (List.finRange 24).foldl (fun (t : State) m => (t.mcs[m].slots.map (·.page)).foldl (fun (u : State) p =>
    if lost then let (w, v) := u.draw; v.closeSlot m p (w.getLsbD 0) else u.closeSlot m p) t) s

/-- Memory after a core reset: comb and square stores zeroed, HBM kept (DESIGN CHOICE, log entry 68). -/
def Mem.coreReset (m : Mem) : Mem :=
  { m with
    bytes := m.bytes.filter fun kv => decide (kv.1 < 0x00F000000000)
    poison := m.poison.filter fun kv => decide (64 * kv.1 < 0x00F000000000)
    upsets := [], atomics := [] }

/-- STATE refusals of the chime that ends go into the chronicle, one record for each code (R360) (DESIGN CHOICE, log entry 60). -/
def State.noteRefused (s : State) : State :=
  s.eth.refused.foldl (fun (t : State) x => t.record (.refusedOrders x.1 x.2)) { s with eth := { s.eth with refused := [] } }

/-- The profile in force as its slot reads now (R397): what an item reads at its next point of Table 19.7. -/
def State.profNow (s : State) : Profile :=
  if h : s.wdn.profNo.toNat < 4 then
    (match s.wdn.profiles[s.wdn.profNo.toNat] with | some bs => Config.parseProfile bs | none => s.wdn.prof)
  else s.wdn.prof

/-- Everything but the warden, the memory controllers and what Table 18.7 keeps goes to its reset state; boot phases 4 to 7 follow
(R387). Orders that wait for a chime are refused with STATE (DESIGN CHOICE, log entry 106). Outputs already sent stay sent
(DESIGN CHOICE, log entry 65); LNK_REPLAY.PEAK counts since the full reset (Table 10.10) (DEDUCED, log entry 105)
(DESIGN CHOICE, log entry 109). -/
def State.coreReset (s0 : State) (cause : Nat) (hold : ResetHold) : State :=
  let s := (((s0.freePins.answerJobs .state).answerSwitches .state).noteRefused.closeSlots (hold == .supply)).setDev .resetting
  let p := s.profNow
  let r : State := {
    pending := s.pending
    dev := { s.dev with jobs := [], stagedWrites := [] }
    combs := Vector.ofFn fun c =>
      let k : Comb := s.combs[c]
      { map := State.identityMap c, energy := k.energy, mat := { fault := setF 0 32 16 (getF k.mat.fault 32 16) }
        testDue := k.testDue || k.testing }
    mem := s.mem.coreReset
    mcs := s.mcs.map fun c => { c with rt := false, rtpc := 0 }
    links := s.links.map fun k => { replay := setF 0 16 16 (getF k.replay 16 16) }
    lnkCfg := p.lnkWord
    lnkUse := p.lnkWord
    chm := { ival := p.ival, local_ := s.chm.local_ }
    eth := { cfg := p.ethWord, seats := s.eth.seats, lost := s.eth.lost ++ s.eth.bulks.map (·.piece.cid)
             replies := s.eth.replies, notices := s.eth.notices, assoc := s.eth.assoc, pn := s.eth.pn }
    wdn := { s.wdn with phase := 4, closed := false, armed := false, fwSwitchAt := [], profSwitch := [], profArm := none, core := p }
    chr := s.chr
    pwr := s.pwr
    free := s.free }
  let t := r.noteReset 3 cause 1
  { t with dev := { t.dev with reset := some { kind := 3, back := .coreUp, hold := hold } } }

end Sys2Proof.Machine
end

