-- ==== Sys2Proof/Machine/ChimeOps.lean ====
section
/-!
DEFINITION. What happens at a chime (13 R292, Table 13.6): table flip (11 R249), commit outcome (15 R327), numbering (12 R257), drain
latches, interval, level (14 R298), quiesce (13 R294), resume, profile and firmware switch (19 R391, R398), comb resets due, and the frames
(07 R145 to R147).
-/
namespace Sys2Proof.Machine

/-! ### Actions 1 to 6 -/

/-- Action 1: an armed flip (R249). -/
def State.flipTables (s : State) (n : W64) : State :=
  if s.rte.flip ≠ 0 ∧ s.rte.flip = n then
    { s with rte := { s.rte with inj := if s.rte.inj = 0 then 1 else 0, flip := 0, released := false, run := false } }
  else s

/-- The decision that chime `n` applies: one whose C has come (R327, R328). -/
def State.commitDue (s : State) (n : W64) : Option (Bool × W64 × Round) :=
  match s.stp.round with
  | some r => (match r.decision with
      | some (v, c) => if c.toNat ≤ n.toNat then some (v, c, r) else none
      | none => none)
  | none => none

/-- Actions 1 to 3: flip, commit outcome, and the restart of numbering after either (R257)
(DEDUCED, log entry 51; DESIGN CHOICE, log entry 52). -/
def State.flipAndCommit (s : State) (n : W64) : State :=
  let flipped := s.rte.flip != 0 && s.rte.flip == n
  let s1 := s.flipTables n
  match s1.commitDue n with
  | some (v, c, r) => (s1.applyDecision v c r).restartNums (if flipped then n else c)
  | none => if flipped then s1.restartNums n else s1

/-- Drops held under a version: in the router, its queues, the early buffer and the replay buffers (R249). -/
def State.heldUnder (s : State) (v : Fin 2) : Nat :=
  let own := fun (d : Drop) => d.ep == v
  (s.rte.drops.filter fun h => own h.drop).length + (s.rte.arrived.filter own).length + (s.fab.early.filter own).length +
    s.links.foldl (fun t k => t + (k.txq.filter own).length + (k.buf.filter fun x => own x.2).length) 0

/-- Action 4: RTE_HELD latched, RTE_DRAIN updated (R249). -/
def State.latchHeld (s : State) (n : W64) : State :=
  let r := s.rte
  let h0 := s.heldUnder 0
  let h1 := s.heldUnder 1
  let zero := (if r.inj = 0 then h1 else h0) == 0
  let r1 := { r with held0 := BitVec.ofNat 32 h0, held1 := BitVec.ofNat 32 h1 }
  { s with rte :=
      if r.released then { r1 with run := true }
      else if zero then { r1 with run := true, zeroSince := if r.run then r.zeroSince else n.setWidth 63 }
      else { r1 with run := false } }

/-- Action 5: an interval change, which moves the next instant (R286, R287), and the pool and spill settings written since the last chime (R270)
(DESIGN CHOICE, log entry 52). -/
def State.settings (s : State) (n : W64) : State :=
  { s with
    chm := if s.chm.pendV ∧ s.chm.pendAt = n then
        { s.chm with ival := s.chm.pendC, pendV := false, nextAt := s.chm.nextAt - s.chm.ival.toNat + s.chm.pendC.toNat }
      else s.chm
    col := { s.col with
      cfg := s.col.cfgNext.getD s.col.cfg, spill := s.col.spillNext.getD s.col.spill, cfgNext := none, spillNext := none } }

/-- Action 6: the reproducibility level (R298); NONSTRICT shows a chime at which the level in force is not 0 (Table 14.8). -/
def State.levelChange (s : State) (n : W64) : State :=
  let x := s.seals
  let x1 := if x.at_ ≠ 0 ∧ x.at_ = n then { x with level := x.pend, at_ := 0 } else x
  { s with seals := if x1.level = 0 then x1 else { x1 with status := setB x1.status 1 true } }

/-! ### Quiesce (R294) -/

/-- No admitted coll and no bar is open (R275). -/
def State.collIdle (s : State) : Bool := !(s.col.colls.any (·.admitted)) && !s.col.bars.any (·.started)

/-- Admission resumes, and waiting bars start (DEDUCED, log entry 53). -/
def State.admitAgain (s : State) : State := ({ s with col := { s.col with noAdmit := false } } : State).pumpAllBars

/-- A decision on the vote for chime `v` reaches this chip (DEDUCED, log entry 53). -/
def State.quiesceDecided (s : State) (v : W64) (go : Bool) : State :=
  if s.chm.qVoted ≠ some v then s
  else if go then { s with chm := { s.chm with qVoted := none, qGo := some (v + 1) } }
  else (({ s with chm := { s.chm with qVoted := none } } : State).notice (.quiesce v true)).admitAgain

/-- A QVOTE or QDECIDE drop (Table 13.7). -/
def State.sendQuiesce (s : State) (kind : Nat) (dst : ChipId) (v : W64) (x : Bool) : State :=
  s.sendSingle 0xC 0 s.rte.inj dst kind (leBytes 8 v.toNat ++ leBytes 1 x.toNat) none false

/-- Votes held for chime `v` (R294). -/
def Chm.votesFor (t : Chm) (v : W64) : List (W64 × ChipId × Bool) := t.qVotes.filter (·.1 == v)

/-- The leader's decision for chime `v` goes to every chip that votes (DEDUCED, log entry 53). -/
def State.tellQuiesce (s : State) (v : W64) (go : Bool) : State :=
  let chips := (s.rte.liveBox.map (s.rte.physOf s.rte.inj) ++ (s.chm.votesFor v).map (·.2.1)).eraseDups.filter (· != s.rte.selfId)
  (chips.foldl (fun (t : State) k => t.sendQuiesce 2 k v go)
    { s with chm := { s.chm with qTold := s.chm.qTold ++ [v] } }).quiesceDecided v go

/-- Every unfenced member has voted 1 for chime `v`. -/
def State.quiesceReady (s : State) (v : W64) : Bool :=
  (s.rte.liveBox.map (s.rte.physOf s.rte.inj)).all fun k => (s.chm.votesFor v).any fun y => y.2.1 == k && y.2.2

/-- An unfenced member has voted 0 for chime `v`. -/
def State.quiesceBarred (s : State) (v : W64) : Bool :=
  (s.rte.liveBox.map (s.rte.physOf s.rte.inj)).any fun k => (s.chm.votesFor v).any fun y => y.2.1 == k && !y.2.2

/-- The leader decides chime `v` where the votes it holds tell: a 1 from every unfenced member, or a 0 from one
(DEDUCED, log entry 53). -/
def State.quiesceTry (s : State) (v : W64) : State :=
  if s.rte.leader ≠ some s.rte.selfId ∨ s.chm.qTold.contains v then s
  else if s.quiesceReady v then s.tellQuiesce v true
  else if s.quiesceBarred v then s.tellQuiesce v false
  else s

/-- The leader holds a vote for chime `v`; the first of a chip stands. -/
def State.holdQuiesce (s : State) (v : W64) (m : ChipId) (x : Bool) : State :=
  if s.rte.leader ≠ some s.rte.selfId ∨ (s.chm.votesFor v).any (fun y => y.2.1 == m) then s
  else ({ s with chm := { s.chm with qVotes := s.chm.qVotes ++ [(v, m, x)] } } : State).quiesceTry v

/-- The fence map changed: votes held may tell now. -/
def State.quiesceFenced (s : State) : State := ((s.chm.qVotes.map (·.1)).eraseDups).foldl State.quiesceTry s

/-- A vote that is missing as the next chime comes defers: the leader says so (R294) (DEDUCED, log entry 53). -/
def State.quiesceLate (s : State) (n : W64) : State :=
  ((s.chm.qVotes.map (·.1)).eraseDups).foldl (fun (t : State) v =>
    if v.toNat < n.toNat ∧ t.rte.leader = some t.rte.selfId ∧ ¬ t.chm.qTold.contains v then t.tellQuiesce v false else t) s

/-- The chip votes at chime `v`: 1 where no coll or bar is open, and then admission stops (DEDUCED, log entry 53). -/
def State.quiesceVote (s : State) (v : W64) : State :=
  let x := s.collIdle
  let s1 : State := { s with chm := { s.chm with qVoted := some v }, col := { s.col with noAdmit := x } }
  match s.rte.leader with
  | some m => if m = s.rte.selfId then s1.holdQuiesce v m x else s1.sendQuiesce 1 m v x
  | none => s1

/-- Action 7, first part: the quiesce decided for `n`; else a vote without a decision counts as DEFER, and the chip votes again. The Boolean
tells that the device quiesced at `n` (DESIGN CHOICE, log entry 52). -/
def State.quiesceChime (s : State) (n : W64) : State × Bool :=
  let u := s.quiesceLate n
  let old : State := { u with chm := { u.chm with
    qVotes := u.chm.qVotes.filter fun y => decide (n.toNat ≤ y.1.toNat + 1), qTold := u.chm.qTold.filter fun v => decide (n.toNat ≤ v.toNat + 1) } }
  let up := s.dev.st == .ready || s.dev.st == .running
  if s.chm.qGo = some n ∧ up = true then
    let s1 : State := { old with chm := { old.chm with qGo := none, qReq := none, qVoted := none } }
    (((s1.setDev DevState.quiesced).notice (.quiesce n false) : State), true)
  else
    let s1 := match old.chm.qVoted with
      | some v => if v.toNat < n.toNat then old.quiesceDecided v false else old
      | none => old
    (match s.chm.qReq with
      | some q => if up ∧ q.toNat ≤ n.toNat then (s1.quiesceVote n, false) else (s1, false)
      | none => (s1, false))

/-! ### Resume and switches -/

/-- Profile slot `k` comes into force (R398, R410); its items apply at the points of Table 19.7 (DESIGN CHOICE, log entry 58). -/
def State.takeProfile (s : State) (k : Fin 4) : State :=
  match s.wdn.profiles[k] with
  | some bs =>
    let p := Config.parseProfile bs
    let w := { s.wdn with profNo := BitVec.ofNat 3 k.val, prof := p }
    { s with wdn := w, eth := { s.eth with assoc := w.associations } }
  | none => s

/-- Other bank's index. -/
def bankIx (b : Bool) : Fin 2 := if b then 1 else 0

/-- RAISE flag of an image header (Table 19.3). -/
def FwBank.raise (b : FwBank) : Bool := leNat ((b.bytes.drop 6).take 1) % 2 == 1

/-- The firmware switch (R391): the boot record names the other bank. -/
def State.switchFirmware (s : State) : State :=
  let b := s.wdn.banks[bankIx (!s.wdn.bank)]
  let w := { s.wdn with
    staged := false, armed := false, fwSwitchAt := []
    bootRec := s.wdn.bootRec.write (!s.wdn.bank, if b.raise then BitVec.ofNat 32 (max b.svn s.wdn.svnMin.toNat) else s.wdn.svnMin) }
  ({ s with wdn := w } : State).record .fwSwitch

/-- RESUME (R147, Table 17.5): RUNNING, or READY where no comb is in HOLD. A device that a reset has taken out of QUIESCED keeps its state;
its combs in HOLD go on all the same (DESIGN CHOICE, log entry 52). -/
def State.resumeNow (s : State) : State :=
  let held := s.combs.toList.any fun k => k.seq.st == .hold
  let s1 : State := { s with chm := { s.chm with resumeAt := none } }
  (if s.dev.st = .quiesced then s1.setDev (if held then .running else .ready) else s1).admitAgain

/-- Action 7 after the quiesce: resume, profile switch, firmware switch. A resume due at the chime of a firmware switch or of a new quiesce
waits for the next chime (R391, R147) (DESIGN CHOICE, log entry 52). -/
def State.switches (s : State) (n : W64) (quiesced : Bool) : State :=
  let fw := (!s.wdn.fwSwitchAt.isEmpty || (quiesced && s.wdn.armed)) && s.wdn.staged
  let s1 := match s.chm.resumeAt with
    | some r => if r.toNat ≤ n.toNat ∧ ¬ fw ∧ ¬ quiesced then s.resumeNow else s
    | none => s
  let s2 := s1.wdn.profSwitch.foldl (fun (t : State) x => (t.takeProfile x.1).reply x.2 0x22 .ok .none)
    { s1 with wdn := { s1.wdn with profSwitch := [] } }
  let s3 := match s2.wdn.profArm, quiesced with
    | some k, true => ({ s2 with wdn := { s2.wdn with profArm := none } } : State).takeProfile k
    | _, _ => s2
  if !fw then s3
  else match s3.wdn.fwSwitchAt with
    | h :: l => l.foldl (fun (t : State) x => t.reply x 0x24 .range .none) (s3.switchFirmware.reply h 0x24 .ok .none)
    | [] => s3.switchFirmware

/-! ### Resets and tests due -/

/-- Combs whose reset falls due, with a cause of Table 18.8. -/
def State.dueCombs (s : State) (cause : BitVec 8) : List (CombId × Bool) :=
  (List.finRange 64).filterMap fun c => match (s.comb c).due with
    | some d => if d.cause = cause then some (c, d.reload) else none
    | none => none

/-- Comb resets of LOCKSTEP, ISTORE and map changes (R151, R28); where a comb failed and no spare is free for it, the hall fences the chip
instead (DESIGN CHOICE, log entry 52). -/
def State.dueResets (s : State) : State :=
  let t := s.takeMaps
  if t.remapDue.isEmpty then
    let a := t.dueCombs 2
    let s1 := if a.isEmpty then t else t.combResets a 2 []
    let b := s1.dueCombs 3
    if b.isEmpty then s1 else s1.combResets b 3 []
  else (t.modCombs fun _ k => { k with due := none }).enterFenced

/-- Combs of a mask. -/
def maskCombs (m : W64) : List CombId := (List.finRange 64).filter fun c => m.getLsbD c.val

/-- One ordered comb or compute reset acts (R381). In FENCED it ends at once, and its reply goes out. -/
def State.runJob (s : State) (j : ResetJob) : State :=
  let s1 := if j.compute then s.computeReset 1 [j] else s.combResets ((maskCombs j.combs).map fun c => (c, false)) 1 [j]
  if s.dev.st = .fenced then s1.reply j.hdr 0x21 .ok .none else s1

/-- Ordered resets whose chime has come (DEDUCED, log entry 43). -/
def State.jobResets (s : State) (n : W64) : State :=
  let due := s.dev.jobs.filter fun j => decide (j.chime.toNat ≤ n.toNat)
  due.foldl State.runJob { s with dev := { s.dev with jobs := s.dev.jobs.filter fun j => !decide (j.chime.toNat ≤ n.toNat) } }

/-- Self-tests due after a mismatch begin (R87). -/
def State.beginTests (s : State) : State :=
  s.modCombs fun _ k => if k.testDue && !k.testing then { k with testDue := false, testing := true } else k

/-! ### Frames (action 8) -/

/-- The next frame begins. -/
def Seq.nextFrame (q : Seq) (n : W64) (t : Nat) : Seq :=
  { q with st := .running, stall := .none, frame := wrapF q.frame 32 32 1, frameN := n, frameT := t, framed := false }

/-- The first frame of a started program. -/
def Seq.firstFrame (q : Seq) (n : W64) (t : Nat) : Seq :=
  { q with st := .running, stall := .none, startAt := none, frameN := n, frameT := t, framed := false }

/-- One comb at a chime (R145 to R147, R150, R155): `hold` tells that the device has quiesced, `resumed` that a resume takes effect. A comb
whose frame instruction has not issued overruns, whatever it is stalled on; one that drains after a fault issues nothing in the next frame
(DESIGN CHOICE, log entry 52). -/
def State.combChime (s : State) (n : W64) (t : Nat) (hold resumed : Bool) (c : CombId) : State :=
  let q := (s.comb c).seq
  match q.st with
  | .armed => if (q.startAt.getD 0).toNat ≤ n.toNat then s.modSeq c fun q => q.firstFrame n t else s
  | .hold => if resumed && q.stall != .faulting then s.modSeq c fun q => q.nextFrame n t else s
  | .running | .waiting | .chimeWait =>
    if !q.framed then s.fault c 0x0A q.pc.toNat 0
    else if q.stall = .faulting then s.modSeq c fun q => { q with framed := false }
    else if hold then s.modSeq c fun q => { q with st := .hold }
    else s.modSeq c fun q => q.nextFrame n t
  | _ => s

/-- Action 8 on every comb. -/
def State.frames (s : State) (n : W64) (t : Nat) (hold resumed : Bool) : State :=
  ((List.finRange 64).foldl (fun (u : State) c => u.combChime n t hold resumed c) s).refresh

/-! ### The rest of a chime -/

/-! ### Copies of a chime (R288, R289) -/

/-- Instant of the last chime. -/
def Chm.lastAt (t : Chm) : Nat := t.nextAt - t.ival.toNat

/-- Chimes from chime `k` to the last one; negative for one still to come. -/
def Chm.since (t : Chm) (k : W64) : Int := (t.n - k).toInt

/-- Chimes for which a chip knows what it has forwarded (DESIGN CHOICE, log entry 55). -/
def fwdSpan : Int := 64

/-- The offset e of a copy, in 1/64 cycle (R289) (DESIGN CHOICE, log entry 55). -/
def Chm.offsetOf (t : Chm) (l : LinkId) (x : ChimeSym) (stamp : BitVec 70) : Int :=
  let at_ := if x.n = t.n then t.lastAt else t.instant x.n
  (stamp.toNat : Int) - ((at_ * 64 + x.launch.toNat + (t.link[l]).toNat : Nat) : Int)

/-- The copies kept once `x` with offset `e` has come: the one of lowest HOPS of each chime whose end is still to come
(DESIGN CHOICE, log entry 55). -/
def Chm.keepCopy (t : Chm) (x : ChimeSym) (e : Int) : List (ChimeSym × Int) :=
  if 0 < t.since x.n then t.copies
  else match t.copies.find? (·.1.n == x.n) with
    | some y => if x.hops.toNat < y.1.hops.toNat then t.copies.filter (·.1.n != x.n) ++ [(x, e)] else t.copies
    | none => t.copies ++ [(x, e)]

/-- The copy that the chip uses for the chime that ends; a root uses none (DESIGN CHOICE, log entry 55). -/
def Chm.copyNow (t : Chm) : Option (ChimeSym × Int) := if t.isRoot then none else t.copies.find? (·.1.n == t.n)

/-- The sign of a number. -/
def signOf (e : Int) : Int := if 0 < e then 1 else if e < 0 then -1 else 0

/-- The time base moved by some 1/64 cycles. -/
def Chm.slew (t : Chm) (by_ : Int) : Chm :=
  let v := (((t.tb * 64 + t.frac : Nat) : Int) + by_).toNat
  { t with tb := v / 64, frac := v % 64 }

/-- A copy with offset e is used (R287, R289): the time base moves against e, and HOPS, the pending interval, root and deputy are taken
from it (DESIGN CHOICE, log entry 55). -/
def Chm.useCopy (t : Chm) (x : ChimeSym) (me : Option ChipId) (e : Int) : Chm :=
  let pend := x.pend ≠ 0 ∧ t.n.toNat < x.pendAt.toNat
  { t.slew (-signOf e) with
    hops := x.hops
    offset := BitVec.ofInt 8 (max (-127) (min 127 e))
    drift := t.drift || decide (64 < e.natAbs), syncloss := t.syncloss || decide (128 < e.natAbs)
    orphan := false, elected := x.root, deputy := x.deputy, isDeputy := some x.deputy == me
    pendV := if pend then true else t.pendV
    pendC := if pend then x.pend.setWidth 26 else t.pendC
    pendAt := if pend then x.pendAt else t.pendAt }

/-- Synchronism is lost at this chime: the hall reports a clock-monitor fault, with a notice where SYNCLOSS was not set yet, and the step aborts
(R289, R373) (DEDUCED, log entry 56). -/
def State.lostSync (s : State) (first : Bool) : State :=
  let s1 := s.faultBit 4
  (if first then s1.notice (.fault 8 2 (s.chm.offset.toNat)) else s1).abortStep

/-- Before T_(n+1) the chip uses the copy of lowest HOPS that it has of chime n (R289)
(DESIGN CHOICE, log entry 55; DEDUCED, log entry 56). -/
def State.useHeard (s : State) : State :=
  match s.chm.copyNow with
  | none => s
  | some (x, e) =>
    let s1 : State := { s with chm := s.chm.useCopy x s.rte.named e }
    if 128 < e.natAbs then s1.lostSync (!s.chm.syncloss) else s1

/-- The time base passes T_n: number, the instant of the next chime under the interval in force so far (R286), and what the last chime left: a copy missed, SYNCLOSS still set (R289, R290, R380). -/
def Chm.pass (t : Chm) : Chm :=
  let missed := t.copyNow.isNone && !t.isRoot && t.n != BitVec.allOnes 64
  { t with
    n := t.n + 1, nextAt := t.nextAt + t.ival.toNat
    copies := t.copies.filter fun y => decide (t.since y.1.n < 0), fwd := t.fwd.filter fun k => decide (t.since k + 1 < fwdSpan)
    silent := if missed then t.silent + 1 else 0
    lossRun := if t.syncloss then t.lossRun + 1 else 0 }

/-- Links that carry CHIME and MUSTER symbols in service (R288) (DESIGN CHOICE, log entry 52). -/
def State.chimeLinks (s : State) : List LinkId :=
  (List.finRange 24).filter fun l =>
    let k : Link := s.links[l]
    (k.st == .active || k.st == .notice) && !k.chimex

/-- A symbol goes out on a link. -/
def State.emit (s : State) (l : LinkId) (x : SymOut) : State := s.modLink l fun k => { k with symOut := k.symOut ++ [x] }

/-- CHIME of this chip on the given links (Table 13.4); the launch delay is a free value. -/
def State.sendChime (s : State) (ls : List LinkId) (hops : BitVec 8) (root : ChipId) : State :=
  ls.foldl (fun (t : State) l =>
    let (w, u) := t.draw
    u.emit l (.chime { launch := w.setWidth 16, hops := hops, root := root, n := s.chm.n, base := s.chm.base, ival := s.chm.ival.setWidth 32
                       pend := if s.chm.pendV then s.chm.pendC.setWidth 32 else 0, pendAt := s.chm.pendAt, deputy := s.chm.deputy })) s

/-- A mustered chip becomes READY at the first chime at least 1 ms after its time base was set (R283); its links enter service. -/
def State.readyNow (s : State) (t : Nat) : State :=
  if s.dev.st = .muster ∧ s.chm.phase = 6 ∧ s.chm.tbSetAt + 3600000 ≤ t then
    (({ s with chm := { s.chm with phase := 7 } } : State).linksBack false).setDev .ready
  else s

/-- A chime notice every ETH_NOTIFY.EVERY chimes (Table 17.7) (DEDUCED, log entry 54). -/
def State.chimeNotice (s : State) (n : W64) (t : Nat) : State :=
  let every := getF s.eth.notify 32 16
  if every ≠ 0 ∧ n.toNat % every = 0 then s.notice (.chime n t) else s

/-- The muster is not over: the device is in MUSTER, or a comb reset took it from there. -/
def State.mustering (s : State) : Bool :=
  s.dev.st == .muster || (s.dev.st == .resetting && match s.dev.reset with | some r => r.back == .muster | none => false)

/-- Chime n at its instant `t` (Table 13.6) (DESIGN CHOICE, log entry 52). -/
def State.atChime (s : State) (n : W64) (t : Nat) : State :=
  let s1 := (if s.mustering then s else s.linksBack true).pumpWait
  let s2 := (((s1.flipAndCommit n).latchHeld n).settings n).levelChange n
  let q := s2.quiesceChime n
  let w := q.1.switches n q.2
  let s3 := (w.dueResets.jobResets n).beginTests
  let s4 := (s3.readyNow t).frames n t (q.2 || w.dev.st == .quiesced) (q.1.chm.resumeAt.isSome && w.chm.resumeAt.isNone)
  let s5 := { s4 with rte := { s4.rte with noroute := [] } }
  let s6 := s5.chimeNotice n t
  if s6.chm.isRoot then s6.sendChime s6.chimeLinks (BitVec.ofNat 8 (min 255 (s6.chm.hops.toNat + 1))) s6.rte.selfId else s6

/-- The next chime of a running time base (DESIGN CHOICE, log entry 4) (DESIGN CHOICE, log entry 52). -/
def State.nextChime (s : State) : State :=
  if !s.chm.running then s
  else
    let t := s.chm.nextAt
    let s1 := (s.useHeard.until t).noteRefused
    (({ s1 with chm := s1.chm.pass } : State).atChime (s.chm.n + 1) t).until (t + 32)

end Sys2Proof.Machine
end

