-- ==== Sys2Proof/Machine/Chime.lean ====
section
/-!
DEFINITION. Meanings of the chime and of the end of an array self-test (13 R292, 04 R87).
-/
namespace Sys2Proof.Machine

/-- CHIME (R286, R292). -/
def execChime (s : State) : Out := .next s.nextChime

/-- Three clean self-tests within 10,000 chimes after mismatches retire the comb (Table 18.3). -/
def Comb.persists (k : Comb) (n : W64) : Bool :=
  decide (3 ≤ (k.cleanTests.filter fun x => decide ((n - x).toNat < 10000)).length)

/-- ARRAY_SELFTEST_DONE (R87) (DESIGN CHOICE, log entry 102). -/
def execArraySelftestDone (c : CombId) (x : SelftestResult) (s : State) : Out :=
  .next (
    if !(s.comb c).testing then s
    else
      let ended := fun (r : W64) => s.modComb c fun k => { k with testing := false, mat := { k.mat with selftest := r } }
      match x with
      | .interrupted => s.modComb c fun k => { k with testing := false, testDue := true }
      | .noFault =>
        let s1 := (ended (pack [(34, 1)])).modComb c fun k => { k with cleanTests := k.cleanTests ++ [s.chm.n] }
        if (s1.comb c).persists s.chm.n then s1.retire c 3 else s1
      | .columns cols => (ended (pack [(34, 2), (0, cols.toNat)])).bypass c cols
      | .failed => (ended (pack [(34, 3)])).retire c 3)

end Sys2Proof.Machine
end

