-- ==== Sys2Proof/Machine/Drops.lean ====
section
/-!
DEFINITION. Meanings of the drops of consignments (11 R232 to R236, R241, R251; 09 R201) as they leave the router, and of a sender's
timeout.
-/
namespace Sys2Proof.Machine

/-- A delivered drop of one type is taken, then acted on. -/
def State.onDrop (s : State) (d : Drop) (ty : Nat) (f : State → State) : State :=
  if s.rte.arrived.contains d && d.type == ty then f (s.taken d) else s

/-- A multicast drop that the router still holds is replicated (R241). -/
def State.replicate (s : State) (d : Drop) (ty : Nat) : State :=
  if d.type = ty then
    match s.rte.drops.findIdx? fun h => h.drop == d with
    | some i => s.routeAt i
    | none => s
  else s

/-! ### Answers at the sender -/

/-- The first consignment that a FENCED drop ends: one to the fenced chip itself, else a multicast with it as a member (R251)
(DEDUCED, log entry 36). -/
def State.fencedCons (s : State) (d : Drop) : Option Cons := s.fab.consFor (BitVec.ofNat 18 d.addr) d.cid

/-- A round or quiesce vote whose consignment ended fenced goes to the chip that holds the role now (R294, R324): `deputy` is the role of
the VOTE. -/
def State.voteAgain (s : State) (d : Drop) (deputy : Bool) : State :=
  if d.type ≠ 0xC then s
  else if d.addr % 16 = 1 then
    (match s.rte.leader with
      | some m =>
        if m = s.rte.selfId then s.holdQuiesce (syncStep d) m (syncValue d) else s.sendSingle 0xC 0 s.rte.inj m d.addr d.payload none false
      | none => s)
  else if d.addr % 16 = 8 then
    (match if deputy then s.rte.deputy else s.rte.leader, s.stp.round with
      | some m, some r => if r.step = syncStep d then (s.sendVote r (syncValue d) m deputy).decideRound else s
      | _, _ => s)
  else s.roundFenced

/-- A consignment ends as fenced toward a member (R201, R251). -/
def State.consFenced (s : State) (x : Cons) (m : ChipId) : State :=
  let s1 := s.memberDone x m true
  match x.comb, x.kind with
  | none, .single d => s1.voteAgain d x.deputy
  | _, _ => s1

/-- A whole consignment ends with an error completion (R201, R236): REMOTE on its comb, or on the comb of the collective it serves. -/
def State.consFailed (s : State) (x : Cons) : State :=
  let s1 := s.dropCons x
  match x.comb, x.e, x.coll with
  | some c, some e, _ => (s1.crrError c).fabRemote c e
  | _, _, some key =>
    (match s1.col.colls.find? (·.key == key), s1.col.bars.find? (·.key == key) with
      | some k, _ => (s1.crrError k.comb).failColl k
      | none, some b => (s1.crrError b.comb).failBar b
      | none, none => s1)
  | _, _, _ => s1

/-- An ERROR drop of member `m` (R201). -/
def State.consError (s : State) (x : Cons) (m : ChipId) : State :=
  match x.comb, x.e with
  | some c, some e => s.memberFailed x m c e
  | _, _ => s.consFailed x

/-- An ACK of `b` from a member (R233) (DEDUCED, log entry 36). -/
def State.consAck (s : State) (x : Cons) (m : ChipId) (b : Nat) : State :=
  let up := fun (r : ChipId × Nat) => if r.1 = m then (r.1, max r.2 b) else r
  let x1 := { x with members := x.members.map up }
  s.pumpCons { x1 with timeouts := if x1.members = x.members then x.timeouts else 0 }

/-! ### The commands -/

/-- DATA (R233). -/
def execData (d : Drop) (s : State) : Out := .next (if s.heldByReset d then s else s.onDrop d 1 fun t => t.onData d)

/-- MANIFEST (R232). -/
def execManifest (d : Drop) (s : State) : Out := .next (if s.manifestHeld d then s else s.onDrop d 2 fun t => t.onManifest d)

/-- MDATA (R241): delivered here, or replicated where the router still holds it. -/
def execMdata (d : Drop) (s : State) : Out :=
  .next (
    if s.rte.arrived.contains d then (if s.heldByReset d then s else s.onDrop d 3 fun t => t.onData d) else s.replicate d 3)

/-- MMANIFEST (R241). -/
def execMmanifest (d : Drop) (s : State) : Out :=
  .next (if s.rte.arrived.contains d then (if s.manifestHeld d then s else s.onDrop d 4 fun t => t.onManifest d) else s.replicate d 4)

/-- GETREQ (R235). -/
def execGetreq (d : Drop) (s : State) : Out := .next (if s.getreqHeld d then s else s.onDrop d 5 fun t => t.onGetreq d)

/-- RDATA (R235). -/
def execRdata (d : Drop) (s : State) : Out := .next (s.onDrop d 6 fun t => t.onRdata d)

/-- ACK (R233): the sender's window advances. -/
def execAck (d : Drop) (s : State) : Out :=
  .next (s.onDrop d 7 fun t =>
    match t.fab.consFor d.src d.cid with
    | some x => t.consAck x d.src d.addr
    | none => t)

/-- DONE (R201): a member is done. -/
def execDone (d : Drop) (s : State) : Out :=
  .next (s.onDrop d 8 fun t =>
    match t.fab.consFor d.src d.cid with
    | some x => t.memberDone x d.src false
    | none => t)

/-- ERROR (R201): REMOTE on the sending comb. -/
def execError (d : Drop) (s : State) : Out :=
  .next (s.onDrop d 9 fun t =>
    match t.fab.consFor d.src d.cid with
    | some x => t.consError x d.src
    | none => t)

/-- FENCED (R251): the first one ends the consignment to the fenced chip. -/
def execFenced (d : Drop) (s : State) : Out :=
  .next (s.onDrop d 0xA fun t =>
    match t.fencedCons d with
    | some x => t.consFenced x (BitVec.ofNat 18 d.addr)
    | none => t)

/-- RETX_TIMEOUT (R236): LIMIT resends without an advance (0 is taken as 1, Table 11.12), then the local error completion
(DESIGN CHOICE, log entry 4; DESIGN CHOICE, log entry 73). -/
def execRetxTimeout (k : PeerKey) (cid : BitVec 13) (s : State) : Out :=
  .next (
    match s.fab.open_.find? fun x => x.key == k && x.cid == cid with
    | none => s
    | some x =>
      if x.timeouts < max 1 (getF s.rte.retx 20 4) then
        ({ s with rte := { s.rte with retx := wrapF s.rte.retx 32 32 1 } } : State).resendCons { x with timeouts := x.timeouts + 1 }
      else s.consFailed x)

end Sys2Proof.Machine
end

