-- ==== Sys2Proof/Machine/Collective.lean ====
section
/-!
DEFINITION. Meanings of the commands of collectives and barriers (12): admission, the six kinds of COLL drop, the release of a barrier
and the completion of a coll.
-/
namespace Sys2Proof.Machine

/-- COLL_ADMISSION (R268): the head of the admission queue is admitted when it stands at the head of its comb's fabric queue and its
banks, or spill space, are free. -/
def execCollAdmission (s : State) : Out :=
  .next (
    match s.col.queue.head?.bind fun key => s.col.colls.find? (·.key == key) with
    | none => s
    | some k =>
      let x := k.args
      let kb := collBanks x.op x.a
      let start := fun (o : Option (List Nat)) => (s.startColl k o).pumpBars k.comb 17
      if s.col.noAdmit ∨ (s.comb k.comb).seq.qFab.head? ≠ some k.e then s
      else if kb ≤ 16 * s.pool - s.col.used then start none
      else if collWide x.op x.rf ∧ getF s.col.cfg 16 1 = 1 then
        (match s.spillRoom kb with
          | some o => start (some o)
          | none => s)
      else s)

/-! ### Arriving drops -/

/-- A one-drop COLL consignment of a kind: taken, answered, and acted on where it is new (R276) (DESIGN CHOICE, log entry 47). -/
def State.onColl (s : State) (d : Drop) (kind : Nat) (f : State → State) : State :=
  if collKind d = kind then
    s.onDrop d 0xB fun t => let r := t.rxSingle d; if r.2 then f r.1 else r.1
  else s

/-- Keep a drop in the transit staging bank. -/
def State.stage (s : State) (d : Drop) : State := { s with col := { s.col with staged := s.col.staged ++ [d] } }

/-- SIGN (R258, R259). -/
def execSign (d : Drop) (s : State) : Out :=
  .next (s.onColl d 1 fun t =>
    let key := dropKey d (signEra d)
    match t.col.colls.find? (·.key == key) with
    | some k => t.matchSign k d
    | none =>
      if t.col.issuedColl key then t
      else if t.col.era.toNat ≤ key.era.toNat then t.stage d
      else t.eraMismatch d key)

/-- GRANT (R276): it names the oldest open coll of its group and number. -/
def execGrant (d : Drop) (s : State) : Out :=
  .next (s.onColl d 2 fun t =>
    match t.col.colls.find? fun k => dropKey d k.key.era == k.key with
    | some k => t.takeGrant k d
    | none => if t.col.issuedColl (dropKey d t.col.era) then t else t.stage d)

/-- ABORT (R258, R421): it ends the open coll or bar that it names, forwarded once; where neither numbering has issued that number it is held
until one does (DESIGN CHOICE, log entry 48). -/
def execAbort (d : Drop) (s : State) : Out :=
  .next (s.onColl d 4 fun t =>
    let key := dropKey d (abortEra d)
    let k? := t.col.colls.find? (·.key == key)
    let b? := t.col.bars.find? (·.key == barKey d (abortEra d))
    if k?.isSome ∨ b?.isSome then
      let t1 := match k? with | some k => (t.abortNeighbours k (abortCode d)).failColl k | none => t
      match b? with | some b => (t1.abortBar b (abortCode d)).failBar b | none => t1
    else if t.col.issuedColl key ∨ t.col.issuedBar key ∨ key.era.toNat < t.col.era.toNat then t
    else t.stage d)

/-- ARRIVE (R259, R271). -/
def execArrive (d : Drop) (s : State) : Out :=
  .next (s.onColl d 5 fun t =>
    let key := barKey d (arriveEra d)
    match t.col.bars.find? (·.key == key) with
    | some b => (match memberOf b.phys d.src with
        | some m => t.barAdvance { b with arrived := b.arrived ++ [m] }
        | none => t)
    | none =>
      if t.col.issuedBar key then t
      else if t.col.era.toNat ≤ key.era.toNat then t.stage d
      else t.eraMismatch d key)

/-- A barrier releases here: its counter moves, and the bars behind it may start (DESIGN CHOICE, log entry 47). -/
def State.releaseBar (s : State) (b : BarInst) : State := ((s.dropBar b).fabDone b.comb b.e).pumpBars b.comb 17

/-- RELEASE (R272): forwarded to the children; a late one releases at once. -/
def execRelease (d : Drop) (s : State) : Out :=
  .next (s.onColl d 6 fun t =>
    match t.col.bars.find? fun b => barKey d b.key.era == b.key with
    | some b =>
      let w : W64 := BitVec.ofNat 64 (leNat (d.payload.take 8))
      let t1 := t.sendRelease b w
      if t.chm.tb ≤ w.toNat then t1.putBar { b with trel := some w } else (t1.colBit 3).releaseBar b
    | none => t)

/-- BARRIER_RELEASE (R295): at T_rel + 32, at the comb cycle that begins there. -/
def execBarrierRelease (g : BitVec 8) (s : State) : Out :=
  .next (
    match s.col.bars.find? fun b => b.key.group == g && b.trel.isSome with
    | some b => (s.until ((b.trel.getD 0).toNat + 32 + (b.trel.getD 0).toNat % 2)).releaseBar b
    | none => s)

/-! ### Data (R265, R276) -/

/-- Spill address of an item: its 8 bytes within the claim's MiB, round and round (DESIGN CHOICE, log entry 16). -/
def State.spillAddr (s : State) (k : CollInst) (os : List Nat) (i : Nat) : Nat :=
  let j := i % max 1 (k.banks * 131072)
  getF s.col.spill 0 48 + os.getD (j / 131072) 0 * 2 ^ 20 + j % 131072 * 8

/-- Phase sums in the spill region (R268): the bytes that the partial sums leave there are open
(DESIGN CHOICE, log entry 6; DESIGN CHOICE, log entry 50). -/
def State.spillSums (s : State) (k : CollInst) (its : List Nat) (ovf : Nat) : State :=
  match k.spill with
  | none => s
  | some o =>
    let s1 := its.foldl (fun (t : State) i =>
      let (w, t1) := t.draw
      t1.store (s.spillAddr k o i) (leBytes 8 w.toNat) false) s
    match s.region (s.spillAddr k o (its.headD 0)) with
    | .hbm m => s1.modMc m fun c => { c with aovf := c.aovf + BitVec.ofNat 64 ovf }
    | _ => s1

/-- A segment has arrived whole: its values are added or placed, it is forwarded once formed, and further segments are granted. -/
def State.segWhole (s1 : State) (k1 : CollInst) (st : Nat × Pat) (m seg : Nat) (its : List Nat) (f : Flow) (bs : List Byte) : State :=
  let own := s1.readOwn k1 (if f.fold then k1.unformed its else [])
  let s := own.1
  let k := own.2
  let vs := k.unpackSeg its bs
  let r := if f.fold then foldVals k.args k.spill.isSome vs (its.map (s.itemVal k)) else (vs.map Part.code, 0)
  let outs := f.succs.map fun d => (⟨d, f.dir, seg, k.packSeg its (r.1.map Part.wire)⟩ : SegOut)
  let key := segKey k.stage f.dir.toNat m seg
  let k1 : CollInst := { k with
    buf := (k.buf.filter fun p => !its.contains p.1) ++ its.zip r.1
    got := k.got.filter (·.1 != key)
    whole := k.whole ++ [key]
    formed := k.formed ++ f.succs.map fun d => segKey k.stage f.dir.toNat d seg
    out := k.out ++ outs }
  let s1 := if r.2 = 0 then s else s.colBit 2
  let s2 := ((if f.fold then s1.spillSums k its r.2 else s1).putColl k1).grantTo k1 st m f.dir
  s2.advanceColl k.key collFuel

/-- Drops received in a row from index 0. -/
def inRow (got : List (Nat × List Byte)) : Nat := ((List.range got.length).find? fun i => !got.any (·.1 == i)).getD got.length

/-- Base at the last ACK sent, for drops in their order of arrival: one for every advance by 512 (R233). -/
def ackedOf (got : List (Nat × List Byte)) : Nat :=
  (List.range got.length).foldl (fun a k => let b := inRow (got.take (k + 1)); if a + 512 ≤ b then b else a) 0

/-- One DATA drop of a stage's segment from member `m` (R233, R265) (DESIGN CHOICE, log entry 16). -/
def State.segDrop (s : State) (k : CollInst) (st : Nat × Pat) (m : Nat) (d : Drop) : State :=
  match (k.expected st m (dropDir d)).find? (·.1 == dropSeg d) with
  | none => s.discHdr
  | some (seg, its, f) =>
    let key := segKey k.stage f.dir.toNat m seg
    let n := max 1 (ceilDiv (ceilDiv (k.bitsOf its) 8) 48)
    let old : List (Nat × List Byte) := ((k.got.find? (·.1 == key)).map (·.2)).getD []
    if n ≤ d.seqoff then s.discHdr
    else if old.any (·.1 == d.seqoff) then s.discDup
    else
      let new := old ++ [(d.seqoff, d.payload)]
      let b := inRow new
      let s0 := if ackedOf old + 512 ≤ b then s.answer d 7 b [] else s
      if b = n then
        let bs := (List.range n).flatMap fun i => ((new.find? (·.1 == i)).map (·.2)).getD []
        ((s0.closeCid d.src none d.cid).answer d 8 0 []).segWhole k st m seg its f bs
      else s0.putColl { k with got := (k.got.filter (·.1 != key)) ++ [(key, new)] }

/-- COLL_DATA (R265, R276): a drop of a segment that the open coll's stage expects. -/
def execCollData (d : Drop) (s : State) : Out :=
  .next (
    if collKind d = 3 then
      s.onDrop d 0xB fun t =>
        match t.entryFor d.src none d.cid with
        | none => t.discFull
        | some t1 =>
          let dup := match t1.fab.entry d.src none with | some e => e.dup d.cid | none => false
          if dup then t1.discDup.answer d 8 0 []
          else match t1.col.colls.find? fun k => dropKey d k.key.era == k.key with
            | none => t1
            | some k => (match memberOf k.phys d.src, k.stageNow with
                | some m, some st => if k.admitted ∧ stageKey st = dropStage d then t1.segDrop k st m d else t1.discHdr
                | _, _ => t1.discHdr)
    else s)

/-! ### Completion (R273) -/

/-- COLL_COMPLETION: the final write is done, its seal recorded and every consignment of the coll acknowledged. -/
def execCollCompletion (g : BitVec 8) (s : State) : Out :=
  .next (
    let ready := fun (k : CollInst) => k.key.group == g && (k.fin.map (·.waits)) == some 0 &&
      !(s.fab.open_.any fun x => x.coll == some k.key) && !s.fab.wait.any fun x => x.coll == some k.key
    match s.col.colls.find? ready with
    | none => s
    | some k => (match k.fin with
        | some fl => (((s.dropColl k).complete k.comb 3 fl).collCount).pumpBars k.comb 17
        | none => s))

end Sys2Proof.Machine
end

