-- ==== Sys2Proof/Machine/Commit.lean ====
section
/-!
DEFINITION. Meanings of the SYNC drops and of the deadlines of the commit round (13 R294, 15 R325 to R328).
-/
namespace Sys2Proof.Machine

/-- A one-drop SYNC consignment of a kind: taken, answered, and acted on where it is new (Tables 13.7, 15.2). -/
def State.onSync (s : State) (d : Drop) (kind : Nat) (f : State → State) : State :=
  if d.addr % 16 = kind then
    s.onDrop d 0xC fun t => let r := t.rxSingle d; if r.2 then f r.1 else r.1
  else s

/-- QVOTE (R294). -/
def execQvote (d : Drop) (s : State) : Out := .next (s.onSync d 1 fun t => t.holdQuiesce (syncStep d) d.src (syncValue d))

/-- QDECIDE (R294). -/
def execQdecide (d : Drop) (s : State) : Out := .next (s.onSync d 2 fun t => t.quiesceDecided (syncStep d) (syncValue d))

/-- VOTE (R322, R325). -/
def execVote (d : Drop) (s : State) : Out := .next (s.onSync d 8 fun t => t.onVote d)

/-- LODGE (R326). -/
def execLodge (d : Drop) (s : State) : Out := .next (s.onSync d 9 fun t => t.onLodge d)

/-- LODGED (R326). -/
def execLodged (d : Drop) (s : State) : Out := .next (s.onSync d 0xA fun t => t.onLodged d)

/-- DECIDE (R326). -/
def execDecide (d : Drop) (s : State) : Out := .next (s.onSync d 0xB fun t => t.onDecide d)

/-- Chimes since the round opened. -/
def State.roundAge (s : State) (r : Round) : Nat := (s.chm.n - r.openedAt).toNat

/-- COMMIT_DEADLINE (R325): the leader skips once the deadline chime has come with a vote missing
(DESIGN CHOICE, log entry 73). -/
def execCommitDeadline (s : State) : Out :=
  .next (
    match s.roundNow with
    | some r => if s.leads && decide (max 1 (getF r.cfg 0 16) ≤ s.roundAge r) then s.makeDecision false else s
    | none => s)

/-- COMMIT_UNDECIDED (R328): no decision twice the deadline after the opening. -/
def execCommitUndecided (s : State) : Out :=
  .next (
    match s.stp.round with
    | some r =>
      if r.decision.isNone ∧ !r.told ∧ 2 * max 1 (getF r.cfg 0 16) ≤ s.roundAge r then
        ((({ s with stp := { s.stp with undecided := true, round := some { r with told := true } } } : State).faultBit 6).record .undecided).notice (.fault 9 1 0)
      else s
    | none => s)

end Sys2Proof.Machine
end

