-- ==== Sys2Proof/Machine/IssueT.lean ====
section
/-!
DEFINITION. Issue of tensor words (07 R135, R136, R140, R149): the operands read at issue, the conditions of every issue fault, and
the entry into a queue.
-/
namespace Sys2Proof.Machine

/-- Operands of a tensor word as issue reads them (R136). -/
def State.tensorOp (s : State) (c : CombId) (k : TKind) (f : TForm) : TOp :=
  let q := (s.comb c).seq
  match k with
  | .mshape => .mshape (BitVec.ofNat 3 (f.fld 20 3)) (BitVec.ofNat 2 (f.fld 23 2))
  | .mhold =>
    let sk := q.s[f.reg 25]
    .mhold q.d[f.reg 20] (getF sk 0 32) (getF sk 32 16) (f.bit 30) (f.bit 31)
  | .mmul => q.mmulOp f
  | .mx => q.mxOp (s.comb c).mat.judged.shape f
  | .vec op => q.vecOp op f
  | .upd op => q.updOp op f
  | .put | .get | .mcast => q.fabricOp k f
  | .coll | .bar => s.collOp c k f
  | _ => q.courierOp k f

/-- Conditions of the issue faults of a tensor word, by code (Table 7.7) (DESIGN CHOICE, log entry 28). -/
def State.tensorFaults (s : State) (c : CombId) (k : TKind) (f : TForm) : List (Nat × Bool) :=
  let kb := s.comb c
  match k with
  | .mshape => mshapeFaults f
  | .mhold => mholdFaults kb c f
  | .mmul => mmulFaults kb c f
  | .mx => mxFaults kb c f
  | .vec op => vecFaults kb.seq c op f
  | .upd op => updFaults kb.seq c op f
  | .put | .get | .mcast => s.fabricFaults c k f
  | .coll | .bar => s.collFaults c k f
  | _ => s.courierFaults c k f

/-- Scalar registers that a tensor word reads (Tables 8.2 to 8.7, 8.12, 9.7, 9.10). -/
def tRegs (k : TKind) (f : TForm) : List (Fin 32) :=
  match k with
  | .mshape | .cpy | .gather | .scatter | .amo => []
  | .mhold => [f.reg 25]
  | .mmul => (if f.bit 36 then [f.reg 37] else []) ++ (if f.bit 49 then [f.reg 50] else [])
  | .mx => (if f.bit 44 then [f.reg 45] else []) ++ (if f.fld 27 3 == 4 then [f.reg 50, f.reg 55] else [])
  | .vec op =>
    let (_, _, _, _, br, pr) := op.uses
    (if f.bit 40 then [f.reg 30] else []) ++ (if br && (!pr || f.fld 43 3 == 4) then [f.reg 46] else []) ++
      (if pr && f.fld 43 3 == 4 then [f.reg 51] else [])
  | .upd _ => [regPlus f 30 0, regPlus f 30 1, regPlus f 30 2, regPlus f 30 3] ++ (if f.fld 43 3 == 4 then [f.reg 46, f.reg 51] else [])
  | .seal | .put | .get | .mcast | .coll | .bar => [f.reg 30]

/-- Append an entry to its queue. -/
def Seq.enqueue (q : Seq) (k : Fin 4) (e : QEntry) : Seq :=
  match k with
  | 0 => { q with qMat := q.qMat ++ [e] }
  | 1 => { q with qVec := q.qVec ++ [e] }
  | 2 => { q with qCrr := q.qCrr ++ [e] }
  | 3 => { q with qFab := q.qFab ++ [e] }

/-- A SEQ mmul at the layout-free level sets SEAL_STATUS.SEQT (R299, Table 14.8). -/
def State.seqMark (s : State) (k : TKind) (f : TForm) : State :=
  if k = .mmul ∧ f.bit 33 ∧ s.seals.level = 0 then { s with seals := { s.seals with status := setB s.seals.status 0 true } } else s

/-- Collective words take their numbers at issue, and a bar at the head of its queue starts (R257, R271)
(DEDUCED, log entry 32). -/
def State.fabricIssued (s : State) (c : CombId) (k : TKind) (e : QEntry) : State :=
  match k with
  | .coll | .bar => (s.collIssued c e).pumpBars c 33
  | _ => s

/-- A tensor word enters its queue: operands fixed, counts and the judged matrix state moved, the program counter past it. -/
def State.enterQueue (s : State) (c : CombId) (k : TKind) (f : TForm) : State :=
  let e : QEntry := { pc := (s.comb c).seq.pc, ce := f.ce, cnt := f.cnt, op := s.tensorOp c k f }
  let s1 := s.modComb c fun kb =>
    { kb with seq := ({ kb.seq.enqueue k.queue e with wait := none } : Seq).advance
              mat := { kb.mat with judged := kb.judge k f } }
  ((s1.busyAdd c k.queue).seqMark k f).fabricIssued c k e

/-- A tensor word whose predicate is 1: the scoreboard, a full queue, the lowest issue fault, or entry (R140, R143, R149)
(DESIGN CHOICE, log entry 2). -/
def State.tryTensor (s : State) (c : CombId) (k : TKind) (f : TForm) : State :=
  let q := (s.comb c).seq
  if q.held (tRegs k f) then s
  else if 32 ≤ q.busy[k.queue] then s.modSeq c fun q => { q with wait := some (k, f) }
  else match firstFault (s.tensorFaults c k f) with
    | some code => s.issueFault c code
    | none => s.enterQueue c k f

/-- A tensor word reaches issue (R135): predicated off it only moves its counter (DESIGN CHOICE, log entry 2). -/
def State.issueT (s : State) (c : CombId) (k : TKind) (f : TForm) : State :=
  let q := (s.comb c).seq
  if q.issuing then
    (if f.illegal k then s.issueFault c 1
     else if q.pred f.pred then s.tryTensor c k f
     else
      let s1 := if f.ce then s.bump c (cntIx f.cnt) 1 else s
      s1.modSeq c Seq.advance)
  else s

/-- The stalled word enters its queue once it has room (R140). -/
def State.queueEntry (s : State) (c : CombId) : State :=
  let q := (s.comb c).seq
  match q.wait with
  | some (k, f) => if q.st = .running ∧ q.busy[k.queue] < 32 then (s.modSeq c fun q => { q with wait := none }).tryTensor c k f else s
  | none => s

end Sys2Proof.Machine
end

