-- ==== Sys2Proof/Machine/Control.lean ====
section
/-!
DEFINITION. Meanings of the control instructions (09 R186, R187, 07 R137 to R142), the fetch with its SECDED (R132), the lockstep compare
(R133) and the drains that lead to HALTED and FAULTED (R150, R156).
-/
namespace Sys2Proof.Machine

/-! ### Jumps -/

/-- BR (R186): a target that is no multiple of 8 raises ILLEGAL, one past the store ADDR. -/
def execBr (c : CombId) (f : SForm) (s : State) : Out :=
  .next (s.issueS c .br f (
    let t := ((s.comb c).seq.pc.setWidth 64 + f.sext).toNat
    if t % 8 ≠ 0 then s.issueFault c 1
    else if 262144 ≤ t then s.issueFault c 3
    else s.modSeq c fun q => q.branch t))

/-- JMP (R186). -/
def execJmp (c : CombId) (f : SForm) (s : State) : Out :=
  .next (s.issueS c .jmp f (
    let t := ((s.comb c).seq.s[f.sa] + f.sext).toNat
    if badTarget t then s.issueFault c 3 else s.modSeq c fun q => q.branch t))

/-- CALL (R134, R186): s31 takes the address of the next word; the loop stack stays. -/
def execCall (c : CombId) (f : SForm) (s : State) : Out :=
  .next (s.issueS c .call f (
    let t := ((s.comb c).seq.s[f.sa] + f.sext).toNat
    if badTarget t then s.issueFault c 3
    else s.modSeq c fun q =>
      { q with s := q.s.set 31 (q.pc.setWidth 64 + 8), pc := BitVec.ofNat 18 t, fetched := none }))

/-- RET (R134, R186): the low 18 bits of s31. -/
def execRet (c : CombId) (f : SForm) (s : State) : Out :=
  .next (s.issueS c .ret f (
    let t := getF (s.comb c).seq.s[31] 0 18
    if badTarget t then s.issueFault c 3
    else s.modSeq c fun q => { q with pc := BitVec.ofNat 18 t, fetched := none }))

/-- LOOP (R187) (DEDUCED, log entry 34). -/
def execLoop (c : CombId) (f : SForm) (s : State) : Out :=
  .next (s.issueS c .loop f (
    let q := (s.comb c).seq
    let w := q.pc.toNat / 8
    let l := getF f.imm 20 12
    let n := if f.i then getF f.imm 0 20 else q.s[f.sa].toNat
    match firstFault [(5, n != 0 && decide (4 ≤ q.loops.length)), (9, decide (2 ^ 32 ≤ n) || decide (32768 ≤ w + l))] with
    | some code => s.issueFault c code
    | none =>
      if n = 0 then s.modSeq c fun q => q.branch (8 * (w + l + 1))
      else s.modSeq c fun q => { q with loops := { start := w + 1, last := w + l, left := n - 1 } :: q.loops }.advance))

/-! ### Stalls -/

/-- WAIT (R137): proceeds at once where the counter has reached its target, else the comb is in WAIT. -/
def execWait (c : CombId) (f : SForm) (s : State) : Out :=
  .next (s.issueS c .wait f (s.modSeq c fun q =>
    let t := q.target f
    if reached q.cnt[f.cnt] t then q.advance else q.stalled (.counter (BitVec.ofNat 8 f.cnt.val) t) .waiting))

/-- WAIT_RELEASE (R137). -/
def execWaitRelease (c : CombId) (s : State) : Out :=
  .next (s.modSeq c fun q =>
    match q.stall with
    | .counter i t => if q.st = .waiting ∧ reached q.cnt[cntIx i] t then q.resumed.advance else q
    | _ => q)

/-- FENCE (R142). -/
def execFence (c : CombId) (f : SForm) (s : State) : Out :=
  .next (s.issueS c .fence f (s.modSeq c fun q =>
    if q.idle (fenceSet f) then q.advance else q.stalled (.fence (fenceSet f)) .waiting))

/-- FENCE_RELEASE (R142). -/
def execFenceRelease (c : CombId) (s : State) : Out :=
  .next (s.modSeq c fun q =>
    match q.stall with
    | .fence set => if q.st = .waiting ∧ q.idle set then q.resumed.advance else q
    | _ => q)

/-- HALT (R156): issue stops, the queues drain (DESIGN CHOICE, log entry 2; DEDUCED, log entry 18). -/
def execHalt (c : CombId) (f : SForm) (s : State) : Out :=
  .next (s.issueS c .halt f (s.modSeq c fun q => { q.advance with stall := .halting }))

/-- HALT_DRAINED (R156): HALTED, with the completion notice. -/
def execHaltDrained (c : CombId) (s : State) : Out :=
  .next (
    let q := (s.comb c).seq
    if q.st = .running ∧ q.stall = .halting ∧ q.drained = true then
      ((s.modSeq c fun q => { q with stall := .none }).setSeqSt c .halted).notice (.halt c (BitVec.ofNat 32 (getF q.frame 32 32)))
    else s)

/-- FAULT_DRAINED (R150): FAULTED; the comb votes 0 (R192), the chip's vote is forced to 0 (R323), and may form with it (R322). What later
words are judged against is the state that was reached (R420). -/
def execFaultDrained (c : CombId) (s : State) : Out :=
  .next (
    let q := (s.comb c).seq
    if q.stall = .faulting ∧ q.drained = true then
      let s0 := (s.modSeq c fun q => { q with stall := .none }).modMat c fun m => { m with judged := m.reached }
      let s1 := (s0.setSeqSt c .faulted).abortStep
      (s1.modRound fun r => r.combGone c).formVote
    else s)

/-! ### Control registers -/

/-- Address that csrr and csrw form (Table 9.3). -/
def Seq.csrAddr (q : Seq) (f : SForm) : Nat := 0x010200000000 + ((if f.i then 0 else (q.s[f.sa]).setWidth 32) + f.imm).toNat

/-- CSRR (R138): any control register of the chip. -/
def execCsrr (c : CombId) (f : SForm) (s : State) : Out :=
  .next (s.issueS c .csrr f (
    match regFor c ((s.comb c).seq.csrAddr f) with
    | none => s.issueFault c 3
    | some r =>
      let s1 := s.meter r
      s1.modSeq c fun q => { q with s := q.s.set f.sd (s1.readReg r) }.advance))

/-- CSRW (R138): the comb's own block and counters. -/
def execCsrw (c : CombId) (f : SForm) (s : State) : Out :=
  .next (s.issueS c .csrw f (
    match regFor c ((s.comb c).seq.csrAddr f) with
    | none => s.issueFault c 3
    | some r =>
      if ownReg c r then (s.writeReg r (s.comb c).seq.s[f.sb]).modSeq c Seq.advance else s.issueFault c 4))

/-! ### Fetch and lockstep -/

/-- A stored word's check at fetch: what the store holds and what strikes it now. -/
def worseOf (a b : Upset) : Upset :=
  match a, b with
  | .double, _ | _, .double => .double
  | .single, _ | _, .single => .single
  | _, _ => .clean

/-- INSTRUCTION_FETCH (R132, R184): a single-bit error is corrected and written back, a double-bit error raises ISTORE; an all-zero word
or a reserved opcode raises ILLEGAL. -/
def execInstructionFetch (c : CombId) (u : Upset) (s : State) : Out :=
  .next (
    let q := (s.comb c).seq
    let i := q.pc.toNat / 8
    if !q.issuing then s
    else match worseOf u (Sparse.get .clean q.upsets i) with
      | .double =>
        ((s.modSeq c fun q => { q with upsets := Sparse.set .clean q.upsets i .double }).fault c 0x0C q.pc.toNat 0).seqRetry c true q.pc
      | _ =>
        let w := Sparse.get 0 q.istore i
        let s1 := s.modSeq c fun q => { q with upsets := Sparse.set .clean q.upsets i .clean }
        if (Word.ofBits w).isNone then s1.issueFault c 1
        else s1.modSeq c fun q => { q with fetched := some w })

/-- LOCKSTEP (R133): the compare differs; a word on its way to a queue does not enter it. While the queues drain after another fault it is
counted only (R150) (DEDUCED, log entry 79). -/
def execLockstep (c : CombId) (s : State) : Out :=
  .next (
    let q := (s.comb c).seq
    if !(q.st.active && q.st != .armed) then s
    else if q.stall = .faulting then s.fault c 0x0B q.pc.toNat 0
    else (s.fault c 0x0B q.pc.toNat 0).seqRetry c false q.pc)

/-- QUEUE_ENTRY (R140). -/
def execQueueEntry (c : CombId) (s : State) : Out := .next (s.queueEntry c)

end Sys2Proof.Machine
end

