-- ==== Sys2Proof/Machine/Courier.lean ====
section
/-!
DEFINITION. Meanings of the courier instructions (09 R193 to R198), of the courier's start and completion (R194) and of a seal engine
(14 R307).
-/
namespace Sys2Proof.Machine

/-- CPY (R195): issue into the courier queue. -/
def execCpy (c : CombId) (f : TForm) (s : State) : Out := .next (s.issueT c .cpy f)

/-- GATHER (R196): issue into the courier queue. -/
def execGather (c : CombId) (f : TForm) (s : State) : Out := .next (s.issueT c .gather f)

/-- SCATTER (R196): issue into the courier queue. -/
def execScatter (c : CombId) (f : TForm) (s : State) : Out := .next (s.issueT c .scatter f)

/-- SEAL (R197): issue into the courier queue. -/
def execSeal (c : CombId) (f : TForm) (s : State) : Out := .next (s.issueT c .seal f)

/-- AMO (R198): issue into the courier queue. -/
def execAmo (c : CombId) (f : TForm) (s : State) : Out := .next (s.issueT c .amo f)

/-- COURIER_ACCEPT (R194): fewer than 8 are executing, so the head of the queue starts (DESIGN CHOICE, log entry 5). -/
def execCourierAccept (c : CombId) (s : State) : Out :=
  .next (
    match (s.comb c).seq.qCrr with
    | [] => s
    | e :: _ =>
      if 8 ≤ (s.comb c).crrRun.length then s
      else
        let s1 := s.modSeq c fun q => { q with qCrr := q.qCrr.drop 1 }
        match e.op with
        | .cpy dr d a z => s1.startCpy c e dr d a z
        | .gather dr d a di => s1.startGather c e dr d a di
        | .scatter dr d a di => s1.startScatter c e dr d a di
        | .seal a addr => s1.startSeal c e a addr
        | .amo op d a => s1.startAmo c e op d a
        | _ => s)

/-- COURIER_COMPLETION (R194): the i-th executing instruction has nothing left to wait for; its writes are visible and its counter
moves. -/
def execCourierCompletion (c : CombId) (i : Nat) (s : State) : Out :=
  .next (
    match (s.comb c).crrRun[i]? with
    | none => s
    | some fl => if fl.waits = 0 then (s.modComb c fun k => { k with crrRun := k.crrRun.eraseIdx i }).complete c 2 fl else s)

/-- A bulk consignment whose seal is recorded ends with its counter and its final reply (R363, R365). -/
def State.bulkSealed (s : State) (r : SealReq) : State :=
  match r.bulk with
  | none => s
  | some (src, cid) =>
    match s.eth.bulks.find? fun b => b.src == src && b.piece.cid == cid with
    | none => s
    | some b =>
      let s1 := { s with eth := { s.eth with bulks := s.eth.bulks.filter fun x => !(x.src == src && x.piece.cid == cid) } }
      let s2 := if b.piece.rce = 1 then s1.bump ⟨b.piece.rcomb.toNat % 64, Nat.mod_lt _ (by decide)⟩ (cntIx b.piece.rcnt) 1 else s1
      s2.bulkFinal b .ok b.piece.total.toNat

/-- SEAL_ENGINE_SERVE (R307 to R309): the engine's oldest request is digested, recorded and written; who waited for it goes on
(DESIGN CHOICE, log entry 15). -/
def execSealEngineServe (e : Fin 26) (s : State) : Out :=
  .next (
    match s.seals.reqs.find? (·.engine == e) with
    | none => s
    | some r =>
      let s1 := { s with seals := { s.seals with reqs := s.seals.reqs.erase r } }
      let s2 := s1.recordSeal r
      let s3 := match r.addr with
        | some a => s2.store a (sealOf r.header r.body ++ List.replicate 16 0) false
        | none => s2
      ((s3.unwait r.owner).collUnwait r.owner).bulkSealed r)

end Sys2Proof.Machine
end

