-- ==== Sys2Proof/Machine/Descriptor.lean ====
section
/-!
DEFINITION. Meanings of the descriptor instructions (09 R188, R189).
-/
namespace Sys2Proof.Machine

/-- DSET (R188): a value that the field cannot hold raises OPERAND. -/
def execDset (c : CombId) (f : SForm) (s : State) : Out :=
  .next (s.issueS c .dset f (
    let q := (s.comb c).seq
    let v := if f.i then f.sext else q.s[f.sa]
    match q.d[f.sd].dset f.x.toNat v with
    | none => s.issueFault c 9
    | some d => s.modSeq c fun q => { q with d := q.d.set f.sd d }.advance))

/-- The address of dld and dst (R189). -/
def Seq.descAddr (q : Seq) (f : SForm) : Nat := (q.s[f.sa] + f.sext).toNat % 2 ^ 48

/-- A multiple of 64 in populated bytes outside the control registers (R189). -/
def State.descOk (s : State) (a : Nat) : Bool := a % 64 == 0 && s.opened a 64

/-- DLD (R189). Data read poisoned is consumed (R36). -/
def execDld (c : CombId) (f : SForm) (s : State) : Out :=
  .next (s.issueS c .dld f (
    let a := (s.comb c).seq.descAddr f
    if !s.descOk a then s.issueFault c 3
    else
      let s1 := s.touch a 64
      (s1.consumeIf (s1.poisoned a 64)).modSeq c fun q => { q with d := q.d.set f.sd (Desc.ofBytes (s1.bytes a 64)) }.advance))

/-- DST (R189): the register as it stands at issue; the write is visible when issue goes on. -/
def execDst (c : CombId) (f : SForm) (s : State) : Out :=
  .next (s.issueS c .dst f (
    let a := (s.comb c).seq.descAddr f
    if !s.descOk a then s.issueFault c 3
    else (s.store a (s.comb c).seq.d[f.sd].toBytes false).modSeq c Seq.advance))

end Sys2Proof.Machine
end

