-- ==== Sys2Proof/Machine/Extract.lean ====
section
/-!
DEFINITION. Meanings of mx (08 R165), of the extractor's acceptance (06 R124) and of an extraction's completion (R127).
-/
namespace Sys2Proof.Machine

/-- MX (R165): issue into the matrix queue. -/
def execMx (c : CombId) (f : TForm) (s : State) : Out := .next (s.issueT c .mx f)

/-- An mmul of a slot has not completed (R74). -/
def Mat.slotBusy (m : Mat) (slot : Fin 4) : Bool :=
  m.run.any fun fl => match fl.e.op with
    | .mmul _ _ x .. => x == slot
    | _ => false

/-- The next mx of the extractor, with the queue without it: the oldest one whose slot no earlier instruction of the queue names and no
mmul in the array is still working on (R74, R109) (DEDUCED, log entry 82). -/
def pickMx (busy : Fin 4 → Bool) : List (Fin 4) → List QEntry → Option (QEntry × List QEntry)
  | _, [] => none
  | slots, e :: es =>
    match e.op with
    | .mx _ _ _ slot .. =>
      if slots.contains slot || busy slot then (pickMx busy (slot :: slots) es).map fun r => (r.1, e :: r.2) else some (e, es)
    | .mmul _ _ slot .. => (pickMx busy (slot :: slots) es).map fun r => (r.1, e :: r.2)
    | _ => (pickMx busy slots es).map fun r => (r.1, e :: r.2)

/-- EXTRACTOR_ACCEPT (R124, R109): the extractor starts its next mx (DESIGN CHOICE, log entry 5). -/
def execExtractorAccept (c : CombId) (s : State) : Out :=
  .next (
    let k := s.comb c
    if k.testing then s
    else match pickMx k.mat.slotBusy [] k.seq.qMat with
      | none => s
      | some (e, rest) =>
        match e.op with
        | .mx shape dr d slot rm cs sv bv lo hi base pitch =>
          (s.modSeq c fun q => { q with qMat := rest }).startMx c e shape dr d slot rm cs sv bv lo hi base pitch
        | _ => s)

/-- MX_COMPLETION (R124, R127): the oldest extraction's writes are visible, its ceiling is raised and its counter moves. -/
def execMxCompletion (c : CombId) (s : State) : Out :=
  .next (
    match (s.comb c).ext.run with
    | [] => s
    | fl :: rest => (s.modExt c fun x => { x with run := rest }).complete c 0 fl)

end Sys2Proof.Machine
end

