-- ==== Sys2Proof/Machine/Fabric.lean ====
section
/-!
DEFINITION. Meanings of the fabric instructions (09 R199 to R204) and of a consignment's start (11 R231).
-/
namespace Sys2Proof.Machine

/-- PUT (R201): issue into the fabric queue. -/
def execPut (c : CombId) (f : TForm) (s : State) : Out := .next (s.issueT c .put f)

/-- GET (R235): issue into the fabric queue. -/
def execGet (c : CombId) (f : TForm) (s : State) : Out := .next (s.issueT c .get f)

/-- MCAST (R201): issue into the fabric queue. -/
def execMcast (c : CombId) (f : TForm) (s : State) : Out := .next (s.issueT c .mcast f)

/-- COLL (R203): issue into the fabric queue and the chip's admission queue. -/
def execColl (c : CombId) (f : TForm) (s : State) : Out := .next (s.issueT c .coll f)

/-- BAR (R204): issue into the fabric queue; it starts at the head of it. -/
def execBar (c : CombId) (f : TForm) (s : State) : Out := .next (s.issueT c .bar f)

/-- CONSIGNMENT_START (R231, R140): the put, get or mcast at the head of the comb's fabric queue starts where the limits allow, and a
bar behind it starts as it reaches the head. -/
def execConsignmentStart (c : CombId) (s : State) : Out :=
  .next (
    match (s.comb c).seq.qFab with
    | [] => s
    | e :: _ =>
      match e.op with
      | .put .. | .get .. | .mcast .. => (s.startFab c e).pumpBars c 33
      | .bar .. => s.pumpBars c 33
      | _ => s)

end Sys2Proof.Machine
end

