-- ==== Sys2Proof/Machine/Links.lean ====
section
/-!
DEFINITION. Meanings of the link layer's commands (10 R213 to R219, R223, R224).
-/
namespace Sys2Proof.Machine

/-- CODEWORD (R213). -/
def execCodeword (l : LinkId) (w : CodewordIn) (s : State) : Out := .next (s.onCodeword l w)

/-- CONTROL_WORD (R214): a whole control word that the link has received (DESIGN CHOICE, log entry 76). -/
def execControlWord (l : LinkId) (w : BitVec 64) (s : State) : Out :=
  .next (if (s.links[l] : Link).ctl.contains w then s.modLink l fun k => k.control w else s)

/-- NAK (R215). -/
def execNak (l : LinkId) (n : BitVec 16) (s : State) : Out :=
  .next (if (s.links[l] : Link).st.up then s.modLink l fun k => k.replayFrom n else s)

/-- IDENT (R217). -/
def execIdent (l : LinkId) (x : IdentSym) (s : State) : Out := .next (s.onIdent l x)

/-- REPLAY_STALL (R215): drops wait for an ACK that has not advanced for 4 µs. -/
def execReplayStall (l : LinkId) (s : State) : Out :=
  .next (
    let k : Link := s.links[l]
    if k.st.up && !k.buf.isEmpty then s.linkFail l else s)

/-- LANE_FAILURE (R218). -/
def execLaneFailure (l : LinkId) (lane : Fin 8) (s : State) : Out := .next (s.laneFail l lane)

/-- SPARE (R218). -/
def execSpare (l : LinkId) (x : SpareSym) (s : State) : Out := .next (s.onSpare l x)

/-- SPARE_SWITCH (R218). -/
def execSpareSwitch (l : LinkId) (rx : Bool) (s : State) : Out := .next (s.modLink l fun k => k.switch rx)

/-- LINK_FAILURE (R223): of a link that is up or in training. -/
def execLinkFailure (l : LinkId) (s : State) : Out :=
  .next (if (s.links[l] : Link).st = .down then s else s.linkFail l)

/-- LINK_RETRY (R224). -/
def execLinkRetry (port : Fin 6) (n : Fin 4) (s : State) : Out := .next (s.linkRetry (linkAt port n))

/-- LINK_PHASE_DONE (R219). -/
def execLinkPhaseDone (l : LinkId) (x : PhaseEnd) (s : State) : Out := .next (s.linkPhase l x.ok x.rxSpare x.txSpare)

end Sys2Proof.Machine
end

