-- ==== Sys2Proof/Machine/Matrix.lean ====
section
/-!
DEFINITION. Meanings of the matrix instructions (08 R159 to R163) and of the array's acceptance, fill and completion (04 R73 to R86, 05
R109).
-/
namespace Sys2Proof.Machine

/-- MSHAPE (R159): issue into the matrix queue. -/
def execMshape (c : CombId) (f : TForm) (s : State) : Out := .next (s.issueT c .mshape f)

/-- MHOLD (R160): issue into the matrix queue. -/
def execMhold (c : CombId) (f : TForm) (s : State) : Out := .next (s.issueT c .mhold f)

/-- MMUL (R163): issue into the matrix queue. -/
def execMmul (c : CombId) (f : TForm) (s : State) : Out := .next (s.issueT c .mmul f)

/-- The next instruction of the array, with the queue without it: the oldest mshape, mhold or mmul, an mmul only once no earlier mx of its
slot waits (R109). `slots` are the slots of the mx passed (DEDUCED, log entry 82). -/
def pickArray : List (Fin 4) → List QEntry → Option (QEntry × List QEntry)
  | _, [] => none
  | slots, e :: es =>
    match e.op with
    | .mx _ _ _ slot .. => (pickArray (slot :: slots) es).map fun r => (r.1, e :: r.2)
    | .mmul _ _ slot .. => if slots.contains slot then none else some (e, es)
    | _ => some (e, es)

/-- The matrix queue changes. -/
def State.setMat (s : State) (c : CombId) (l : List QEntry) : State := s.modSeq c fun q => { q with qMat := l }

/-- ARRAY_ACCEPT (R74, R109, R159, R160, R163): the array starts its next matrix instruction; the queue waits while a self-test runs (R87)
(DESIGN CHOICE, log entry 5). -/
def execArrayAccept (c : CombId) (s : State) : Out :=
  .next (
    let k := s.comb c
    if k.testing then s
    else match pickArray [] k.seq.qMat with
      | none => s
      | some (e, rest) =>
        match e.op with
        | .mshape shape mode => (s.setMat c rest).modMat c fun m =>
            { m with shape := shape, mode := mode, run := m.run ++ [{ e := e, cycles := 2 }] }
        | .mhold b k0 c0 tb p64 => (s.setMat c rest).startMhold c e b k0 c0 tb p64
        | .mmul a b slot ow seq g auto win kc ta tb mask => (s.setMat c rest).startMmul c e a b slot ow seq g auto win kc ta tb mask
        | _ => s)

/-- Does a flight fill the held-operand banks? -/
def Flight.fills (fl : Flight) : Bool :=
  match fl.e.op with
  | .mhold .. => true
  | _ => false

/-- Take the first flight that satisfies `p` out of a list. -/
def takeFirst (p : Flight → Bool) : List Flight → Option (Flight × List Flight)
  | [] => none
  | x :: xs => if p x then some (x, xs) else (takeFirst p xs).map fun r => (r.1, x :: r.2)

/-- MHOLD_FILL_DONE (R160): row 31 is filled; SHADOW_FULL unless the block is active already (DEDUCED, log entry 45). -/
def execMholdFillDone (c : CombId) (s : State) : Out :=
  .next (
    match takeFirst Flight.fills (s.comb c).mat.run with
    | none => s
    | some (fl, rest) => (s.modMat c fun m => { m with run := rest, full := m.shadow.isSome }).complete c 0 fl)

/-- Bit of MAT_FAULT (Table 4.9). -/
def mismatchBit : MismatchKind → Nat
  | .res => 0 | .csc => 1 | .csr => 2 | .hold => 3

/-- A mismatch of an mmul is recorded (R86): every active element of its slot is poisoned, the first one since the bits were last clear
keeps its place. -/
def Mat.mismatch (m : Mat) (fl : Flight) (slot : Nat) (x : Mismatch) : Mat :=
  let clear := getF m.fault 0 4 == 0
  let f1 := if clear then setF (setF (setF (setF m.fault 8 6 x.row.val) 16 6 x.col.val) 24 2 slot) 48 3 m.shape.toNat else m.fault
  { m with
    fault := setB (satF f1 32 16 1) (mismatchBit x.kind) true
    faultPc := if clear then fl.e.pc.setWidth 64 else m.faultPc
    slots := fl.keys.foldl (fun l k => Sparse.set {} l k { Sparse.get {} l k with poison := true }) m.slots }

/-- MATRIX_COMPLETION (R73, R84 to R86): the oldest mshape or mmul of the array ends; a mismatch poisons and is reported, and the counter
moves in either case (DESIGN CHOICE, log entry 101). -/
def execMatrixCompletion (c : CombId) (mm : Option Mismatch) (s : State) : Out :=
  .next (
    match takeFirst (fun fl => !fl.fills) (s.comb c).mat.run with
    | none => s
    | some (fl, rest) =>
      let s1 := s.modMat c fun m => { m with run := rest }
      let s2 := match mm, fl.e.op with
        | some x, .mmul _ _ slot .. =>
          ((((s1.modMat c fun m => m.mismatch fl slot.val x).modComb c fun k => { k with testDue := true }).abortStep).record
            (.mismatch c x.kind)).notice (.fault 3 (BitVec.ofNat 8 (mismatchBit x.kind)) fl.e.pc.toNat)
        | _, _ => s1
      s2.complete c 0 fl)

end Sys2Proof.Machine
end

