-- ==== Sys2Proof/Machine/Memory.lean ====
section
/-!
DEFINITION. Meanings of the background work of memory (16 R346 to R351, 02 R37, R39, 10 R225) and of an atomic unit (05 R112).
-/
namespace Sys2Proof.Machine

/-- The odd controller of a stack (R336). -/
def stackTail (m : McId) : McId := ⟨(m.val / 2 * 2 + 1) % 24, Nat.mod_lt _ (by decide)⟩

/-- The controller of pseudo-channel `i` of the stack of `m`: those of the even controller come first (DESIGN CHOICE, log entry 86). -/
def channelMc (m : McId) (i : Nat) : McId := if i < 32 then stackHead m else stackTail m

/-- The stack's temperature is at least 5 °C from that of pseudo-channel `i` at its last retraining (R350)
(DESIGN CHOICE, log entry 86). -/
def Mc.moved (h : Mc) (temp : BitVec 8) (i : Nat) : Bool :=
  match h.rtTemps.find? (·.1 == i) with
  | some t => decide (5 ≤ ((temp.toNat : Int) - (t.2.toNat : Int)).natAbs)
  | none => false

/-- The pseudo-channel whose retraining is due now: the one in turn where the schedule asks for it, else the first from it on that the
temperature asks for (R350) (DESIGN CHOICE, log entry 86). -/
def State.channelDue (s : State) (m : McId) (temp : BitVec 8) : Option Nat :=
  let h : Mc := s.mcs[stackHead m]
  if h.rtNext ≤ s.chm.local_ then some h.turn.toNat
  else ((List.range 64).map fun i => (h.turn.toNat + i) % 64).find? (h.moved temp)

/-- May the stack retrain (R350, R225): in READY, RUNNING and QUIESCED, one pseudo-channel at a time, and no sooner than 1 ms after an
attempt that did not finish? -/
def State.mayRetrain (s : State) (m : McId) : Bool :=
  let h : Mc := s.mcs[stackHead m]
  s.dev.st.working && !h.rt && !(s.mcs[stackTail m] : Mc).rt && decide (h.rtFloor ≤ s.chm.local_)

/-- HBM_RETRAIN_START (R350, R225): a pseudo-channel that is due; after the one in turn the next is due RETRAIN_MS / 64 later
(DESIGN CHOICE, log entry 86). -/
def execHbmRetrainStart (x : RetrainIn) (s : State) : Out :=
  .next (
    let m := x.mc
    match if s.mayRetrain m then s.channelDue m x.temp else none with
    | none => s
    | some i =>
      let s1 := s.modMc (stackHead m) fun c => { c with
        temp := x.temp, rtNext := if c.turn.toNat = i then s.chm.local_ + getF s.mem.cfg 16 16 * 3600000 / 64 else c.rtNext }
      let s2 := s1.modMc (stackTail m) fun c => { c with temp := x.temp }
      s2.modMc (channelMc m i) fun c => { c with rt := true, rtpc := BitVec.ofNat 5 i })

/-- HBM_RETRAIN_END (R225): finished, or ended on the old settings; then the same pseudo-channel is tried again. -/
def execHbmRetrainEnd (m : McId) (finished : Bool) (s : State) : Out :=
  .next (if (s.mcs[m] : Mc).rt then s.endRetrain m finished else s)

/-- HBM_REFRESH (R350): a refresh falls due; the rate doubles above 85 °C. A stack in self-refresh takes none (R352). -/
def execHbmRefresh (m : McId) (temp : BitVec 8) (s : State) : Out :=
  .next (
    if s.coreOn then s.modMc m fun c => { c with temp := temp, hot := decide (85 < temp.toNat), refresh := c.refresh + 1 } else s)

/-- MERGE_SLOT_CLOSE (R348). -/
def execMergeSlotClose (m : McId) (page : Nat) (s : State) : Out :=
  .next (
    if (s.mcs[m] : Mc).slots.any (·.page == page) && !s.pageWaits page && s.coreOn then s.closeSlot m page else s)

/-! ### Sweepers -/

/-- What the stack holds in a sector, of a data page or of a parity region. -/
def State.stored (s : State) (sector : Nat) : List Byte :=
  match s.region (64 * sector) with
  | .parity => (List.range 64).map fun i => s.parByte (64 * sector + i)
  | _ => (s.stackCopy sector).1

/-- Bits of a stored sector and of its stored CRC turn over (DESIGN CHOICE, log entry 10). -/
def State.strikeSector (s : State) (sector : Nat) (data : BitVec 512) (crc : BitVec 32) : State :=
  let old := s.stored sector
  let new := old.zipIdx.map fun b => b.1 ^^^ BitVec.ofNat 8 (getF data (8 * b.2) 8)
  let s1 := match s.region (64 * sector) with
    | .parity => s.modMem fun m => { m with parity := putBytes m.parity (64 * sector) new }
    | _ => s.setStack sector fun x => (new, x.2)
  s1.setCrc sector (Sparse.get 0 s.mem.crc sector ^^^ crc ^^^ sectorCrc sector old ^^^ sectorCrc sector new)

/-- New errors in the stacks. -/
def State.strikeHbm (s : State) (x : HbmStrike) : State :=
  x.sectors.foldl (fun (t : State) k => if k.1 < 0x3C0000000 then t.strikeSector k.1 k.2.1 k.2.2 else t) s

/-- HBM_SWEEP (R349): the sweeper checks the page due and passes on; a full pass is counted. -/
def execHbmSweep (m : McId) (struck : HbmStrike) (s : State) : Out :=
  .next (
    let s1 := s.strikeHbm struck
    let c : Mc := s1.mcs[m]
    let page := m.val * 0xA00000 + c.sweepAt
    if getF c.sweep 32 1 = 0 ∨ s1.pageWaits page ∨ !s1.coreOn then s1
    else
      let ends := decide (s1.dataPages ≤ c.sweepAt + 1)
      (s1.checkPage page).modMc m fun c =>
        { c with sweepAt := if ends then 0 else c.sweepAt + 1, sweep := if ends then wrapF c.sweep 16 16 1 else c.sweep })

/-- RECODE_PAGE (R346): the cursor's page is checked under the old code and its parity written in the new one. -/
def execRecodePage (m : McId) (s : State) : Out :=
  .next (
    let c : Mc := s.mcs[m]
    if getF c.recode 63 1 = 0 ∨ !s.coreOn then s
    else
      let z := getF c.recode 48 3
      let cur := getF c.recode 0 21
      let page := m.val * 0xA00000 + z * 0x140000 + cur
      let n := min 0x140000 (s.dataPages - z * 0x140000)
      if s.pageWaits page then s
      else if n ≤ cur then s.modMc m fun c => { c with recode := setB c.recode 63 false }
      else
        let s1 := if c.slots.any (·.page == page) then s.closeSlot m page else s
        let s2 := s1.checkPage page
        (s2.putParity page (getF c.recode 40 2) (s2.stackNat page)).modMc m fun c =>
          { c with recode := setB (setF c.recode 0 21 (cur + 1)) 63 (decide (cur + 1 < n)) })

/-- New upsets in a line of an SRAM store, by word of the line (DESIGN CHOICE, log entry 10). -/
def State.strikeSram (s : State) (base line : Nat) (struck : List (Nat × Upset)) : State :=
  s.modMem fun m => { m with
    upsets := struck.foldl (fun l k =>
      let w := base / 8 + 8 * line + k.1 % 8
      let old := Sparse.get .clean l w
      Sparse.set .clean l w (if old = .double ∨ k.2 = .double ∨ (old = .single ∧ k.2 = .single) then .double
        else if old = .single then .single else k.2)) m.upsets }

/-- A sweeper reads a line (R37): single-bit errors are corrected, a double-bit error sets the line's poison bit. -/
def State.sweepLine (s : State) (u : SweepUnit) (a : Nat) : State :=
  let s1 := s.touchSram u a 64
  if s1.doubled a 64 then s1.poisonRange a 64 else s1

/-- The next line and the pass count of a sweeper over `n` lines. -/
def sweepNext (n at_ : Nat) (r : W64) : Nat × W64 := if n ≤ at_ + 1 then (0, wrapF r 16 16 1) else (at_ + 1, r)

/-- COMB_STORE_SWEEP (R37). -/
def execCombStoreSweep (c : CombId) (line : Nat) (struck : List (Nat × Upset)) (s : State) : Out :=
  .next (
    if 983040 ≤ line then s
    else
      let s1 := s.strikeSram (combBase c) line struck
      if getF (s1.comb c).sweep 32 1 = 0 then s1
      else (s1.sweepLine (.comb c) (combBase c + 64 * line)).modComb c fun k =>
        let r := sweepNext 983040 k.sweepAt k.sweep
        { k with sweepAt := r.1, sweep := r.2 })

/-- SQUARE_STORE_SWEEP (R39). -/
def execSquareStoreSweep (q : SqId) (line : Nat) (struck : List (Nat × Upset)) (s : State) : Out :=
  .next (
    if 262144 ≤ line then s
    else
      let s1 := s.strikeSram (squareBase q) line struck
      if getF (s1.squares[q] : Square).sweep 32 1 = 0 then s1
      else (s1.sweepLine (.square q) (squareBase q + 64 * line)).modSquare q fun k =>
        let r := sweepNext 262144 k.sweepAt k.sweep
        { k with sweepAt := r.1, sweep := r.2 })

/-! ### Atomic units -/

/-- ATOMIC_OPERATION (R112, R351): the unit's oldest operation is applied, unless its pseudo-channel is being retrained
(DESIGN CHOICE, log entry 99). -/
def execAtomicOperation (u : Nat) (s : State) : Out :=
  .next (
    match s.mem.atomics.find? (·.1 == u) with
    | none => s
    | some x => if x.2.addr < 0x00F000000000 ∧ s.retraining (x.2.addr / 4096) then s else s.runAtomic x)

end Sys2Proof.Machine
end

