-- ==== Sys2Proof/Machine/Ed448.lean ====
section
/-!
DEFINITION. Ed448 (RFC 8032 section 5.2), the signature scheme that R312, R359, R389, R392, R393 and R395 name, with their context
strings: points of edwards448 in projective coordinates over the integers modulo p, their encoding, verification and signing (log
entry 8). Keys and signatures are their bytes, least significant first.
-/
namespace Sys2Proof.Machine

/-- What a signature is for, by its context string. -/
inductive SigContext where
  | order | firmware | keySet | result | quote
deriving DecidableEq, Repr

/-- The bytes of a string. -/
def ascii (s : String) : List Byte := s.toList.map fun c => BitVec.ofNat 8 c.toNat

/-- The context strings (PRESUMED, log entry 8). -/
def SigContext.bytes : SigContext → List Byte
  | .order => ascii "JNX-ORD"
  | .firmware => ascii "JNX-FW"
  | .keySet => ascii "JNX-KEY"
  | .result => ascii "JNX-RC"
  | .quote => ascii "JNX-AQ"

/-- The field prime, the curve's d = −39081, and the order of the base point. -/
def edP : Nat := 2 ^ 448 - 2 ^ 224 - 1
def edD : Nat := edP - 39081
def edL : Nat := 2 ^ 446 - 13818066809895115352007386748515426880336692474882178609894547503885

/-- A point (x/z, y/z). -/
structure EdPoint where
  x : Nat
  y : Nat
  z : Nat
deriving DecidableEq, Repr

/-- The neutral point. -/
def edZero : EdPoint := ⟨0, 1, 1⟩

/-- The base point. -/
def edBase : EdPoint :=
  ⟨224580040295924300187604334099896036246789641632564134246125461686950415467406032909029192869357953282578032075146446173674602635247710,
   298819210078481492676017930443930673437544040154080242095928241372331506189835876003536878655418784733982303233503462500531545062832660, 1⟩

/-- Sum of two points; the formula is complete. -/
def EdPoint.add (p q : EdPoint) : EdPoint :=
  let a := p.z * q.z % edP
  let b := a * a % edP
  let c := p.x * q.x % edP
  let d := p.y * q.y % edP
  let e := edD * c % edP * d % edP
  let f := b + edP - e
  let g := b + e
  let h := (p.x + p.y) * (q.x + q.y) % edP
  ⟨a * f % edP * (h + 2 * edP - c - d) % edP, a * g % edP * (d + edP - c) % edP, f * g % edP⟩

/-- The multiple of a point by a number below 2^456. -/
def EdPoint.mul (p : EdPoint) (k : Nat) : EdPoint :=
  (List.range 456).reverse.foldl (fun r i => if k.testBit i then (r.add r).add p else r.add r) edZero

/-- The same point. -/
def EdPoint.same (p q : EdPoint) : Bool := p.x * q.z % edP == q.x * p.z % edP && p.y * q.z % edP == q.y * p.z % edP

/-- A power modulo p, the exponent below 2^448. -/
def edPow (b e : Nat) : Nat :=
  (List.range 448).reverse.foldl (fun r i => if e.testBit i then r * r % edP * b % edP else r * r % edP) 1

/-- The point of an encoding: y in 455 bits and the parity of x above; none where the bytes encode no point. -/
def edDecode (b : BitVec 456) : Option EdPoint :=
  let y := b.toNat % 2 ^ 455
  let odd := b.toNat / 2 ^ 455
  let u := (y * y + edP - 1) % edP
  let v := (edD * (y * y % edP) + edP - 1) % edP
  let u3 := u * u % edP * u % edP
  let v3 := v * v % edP * v % edP
  let x := u3 * v % edP * edPow (u3 * u % edP * u % edP * v3 % edP) ((edP - 3) / 4) % edP
  if edP ≤ y ∨ v * (x * x % edP) % edP ≠ u ∨ (x = 0 ∧ odd = 1) then none
  else some ⟨if x % 2 = odd then x else edP - x, y, 1⟩

/-- The encoding of a point. -/
def EdPoint.encode (p : EdPoint) : BitVec 456 :=
  let z := edPow p.z (edP - 2)
  BitVec.ofNat 456 (p.y * z % edP + p.x * z % edP % 2 * 2 ^ 455)

/-- The hash of the scheme under a context (PRESUMED, log entry 8). -/
def edHash (c : SigContext) (bs : List Byte) : Nat :=
  leNat (shake256 (ascii "SigEd448" ++ [0, BitVec.ofNat 8 c.bytes.length] ++ c.bytes ++ bs) 114)

/-- Verification; the equation is the one with the cofactor (PRESUMED, log entry 8). -/
def ed448Verify (key : BitVec 456) (c : SigContext) (m : List Byte) (sig : BitVec 912) : Bool :=
  let rb : BitVec 456 := sig.setWidth 456
  let s := sig.toNat / 2 ^ 456
  match edDecode key, edDecode rb with
  | some a, some r =>
    let k := edHash c (leBytes 57 rb.toNat ++ leBytes 57 key.toNat ++ m) % edL
    decide (s < edL) && (edBase.mul (4 * s)).same ((r.mul 4).add (a.mul (4 * k)))
  | _, _ => false

/-- The secret scalar of a private key, and the second half of its hash. -/
def edSecret (key : BitVec 456) : Nat × List Byte :=
  let h := shake256 (leBytes 57 key.toNat) 114
  (leNat (h.take 56) % 2 ^ 447 / 4 * 4 + 2 ^ 447, h.drop 57)

/-- The public key of a private key (PRESUMED, log entry 8). -/
def edPublic (key : BitVec 456) : BitVec 456 := (edBase.mul (edSecret key).1).encode

/-- The signature of a message (PRESUMED, log entry 8). -/
def ed448Sign (key : BitVec 456) (c : SigContext) (m : List Byte) : BitVec 912 :=
  let (s, pre) := edSecret key
  let r := edHash c (pre ++ m) % edL
  let rb := (edBase.mul r).encode
  let k := edHash c (leBytes 57 rb.toNat ++ leBytes 57 (edPublic key).toNat ++ m) % edL
  BitVec.ofNat 912 (rb.toNat + (r + k * s) % edL * 2 ^ 456)

end Sys2Proof.Machine
end

