-- ==== Sys2Proof/Machine/BootOps.lean ====
section
/-!
DEFINITION. The warden's boot (19 R387 to R398), the full reset (18 R378, 16 R352) and the core resets that events take (18 R380).
-/
namespace Sys2Proof.Machine

/-! ### Firmware images (R389, Table 19.3) -/

/-- A little-endian field of a header. -/
def hdrField (bs : List Byte) (lo n : Nat) : Nat := leNat ((bs.drop lo).take n)

/-- The firmware measurement FWMEAS. -/
def fwMeas (bs : List Byte) : Digest := shake256 (bs.take 256) 48

/-- One section lies in the image and matches its measurement; at most `most` bytes. -/
def sectionOk (bs : List Byte) (n k most : Nat) : Bool :=
  let o := hdrField bs (16 + 56 * k) 4
  let l := hdrField bs (20 + 56 * k) 4
  decide (512 ≤ o) && decide (o + l ≤ n) && decide (l ≤ most) && shake256 ((bs.drop o).take l) 48 == (bs.drop (24 + 56 * k)).take 48

/-- Sections, signature and SVN pass (R389) (PRESUMED, log entry 8). -/
def imagePasses (bs : List Byte) (svnMin : Nat) : Bool :=
  let f := hdrField bs
  let n := f 12 4
  let sig : BitVec 912 := BitVec.ofNat 912 (f 256 114)
  f 0 4 == 0x57464E4A && f 4 2 == 1 && decide (f 6 2 ≤ 1) && decide (512 ≤ n) && decide (n ≤ 16777216) && decide (n ≤ bs.length) &&
    f 184 72 == 0 && f 370 142 == 0 && sectionOk bs n 0 0x300000 && sectionOk bs n 1 0x100000 && sectionOk bs n 2 16777216 &&
    (ed448Verify (Config.firmwareKey 0) .firmware (fwMeas bs) sig || ed448Verify (Config.firmwareKey 1) .firmware (fwMeas bs) sig) &&
    decide (svnMin ≤ f 8 4)

/-! ### Profiles and keys -/

/-- A profile's magic, version and measurement match (R397). -/
def profileOk (bs : List Byte) : Bool :=
  bs.length == 0x40000 && hdrField bs 0 4 == 0x464F5250 && hdrField bs 4 2 == 1 && shake256 (bs.take 0x3FFD0) 48 == bs.drop 0x3FFD0

/-- The profile of a full reset: the slot of PROFILE[1:0], else the valid slot of lowest number, else the factory profile (R396). -/
def Wdn.select (w : Wdn) : BitVec 3 × Profile :=
  let pin : Fin 4 := ⟨w.pins.toNat, w.pins.isLt⟩
  let slot := (pin :: List.finRange 4).findSome? fun k => (w.profiles[k]).map fun bs => (BitVec.ofNat 3 k.val, Config.parseProfile bs)
  slot.getD (4, Profile.factory)

/-- Phase 2: PROFILE[1:0] is read, the profile is selected, and every item of Table 19.7 takes effect (DESIGN CHOICE, log entry 7). -/
def State.selectProfile (s : State) : State :=
  let w0 := { s.wdn with pins := s.dev.pins }
  let x := w0.select
  let p := x.2
  let w := { w0 with profNo := x.1, prof := p, core := p }
  { s with
    wdn := w
    lnkCfg := p.lnkWord
    lnkUse := p.lnkWord
    chm := { s.chm with ival := p.ival }
    eth := { s.eth with cfg := p.ethWord, assoc := w.associations }
    mem := { s.mem with cfg := setF s.mem.cfg 32 2 p.reserve.toNat }
    mcs := s.mcs.map fun m => { m with strength := p.strength } }

/-- Phase 3: a staged key set comes into the key store; the nonce of each key it changes is 0 (R395)
(DESIGN CHOICE, log entry 33). -/
def State.applyKeys (s : State) : State :=
  match s.wdn.keySet with
  | none => s
  | some (ks, j) =>
    ({ s with wdn := { s.wdn with
        keySet := none, keyStore := s.wdn.keyStore.write (ks, j)
        nonceStore := s.wdn.nonceStore.write (Vector.ofFn fun k => if ks[k] = s.wdn.keys[k] then s.wdn.nonces[k] else 0) } } : State).record
      .keySet

/-- Boot phases 2 and 3, after which phase 4 is in progress (R387, Table 19.2) (DESIGN CHOICE, log entry 67). -/
def State.midBoot (s : State) : State :=
  if s.wdn.phase = 1 then
    let t := s.selectProfile.applyKeys
    { t with wdn := { t.wdn with phase := 4 } }
  else s

/-! ### Full reset -/

/-- Chronicle records that a clear cut short leaves: an unbroken prefix, how long is free (R402)
(DESIGN CHOICE, log entry 6; DESIGN CHOICE, log entry 66). -/
def State.cutClear (s : State) : State :=
  match s.chr.clearing with
  | none => s
  | some _ =>
    let (w, s1) := s.draw
    { s1 with chr := { s1.chr with records := s1.chr.records.take (w.toNat % (s1.chr.records.length + 1)), clearing := none } }

/-- What outlives a full reset: the MRAM, what has been sent, and the levels of the inputs. Everything else is at reset
(DESIGN CHOICE, log entry 109). -/
def State.blank (s0 : State) : State :=
  let s := s0.cutClear
  let w := s.wdn
  let r := State.reset
  { r with
    pending := s.pending, free := s.free
    dev := { st := s.dev.st, porstLow := s.dev.porstLow, refclkOk := s.dev.refclkOk, pins := s.dev.pins, tap := s.dev.tap }
    eth := { r.eth with replies := s.eth.replies, notices := s.eth.notices }
    wdn := { profiles := w.profiles, assocW := w.assocW, bootRec := w.bootRec, banks := w.banks, keyStore := w.keyStore, keySet := w.keySet
             nonceStore := w.nonceStore, boots := w.boots }
    chr := { records := s.chr.records, full := s.chr.full, qfull := s.chr.qfull }
    pwr := { vaux := s.pwr.vaux, vin := s.pwr.vin } }

/-- A full reset under a cause of Table 18.8, with PROFILE[1:0] at a level; boot begins again at phase 1 (Table 19.2)
(DESIGN CHOICE, log entry 65; DESIGN CHOICE, log entry 66; DESIGN CHOICE, log entry 67; DESIGN CHOICE, log entry 68). -/
def State.fullReset (s : State) (cause : Nat) (pins : BitVec 2) (hold : ResetHold) : State :=
  let b := (s.freePins.setDev .resetting).blank
  { b with
    dev := { b.dev with st := .resetting, pins := pins, reset := some { kind := 4, back := .wardenUp, hold := hold } }
    wdn := { b.wdn with boots := b.wdn.boots + 1, rstcause := pack [(8, cause), (0, 4)] } }

/-- Both VAUX inputs are gone: the device is in OFF (R407). -/
def State.powerOff (s : State) : State :=
  let b := s.blank
  { b with dev := { b.dev with st := .off, tap := { tdo := b.dev.tap.tdo } } }

/-! ### Core resets by events -/

/-- Boot is under way: in WARDEN-UP, or in a core reset. -/
def State.booting (s : State) : Bool :=
  s.dev.st == .wardenUp || (s.dev.st == .resetting && match s.dev.reset with | some r => r.kind == 3 | none => false)

/-- The hall runs: it is released in phase 6 (Table 19.2). -/
def State.hallOn (s : State) : Bool := s.coreOn || (s.booting && s.wdn.phase == 7)

/-- An event takes a core reset. While a full reset runs, or the core is still held, no core is there to reset: boot starts again at
phase 4 where it had gone further (DESIGN CHOICE, log entry 68). -/
def State.coreEvent (s : State) (cause : Nat) (hold : ResetHold) : State :=
  match s.dev.st with
  | .off => s
  | .wardenUp =>
    if s.wdn.phase = 7 then s.coreReset cause hold
    else { s with wdn := { s.wdn with phase := if 4 < s.wdn.phase.toNat then 4 else s.wdn.phase } }
  | _ =>
    (match s.dev.reset with
      | some r => if r.kind = 4 then s else s.coreReset cause (if r.hold = .thermal ∨ hold = .none then r.hold else hold)
      | none => s.coreReset cause hold)

/-- HBM initialised as at a full reset (R380, R352) (DESIGN CHOICE, log entry 68). -/
def Mem.lostHbm (m : Mem) : Mem :=
  { m with
    bytes := m.bytes.filter fun kv => decide (0x00F000000000 ≤ kv.1)
    poison := m.poison.filter fun kv => decide (0x00F000000000 ≤ 64 * kv.1)
    crc := [], parity := [] }

/-! ### Boot phases 4 to 7 -/

/-- Phase 4 (R388): the bank in force, else the other one, else no firmware. The warden section of a full reset's image runs from then
on (R391). -/
def State.verifyBank (s0 : State) : State :=
  let s := if s0.booting then s0.midBoot else s0
  let w := s.wdn
  let bank := fun (b : Bool) => w.banks[bankIx b]
  let ok := fun (b : Bool) => !(bank b).failed && imagePasses (bank b).bytes w.svnMin.toNat
  let run := fun (b : Bool) => if w.wdnFw.isEmpty then fwMeas (bank b).bytes else w.wdnFw
  if !s.booting || w.nofw || w.phase != 4 then s
  else if ok w.bank then { s with wdn := { w with phase := 5, wdnFw := run w.bank } }
  else if ok (!w.bank) then
    ({ s with wdn := { w with
        phase := 5, bootRec := w.bootRec.write (!w.bank, w.svnMin), fallback := true, staged := false, wdnFw := run (!w.bank) } } : State).record
      .fallback
  else
    ({ s with wdn := { w with phase := 4, nofw := true }, dev := { s.dev with reset := none } } : State).setDev .wardenUp

/-- Phase 5 (R407): the input in use has been in range for 10 ms; never after THERMTRIP_N (R411). -/
def State.supplyUp (s : State) (vin : Nat) : State :=
  if s.booting && s.wdn.phase == 5 && !s.dev.thermtrip && decide (10800 ≤ vin) && decide (vin ≤ 13200) then
    { s with wdn := { s.wdn with phase := 6 } }
  else s

/-- Map entries in ascending logical order (R24, R26), the spares taken, and whether a comb went without
(DESIGN CHOICE, log entry 12). -/
def Dev.mapAll (d : Dev) : List W64 × List Nat × Bool :=
  (List.finRange 64).foldl (fun (acc : List W64 × List Nat × Bool) (n : CombId) =>
    if !d.failed n.val then (acc.1 ++ [d.mapWord n.val], acc.2.1, acc.2.2)
    else match pickSpare n fun p => !d.failed p && !acc.2.1.contains p with
      | some p => (acc.1 ++ [d.mapWord p], acc.2.1 ++ [p], acc.2.2)
      | none => (acc.1 ++ [State.identityMap n], acc.2.1, true)) ([], [], false)

/-- Failed physical combs as a mask (R27). -/
def Dev.failedMask (d : Dev) : BitVec 68 :=
  (List.range 68).foldl (fun m p => if d.failed p then m ||| BitVec.ofNat 68 (2 ^ p) else m) 0

/-- Findings by physical comb. -/
def findingsOf (xs : List CombFinding) : List (Nat × W64) :=
  xs.foldl (fun (l : List (Nat × W64)) x =>
    let cols := x.cols.foldl (fun (t : BitVec 32) c => t ||| BitVec.ofNat 32 (2 ^ c.val)) 0
    Sparse.set 0 l x.phys.val (Sparse.get 0 l x.phys.val ||| pack [(32, x.other.toNat), (0, cols.toNat)])) []

/-- A write of RTE_SELF, RTE_MACHINE, CHM_ROOT or CHM_CFG before the muster; DEPUTY is ignored (R296). -/
def State.earlyWrite (s : State) (r : Reg) (v : W64) : State :=
  match r with
  | .chmRoot => { s with chm := { s.chm with prefV := getF v 18 1 == 1, pref := BitVec.ofNat 18 (getF v 0 18) } }
  | _ => s.writeReg r v

/-- The writes staged in WARDEN-UP apply at core release (Table 17.4, notes 2 and 3). -/
def State.applyStaged (s : State) : State :=
  s.dev.stagedWrites.foldl (fun (t : State) x => t.earlyWrite x.1 x.2) { s with dev := { s.dev with stagedWrites := [] } }

/-- Phase 6 (R24 to R27): self-test, the comb map, and the writes staged before; with fewer than 64 combs, or after a repeated hall
lockstep, the chip will stay in CORE-UP. -/
def State.coreBoot (s : State) (x : CombSelftest) : State :=
  if !(s.booting && s.wdn.phase == 6 && x.refclkGood) then s
  else
    let d := { s.dev with phys := findingsOf x.findings }
    let m := d.mapAll
    let short := m.2.2
    let s1 : State := { s with
      dev := { d with stuck := short || getF s.wdn.fault 1 1 == 1, faultLow := short, refclkOk := true }
      wdn := { s.wdn with phase := 7, fault := setB s.wdn.fault 0 short } }
    let s2 := s1.modCombs fun c k => { k with map := m.1.getD c.val k.map }
    (if short then s2.record (.combsShort d.failedMask) else s2).applyStaged

/-- Phase 7 (R394): the protection setup is written and closed, and the device enters CORE-UP. A TAP that mode 0 closes is held in reset
(R418). -/
def State.closeBoot (s : State) : State :=
  if !(s.booting && s.wdn.phase == 7) then s
  else
    let w := s.wdn
    ({ s with
      dev := { s.dev with reset := none, tap := if w.jtag then s.dev.tap else s.dev.tap.reset }
      wdn := { w with closed := true, protKeys := w.keys, protJtag := w.jtag, protMap := s.combs.toList.map (·.map) } } : State).setDev .coreUp

end Sys2Proof.Machine
end

