-- ==== Sys2Proof/Machine/OrderOps.lean ====
section
/-!
DEFINITION. The order protocol (17 R356 to R362): arrival, the reply cache, signatures and nonces, the allowed states, and a write of a
register by an order with the rules that refuse it.
-/
namespace Sys2Proof.Machine

/-! ### Counts (Table 17.12) -/

def State.ethCount (s : State) (lo : Nat) : State := { s with eth := { s.eth with count := satF s.eth.count lo 16 1 } }
def State.ethDisc (s : State) : State := s.ethCount 0
def State.ethDup (s : State) : State := s.ethCount 16
def State.ethAuth (s : State) : State := s.ethCount 32

/-- One more element of a count by key. -/
def tallyUp (k : Nat) : List (Nat × Nat) → List (Nat × Nat)
  | [] => [(k, 1)]
  | (j, n) :: l => if j = k then (j, n + 1) :: l else (j, n) :: tallyUp k l

/-- A STATE refusal is counted, also by order code for the record of its chime (R360) (DESIGN CHOICE, log entry 60). -/
def State.ethRefused (s : State) (code : BitVec 8) : State :=
  let s1 := s.ethCount 48
  { s1 with eth := { s1.eth with refused := tallyUp code.toNat s1.eth.refused } }

/-! ### The reply cache (R357) -/

/-- Is `seq` ahead of `high`, modulo 2^32? -/
def seqAhead (high seq : BitVec 32) : Bool := decide (seq ≠ high) && decide ((seq - high).toNat < 2 ^ 31)

/-- The entry of a source. -/
def Eth.entry (e : Eth) (src : Nat) : Option (Nat × BitVec 32 × List Reply) := e.cache.find? (·.1 == src)

/-- Replies held for a sequence number of a source. -/
def Eth.held (e : Eth) (h : OrderHdr) : List Reply :=
  match e.entry h.src with | some x => x.2.2.filter (·.seq == h.seq) | none => []

/-- More than 64 below the highest number heard from its source. -/
def Eth.old (e : Eth) (h : OrderHdr) : Bool :=
  match e.entry h.src with
  | some x => decide (64 < below x.2.1 h.seq) && decide (below x.2.1 h.seq < 2 ^ 31)
  | none => false

/-- The source is heard: its entry comes first, with the replies to the last 64 numbers, and of 17 sources the least recently heard is
dropped. -/
def Eth.hear (e : Eth) (h : OrderHdr) : Eth :=
  let x := (e.entry h.src).getD (h.src, h.seq, [])
  let high := if seqAhead x.2.1 h.seq then h.seq else x.2.1
  let y := (x.1, high, x.2.2.filter fun r => decide (below high r.seq < 64))
  { e with cache := (y :: e.cache.filter (·.1 != h.src)).take 16 }

/-! ### Checks -/

/-- The header addresses this chip (R356) (DEDUCED, log entry 30). -/
def State.addressed (s : State) (h : OrderHdr) : Bool :=
  h.magic == 0x44524F4A && h.version == 1 &&
    (if s.rte.selfValid then h.target == s.rte.selfId.setWidth 32 else h.target == 0xFFFFFFFF)

/-- The VLAN tag of a frame is that of ETH_CFG.VID, none where VID is 0 (R355, Table 17.1) (DEDUCED, log entry 96). -/
def State.tagged (s : State) (tag : Option (BitVec 12)) : Bool :=
  (match tag with | some v => v.toNat | none => 0) == getF s.eth.cfg 16 12

/-- Flags, lengths and trailer agree with Tables 17.2 and R359, and RESULT and STATE are zero; `len` is the body length that the order's own
table gives. -/
def hdrFormed (h : OrderHdr) (len : Option Nat) : Bool :=
  decide (h.flags.toNat ≤ 1) && h.result == 0 && h.state == 0 && ((h.flags == 1) == h.trailer.isSome) && h.length.toNat == h.body &&
    (match len with | some n => h.body == n | none => true) &&
    decide (24 + h.body + (if h.trailer.isSome then 130 else 0) ≤ 9088) &&
    (match h.trailer with | some t => t.zeros == 0 | none => true)

/-- Key k of the protection setup. -/
def Wdn.key (w : Wdn) (k : Nat) : Option (BitVec 456) := if h : k < 6 then w.keys[k] else none

/-- The last nonce accepted under key k. -/
def Wdn.nonce (w : Wdn) (k : Nat) : W64 := if h : k < 6 then w.nonces[k] else 0

/-- Order keys 0 to 3 are all empty (R395). -/
def Wdn.noOrderKey (w : Wdn) : Bool := (List.range 4).all fun k => (w.key k).isNone

/-- The 24 bytes of an order's header (Table 17.2). -/
def hdrBytes (h : OrderHdr) (code : BitVec 8) : List Byte :=
  leBytes 4 h.magic.toNat ++ [h.version, code, h.flags, h.result] ++ leBytes 4 h.seq.toNat ++ leBytes 4 h.length.toNat ++
    leBytes 4 h.target.toNat ++ leBytes 4 h.state.toNat

/-- What the hall checks an order for: its code, its body and that body's length where a table gives it, its keys, and its states. -/
structure OrderRule where
  code   : BitVec 8
  len    : Option Nat := none
  body   : List Byte := []
  need   : Option (List Nat) := none
  /-- accepted without a trailer although it is privileged (R395) -/
  bare   : Bool := false
  states : List DevState
  /-- 0 for the pieces of a bulk consignment (R358) -/
  cached : Bool := true

/-- The bytes that a trailer signs: the header, the body, NONCE and KEY (R359). -/
def signedBytes (h : OrderHdr) (u : OrderRule) (t : Trailer) : List Byte :=
  hdrBytes h u.code ++ u.body ++ leBytes 8 t.nonce.toNat ++ [t.key]

/-- The signature check of R359 (PRESUMED, log entry 8; DESIGN CHOICE, log entry 88). -/
def Wdn.authOk (w : Wdn) (h : OrderHdr) (u : OrderRule) : Bool :=
  match h.trailer with
  | none => u.need.isNone || u.bare
  | some t =>
    let k := t.key.toNat
    (match w.key k with
      | none => false
      | some pk =>
        (match u.need with | some ks => ks.contains k | none => true) && ed448Verify pk .order (signedBytes h u t) t.sig &&
          decide ((w.nonce k).toNat < t.nonce.toNat))

/-- An order that passes raises its key's nonce (DEDUCED, log entry 29). -/
def Wdn.takeNonce (w : Wdn) (h : OrderHdr) : Wdn :=
  match h.trailer with
  | none => w
  | some t => { w with nonceStore := w.nonceStore.write (Vector.ofFn fun k => if k.val = t.key.toNat then t.nonce else w.nonces[k]) }

/-- A refusal: counted, and answered through the cache or, for a piece of a bulk consignment, outside it
(DESIGN CHOICE, log entry 60). -/
def State.refuse (s : State) (h : OrderHdr) (code : BitVec 8) (cached : Bool) (r : Result) (b : ReplyBody) : State :=
  let s1 := match r with | .state => s.ethRefused code | .auth => s.ethAuth | _ => s
  if cached then s1.reply h code r b else s1.replyBare h.src code h.seq r b

/-- The port receives: it is up, and the device is not OFF. -/
def State.receives (s : State) : Bool := s.eth.linkUp && s.dev.st != .off

/-- Format, signature and state of an order that is to be executed (R356, R359, R360). -/
def State.judge (s : State) (h : OrderHdr) (u : OrderRule) (run : State → State) : State :=
  if !hdrFormed h u.len then s.refuse h u.code u.cached .range .none
  else if !s.wdn.authOk h u then s.refuse h u.code u.cached .auth .none
  else
    let s1 : State := { s with wdn := s.wdn.takeNonce h }
    if !u.states.contains s.dev.st then s1.refuse h u.code u.cached .state .none else run s1

/-- `n` orders more arrive behind those of which `l` tells whether the hall holds them: each is held unless 256 are (R358)
(DESIGN CHOICE, log entry 97). -/
def seatsFor : Nat → List Bool → List Bool
  | 0, l => l
  | n + 1, l => seatsFor n (l ++ [decide ((l.filter id).length < 256)])

/-- The order at the front is taken: whether the hall held it, and the state in which the orders that have come since have their places
(R358) (DESIGN CHOICE, log entry 97). -/
def State.seated (s : State) : Bool × State :=
  if s.eth.seats.isEmpty && decide (s.waiting ≤ 256) then (true, s)
  else
    let old := s.eth.seats.tail.take s.waiting
    let l := seatsFor (s.waiting - old.length) old
    (s.eth.seats.headD true, { s with eth := { s.eth with seats := if l.all id then [] else l } })

/-- An order arrives (R355 to R360) (DEDUCED, log entry 29; DESIGN CHOICE, log entry 97). -/
def State.order (s0 : State) (h : OrderHdr) (u : OrderRule) (run : State → State) : State :=
  let s := s0.seated.2
  if !s.receives then s
  else if h.port.toNat ≠ getF s.eth.cfg 0 16 ∨ s.tagged h.tag = false ∨ s.addressed h = false then s.ethDisc
  else if !s0.seated.1 then s.replyBare h.src u.code h.seq .busy .none
  else if !u.cached then s.judge h u run
  else
    let s1 : State := { s with eth := s.eth.hear h }
    if s.eth.old h then s1.ethDup
    else if (s.eth.held h).length ≠ 0 then (s.eth.held h).foldl State.sendReply s1.ethDup
    else s1.judge h u run

/-! ### States of Table 17.4 -/

def everyState : List DevState := [.wardenUp, .coreUp, .muster, .ready, .running, .quiesced, .fenced, .resetting]
def allButX : List DevState := [.wardenUp, .coreUp, .muster, .ready, .running, .quiesced, .fenced]
def coreStates : List DevState := [.coreUp, .muster, .ready, .running, .quiesced, .fenced]
def workStates : List DevState := [.ready, .running, .quiesced]

/-! ### Registers by order (R362) -/

/-- Reached by TABLE_WRITE alone. -/
def tableOnly : Reg → Bool
  | .rteSelf | .rteCableFault | .rteMachine | .rteEpoch | .rteFlip | .rteDrain | .rteHeld | .rteRetx | .rteDiscard0 | .rteDiscard1
  | .rteAgain | .rteFence _ | .rteSlice _ | .rteLogical _ | .rteBuddy _ | .rtePortacc _ _ | .rteCorr _ _ | .rteRemap _ _
  | .colGroup _ _ | .colMem _ _ _ => true
  | _ => false

/-- The COL_ registers that both orders reach. -/
def colReg : Reg → Bool
  | .colCfg | .colSpill | .colStatus | .colCount | .colAgain => true
  | _ => false

/-- WDN_, CHR_ and PWR_ registers (Table 17.4, note 1). -/
def wardenReg : Reg → Bool
  | .wdnStatus | .wdnFw | .wdnProt | .wdnFault | .wdnRstcause | .wdnLatent | .wdnAgain | .chrStatus | .chrRefused
  | .pwrStatus | .pwrVin | .pwrTherm | .pwrCtrl | .pwrEnergy | .pwrAgain => true
  | _ => false

/-- MEM_ registers (R353). -/
def memReg : Reg → Bool
  | .memStatus _ | .memStrength _ | .memRecode _ | .memErr _ | .memErrAddr _ | .memSweep _ | .memAovf _ | .memAgain _ | .memCfg => true
  | _ => false

/-- A chime lies in the future (R155, R249, R298, R381) (DEDUCED, log entry 59). -/
def State.future (s : State) (c : W64) : Bool := !s.past c

/-- OK where a condition holds, else STATE (DEDUCED, log entry 59). -/
def stateIf (b : Bool) : Result := if b then .ok else .state

/-- An entry of version `v` is writable (R248). -/
def Rte.writable (r : Rte) (v : Fin 2) : Bool := v != r.inj && r.released && r.flip == 0

/-- STP_ writes (R334). -/
def State.stpMay (s : State) : Bool := (s.dev.st == .ready || s.dev.st == .quiesced) && (s.stp.round.isNone || s.stp.undecided)

/-- Code of zone z. -/
def zoneCode (w : W64) (z : Nat) : Nat := getF w (2 * z) 2

/-- Zones that a new MEM_STRENGTH changes (DEDUCED, log entry 74). -/
def zonesChanged (old new : W64) : List Nat := (List.range 8).filter fun z => zoneCode old z != zoneCode new z

/-- The refusal of a register write by order, by the register's own rule; a bad value is RANGE before the state is looked at, since STATE
refuses what is legal in itself (Table 17.3); a locked group header (R248) is refused before its list is looked at
(DEDUCED, log entry 59) (DESIGN CHOICE, log entry 98). -/
def State.writeRule (s : State) (r : Reg) (v : W64) : Result :=
  let wc := s.dev.st == .wardenUp || s.dev.st == .coreUp
  let work := s.dev.st.working
  let mem := !(s.dev.st == .wardenUp || s.dev.st == .muster || s.dev.st == .fenced || s.dev.st == .resetting)
  match r with
  | .rteSelf | .rteMachine | .chmCfg => stateIf wc
  | .rteFlip => stateIf (v == 0 || (s.future v && s.rte.released))
  | .rteEpoch => stateIf (getF v 8 1 == 0 || s.rte.run)
  | .rteSlice ver | .rteLogical ver | .rteBuddy ver | .rtePortacc ver _ | .rteCorr ver _ | .rteRemap ver _ => stateIf (s.rte.writable ver)
  | .colGroup ver g =>
    if !s.rte.writable ver then .state
    else if getF v 63 1 = 1 ∧ (s.rte.tab[ver]).groupOk (BitVec.ofNat 8 g.val) v = false then .range else .ok
  | .colMem ver g _ => stateIf (s.rte.writable ver && !(s.rte.tab[ver]).groupValid (BitVec.ofNat 8 g.val))
  | .colCfg => stateIf (s.dev.st == .ready || s.dev.st == .quiesced)
  | .colSpill =>
    if getF v 0 20 ≠ 0 ∨ 0xF000000000 < getF v 0 48 + getF v 48 16 * 2 ^ 20 then .range
    else stateIf (s.dev.st == .ready || s.dev.st == .quiesced)
  | .chmPending => if getF v 0 26 < 36000 ∨ 36000000 < getF v 0 26 then .range else stateIf s.chm.isRoot
  | .chmRoot =>
    stateIf (wc || (s.chm.isRoot && (getF v 18 1 == 1) == s.chm.prefV && getF v 0 18 == s.chm.pref.toNat))
  | .sealLevel => if getF v 8 2 = 3 then .range else stateIf (work && s.seals.at_ == 0)
  | .sealLevelat => stateIf (work && (v == 0 || (s.future v && s.seals.at_ == 0)))
  | .stpMasterBank | .stpStep | .stpCfg | .stpStage _ => stateIf s.stpMay
  | .memStrength m =>
    if (List.range 8).any fun z => decide (getF s.mem.cfg 32 2 < zoneCode v z) then .range
    else stateIf (mem && getF (s.mcs[m] : Mc).recode 63 1 == 0 && decide ((zonesChanged (s.mcs[m] : Mc).strength v).length ≤ 1))
  | r => if memReg r then stateIf mem else .ok

/-! ### Fences (R251) -/

/-- Numbering, source entries and open receptions of chip `f` start afresh. -/
def State.renumber (s : State) (f : ChipId) : State :=
  { s with fab := { s.fab with
      next := s.fab.next.filter fun x => x.1 != f.toNat
      srcs := s.fab.srcs.filter fun x => x.src != f
      rx := s.fab.rx.filter fun x => x.src != f } }

/-- Every member that a multicast copy by link `l` surely serves is fenced: the router forms its branches again. -/
def State.deadBranch (s : State) (l : LinkId) (d : Drop) : Bool :=
  let r := s.rte
  let wraps := match d.serve r with | some x => x.2 | none => 0
  let ms := ((r.tab[d.ep].members d.group).map (r.physOf d.ep)).filter fun m =>
    m != r.selfId && m != d.src && r.onBranch wraps (some (facing l)) true d.src m == some true
  d.multi && ms.all r.fenced

/-- Does a queued drop meet the fence of chip `f`: from it, to it, on a link to it, or a copy for fenced members alone? -/
def State.meetsFence (s : State) (f : ChipId) (l : LinkId) (d : Drop) : Bool :=
  d.src == f || (!d.multi && d.dst == f) || s.expectedFar l == f || s.deadBranch l d

/-- Drops from chip `f` that have arrived, or wait for their manifest, are discarded and counted. -/
def State.dropFrom (s : State) (f : ChipId) : State :=
  let n := (s.rte.arrived.filter (·.src == f)).length + (s.fab.early.filter (·.src == f)).length
  let s1 : State := { s with
    rte := { s.rte with arrived := s.rte.arrived.filter (·.src != f) }, fab := { s.fab with early := s.fab.early.filter (·.src != f) } }
  (List.range n).foldl (fun (t : State) _ => t.discFenced) s1

/-- Chip `f` is fenced: what the links' queues hold for it, from it or on its links comes back to the router, which discards or reroutes
it; numbering restarts; collectives with it as a member end. -/
def State.fenceOne (s : State) (f : ChipId) : State :=
  let s1 := (List.finRange 24).foldl (fun (t : State) l =>
    let k : Link := t.links[l]
    (t.modLink l fun k => { k with txq := k.txq.filter fun d => !t.meetsFence f l d }).handBack l (k.txq.filter fun d => t.meetsFence f l d)) s
  ((s1.dropFrom f).renumber f).fenceColls f

/-- Chips of fence word `w` whose bits are set. -/
def fenceChips (w : Fin 4096) (m : W64) : List ChipId := (bitsOf 64 m.toNat).map fun i => BitVec.ofNat 18 (64 * w.val + i)

/-- A write of RTE_FENCEw (DEDUCED, log entry 31). -/
def State.writeFence (s : State) (w : Fin 4096) (v : W64) : State :=
  let old := Sparse.get 0 s.rte.fence w.val
  let put := fenceChips w (v &&& ~~~old)
  let s1 : State := { s with rte := { s.rte with fence := Sparse.set 0 s.rte.fence w.val v } }
  let s2 := put.foldl State.fenceOne s1
  let s3 := (fenceChips w (old &&& ~~~v)).foldl State.renumber s2
  let s4 := s3.roundFenced.quiesceFenced
  if put.contains s.rte.selfId then s4.enterFenced else s4

/-! ### Effects of register writes -/

/-- MEM_STRENGTH changes one zone and starts its recode (R346) (DEDUCED, log entry 74). -/
def State.startRecode (s : State) (m : McId) (v : W64) : State :=
  let old := (s.mcs[m] : Mc).strength
  match zonesChanged old v with
  | [] => s
  | z :: _ => s.modMc m fun k => { k with
      strength := v &&& 0xFFFF, recode := pack [(63, 1), (48, z), (44, zoneCode old z), (40, zoneCode v z)] }

/-- LNK_CTRL: EN closes or opens the link (R224); RWNOW asks for roadworks at the owner end (R220). -/
def State.writeLnkCtrl (s : State) (l : LinkId) (v : W64) : State :=
  let en := getF v 0 1 == 1
  let s1 := if (s.links[l] : Link).en = en then s else s.linkEnable l en
  if getF v 1 1 = 1 ∧ ownerEnd l = true then s1.rwTry l else s1

/-- Notices of consignments lost in a core reset go out once notices are sent again (R369) (DEDUCED, log entry 40). -/
def State.tellLost (s : State) : State :=
  if getF s.eth.notify 63 1 = 1 then
    s.eth.lost.foldl (fun (t : State) c => t.notice (.bulkLost c)) { s with eth := { s.eth with lost := [] } }
  else s

/-- A register written by an order that nothing refuses. -/
def State.orderWrite (s : State) (r : Reg) (v : W64) : State :=
  match r with
  | .rteEpoch => if getF v 8 1 = 1 then { s with rte := { s.rte with released := true } } else s
  | .rteFence w => s.writeFence w v
  | .colCfg => { s with col := { s.col with cfgNext := some (regMerge .colCfg s.col.cfg v) } }
  | .colSpill => { s with col := { s.col with spillNext := some v } }
  | .chmPending => { s with chm := { s.chm with pendV := true, pendC := BitVec.ofNat 26 (getF v 0 26), pendAt := s.chm.n + 16 } }
  | .chmRoot =>
    if s.dev.st = .coreUp then s.earlyWrite .chmRoot v
    else { s with chm := { s.chm with deputy := BitVec.ofNat 18 (getF v 40 18) } }
  | .stpStep => (s.writeReg .stpStep v).endRound
  | .memStrength m => s.startRecode m v
  | .lnkCtrl l => s.writeLnkCtrl l v
  | .ethNotify => (s.writeReg .ethNotify v).tellLost
  | r => s.writeReg r v

/-- Write registers named by an order reach: all, those of notes 2 and 3 in WARDEN-UP, or the RTE_ and COL_ ones. -/
def State.reachRule (s : State) (table : Bool) (r : Reg) : Result :=
  if s.dev.st = .wardenUp then
    (if table then (if tableOnly r || colReg r then stateIf (r == .rteSelf || r == .rteMachine) else .range)
     else stateIf (r == .chmRoot || r == .chmCfg))
  else if table then (if tableOnly r || colReg r then .ok else .range)
  else if tableOnly r then .auth
  else .ok

/-- One write of a REG_WRITE or TABLE_WRITE: the state after it, or the refusal. -/
def State.hallWrite (s : State) (table : Bool) (r : Option Reg) (v : W64) : State × Result :=
  match r with
  | none => (s, .range)
  | some r =>
    match s.reachRule table r with
    | .ok =>
      if s.dev.st = .wardenUp then ({ s with dev := { s.dev with stagedWrites := s.dev.stagedWrites ++ [(r, v)] } }, .ok)
      else (match s.writeRule r v with
        | .ok => (s.orderWrite r v, .ok)
        | x => (s, x))
    | x => (s, x)

/-- An order in execution when the chip enters FENCED is answered FENCED (R361) (DEDUCED, log entry 31). -/
def doneResult (before after : DevState) : Result := if before ≠ .fenced ∧ after = .fenced then .fenced else .ok

/-- The writes in listed order; the first refused one ends the order with its index (R362) (DEDUCED, log entry 31). -/
def State.runWrites (s : State) (h : OrderHdr) (code : BitVec 8) (table : Bool) (was : DevState) :
    Nat → List (Option Reg × W64) → State
  | _, [] => s.reply h code (doneResult was s.dev.st) .none
  | i, (r, v) :: l =>
    let x := s.hallWrite table r v
    if x.2 = .ok then x.1.runWrites h code table was (i + 1) l else s.refuse h code true x.2 (.index i)

/-- Rule of REG_WRITE and of TABLE_WRITE in Table 17.4. -/
def writeOrder (table : Bool) (fields : List Nat) : OrderRule :=
  if table then { code := 0x20, body := Config.orderBody 0x20 fields, need := some [4], states := [.wardenUp, .coreUp, .ready, .running, .quiesced, .fenced] }
  else { code := 0x03, body := Config.orderBody 0x03 fields, states := allButX }

/-- A REG_WRITE or TABLE_WRITE order (R362); `fields` are the addresses and values of its body. -/
def State.writeRegs (s : State) (h : OrderHdr) (table : Bool) (fields : List Nat) (ws : List (Option Reg × W64)) : State :=
  let u := writeOrder table fields
  s.order h u fun t => if 64 < ws.length then t.refuse h u.code true .range .none else t.runWrites h u.code table t.dev.st 0 ws

end Sys2Proof.Machine
end

