-- ==== Sys2Proof/Machine/BulkOps.lean ====
section
/-!
DEFINITION. Bulk transfers (17 R363 to R365).
-/
namespace Sys2Proof.Machine

/-- Fields that every piece of a consignment repeats (R364). -/
def samePiece (a b : BulkPiece) : Bool :=
  a.total == b.total && a.dest == b.dest && a.slot == b.slot && a.rcomb == b.rcomb && a.rcnt == b.rcnt && a.rce == b.rce && a.shdr == b.shdr

/-- The piece breaks R364 by itself. -/
def badPiece (b : BulkPiece) : Bool :=
  decide (b.total.toNat < b.offset.toNat + b.data.length) || b.offset.toNat % 64 != 0 || b.dest.toNat % 64 != 0 ||
    (b.data.length % 64 != 0 && decide (b.offset.toNat + b.data.length < b.total.toNat))

/-- A field outside Table 17.6. -/
def badFields (b : BulkPiece) : Bool :=
  decide (8192 < b.data.length) || b.total == 0 || decide (2 ^ 40 < b.total.toNat) || decide (64 ≤ b.rcomb.toNat) ||
    decide (1 < b.rce.toNat) || b.zero != 0 || (b.slot == 0 && b.shdr.any (· != 0))

/-- The body of a piece (Table 17.6). -/
def BulkPiece.body (b : BulkPiece) : List Byte :=
  leBytes 4 b.cid.toNat ++ leBytes 8 b.offset.toNat ++ leBytes 8 b.total.toNat ++ leBytes 6 b.dest.toNat ++ leBytes 2 b.slot.toNat ++
    [b.rcomb, b.rcnt, b.rce, b.zero] ++ b.shdr ++ b.data

/-- The open consignment of a source and CID. -/
def State.bulkOf (s : State) (src : Nat) (cid : BitVec 32) : Option Bulk := s.eth.bulks.find? fun b => b.src == src && b.piece.cid == cid

/-- Put a consignment back, or take it out. -/
def State.putBulk (s : State) (b : Bulk) : State :=
  { s with eth := { s.eth with bulks := updFirst (fun x => x.src == b.src && x.piece.cid == b.piece.cid) (fun _ => b) s.eth.bulks } }
def State.dropBulk (s : State) (b : Bulk) : State :=
  { s with eth := { s.eth with bulks := s.eth.bulks.filter fun x => !(x.src == b.src && x.piece.cid == b.piece.cid) } }

/-- Chunks of 64 bytes with their offsets. -/
def chunks64 : Nat → Nat → List Byte → List (Nat × List Byte)
  | 0, _, _ => []
  | n + 1, o, bs => (o, bs.take 64) :: chunks64 n (o + 64) (bs.drop 64)

/-- Chunks of a piece that nothing has written yet (R363 item 1). -/
def Bulk.fresh (b : Bulk) (p : BulkPiece) : List (Nat × List Byte) :=
  (chunks64 (ceilDiv p.data.length 64) p.offset.toNat p.data).filter fun c => !b.got.any fun r => decide (r.1 ≤ c.1 ∧ c.1 < r.1 + r.2)

/-- The body as its pieces brought it. -/
def Bulk.stream (b : Bulk) : List Byte :=
  (List.range (ceilDiv b.piece.total.toNat 64)).flatMap fun i => ((b.body.find? (·.1 == 64 * i)).map (·.2)).getD []

/-- All bytes are written and visible: the seal is asked for, or the counter moves and the final reply closes the consignment (R363 item
3, R365). -/
def State.bulkDone (s : State) (b : Bulk) : State :=
  if b.piece.slot ≠ 0 then
    s.askSeal { engine := 24, slot := b.piece.slot, src := 3, header := b.piece.shdr, body := b.stream, poison := false, owner := none
                bulk := some (b.src, b.piece.cid), addr := none }
  else
    let s1 := s.dropBulk b
    let s2 := if b.piece.rce = 1 then s1.bump ⟨b.piece.rcomb.toNat % 64, Nat.mod_lt _ (by decide)⟩ (cntIx b.piece.rcnt) 1 else s1
    s2.bulkFinal b .ok b.piece.total.toNat

/-- Bytes of a progress step: 4 MiB. -/
def bulkStep : Nat := 4194304

/-- A conforming piece is written; progress and completion follow (R363). -/
def State.takePiece (s : State) (b : Bulk) (p : BulkPiece) : State :=
  let new := b.fresh p
  if new.isEmpty then s.putBulk b
  else
    let s1 := new.foldl (fun (t : State) c => t.store (p.dest.toNat + c.1) c.2 false) s
    let b1 := { b with got := b.got ++ new.map (fun c => (c.1, c.2.length)), body := if p.slot = 0 then b.body else b.body ++ new }
    let n := b1.count
    if p.total.toNat ≤ n then (s1.putBulk b1).bulkDone b1
    else if b1.told < n / bulkStep then
      (s1.putBulk { b1 with told := n / bulkStep }).replyBare b1.src 0x04 p.cid .ok (.bulk p.cid n false)
    else s1.putBulk b1

/-- A piece of a BULK_WRITE in an allowed state: R364 is looked at before the other fields of Table 17.6 (DESIGN CHOICE, log entry 61). -/
def State.bulkPiece (s : State) (h : OrderHdr) (p : BulkPiece) : State :=
  let no := fun (t : State) (r : Result) => t.refuse h 0x04 false r .none
  let inside := s.opened p.dest.toNat p.total.toNat
  match s.bulkOf h.src p.cid with
    | some b =>
      if !samePiece b.piece p || badPiece p then no s.ethDisc .range
      else if badFields p || !inside then no s .range
      else s.takePiece b p
    | none =>
      if badPiece p then no s.ethDisc .range
      else if badFields p || !inside then no s .range
      else if 64 ≤ s.eth.bulks.length then no s .busy
      else
        let b : Bulk := { src := h.src, piece := { p with data := [] }, got := [], told := 0 }
        ({ s with eth := { s.eth with bulks := s.eth.bulks ++ [b] } } : State).takePiece b p

/-- No piece for 100 ms (R363 item 4, Table 17.7); a consignment that waits for its seal is complete
(DESIGN CHOICE, log entry 61). -/
def State.bulkExpire (s : State) (src : Nat) (cid : BitVec 32) : State :=
  match s.bulkOf src cid with
  | some b =>
    if b.piece.total.toNat ≤ b.count then s else ((s.dropBulk b).bulkFinal b .range b.count).notice (.bulkLost cid)
  | none => s

/-- Data replies of 8,192 bytes over a range (R365) (DESIGN CHOICE, log entry 61). -/
def State.bulkData (s : State) (h : OrderHdr) (addr len : Nat) (cid : BitVec 32) : State :=
  (List.range (ceilDiv len 8192)).foldl (fun (t : State) i =>
    let n := min 8192 (len - 8192 * i)
    let u := t.touch (addr + 8192 * i) n
    u.replyBare h.src 0x05 h.seq .ok (.data cid (8192 * i) (u.bytes (addr + 8192 * i) n))) s

end Sys2Proof.Machine
end

