-- ==== Sys2Proof/Machine/TimeOps.lean ====
section
/-!
DEFINITION. The muster and the distribution of the time base (13 R279 to R285) and the use of CHIME copies (R288 to R290).
-/
namespace Sys2Proof.Machine

/-! ### Candidates (R282) -/

/-- A candidate: PREF and id. -/
abbrev Cand := Nat × ChipId

/-- PREF of a chip id under CHM_ROOT. -/
def Chm.prefOf (t : Chm) (id : ChipId) : Nat := if t.prefV && t.pref == id then 0 else 1

/-- Rank order: (PREF, id), the lower one better. -/
def candLt (a b : Cand) : Bool := decide (a.1 < b.1) || (a.1 == b.1 && decide (a.2.toNat < b.2.toNat))

/-- Best and second of what is held and one more candidate. -/
def Chm.hear (t : Chm) (c : Cand) : Chm :=
  if t.best.map (·.2) = some c.2 ∨ t.second.map (·.2) = some c.2 then t
  else match t.best, t.second with
    | none, _ => { t with best := some c }
    | some b, none => if candLt c b then { t with best := some c, second := some b } else { t with second := some c }
    | some b, some d =>
      if candLt c b then { t with best := some c, second := some b } else if candLt c d then { t with second := some c } else t

/-- The two candidates that an ELECT symbol carries; id 0x3FFFF with PREF 0xFF means none. -/
def electCands (x : ElectSym) : List Cand :=
  let cand := fun (id : ChipId) (p : BitVec 8) => if id = 0x3FFFF ∧ p = 0xFF then [] else [((p.toNat, id) : Cand)]
  cand x.best x.bestPref ++ cand x.second x.secondPref

/-- A candidate in a symbol's fields. -/
def candField (c : Option Cand) : ChipId × BitVec 8 :=
  match c with
  | some (p, id) => (id, BitVec.ofNat 8 p)
  | none => (0x3FFFF, 0xFF)

/-- Election as phase 4 begins: the chip itself where RTE_SELF is valid (R279). -/
def State.beginElect (s : State) : State :=
  let own := if s.rte.selfValid then some ((s.chm.prefOf s.rte.selfId, s.rte.selfId) : Cand) else none
  { s with chm := { s.chm with phase := 4, best := own, second := none, heard := false, timeSent := false } }

/-- Links in ALIGNED. -/
def State.alignedLinks (s : State) : List LinkId := (List.finRange 24).filter fun l => (s.links[l] : Link).st == .aligned

/-- Those that carry ELECT and TIME: a link found to hold another BASE carries neither (R285). -/
def State.musterLinks (s : State) : List LinkId := s.alignedLinks.filter fun l => !(s.links[l] : Link).chimex

/-- A link that is up brings PING and ECHO in ALIGNED, and every MUSTER symbol while its CHIMEX is 0 (R222, R280, R285). -/
def State.hears (s : State) (l : LinkId) (measure : Bool) : Bool :=
  let k : Link := s.links[l]
  k.st.up && (!k.chimex || (measure && k.st == .aligned))

/-- The ELECT symbol that this chip sends: its candidates, or the root and deputy of the base it runs (R282, R284). -/
def State.electSym (s : State) : ElectSym :=
  let t := s.chm
  let none_ := fun (id : ChipId) => if id = 0x3FFFF then none else some ((t.prefOf id, id) : Cand)
  let b := candField (if t.running then none_ t.elected else t.best)
  let d := candField (if t.running then none_ t.deputy else t.second)
  ⟨b.1, b.2, d.1, d.2, t.running, if t.running then t.base else 0⟩

/-- The TIME symbol that this chip sends (Table 13.3); the launch delay is a free value (DEDUCED, log entry 57). -/
def State.timeSym (s : State) : TimeSym × State :=
  let (w, s1) := s.draw
  let t := s.chm
  (⟨BitVec.ofNat 64 t.tb, BitVec.ofNat 6 t.frac, w.setWidth 16, BitVec.ofNat 8 (min 255 (t.hops.toNat + 1)), t.elected, t.base,
    BitVec.ofNat 64 t.t0, t.ival.setWidth 32, t.n + 1, BitVec.ofNat 64 t.nextAt⟩, s1)

/-- TIME on links (DESIGN CHOICE, log entry 55). -/
def State.sendTime (s : State) (ls : List LinkId) : State :=
  ls.foldl (fun (t : State) l => let (x, u) := t.timeSym; u.emit l (.time x)) s

/-- A symbol of another BASE: the link carries no CHIME or MUSTER symbol from now on (R285) (DEDUCED, log entry 57). -/
def State.foreignBase (s : State) (l : LinkId) : State :=
  if (s.links[l] : Link).chimex then s else (s.modLink l fun k => { k with chimex := true }).record (.chimeExcluded l)

/-! ### Muster (R279 to R283) -/

/-- The machine is one chip. -/
def Rte.alone (r : Rte) : Bool := r.dim 0 == 1 && r.dim 1 == 1 && r.dim 2 == 1

/-- A muster phase ends (Table 13.2): phase 1 repeats while no link is ALIGNED, and phase 5 falls back to the election
(DESIGN CHOICE, log entry 6). -/
def State.phaseDone (s : State) : State :=
  if s.dev.st ≠ .muster then s
  else match s.chm.phase.toNat with
    | 1 =>
      if s.alignedLinks.isEmpty && !s.rte.alone then
        { s with links := s.links.map fun k => if k.st = .failed ∧ k.en then k.restart else k }
      else s.alignedLinks.foldl State.startPings { s with chm := { s.chm with phase := 2 } }
    | 2 => { s with chm := { s.chm with phase := 3 } }
    | 3 => s.beginElect
    | 5 => s.beginElect
    | _ => s

/-- Mean of samples of twice the delay, rounded to the nearest 1/64 cycle. -/
def meanDelay (xs : List Int) : Nat :=
  let n : Int := 2 * (xs.length : Int)
  ((2 * xs.foldl (· + ·) 0 + n) / (2 * n)).toNat

/-- The 256th sample: the mean is written, CHIMEX cleared, and R210 checked (R280). -/
def State.delayDone (s : State) (l : LinkId) (xs : List Int) : State :=
  let d := meanDelay xs
  let s1 : State := { s with chm := { s.chm with link := s.chm.link.set l (BitVec.ofNat 64 (d % 2 ^ 22)) } }
  let s2 := s1.modLink l fun k => { k with
    samples := [], delay := setF k.delay 0 16 (d / 64), chimex := false, matched := !s.miscabled l }
  if 64 * flightMax < d then s2.linkFail l else s2

/-- One ECHO (R280): a sample, and the next PING until 256 are sent. -/
def State.onEcho (s : State) (l : LinkId) (x : EchoSym) : State :=
  let k : Link := s.links[l]
  if k.st ≠ .aligned ∨ k.pings = 0 ∨ k.matched then s
  else
    let v : Int := (x.t4 - x.t1).toInt - (x.t3 - x.t2).toInt
    let xs := k.samples ++ [v]
    if xs.length < 256 then (s.modLink l fun k => { k with samples := xs }).ping l else s.delayDone l xs

/-- PING (R280): the ECHO carries t1 and two stamps of this end's local count, which are free values; the end of a link that is still to be
measured under a running time base begins its own PINGs. -/
def State.onPing (s : State) (l : LinkId) (t1 : BitVec 64) : State :=
  if !s.hears l true then s
  else
    let (t2, s1) := s.draw
    let (t3, s2) := s1.draw
    let s3 := s2.emit l (.echo t1 t2 t3)
    let k : Link := s.links[l]
    if s.chm.running && k.st == .aligned && k.pings == 0 && !k.matched then s3.startPings l else s3

/-- The root starts the time base (R283). -/
def State.startBase (s : State) : State :=
  let base : W64 := BitVec.ofNat 64 (s.rte.selfId.toNat + s.chm.local_ % 2 ^ 46 * 2 ^ 18)
  let s1 : State := { s with chm := { s.chm with
    running := true, tb := 0, frac := 0, base := base, t0 := 36000000, n := BitVec.allOnes 64, nextAt := 36000000
    ival := s.chm.ival, tbSetAt := 0, hops := 0, phase := 6 } }
  s1.sendTime s1.musterLinks

/-- The election settles (R282). -/
def State.settle (s : State) : State :=
  if s.dev.st ≠ .muster ∨ s.chm.phase ≠ 4 then s
  else match s.chm.best with
    | none => (({ s with chm := { s.chm with phase := 0 } } : State).setDev .coreUp).record .noCandidate
    | some (_, root) =>
      let dep := (s.chm.second.map (·.2)).getD 0x3FFFF
      let me := s.rte.selfId
      let own := s.rte.selfValid
      let s1 : State := { s with chm := { s.chm with
        elected := root, deputy := dep, isRoot := own && root == me, isDeputy := own && dep == me, phase := 5 } }
      if s1.chm.isRoot then s1.startBase else s1

/-- ELECT (R282, R284, R285) (DEDUCED, log entry 57). -/
def State.onElect (s : State) (l : LinkId) (x : ElectSym) : State :=
  if !s.hears l false then s
  else if s.chm.running then
    (if x.running then (if x.base = s.chm.base then s else s.foreignBase l)
     else (s.emit l (.elect s.electSym)).sendTime [l])
  else if s.dev.st = .muster ∧ s.chm.phase = 4 then
    (if x.running then
      { s with chm := { s.chm with
        heard := true, base := x.base, elected := x.best, deputy := x.second, isRoot := false
        isDeputy := s.rte.selfValid && x.second == s.rte.selfId, phase := 5 } }
     else { s with chm := (electCands x).foldl Chm.hear s.chm })
  else s

/-- TIME (R283): the time base is set, adopted and forwarded once (DESIGN CHOICE, log entry 55). -/
def State.onTime (s : State) (l : LinkId) (x : TimeSym) : State :=
  if !s.hears l false then s
  else if s.chm.running then (if x.base = s.chm.base then s else s.foreignBase l)
  else if s.dev.st = .muster ∧ (s.chm.phase = 4 ∨ s.chm.phase = 5) then
    let total := x.tb.toNat * 64 + x.frac.toNat + x.launch.toNat + (s.chm.link[l]).toNat
    let s1 : State := { s with chm := { s.chm with
      running := true, tb := total / 64, frac := total % 64, base := x.base, t0 := x.t0.toNat, n := x.nextN - 1, nextAt := x.nextAt.toNat
      ival := x.ival.setWidth 26, elected := x.root, hops := x.hops, tbSetAt := total / 64, phase := 6, timeSent := true
      isRoot := false } }
    s1.sendTime s1.musterLinks
  else s

/-! ### CHIME copies (R288 to R290) -/

/-- A CHIME copy arrives (R288 to R290): the first one of its chime is forwarded, once, and the one of lowest HOPS is kept for the end of its
chime; which of two with the same HOPS is kept, and how long a chip knows what it has forwarded, is the model's
(DESIGN CHOICE, log entry 55). -/
def State.onChime (s : State) (l : LinkId) (x : ChimeSym) (stamp : BitVec 70) : State :=
  let t := s.chm
  let k : Link := s.links[l]
  if !t.running ∨ !k.st.up ∨ k.chimex then s
  else if x.base ≠ t.base then s.foreignBase l
  else if some x.root = s.rte.named then s
  else if t.isRoot && !candLt (t.prefOf x.root, x.root) (t.prefOf s.rte.selfId, s.rte.selfId) then s
  else
    let s1 : State := { s with chm := { t with isRoot := false, copies := t.keepCopy x (t.offsetOf l x stamp) } }
    if t.fwd.contains x.n ∨ fwdSpan ≤ t.since x.n ∨ t.syncloss then s1
    else
      let u : State := { s1 with chm := { s1.chm with fwd := t.fwd ++ [x.n] } }
      (u.chimeLinks.filter (· != l)).foldl (fun (v : State) m =>
        let (w, v1) := v.draw
        v1.emit m (.chime { x with launch := w.setWidth 16, hops := BitVec.ofNat 8 (min 255 (x.hops.toNat + 1)) })) u

/-- SILENT chimes without a copy (R290): the deputy becomes root, another chip is an orphan (DESIGN CHOICE, log entry 55). -/
def State.succession (s : State) : State :=
  let t := s.chm
  if !t.running ∨ t.isRoot ∨ t.silent < max 1 (getF t.cfg 0 4) then s
  else if t.isDeputy then
    { s with chm := { t with isRoot := true, isDeputy := false, deputy := 0x3FFFF, elected := s.rte.selfId, silent := 0, orphan := false } }
  else { s with chm := { t with orphan := true } }

end Sys2Proof.Machine
end

