-- ==== Sys2Proof/Machine/Orders.lean ====
section
/-!
DEFINITION. Meanings of the orders for registers, bulk data, muster, programs and chimes, of the resets by order, and of the port itself
(17 R354 to R369; 07 R153 to R156; 18 R381).
-/
namespace Sys2Proof.Machine

/-! ### Registers -/

/-- STATUS (R360). -/
def execStatus (h : OrderHdr) (s : State) : Out :=
  .next (s.order h { code := 0x01, body := Config.orderBody 0x01 [], states := everyState } fun t =>
    t.reply h 0x01 .ok (.status t.rte.selfId t.chm.base t.chm.n))

/-- Registers are read in listed order, each at its own moment; the first refused one ends the order (R362)
(DEDUCED, log entry 59). -/
def State.runReads (s : State) (h : OrderHdr) : Nat → List W64 → List (BitVec 48) → State
  | _, vs, [] => s.reply h 0x02 .ok (.values vs)
  | i, vs, a :: l =>
    match regAt a.toNat with
    | none => s.refuse h 0x02 true .range (.index i)
    | some r =>
      if (s.dev.st = .wardenUp ∨ s.dev.st = .resetting) ∧ wardenReg r = false then s.refuse h 0x02 true .state (.index i)
      else
        let s1 := s.meter r
        s1.runReads h (i + 1) (vs ++ [s1.readReg r]) l

/-- REG_READ (R362). -/
def execRegRead (h : OrderHdr) (addrs : List (BitVec 48)) (s : State) : Out :=
  .next (s.order h { code := 0x02, body := Config.orderBody 0x02 (addrs.map (·.toNat)), states := everyState } fun t =>
    if 64 < addrs.length then t.refuse h 0x02 true .range .none else t.runReads h 0 [] addrs)

/-- Addresses as registers. -/
def regPairs (ws : List (BitVec 48 × BitVec 64)) : List (Option Reg × W64) := ws.map fun w => (regAt w.1.toNat, w.2)

/-- Addresses and values in the order of a body. -/
def regFields (ws : List (BitVec 48 × BitVec 64)) : List Nat := ws.flatMap fun w => [w.1.toNat, w.2.toNat]

/-- REG_WRITE (R362). -/
def execRegWrite (h : OrderHdr) (ws : List (BitVec 48 × BitVec 64)) (s : State) : Out :=
  .next (s.writeRegs h false (regFields ws) (regPairs ws))

/-- TABLE_WRITE (R362). -/
def execTableWrite (h : OrderHdr) (ws : List (BitVec 48 × BitVec 64)) (s : State) : Out :=
  .next (s.writeRegs h true (regFields ws) (regPairs ws))

/-! ### Bulk -/

/-- BULK_WRITE (R363, R364). -/
def execBulkWrite (h : OrderHdr) (b : BulkPiece) (s : State) : Out :=
  .next (s.order h
    { code := 0x04, len := some (64 + b.data.length), body := BulkPiece.body b, states := [.coreUp, .ready, .running, .quiesced]
      cached := false }
    fun t => t.bulkPiece h b)

/-- BULK_TIMEOUT (R363) (DESIGN CHOICE, log entry 4; DESIGN CHOICE, log entry 73). -/
def execBulkTimeout (src : Nat) (cid : BitVec 32) (s : State) : Out := .next (s.bulkExpire src cid)

/-- BULK_READ (R365); one of length 0 is answered RANGE (DESIGN CHOICE, log entry 61). -/
def execBulkRead (h : OrderHdr) (addr : BitVec 48) (len : BitVec 32) (cid : BitVec 32) (s : State) : Out :=
  .next (s.order h
    { code := 0x05, body := Config.orderBody 0x05 [addr.toNat, len.toNat, cid.toNat]
      states := [.coreUp, .ready, .running, .quiesced, .fenced] } fun t =>
    if len.toNat = 0 ∨ 2 ^ 30 < len.toNat ∨ t.opened addr.toNat len.toNat = false then t.refuse h 0x05 true .range .none
    else t.bulkData h addr.toNat len.toNat cid)

/-! ### Muster and programs -/

/-- The muster begins: every link that is not held closed trains again, and what an earlier one left is forgotten (R279, R224, R396)
(DESIGN CHOICE, log entry 64). -/
def State.beginMuster (s : State) : State :=
  let p := s.profNow
  ({ s with
    chm := { s.chm with phase := 1, ival := p.ival, best := none, second := none, heard := false, timeSent := false }
    rte := { s.rte with cableFault := 0 }
    links := s.links.map fun k => if k.en then k.restart else k
    dev := { s.dev with tap := if TapInstr.drives s.dev.tap.instr then s.dev.tap.reset else s.dev.tap } } : State).setDev .muster

/-- MUSTER (R279); a chip held in CORE-UP refuses it (R27, Table 18.3). -/
def execMuster (h : OrderHdr) (s : State) : Out :=
  .next (s.order h { code := 0x06, body := Config.orderBody 0x06 [], states := [.coreUp] } fun t =>
    if t.dev.stuck then t.refuse h 0x06 true .state .none else t.beginMuster.reply h 0x06 .ok .none)

/-- May a load change the comb (R154)? -/
def SeqState.loadable : SeqState → Bool
  | .empty | .loaded | .halted | .faulted => true
  | _ => false

/-- LOAD (R154): accepted, the combs are LOADING until the load completes (DEDUCED, log entry 59; DESIGN CHOICE, log entry 62). -/
def execLoad (h : OrderHdr) (img : BitVec 48) (combs : BitVec 64) (s : State) : Out :=
  .next (s.order h { code := 0x07, body := Config.orderBody 0x07 [img.toNat, combs.toNat], states := workStates } fun t =>
    let cs := maskCombs combs
    if cs.any fun c => !(t.comb c).seq.st.loadable then t.refuse h 0x07 true .state .none
    else match t.readImage img.toNat with
      | (none, u) => u.refuse h 0x07 true .range .none
      | (some im, t1) =>
        let t2 := cs.foldl (fun (u : State) c => (u.loadComb c im).setSeqSt c .loading) t1
        ({ t2 with eth := { t2.eth with loads := t2.eth.loads ++ [⟨h.seq, combs, img.toNat⟩] } } : State).reply h 0x07 .ok .none)

/-- LOAD_COMPLETE (R154): the combs are LOADED, and one notice names the order and the combs, unless a reset took one of them
(DESIGN CHOICE, log entry 62). -/
def execLoadComplete (seq : BitVec 32) (s : State) : Out :=
  .next (
    match s.eth.loads.find? (·.seq == seq) with
    | none => s
    | some j =>
      let cs := maskCombs j.combs
      let whole := cs.all fun c => (s.comb c).seq.st == .loading
      let s1 := { s with eth := { s.eth with loads := s.eth.loads.erase j } }
      let s2 := cs.foldl (fun (u : State) c => if (u.comb c).seq.st = .loading then u.setSeqSt c .loaded else u) s1
      if whole then s2.notice (.load j.seq j.combs) else s2)

/-- May a start arm the comb (R155)? -/
def SeqState.startable : SeqState → Bool
  | .loaded | .halted | .faulted => true
  | _ => false

/-- A comb is armed for chime C (R155). -/
def Seq.arm (q : Seq) (c : W64) (v : Vector W64 8) : Seq :=
  { q with
    st := .armed, startAt := some c, stall := .none, wait := none, fetched := none
    s := Vector.ofFn fun i => if h : i.val < 8 then v[i.val] else q.s[i]
    pc := match q.prog with | some p => p.entry | none => 0
    loops := [], fault := setF q.fault 0 8 0, frame := setF q.frame 32 32 0 }

/-- START (R155). -/
def execStart (h : OrderHdr) (combs : BitVec 64) (chime : BitVec 64) (v : Vector (BitVec 64) 8) (s : State) : Out :=
  .next (s.order h
    { code := 0x08, body := Config.orderBody 0x08 (combs.toNat :: chime.toNat :: v.toList.map (·.toNat)), states := [.ready, .running] } fun t =>
    let cs := maskCombs combs
    if (cs.any fun c => !(t.comb c).seq.st.startable) || !t.future chime then t.refuse h 0x08 true .state .none
    else (cs.foldl (fun (u : State) c => u.modSeq c fun q => q.arm chime v) t).refresh.reply h 0x08 .ok .none)

/-! ### Quiesce, resume, root -/

/-- QUIESCE (R294) (DESIGN CHOICE, log entry 63). -/
def execQuiesce (h : OrderHdr) (chime : BitVec 64) (s : State) : Out :=
  .next (s.order h { code := 0x09, body := Config.orderBody 0x09 [chime.toNat], states := [.ready, .running] } fun t =>
    ({ t with chm := { t.chm with qReq := some chime } } : State).reply h 0x09 .ok .none)

/-- RESUME (R147) (DESIGN CHOICE, log entry 63). -/
def execResume (h : OrderHdr) (chime : BitVec 64) (s : State) : Out :=
  .next (s.order h { code := 0x0A, body := Config.orderBody 0x0A [chime.toNat], states := [.quiesced] } fun t =>
    ({ t with chm := { t.chm with resumeAt := some chime } } : State).reply h 0x0A .ok .none)

/-- NAME_ROOT (R290): a new root and deputy for the base; a chip of another base refuses it (DESIGN CHOICE, log entry 64). -/
def execNameRoot (h : OrderHdr) (root deputy : BitVec 18) (base : BitVec 64) (s : State) : Out :=
  .next (s.order h
    { code := 0x0E, body := Config.orderBody 0x0E [root.toNat, deputy.toNat, base.toNat], states := workStates } fun t =>
    if t.chm.base ≠ base then t.refuse h 0x0E true .state .none
    else
      let mine := some root == t.rte.named
      ({ t with chm := { t.chm with
          elected := root, deputy := deputy, isRoot := mine, isDeputy := some deputy == t.rte.named, silent := 0
          hops := if mine then 0 else t.chm.hops, orphan := t.chm.orphan && !mine } } :
        State).reply h 0x0E .ok .none)

/-! ### Resets (R381) -/

/-- Order keys 0 to 3. -/
def orderKeys : Option (List Nat) := some [0, 1, 2, 3]

/-- The keys that Table 17.4 requires for a code. -/
def keysFor (code : BitVec 8) : Option (List Nat) :=
  if code = 0x20 then some [4]
  else if code = 0x25 then some [5]
  else if 0x21 ≤ code.toNat ∧ code.toNat ≤ 0x26 then orderKeys
  else none

/-- The body of a RESET order (Table 18.9). -/
def resetBody (kind : BitVec 8) (combs chime : W64) : List Byte :=
  (kind :: List.replicate 7 0) ++ leBytes 8 combs.toNat ++ leBytes 8 chime.toNat

/-- What a RESET order is checked for (R381). -/
def resetRule (kind : BitVec 8) (combs chime : W64) (states : List DevState) : OrderRule :=
  { code := 0x21, len := some 24, body := resetBody kind combs chime, need := orderKeys, states := states }

/-- A comb or compute reset waits for its chime. -/
def State.resetLater (s : State) (h : OrderHdr) (compute : Bool) (combs chime : W64) : State :=
  if (if compute then combs ≠ 0 else combs = 0) ∨ (chime ≠ 0 ∧ s.future chime = false) then s.refuse h 0x21 true .range .none
  else
    let j : ResetJob := { hdr := h, compute := compute, combs := combs, chime := if chime = 0 then s.chm.n + 1 else chime }
    { s with dev := { s.dev with jobs := s.dev.jobs ++ [j] } }

/-- RESET_COMB (R381). -/
def execResetComb (h : OrderHdr) (combs : BitVec 64) (chime : BitVec 64) (s : State) : Out :=
  .next (s.order h (resetRule 0 combs chime workStates) fun t => t.resetLater h false combs chime)

/-- RESET_COMPUTE (R381). -/
def execResetCompute (h : OrderHdr) (combs : BitVec 64) (chime : BitVec 64) (s : State) : Out :=
  .next (s.order h (resetRule 1 combs chime [.ready, .running, .quiesced, .fenced]) fun t => t.resetLater h true combs chime)

/-- RESET_CORE (R381): the reply, then the reset. -/
def execResetCore (h : OrderHdr) (s : State) : Out :=
  .next (s.order h (resetRule 2 0 0 coreStates) fun t =>
    (t.reply h 0x21 .ok .none).coreReset 1 .none)

/-- RESET_FULL (R381): the reply, then the reset, which finds PROFILE[1:0] at a level (R416). -/
def execResetFull (x : FullResetIn) (s : State) : Out :=
  .next (s.order x.hdr (resetRule 3 0 0 everyState) fun t => (t.reply x.hdr 0x21 .ok .none).fullReset 1 x.pins .none)

/-! ### The port -/

/-- ARP_REQUEST (R354, R355): answered for the device's own addresses. -/
def execArpRequest (x : NdFrame) (s : State) : Out :=
  .next (
    if !s.receives then s
    else if getF s.eth.cfg 33 1 = 1 ∧ ¬ x.isProtected ∧ getF s.eth.cfg 34 1 = 0 then s.ethDisc
    else if !s.tagged x.tag then s.ethDisc
    else if x.target ≠ (if x.v6 then s.wdn.core.ip6 else s.wdn.core.ip4.setWidth 128) then s
    else
      let t := s.frameOut
      if t.1 then { t.2 with eth := { t.2.eth with nd := t.2.eth.nd ++ [(x.v6, t.2.wdn.core.mac)] } } else t.2)

/-- ETH_LINK_CHANGE (R21). -/
def execEthLinkChange (up : Bool) (s : State) : Out :=
  .next (if s.dev.st = .off then s else { s with eth := { s.eth with linkUp := up } })

/-- ETHERNET_FRAME (R355, R356): discarded and counted, or answered RANGE for an unknown code or a body outside its table
(DESIGN CHOICE, log entry 60). -/
def execEthernetFrame (x : FrameIn) (s : State) : Out :=
  .next (
    if !s.receives then s
    else match x with
      | .badFcs | .featureBreach | .badMagic | .badVersion | .badTarget => s.ethDisc
      | .badMacsec | .unprotected => if getF s.eth.cfg 33 1 = 1 then s.ethDisc else s
      | .unknownCode h code =>
        s.order h { code := code, body := Config.orderBody code.toNat [], states := everyState } fun t => t.refuse h code true .range .none
      | .badBody h code body =>
        s.order h { code := code, len := some body.length, body := body, need := keysFor code, states := everyState } fun t =>
          t.refuse h code true .range .none)

end Sys2Proof.Machine
end

