-- ==== Sys2Proof/Machine/Power.lean ====
section
/-!
DEFINITION. Meanings of supply, clock, thermal and pin events, of the latent-fault tests, of boot phases and of a reset's end (18 R376,
R380, R383; 19 R387 to R394; 20 R404 to R418).
-/
namespace Sys2Proof.Machine

/-! ### Monitors and lockstep -/

/-- 600 s in array cycles (Table 18.3). -/
def hallWindow : Nat := 2160000000000

/-- HALL_LOCKSTEP (R33): a second one within 600 s leaves WDN_FAULT.HALL set. -/
def execHallLockstep (s : State) : Out :=
  .next (
    if !s.hallOn then s
    else
      let again := s.wdn.hallResets.any fun t => decide (s.chm.local_ < t + hallWindow)
      let s1 := { s with wdn := { s.wdn with hallResets := s.wdn.hallResets ++ [s.chm.local_] } }
      let s2 := if again then s1.faultBit 1 else s1
      (s2.record .hallLockstep).coreReset 5 .none)

/-- CLOCK_MONITOR_FAULT (R380): core reset, held until REFCLK is good (DEDUCED, log entry 56). -/
def execClockMonitorFault (s : State) : Out :=
  .next (
    if s.dev.st = .off then s
    else ((({ s with dev := { s.dev with refclkOk := false } } : State).faultBit 4).coreEvent 6 .refclk))

/-- RAIL_MONITOR_FAULT (R380) (DEDUCED, log entry 56). -/
def execRailMonitorFault (s : State) : Out := .next (if s.dev.st = .off then s else (s.faultBit 3).coreEvent 7 .none)

/-! ### VIN (R404 to R407) -/

/-- Between 10.2 V and 13.8 V. -/
def vinOk (mv : Nat) : Bool := decide (10200 ≤ mv) && decide (mv ≤ 13800)

/-- Both inputs are measured. -/
def State.measure (s : State) (va vb : Nat) : State :=
  { s with pwr := { s.pwr with va := BitVec.ofNat 16 va, vb := BitVec.ofNat 16 vb, vin := (vinOk va, vinOk vb) } }

/-- The load moves to the other input (R406). -/
def State.transfer (s : State) (va vb : Nat) : State :=
  let xf : BitVec 16 := if s.pwr.xfers = 0xFFFF then 0xFFFF else s.pwr.xfers + 1
  ({ s with pwr := { s.pwr with onB := !s.pwr.onB, xfers := xf } } : State).record (.vinTransfer va vb)

/-- VIN_TRANSFER (R406): the input in use is out of range and the other one holds. -/
def execVinTransfer (va vb : Nat) (s : State) : Out :=
  .next (
    if s.dev.st = .off then s
    else
      let s1 := s.measure va vb
      let used := if s.pwr.onB then vinOk vb else vinOk va
      let other := if s.pwr.onB then vinOk va else vinOk vb
      if !used && other then s1.transfer va vb else s1)

/-- VIN_TRANSFER_BACK (R406): the preferred input has stayed between 10.8 V and 13.2 V for 10 ms. -/
def execVinTransferBack (va vb : Nat) (s : State) : Out :=
  .next (
    if s.dev.st = .off then s
    else
      let s1 := s.measure va vb
      let v := if s.pwr.pref then vb else va
      if s.pwr.pref != s.pwr.onB && decide (10800 ≤ v) && decide (v ≤ 13200) then s1.transfer va vb else s1)

/-- SUPPLY_LOSS (R380, R406): neither input holds; HBM survives only where one stayed at 9.0 V or above
(DEDUCED, log entry 56). -/
def execSupplyLoss (va vb : Nat) (held9V : Bool) (s : State) : Out :=
  .next (
    if s.dev.st = .off then s
    else
      let s1 := s.measure va vb
      if vinOk va || vinOk vb then s1
      else
        let s2 := (s1.faultBit 3).coreEvent 8 .supply
        if held9V then s2
        else { s2 with mem := s2.mem.lostHbm, wdn := { s2.wdn with rstcause := setB s2.wdn.rstcause 3 true } })

/-- A full reset has ended: boot phases 2 and 3 are behind, and WARDEN-UP begins (R378, R387). -/
def State.fullDone (s : State) : State := ({ s.midBoot with dev := { s.midBoot.dev with reset := none } } : State).setDev .wardenUp

/-- VAUX_CHANGE (R407, Table 17.5): the first input present takes the power-on reset, which finds PROFILE[1:0] at `pins`; the loss of one
input is recorded, of both ends in OFF. -/
def execVauxChange (on : Bool × Bool) (pins : BitVec 2) (s : State) : Out :=
  .next (
    let (a, b) := on
    let old := s.pwr.vaux
    let s1 := { s with pwr := { s.pwr with vaux := on } }
    if s.dev.st = .off then
      (if !(a || b) then s1
       else if s.dev.porstLow then s1.fullReset 0x0A pins .porst
       else (s1.fullReset 0x0B pins .none).fullDone)
    else if !(a || b) then s1.powerOff
    else
      let s2 := if old.1 && !a then s1.record (.vauxLost false) else s1
      if old.2 && !b then s2.record (.vauxLost true) else s2)

/-! ### Pins -/

/-- PORST (R380, R416): low takes a full reset and holds it; at the rise PROFILE[1:0] is read. -/
def execPorst (low : Bool) (pins : BitVec 2) (s : State) : Out :=
  .next (
    let s1 := { s with dev := { s.dev with porstLow := low, alive := if low then false else s.dev.alive } }
    if s.dev.st = .off then s1
    else if low then s1.fullReset 0x0A pins .porst
    else match s1.dev.reset with
      | some r =>
        if r.hold = .porst then { s1 with dev := { s1.dev with pins := pins, reset := some { r with hold := .none } } } else s1
      | none => s1)

/-- WARDEN_WATCHDOG (R383): the warden has made no progress for 100 ms (DESIGN CHOICE, log entry 73). -/
def execWardenWatchdog (pins : BitVec 2) (s : State) : Out :=
  .next (if s.dev.st = .off ∨ s.dev.porstLow then s else s.fullReset 0x0C pins .none)

/-- ALIVE_TOGGLE (R383). -/
def execAliveToggle (s : State) : Out :=
  .next (if s.dev.st = .off ∨ s.dev.porstLow then s else { s with dev := { s.dev with alive := !s.dev.alive } })

/-- The IDCODE word, bit 0 first (R417) (PRESUMED, log entry 107). -/
def idcodeBits : List Bool :=
  let w : BitVec 32 := BitVec.setWidth 32 (pack [(0, 1), (1, Config.manufacturer.toNat), (12, 0x6424), (28, 1)])
  (List.range 32).map w.getLsbD

/-- What the data register of an instruction captures (R417; the bit of BYPASS is 0 as IEEE 1149.1 has it) (PRESUMED, log entry 107). -/
def TapIn.capture (x : TapIn) (i : TapInstr) : List Bool :=
  match i with
  | .bypass => [false]
  | .idcode => idcodeBits
  | .samplePreload | .extest | .extestPulse | .extestTrain => x.cells

/-- An instruction takes effect, and its data register is scanned: the bits that leave by TDO, and the output stage of the boundary cells, which
drive the pins under the EXTEST instructions (PRESUMED, log entry 107). -/
def Tap.load (t : Tap) (x : TapIn) (i : TapInstr) : Tap :=
  let r := TapIn.capture x i ++ x.tdi
  let n := x.tdi.length
  { t with
    instr := i, trstN := x.trstN, drive := TapInstr.drives i, tdo := t.tdo ++ r.take n
    cells := if n = 0 ∨ i = .bypass ∨ i = .idcode then t.cells else r.drop n }

/-- TAP_INSTRUCTION (R416 to R418): TRST_N low, and mode 0 once boot has closed, hold the TAP in Test-Logic-Reset; outside WARDEN-UP and
CORE-UP an EXTEST is a BYPASS, with one record. -/
def execTapInstruction (x : TapIn) (s : State) : Out :=
  .next (
    let t := s.dev.tap
    let put := fun (y : Tap) => ({ s with dev := { s.dev with tap := y } } : State)
    if s.dev.st = .off then s
    else if !x.trstN || (s.wdn.closed && !s.wdn.protJtag) then put { t.reset with trstN := x.trstN }
    else if TapInstr.drives x.instr && !(s.dev.st == .wardenUp || s.dev.st == .coreUp) then (put (t.load x .bypass)).record .tapBypass
    else put (t.load x x.instr))

/-! ### Throttling and heat (R408 to R411) -/

/-- The hottest sensor is read: below 102 °C the crossing is armed again. -/
def State.heat (s : State) (t : Nat) : State :=
  { s with pwr := { s.pwr with tjmax := BitVec.ofNat 8 (min 255 t), overArmed := s.pwr.overArmed || decide (t < 102) } }

/-- THERMAL_REQUEST (R409): 1 ms at 95 °C or more, or 10 ms below 92 °C. -/
def execThermalRequest (t : Nat) (deeper : Bool) (s : State) : Out :=
  .next (
    if s.dev.st = .off then s
    else
      let s1 := s.heat t
      let k := s.pwr.thstep
      let to_ : BitVec 3 :=
        if deeper then (if 95 ≤ t ∧ k.toNat < s.wdn.prof.deepest.toNat then k + 1 else k) else if t < 92 ∧ k ≠ 0 then k - 1 else k
      { s1 with pwr := { s1.pwr with thstep := to_ } })

/-- CURRENT_REQUEST (R409, R411): 100 µs above 200 A, or 10 ms below 180 A, in units of 0.1 A; ILIM where DEEPEST does not help
(DESIGN CHOICE, log entry 69). -/
def execCurrentRequest (ia ib : Nat) (deeper : Bool) (s : State) : Out :=
  .next (
    if s.dev.st = .off then s
    else
      let p := { s.pwr with ia := BitVec.ofNat 16 ia, ib := BitVec.ofNat 16 ib }
      let k := p.curstep
      if deeper then
        (if ia + ib ≤ 2000 then { s with pwr := p }
         else if k.toNat < s.wdn.prof.deepest.toNat then { s with pwr := { p with curstep := k + 1 } }
         else ({ s with pwr := { p with ilim := true } } : State).notice (.fault 11 2 (ia + ib)))
      else { s with pwr := { p with curstep := if ia + ib < 1800 ∧ k ≠ 0 then k - 1 else k } })

/-- JUNCTION_OVER (R411): the hottest reading crosses 105 °C. -/
def execJunctionOver (t : Nat) (s : State) : Out :=
  .next (
    if s.dev.st = .off then s
    else
      let s1 := s.heat t
      if 105 ≤ t ∧ s1.pwr.overArmed then
        (({ s1 with pwr := { s1.pwr with overT := true, overArmed := false } } : State).record .junctionOver).notice (.fault 11 1 t)
      else s1)

/-- THERMTRIP (R411, R380): the core supplies go off until a full reset (DEDUCED, log entry 56). -/
def execThermtrip (t : Nat) (s : State) : Out :=
  .next (
    if s.dev.st = .off ∨ t < 115 then s
    else ((({ s.heat t with dev := { s.dev with thermtrip := true } } : State).faultBit 2).coreEvent 9 .thermal))

/-! ### Latent faults (R376, Table 18.4) -/

/-- Row of a test (DESIGN CHOICE, log entry 70). -/
def LatentTest.row : LatentTest → Nat
  | .arrayChecker _ => 0 | .seqComparator _ | .hallComparator => 1 | .combSecded _ | .squareSecded _ => 2 | .pageDecoder _ => 3
  | .linkCrc _ => 4 | .monitors => 5

/-- What a failed test does: it retires a comb, fails a link, or is recorded with WDN_FAULT.LATENT
(DESIGN CHOICE, log entry 70). -/
def State.latentFailed (s : State) (t : LatentTest) : State :=
  match t with
  | .arrayChecker c | .seqComparator c | .combSecded c => s.retire c 3
  | .linkCrc l => s.linkFail l
  | .hallComparator | .squareSecded _ | .pageDecoder _ | .monitors => (s.faultBit 5).record (.latent (LatentTest.row t))

/-- LATENT_FAULT_TEST (R376). The monitors' test runs with the warden, the others with the core. -/
def execLatentFaultTest (t : LatentTest) (failed : Bool) (s : State) : Out :=
  .next (
    if s.dev.st = .off ∨ (t ≠ .monitors ∧ !s.coreOn) then s
    else
      let s1 := { s with wdn := { s.wdn with latent := wrapF s.wdn.latent 32 32 1 } }
      if failed then
        ({ s1 with wdn := { s1.wdn with latent := setB s1.wdn.latent (LatentTest.row t) true } } : State).latentFailed t
      else s1)

/-! ### A reset ends; boot -/

/-- RESET_COMPLETE (R378): a comb or compute reset goes back with its replies and reloads, a full reset to WARDEN-UP; a core reset ends
with boot phase 7 (DEDUCED, log entry 43). -/
def execResetComplete (s : State) : Out :=
  .next (
    match s.dev.reset with
    | none => s
    | some r =>
      if r.kind = 1 ∨ r.kind = 2 then
        let s1 := (({ s with dev := { s.dev with reset := none } } : State).reloadAll.setDev r.back).refresh
        r.jobs.foldl (fun (t : State) j => t.reply j.hdr 0x21 .ok .none) s1
      else if r.kind = 4 ∧ r.hold ≠ .porst then s.fullDone
      else s)

/-- BOOT_VERIFY (R388) (DESIGN CHOICE, log entry 67). -/
def execBootVerify (s : State) : Out := .next s.verifyBank

/-- BOOT_SUPPLY (R407). -/
def execBootSupply (vin : Nat) (s : State) : Out := .next (s.supplyUp vin)

/-- BOOT_CORE (R24 to R27, R416). -/
def execBootCore (x : CombSelftest) (s : State) : Out := .next (s.coreBoot x)

/-- BOOT_CLOSE (R394) (DESIGN CHOICE, log entry 67). -/
def execBootClose (s : State) : Out := .next s.closeBoot

end Sys2Proof.Machine
end

