-- ==== Sys2Proof/Machine/RegWrites.lean ====
section
/-!
DEFINITION. Meanings of the register writes that rules of their own govern, each an order with this one write (17 R362), and of writes
under the access codes alone (00 R8 to R10).
-/
namespace Sys2Proof.Machine

/-- The address of a register that an order of this file writes (the inverse of `regAt`); 0 for the others. -/
def writeAddr : Reg → Nat
  | .rteSelf => 0x010202000000 | .rteEpoch => 0x010202000018 | .rteFlip => 0x010202000020
  | .rteFence w => 0x010202010000 + 8 * w.val
  | .colGroup v g => 0x010210100000 + 0x1000000 * v.val + 8 * g.val
  | .colMem v g w => 0x010210200000 + 0x1000000 * v.val + 0x4000 * g.val + 8 * w.val
  | .colCfg => 0x010203000000 | .colSpill => 0x010203000008
  | .chmPending => 0x010204000020 | .chmRoot => 0x010204000030 | .chmCfg => 0x010204000038
  | .sealLevel => 0x010205000000 | .sealLevelat => 0x010205000008
  | .stpMasterBank => 0x010206000000 | .stpStep => 0x010206000008 | .stpCfg => 0x010206000020
  | .stpStage k => 0x010206000800 + 8 * k.val
  | .memStrength m => 0x010207000008 + 0x100 * m.val | .memSweep m => 0x010207000028 + 0x100 * m.val
  | .cmbSweep c => 0x010200100010 + 0x1000 * c.val | .sqrSweep q => 0x010200300010 + 0x100 * q.val
  | .lnkCtrl l => 0x010201000008 + 0x100 * l.val
  | .ethCfg => 0x010208000008 | .pwrCtrl => 0x010209000318
  | _ => 0

/-- An order with one write. -/
def State.writeOne (s : State) (h : OrderHdr) (table : Bool) (r : Reg) (v : W64) : State :=
  s.writeRegs h table [writeAddr r, v.toNat] [(some r, v)]

/-! ### Router and groups: TABLE_WRITE -/

/-- RTE_SELF_WRITE (R14). -/
def execRteSelfWrite (h : OrderHdr) (v : BitVec 64) (s : State) : Out := .next (s.writeOne h true .rteSelf v)

/-- RTE_FLIP_WRITE (R249). -/
def execRteFlipWrite (h : OrderHdr) (v : BitVec 64) (s : State) : Out := .next (s.writeOne h true .rteFlip v)

/-- RTE_EPOCH_RELEASE (R249). -/
def execRteEpochRelease (h : OrderHdr) (v : BitVec 64) (s : State) : Out := .next (s.writeOne h true .rteEpoch v)

/-- RTE_FENCE_WRITE (R251). -/
def execRteFenceWrite (h : OrderHdr) (w : Fin 4096) (v : BitVec 64) (s : State) : Out :=
  .next (s.writeOne h true (.rteFence w) v)

/-- COL_GROUP_WRITE (R255) (DEDUCED, log entry 59). -/
def execColGroupWrite (h : OrderHdr) (ver : Fin 2) (g : Fin 256) (v : BitVec 64) (s : State) : Out :=
  .next (s.writeOne h true (.colGroup ver g) v)

/-- COL_MEM_WRITE (R255). -/
def execColMemWrite (h : OrderHdr) (ver : Fin 2) (g : Fin 256) (w : Fin 2048) (v : BitVec 64) (s : State) : Out :=
  .next (s.writeOne h true (.colMem ver g w) v)

/-! ### The others: REG_WRITE -/

/-- COL_CFG_WRITE (R270): COL_SPILL where `spill` is set. -/
def execColCfgWrite (h : OrderHdr) (spill : Bool) (v : BitVec 64) (s : State) : Out :=
  .next (s.writeOne h false (if spill then .colSpill else .colCfg) v)

/-- CHM_PENDING_WRITE (R287). -/
def execChmPendingWrite (h : OrderHdr) (v : BitVec 64) (s : State) : Out := .next (s.writeOne h false .chmPending v)

/-- CHM_ROOT_WRITE (R296). -/
def execChmRootWrite (h : OrderHdr) (v : BitVec 64) (s : State) : Out := .next (s.writeOne h false .chmRoot v)

/-- CHM_CFG_WRITE (R296). -/
def execChmCfgWrite (h : OrderHdr) (v : BitVec 64) (s : State) : Out := .next (s.writeOne h false .chmCfg v)

/-- SEAL_LEVEL_PEND_WRITE (R298). -/
def execSealLevelPendWrite (h : OrderHdr) (v : BitVec 64) (s : State) : Out := .next (s.writeOne h false .sealLevel v)

/-- SEAL_LEVELAT_WRITE (R298). -/
def execSealLevelatWrite (h : OrderHdr) (v : BitVec 64) (s : State) : Out := .next (s.writeOne h false .sealLevelat v)

/-- The register that a name of Table 15.5 means. -/
def stpRegOf (x : StpReg) : Reg :=
  match x with | .masterBank => .stpMasterBank | .step => .stpStep | .cfg => .stpCfg | .stage k => .stpStage k

/-- STP_REGISTER_WRITE (R334). -/
def execStpRegisterWrite (h : OrderHdr) (x : StpReg) (v : BitVec 64) (s : State) : Out :=
  .next (s.writeOne h false (stpRegOf x) v)

/-- MEM_STRENGTH_WRITE (R346) (DEDUCED, log entry 74). -/
def execMemStrengthWrite (h : OrderHdr) (m : McId) (v : BitVec 64) (s : State) : Out :=
  .next (s.writeOne h false (.memStrength m) v)

/-- The sweep register of a unit. -/
def sweepReg (u : SweepUnit) : Reg :=
  match u with | .comb c => .cmbSweep c | .square q => .sqrSweep q | .hbm m => .memSweep m

/-- SWEEPER_DISABLE (R37, R39, R349): EN is cleared and PERIOD_S kept. -/
def execSweeperDisable (h : OrderHdr) (u : SweepUnit) (s : State) : Out :=
  .next (s.writeOne h false (sweepReg u) (setB (s.readReg (sweepReg u)) 32 false))

/-- RWNOW (R220): LNK_CTRL with EN as it stands. -/
def execRwnow (h : OrderHdr) (l : LinkId) (s : State) : Out :=
  .next (s.writeOne h false (.lnkCtrl l) (setB (s.readReg (.lnkCtrl l)) 1 true))

/-- LINK_EN_WRITE (R224). -/
def execLinkEnWrite (h : OrderHdr) (l : LinkId) (en : Bool) (s : State) : Out :=
  .next (s.writeOne h false (.lnkCtrl l) (pack [(0, en.toNat)]))

/-- TXAN_WRITE (R368): ETH_CFG with its other fields as they stand. -/
def execTxanWrite (h : OrderHdr) (an : Bool) (s : State) : Out :=
  .next (s.writeOne h false .ethCfg (setB s.eth.cfg 35 an))

/-- STEPMIN_WRITE (R409): PWR_CTRL with PREF as it stands. -/
def execStepminWrite (h : OrderHdr) (v : BitVec 3) (s : State) : Out :=
  .next (s.writeOne h false .pwrCtrl (setF (s.readReg .pwrCtrl) 0 3 v.toNat))

/-- PREF_WRITE (R406): PWR_CTRL with STEPMIN as it stands. -/
def execPrefWrite (h : OrderHdr) (b : Bool) (s : State) : Out :=
  .next (s.writeOne h false .pwrCtrl (setB (s.readReg .pwrCtrl) 8 b))

/-! ### Access codes (R8 to R10) -/

/-- The AGAIN counter of a register's block (R9) (DEDUCED, log entry 71). -/
def againOf (r : Reg) : Option Reg :=
  match r with
  | .cmbEcc n => some (.cmbAgain n) | .matFault n => some (.matAgain n) | .vecStatus n => some (.vecAgain n)
  | .seqExc n => some (.seqAgain n) | .crrStatus n => some (.crrAgain n) | .sqrEcc m => some (.sqrAgain m)
  | .lnkErr i => some (.lnkAgain i) | .rteCableFault => some .rteAgain | .colStatus => some .colAgain | .chmStatus => some .chmAgain
  | .sealStatus => some .sealAgain | .stpStatus => some .stpAgain | .memErr c => some (.memAgain c) | .ethStatus => some .ethAgain
  | .wdnFault | .wdnRstcause | .wdnLatent => some .wdnAgain | .pwrStatus => some .pwrAgain
  | _ => none

/-- W1C_CLEAR (R9): bits written 1 are cleared; one that hardware sets in the same cycle stays set, and its block's AGAIN counts it, up to
0xFFFF_FFFF; a write that the register's own rule refuses (R353) clears nothing (DEDUCED, log entry 71). -/
def execW1cClear (r : Reg) (v : BitVec 64) (setNow : BitVec 64) (s : State) : Out :=
  .next (
    match againOf r with
    | none => s
    | some a =>
      if s.writeRule r v ≠ .ok then s else
      let w1c := (regMasks r).2
      let hit := v &&& setNow &&& w1c
      let s1 := s.writeReg r ((v &&& w1c &&& ~~~hit) ||| (s.readReg r &&& (regMasks r).1))
      if hit = 0 then s1
      else
        let s2 := s1.putReg r (s1.readReg r ||| hit)
        s2.putReg a (satF (s2.readReg a) 0 32 (popCount 64 hit.toNat)))

/-- AGAIN_RESET (R9): any write sets an AGAIN counter to zero, where the counter's own rule lets it (R353). -/
def execAgainReset (r : Reg) (s : State) : Out := .next (if regIsAgain r && s.writeRule r 0 == .ok then s.writeReg r 0 else s)

/-- REGISTER_WRITE (R8, R10): a write that the register's own rule refuses has no effect. -/
def execRegisterWrite (r : Reg) (v : BitVec 64) (s : State) : Out :=
  .next (if s.writeRule r v = .ok then s.orderWrite r v else s)

end Sys2Proof.Machine
end

