-- ==== Sys2Proof/Machine/Roadworks.lean ====
section
/-!
DEFINITION. Meanings of roadworks (10 R220 to R222, R224).
-/
namespace Sys2Proof.Machine

/-- ROADWORKS_SCHEDULE (R220). -/
def execRoadworksSchedule (l : LinkId) (temp : BitVec 8) (s : State) : Out := .next (s.rwSchedule l temp)

/-- RW_REQUEST (R220): the far end asks the owner end. -/
def execRwRequest (l : LinkId) (s : State) : Out :=
  .next (
    let k : Link := s.links[l]
    if ownerEnd l && k.en && k.st != .notice && k.st != .roadworks then s.rwTry l else s)

/-- RW_NOTICE (R221): the far end enters NOTICE. -/
def execRwNotice (l : LinkId) (ts : BitVec 64) (s : State) : Out :=
  .next (if (s.links[l] : Link).st = .active then s.modLink l fun k => { k with st := .notice, rwAt := some ts } else s)

/-- RW_CANCEL (R224): the notice of that start time is withdrawn. -/
def execRwCancel (l : LinkId) (ts : BitVec 64) (s : State) : Out :=
  .next (
    let k : Link := s.links[l]
    if k.st = .notice ∧ k.rwAt = some ts then (s.modLink l fun k => { k with st := .active, rwAt := none }).rwPump else s)

/-- ROADWORKS_CLOSE (R221). -/
def execRoadworksClose (l : LinkId) (s : State) : Out := .next (s.rwClose l)

/-- CLOSE (R221): the far end names its last drop. -/
def execClose (l : LinkId) (n : BitVec 16) (s : State) : Out :=
  .next (
    let k : Link := s.links[l]
    if k.st = .notice ∨ k.st = .roadworks then s.modLink l fun k => { k with closeAt := some n } else s)

/-- ROADWORKS_SETTLE_END (R221). -/
def execRoadworksSettleEnd (l : LinkId) (s : State) : Out := .next (s.rwSettle l)

/-- OPEN (R222). -/
def execOpenLink (l : LinkId) (x : OpenSym) (s : State) : Out := .next (s.onOpen l x)

end Sys2Proof.Machine
end

