-- ==== Sys2Proof/Machine/Router.lean ====
section
/-!
DEFINITION. Meanings of the router's commands (11 R237, R238, R242).
-/
namespace Sys2Proof.Machine

/-- DROP_ROUTE (R238 to R241, R246, R247, R251): the i-th drop at the router is delivered, queued on a link, spread, discarded, or waits
for a credit. -/
def execDropRoute (i : Nat) (s : State) : Out := .next (s.routeAt i)

/-- DROP_TRANSMIT (R212, R242): one slot of a link's codeword. -/
def execDropTransmit (l : LinkId) (s : State) : Out := .next (s.transmit l)

/-- DROP_STALE_DISCARD (R237). -/
def execDropStaleDiscard (i : Nat) (s : State) : Out := .next (s.staleOff i)

end Sys2Proof.Machine
end

