-- ==== Sys2Proof/Machine/Scalar.lean ====
section
/-!
DEFINITION. Meanings of the scalar instructions (09 R186, Table 9.3).
-/
namespace Sys2Proof.Machine

/-- LI (R186): X[27] = 0 writes sext(IMM), X[27] = 1 the upper half. -/
def execLi (c : CombId) (f : SForm) (s : State) : Out :=
  .next (s.issueS c .li f (s.modSeq c fun q =>
    { q with s := q.s.set f.sd (if f.xBit 27 then f.imm ++ (q.s[f.sd]).setWidth 32 else f.sext) }.advance))

/-- ADD (R186). -/
def execAdd (c : CombId) (f : SForm) (s : State) : Out := .next (s.scalar c .add f fun a b => a + b)

/-- SUB (R186). -/
def execSub (c : CombId) (f : SForm) (s : State) : Out := .next (s.scalar c .sub f fun a b => a - b)

/-- MUL (R186). -/
def execMul (c : CombId) (f : SForm) (s : State) : Out := .next (s.scalar c .mul f fun a b => a * b)

/-- AND (R186). -/
def execAnd (c : CombId) (f : SForm) (s : State) : Out := .next (s.scalar c .and f fun a b => a &&& b)

/-- OR (R186). -/
def execOr (c : CombId) (f : SForm) (s : State) : Out := .next (s.scalar c .or f fun a b => a ||| b)

/-- XOR (R186). -/
def execXor (c : CombId) (f : SForm) (s : State) : Out := .next (s.scalar c .xor f fun a b => a ^^^ b)

/-- SHL (R186): by b mod 64. -/
def execShl (c : CombId) (f : SForm) (s : State) : Out := .next (s.scalar c .shl f fun a b => a <<< (b.toNat % 64))

/-- SHR (R186): logical or arithmetic by X[27]. -/
def execShr (c : CombId) (f : SForm) (s : State) : Out :=
  .next (s.scalar c .shr f fun a b => shiftRight (f.xBit 27) a (b.toNat % 64))

/-- CMP (R186): p[SD[14:12]] := cond(s[SA], b) XOR NEG; a write to p0 is ignored (R135). -/
def execCmp (c : CombId) (f : SForm) (s : State) : Out :=
  .next (s.issueS c .cmp f (s.modSeq c fun q =>
    let v := xor (condHolds (f.x.toNat % 16) q.s[f.sa] (q.b f)) (f.xBit 31)
    { q with p := if f.sd.val % 8 = 0 then q.p else setB q.p (f.sd.val % 8) v }.advance))

end Sys2Proof.Machine
end

