-- ==== Sys2Proof/Machine/Time.lean ====
section
/-!
DEFINITION. Meanings of the symbols and events of muster and time base (13 R279 to R290).
-/
namespace Sys2Proof.Machine

/-- CHIME_SYMBOL (R288 to R290). -/
def execChimeSymbol (l : LinkId) (x : ChimeSym) (stamp : BitVec 70) (s : State) : Out := .next (s.onChime l x stamp)

/-- ROOT_SUCCESSION (R290). -/
def execRootSuccession (s : State) : Out := .next s.succession

/-- SYNCLOSS_RESET (R380): SYNCLOSS has persisted for 16 chimes. -/
def execSynclossReset (s : State) : Out :=
  .next (
    if s.chm.running && s.chm.syncloss && decide (16 ≤ s.chm.lossRun) then (s.faultBit 4).coreReset 6 .refclk
    else s)

/-- PING (R280). -/
def execPing (l : LinkId) (t1 : BitVec 64) (s : State) : Out := .next (s.onPing l t1)

/-- ECHO (R280). -/
def execEcho (l : LinkId) (x : EchoSym) (s : State) : Out := .next (s.onEcho l x)

/-- ELECT (R282, R284). -/
def execElect (l : LinkId) (x : ElectSym) (s : State) : Out := .next (s.onElect l x)

/-- ELECT_BROADCAST (R282): every 1 µs on all ALIGNED links without CHIMEX, while the chip elects or runs a time base that a late chip may hear. -/
def execElectBroadcast (s : State) : Out :=
  .next (
    if (s.dev.st == .muster && s.chm.phase == 4) || s.chm.running then
      s.musterLinks.foldl (fun (t : State) l => t.emit l (.elect s.electSym)) s
    else s)

/-- ELECT_SETTLED (R282). -/
def execElectSettled (s : State) : Out := .next s.settle

/-- TIME (R283). -/
def execTime (l : LinkId) (x : TimeSym) (s : State) : Out := .next (s.onTime l x)

/-- MUSTER_PHASE_DONE (R279, Table 13.2). -/
def execMusterPhaseDone (s : State) : Out := .next s.phaseDone

end Sys2Proof.Machine
end

