-- ==== Sys2Proof/Machine/TimeStep.lean ====
section
/-!
DEFINITION. Meanings of the time and step instructions: frame (07 R145), chimew (09 R190), tally (R191) and commit.prep (R192).
-/
namespace Sys2Proof.Machine

/-- FRAME (R145): the mark is reached and issue stalls until the chime that ends the frame
(DESIGN CHOICE, log entry 2; DESIGN CHOICE, log entry 4; DEDUCED, log entry 18). -/
def execFrame (c : CombId) (f : SForm) (s : State) : Out :=
  .next (s.issueS c .frame f (s.modSeq c fun q => { q.advance with stall := .frame, st := .chimeWait, framed := true }))

/-- CHIMEW (R190): until T cycles after the chime that began the frame; X[27] writes that chime's number. -/
def execChimew (c : CombId) (f : SForm) (s : State) : Out :=
  .next (s.issueS c .chimew f (s.modSeq c fun q =>
    let t := q.frameT + (q.target f).toNat
    let q1 := if f.xBit 27 then { q with s := q.s.set f.sd q.frameN } else q
    if t ≤ s.chm.tb then q1.advance else q1.stalled (.chimew t) .chimeWait))

/-- CHIMEW_RELEASE (R190): the time base reaches the target before the frame ends. -/
def execChimewRelease (c : CombId) (s : State) : Out :=
  .next (
    match (s.comb c).seq.stall with
    | .chimew t =>
      if (s.comb c).seq.st = .chimeWait ∧ t < s.chm.nextAt then (s.until t).modSeq c fun q => q.resumed.advance else s
    | _ => s)

/-- Keys of a census set: its histogram bins and its tallies (R128, R129). -/
def inSet (k : Fin 4) (key : Nat) : Bool :=
  (decide (256 * k.val ≤ key) && decide (key < 256 * k.val + 256) && decide (key < 1024)) ||
    (decide (1024 + 88 * k.val ≤ key) && decide (key < 1024 + 88 * k.val + 88))

/-- The 640 bytes of Table 9.6. -/
def Ext.snapshot (x : Ext) (k : Fin 4) (frame : W64) : List Byte :=
  ((List.range 64).flatMap fun b => leBytes 4 (Sparse.get 0 x.census (binKey k b)).toNat) ++
    ((List.range 11).flatMap fun f => (List.range 8).flatMap fun j =>
      leBytes 4 (if j = 7 then 0 else (Sparse.get 0 x.census (1024 + 88 * k.val + 8 * f + j)).toNat)) ++
    leBytes 8 (unsigned 64 (x.histBase k)) ++ leBytes 8 frame.toNat ++ leBytes 16 0

/-- Take the snapshot of a request, and clear the set in the same cycle where it asks for that (R130, R191). -/
def Ext.take (x : Ext) (r : TallyReq) (frame : W64) : Ext × TallyReq :=
  ({ x with census := if r.clear then Sparse.drop (inSet r.set) x.census else x.census },
   { r with image := some (x.snapshot r.set frame) })

/-- A request whose snapshot is taken goes behind those taken before it, whose 16 cycles end first, and before those still to be taken (R191). -/
def Ext.enqueue (x : Ext) (r : TallyReq) : Ext :=
  { x with tally := x.tally.filter (·.image.isSome) ++ r :: x.tally.filter (·.image.isNone) }

/-- TALLY (R191): the snapshot is taken at once unless an earlier tally of the set is still to be written. -/
def execTally (c : CombId) (f : SForm) (s : State) : Out :=
  .next (s.issueS c .tally f (
    let q := (s.comb c).seq
    let a := (q.s[f.sa] + f.sext).toNat
    if a % 64 ≠ 0 ∨ a < combBase c ∨ combBase c + 0x03C00000 < a + 640 then s.issueFault c 3
    else
      let r : TallyReq := { set := ⟨f.sd.val % 4, Nat.mod_lt _ (by decide)⟩, clear := f.sd.val / 4 % 2 == 1, addr := a, ce := f.ce
                            cnt := BitVec.ofNat 8 f.cnt.val, image := none }
      let put := fun (x : Ext) =>
        if x.tally.any (·.set == r.set) then { x with tally := x.tally ++ [r] }
        else
          let y := x.take r q.frameN
          y.1.enqueue y.2
      (s.modExt c put).modSeq c Seq.advance))

/-- TALLY_SNAPSHOT_DONE (R191): the snapshot taken first is written, its counter moves, and the next tally of the set is taken. -/
def execTallySnapshotDone (c : CombId) (s : State) : Out :=
  .next (
    let k := s.comb c
    match k.ext.tally with
    | [] => s
    | r :: rest =>
      match r.image with
      | none => s
      | some bs =>
        let next := fun (x : Ext) =>
          match rest.find? (·.set == r.set) with
          | none => { x with tally := rest }
          | some r2 =>
            let y := ({ x with tally := rest.eraseP (·.set == r.set) } : Ext).take r2 k.seq.frameN
            y.1.enqueue y.2
        let s1 := (s.store r.addr bs false).modExt c next
        if r.ce then s1.bump c (cntIx r.cnt) 1 else s1)

/-- COMMIT_PREP (R192, R322): the comb's vote; predicated off it votes 0. A second one before the decision, or one of a comb that is no
voter, raises STATE; the scoreboard holds one that names the register still awaited (R143) (DEDUCED, log entry 39). -/
def execCommitPrep (c : CombId) (f : SForm) (s : State) : Out :=
  .next (
    let k := s.comb c
    if !k.seq.issuing then s
    else if f.illegal .commitPrep then s.issueFault c 1
    else
      let on := k.seq.pred f.pred
      if k.seq.held (if on then sRegs .commitPrep f else [f.sd]) then s else
      let s1 := s.roundFor
      let outside := match s1.stp.round with
        | some r => r.decision.isNone && !(r.voters.any fun v => v.1 == c)
        | none => false
      if k.seq.vote.isSome ∨ outside = true then s.issueFault c 5
      else
        let same := k.seq.s[f.sa] == s.stp.step
        let v := on && getF k.vecStatus 0 1 == 0 && getF k.crrStatus 0 1 == 0 && same
        let s2 := if on && !same then s1.record (.badStep c) else s1
        (s2.modSeq c fun q => { q.advance with vote := some (f.sd, f.ce, BitVec.ofNat 8 f.cnt.val) }).combVote c v)

end Sys2Proof.Machine
end

