-- ==== Sys2Proof/Machine/Vector.lean ====
section
/-!
DEFINITION. Meanings of the vector and update instructions (08 R167 to R182): issue into the vector queue, and the unit's acceptance and
completion. What each operation computes is `State.startVec` and `State.startUpd`.
-/
namespace Sys2Proof.Machine

/-- VLD (R177). -/
def execVld (c : CombId) (f : TForm) (s : State) : Out := .next (s.issueT c (.vec .vld) f)

/-- VST (R177). -/
def execVst (c : CombId) (f : TForm) (s : State) : Out := .next (s.issueT c (.vec .vst) f)

/-- VADD (R168). -/
def execVadd (c : CombId) (f : TForm) (s : State) : Out := .next (s.issueT c (.vec .vadd) f)

/-- VSUB (R168). -/
def execVsub (c : CombId) (f : TForm) (s : State) : Out := .next (s.issueT c (.vec .vsub) f)

/-- VMUL (R168). -/
def execVmul (c : CombId) (f : TForm) (s : State) : Out := .next (s.issueT c (.vec .vmul) f)

/-- VFMA (R168). -/
def execVfma (c : CombId) (f : TForm) (s : State) : Out := .next (s.issueT c (.vec .vfma) f)

/-- VMAX (R171). -/
def execVmax (c : CombId) (f : TForm) (s : State) : Out := .next (s.issueT c (.vec .vmax) f)

/-- VMIN (R171). -/
def execVmin (c : CombId) (f : TForm) (s : State) : Out := .next (s.issueT c (.vec .vmin) f)

/-- VARGMAX (R175). -/
def execVargmax (c : CombId) (f : TForm) (s : State) : Out := .next (s.issueT c (.vec .vargmax) f)

/-- VARGMIN (R175). -/
def execVargmin (c : CombId) (f : TForm) (s : State) : Out := .next (s.issueT c (.vec .vargmin) f)

/-- VSUM (R174). -/
def execVsum (c : CombId) (f : TForm) (s : State) : Out := .next (s.issueT c (.vec .vsum) f)

/-- VEXP2 (R176). -/
def execVexp2 (c : CombId) (f : TForm) (s : State) : Out := .next (s.issueT c (.vec .vexp2) f)

/-- VLOG2 (R176). -/
def execVlog2 (c : CombId) (f : TForm) (s : State) : Out := .next (s.issueT c (.vec .vlog2) f)

/-- VRCP (R176). -/
def execVrcp (c : CombId) (f : TForm) (s : State) : Out := .next (s.issueT c (.vec .vrcp) f)

/-- VRSQRT (R176). -/
def execVrsqrt (c : CombId) (f : TForm) (s : State) : Out := .next (s.issueT c (.vec .vrsqrt) f)

/-- VCVT (R177). -/
def execVcvt (c : CombId) (f : TForm) (s : State) : Out := .next (s.issueT c (.vec .vcvt) f)

/-- VCMP (R172). -/
def execVcmp (c : CombId) (f : TForm) (s : State) : Out := .next (s.issueT c (.vec .vcmp) f)

/-- VSEL (R173). -/
def execVsel (c : CombId) (f : TForm) (s : State) : Out := .next (s.issueT c (.vec .vsel) f)

/-- UPD.M2 (R180). -/
def execUpdM2 (c : CombId) (f : TForm) (s : State) : Out := .next (s.issueT c (.upd .m2) f)

/-- UPD.M1 (R181). -/
def execUpdM1 (c : CombId) (f : TForm) (s : State) : Out := .next (s.issueT c (.upd .m1) f)

/-- UPD.PLAIN (R181). -/
def execUpdPlain (c : CombId) (f : TForm) (s : State) : Out := .next (s.issueT c (.upd .plain) f)

/-- VECTOR_ACCEPT (R170): the vector unit starts the instruction at the head of its queue (DESIGN CHOICE, log entry 5). -/
def execVectorAccept (c : CombId) (s : State) : Out :=
  .next (
    match (s.comb c).seq.qVec with
    | [] => s
    | e :: _ =>
      let s1 := s.modSeq c fun q => { q with qVec := q.qVec.drop 1 }
      match e.op with
      | .vec op dr d a b cc bs cs rm base pitch => s1.startVec c e op dr d a b cc bs cs rm base pitch
      | .upd op da ds sc wc cs rm base pitch => s1.startUpd c e op da ds sc wc cs rm base pitch
      | _ => s)

/-- VECTOR_COMPLETION (R170, R127): the oldest instruction's writes are visible, ceilings are raised and its counter moves. -/
def execVectorCompletion (c : CombId) (s : State) : Out :=
  .next (
    match (s.comb c).vecRun with
    | [] => s
    | fl :: rest => (s.modComb c fun k => { k with vecRun := rest }).complete c 1 fl)

end Sys2Proof.Machine
end

