-- ==== Sys2Proof/Machine/WardenOps.lean ====
section
/-!
DEFINITION. What the warden keeps and signs: chronicle records as bytes (19 R399), result certificates (14 R311, R312), attestation quotes
(19 R393), and staged items (19 R390 to R398).
-/
namespace Sys2Proof.Machine

/-! ### The chronicle -/

/-- A number for each kind of event: the argument of the uninterpreted codes. -/
def Event.kind : Event → Nat
  | .clear .. => 0 | .vinTransfer .. => 1 | .cableFault _ => 2 | .combsShort _ => 3 | .combMap _ => 4 | .hallLockstep => 5 | .sweepOff _ => 6
  | .sealMismatch _ => 7 | .badStep _ => 8 | .noRoute _ => 9 | .linkFailed _ => 10 | .linkBack _ => 11 | .chimeExcluded _ => 12
  | .noCandidate => 13 | .uncorrectable _ => 14 | .undecided => 15 | .refusedOrders .. => 16 | .pnExhausted => 17 | .rwlWrite => 18
  | .fallback => 19 | .fwSwitch => 20 | .keySet => 21 | .vauxLost _ => 22 | .junctionOver => 23 | .latent _ => 24 | .tapBypass => 25
  | .doubleBit .. => 26 | .mismatch .. => 27 | .seqFault .. => 28 | .signMismatch _ => 29 | .noSpare _ => 30
  | .corrected _ => 31

/-- BLOCK and UNIT of an event (Table 19.8). -/
def Event.place : Event → Nat × Nat
  | .clear .. | .combsShort _ | .rwlWrite | .fallback | .fwSwitch | .keySet | .latent _ | .tapBypass => (0, 0)
  | .hallLockstep => (1, 0)
  | .combMap c | .noSpare c | .sealMismatch c | .seqFault c _ | .doubleBit (.comb c) _ => (2, c.val)
  | .sweepOff (.comb c) => (2, c.val)
  | .mismatch c _ => (3, c.val)
  | .uncorrectable m | .sweepOff (.hbm m) | .doubleBit (.hbm m) _ => (4, m.val)
  | .cableFault l | .linkFailed l | .linkBack l => (5, l.val)
  | .noRoute _ => (6, 0)
  | .signMismatch _ => (7, 0)
  | .chimeExcluded l => (8, l.val)
  | .noCandidate => (8, 0)
  | .badStep c => (9, c.val)
  | .undecided => (9, 0)
  | .refusedOrders .. | .pnExhausted => (10, 0)
  | .vinTransfer .. | .vauxLost _ | .junctionOver => (11, 0)
  | .sweepOff (.square q) | .doubleBit (.square q) _ => (12, q.val)
  | .corrected b => (b, 0)

/-- EVENT, where a rule gives it (R402, R406) (DESIGN CHOICE, log entry 9). -/
def Event.code (e : Event) : Nat :=
  match e with
  | .clear .. => 0x0001
  | .vinTransfer .. => 0x0101
  | e => (Config.eventCode e.kind).toNat

/-- The numbers that an event's rule names for its record. -/
def Event.fields : Event → List Nat
  | .clear n r x => [n, r.toNat, x.toNat]
  | .vinTransfer va vb => [va, vb]
  | .combsShort m => [m.toNat % 2 ^ 64, m.toNat / 2 ^ 64]
  | .refusedOrders code n => [code, n]
  | .noRoute p => [p]
  | .mismatch _ k => [match k with | .res => 0 | .csc => 1 | .csr => 2 | .hold => 3]
  | .seqFault _ code => [code.toNat]
  | .doubleBit _ line => [line]
  | .signMismatch g => [g.toNat]
  | .latent k => [k]
  | .vauxLost b => [b.toNat]
  | .corrected b => [b]
  | .cableFault _ | .combMap _ | .hallLockstep | .sweepOff _ | .sealMismatch _ | .badStep _ | .linkFailed _ | .linkBack _
  | .chimeExcluded _ | .noCandidate | .uncorrectable _ | .undecided | .pnExhausted | .rwlWrite | .fallback | .fwSwitch | .keySet
  | .junctionOver | .tapBypass | .noSpare _ => []

/-- DETAIL: 32 bytes. The clear record's layout is R402's; other fields take 8 bytes each (DESIGN CHOICE, log entry 9). -/
def Event.detail (e : Event) : List Byte :=
  let bs := match e with
    | .clear n r x => leBytes 4 n ++ leBytes 8 r.toNat ++ leBytes 8 x.toNat
    | e => e.fields.flatMap (leBytes 8)
  (bs ++ List.replicate 32 0).take 32

/-- Bytes 0 to 55 of a record. -/
def Record.head (r : Record) : List Byte :=
  leBytes 8 r.chime.toNat ++ leBytes 8 r.tb.toNat ++ leBytes 4 r.boots.toNat ++ leBytes 1 r.event.place.1 ++ leBytes 1 r.event.place.2 ++
    leBytes 2 r.event.code ++ r.event.detail

/-- A record as stored: a corrupt one holds another CRC (R399). -/
def Record.bytes (r : Record) : List Byte :=
  let c := crc32c r.head
  r.head ++ leBytes 4 (if r.crcOk then c else c ^^^ 1) ++ leBytes 3 0 ++ leBytes 1 r.mark.toNat

/-- The body of a CHR_READ reply (R401). -/
def State.chronicleBody (s : State) (first count : Nat) : List Byte :=
  let rs := (s.chr.records.drop first).take count
  let marks := rs.map fun r => if r.crcOk then (0 : Byte) else 1
  leBytes 4 s.chr.records.length ++ leBytes 4 s.chr.qfull.toNat ++ leBytes 4 s.chr.full.toNat ++
    (marks ++ List.replicate 128 0).take 128 ++ rs.flatMap Record.bytes

/-! ### Certificates and quotes -/

/-- FWMEAS of the bank in force. -/
def State.bankMeas (s : State) : Digest := fwMeas (s.wdn.banks[bankIx s.wdn.bank]).bytes

/-- The program seal that a comb holds (R311): none while EMPTY or LOADING. -/
def Seq.progSeal (q : Seq) : Option Digest :=
  if q.st = .empty ∨ q.st = .loading then none else q.prog.map (·.digest)

/-- The seals of named slots; none where a slot is not VALID, or has POISON or CLASH. -/
def Seals.named (x : Seals) (is : List (BitVec 16)) : Option (List Digest) :=
  is.mapM fun i =>
    let k := x.slot i.toNat
    if k.valid && !k.poison && !k.clash then some k.digest else none

/-- TAINT (Table 14.4) (DESIGN CHOICE, log entry 37). -/
def State.taint (s : State) : Nat :=
  getF s.seals.status 0 2 + 4 * getF s.col.status 2 1 + 8 * (s.aovfSum != s.seals.aovfAt).toNat

/-- Bytes 0 to 255 of a result certificate (Table 14.4). -/
def State.certHead (s : State) (chain res prog : Digest) (n w : Nat) : List Byte :=
  leBytes 4 0x4352544A ++ leBytes 2 1 ++ leBytes 1 s.seals.level.toNat ++ leBytes 1 s.taint ++ leBytes 4 s.rte.selfId.toNat ++
    leBytes 2 (s.rte.tab[s.rte.inj]).tag ++ leBytes 2 0 ++ leBytes 8 s.chm.n.toNat ++ leBytes 8 s.stp.last.toNat ++ chain ++ res ++
    s.bankMeas ++ prog ++ leBytes 4 n ++ leBytes 4 w ++ leBytes 24 0

/-- A byte string with its signature under the identity key (PRESUMED, log entry 8). -/
def withSig (ctx : SigContext) (bs : List Byte) : List Byte := bs ++ leBytes 114 (ed448Sign Config.identityKey ctx bs).toNat

/-- The identity certificate (Table 19.5) (PRESUMED, log entry 8). -/
def identityCert : List Byte :=
  leBytes 4 0x54434E4A ++ leBytes 2 1 ++ leBytes 2 0 ++ leBytes 16 Config.serial.toNat ++ leBytes 57 (edPublic Config.identityKey).toNat ++
    leBytes 7 0 ++ leBytes 8 Config.issued.toNat ++ leBytes 16 Config.caid.toNat ++ leBytes 114 Config.certSig.toNat

/-- The PROT_QUERY reply body (R394). -/
def State.protBody (s : State) : List Byte :=
  (s.wdn.protKeys.toList.flatMap fun k => leBytes 57 (k.getD 0).toNat) ++ leBytes 1 s.wdn.protJtag.toNat ++
    (s.wdn.protMap.flatMap fun w => leBytes 8 w.toNat) ++ leBytes 1 s.wdn.closed.toNat

/-- Profile measurement (R397). -/
def State.profMeas (s : State) : Digest :=
  if h : s.wdn.profNo.toNat < 4 then ((s.wdn.profiles[s.wdn.profNo.toNat]).getD []).drop 0x3FFD0 else Config.factoryMeas

/-- A quote's bytes before its signature (Table 19.6). -/
def State.quoteHead (s : State) (nonce : BitVec 256) (nchain : Nat) : List Byte :=
  let cs := s.seals.chains.take nchain
  leBytes 4 0x51544E4A ++ leBytes 2 1 ++ leBytes 1 cs.length ++ leBytes 1 s.dev.st.code ++ leBytes 4 s.rte.selfId.toNat ++
    leBytes 2 (s.rte.tab[s.rte.inj]).tag ++ leBytes 1 s.wdn.profNo.toNat ++ leBytes 1 s.wdn.bank.toNat ++ leBytes 8 s.chm.n.toNat ++
    leBytes 4 (s.wdn.banks[bankIx s.wdn.bank]).svn ++ leBytes 4 s.wdn.svnMin.toNat ++ leBytes 32 nonce.toNat ++ s.bankMeas ++ s.wdn.wdnFw ++
    s.profMeas ++ shake256 s.protBody 48 ++ cs.flatten

/-- CERTIFY in an allowed state (R311, R312): the chain is kept, and its certificate answers. -/
def State.certify (s : State) (h : OrderHdr) (c : CombId) (ins ws : List (BitVec 16)) (res : BitVec 16) : State :=
  if 255 < ins.length ∨ 255 < ws.length then s.refuse h 0x0B true .range .none
  else match (s.comb c).seq.progSeal, s.seals.named ins, s.seals.named ws, s.seals.named [res] with
    | some p, some is, some wv, some [r] =>
      let chain := chainOf p is wv
      let cert := withSig .result (s.certHead chain r p is.length wv.length)
      ({ s with seals := { s.seals with chains := (chain :: s.seals.chains).take 16 } } : State).reply h 0x0B .ok (.bytes cert)
    | _, _, _, _ => s.refuse h 0x0B true .state .none

/-! ### Staging (R390, R395, R397) -/

/-- The key set passes (R395): its signature under the current order key 0, unless no order key is set (PRESUMED, log entry 8). -/
def Wdn.keySetOk (w : Wdn) (bs : List Byte) : Bool :=
  bs.length == 462 && decide (hdrField bs 342 1 ≤ 1) && hdrField bs 343 5 == 0 &&
    (w.noOrderKey || (match w.key 0 with
      | some pk => ed448Verify pk .keySet (bs.take 348) (BitVec.ofNat 912 (hdrField bs 348 114))
      | none => false))

/-- The keys of a set: an empty key is all zeros (DESIGN CHOICE, log entry 33). -/
def keysOf (bs : List Byte) : Vector (Option (BitVec 456)) 6 :=
  Vector.ofFn fun k =>
    let v := hdrField bs (57 * k.val) 57
    if v = 0 then none else some (BitVec.ofNat 456 v)

/-- Most bytes that an item of a kind may have. -/
def stageMost (kind : Fin 3) : Nat := match kind with | 0 => 16777216 | 1 => 0x40000 | _ => 462

/-- A piece outside Table 19.4 (DESIGN CHOICE, log entry 65). -/
def badStage (kind : Fin 3) (p : StagePiece) : Bool :=
  let final := p.offset.toNat + p.data.length == p.total.toNat
  p.zeros != 0 || decide (8192 < p.data.length) || p.total == 0 || decide (stageMost kind < p.total.toNat) ||
    decide (p.total.toNat < p.offset.toNat + p.data.length) || (if kind = 1 then decide (3 < p.slot.toNat) else p.slot != 0) ||
    decide (1 < p.arm.toNat) || (p.arm == 1 && !(final && kind != 2))

/-- The item being staged under a kind and slot (DESIGN CHOICE, log entry 65). -/
def Wdn.stage (w : Wdn) (kind : Fin 3) (slot : BitVec 8) : Option Staging := w.staging.find? fun x => x.kind == kind && x.slot == slot

/-- A switch of a kind is armed. -/
def Wdn.armedKind (w : Wdn) (kind : Fin 3) : Bool :=
  match kind with
  | 0 => w.armed || !w.fwSwitchAt.isEmpty
  | 1 => w.profArm.isSome || !w.profSwitch.isEmpty
  | _ => false

/-- Put an item where it is staged; an image is written into the inactive bank, which counts as failed until it passes, and a key set being
staged discards the one that passed before (R390) (DESIGN CHOICE, log entry 65). -/
def State.putStage (s : State) (x : Staging) : State :=
  let w := s.wdn
  let w1 := { w with staging := w.staging.filter (fun y => !(y.kind == x.kind && y.slot == x.slot)) ++ [x] }
  { s with wdn := match x.kind with
      | 0 => { w1 with banks := w1.banks.set (bankIx (!w.bank)) { bytes := x.data, failed := true }, staged := false }
      | 1 => w1
      | _ => { w1 with keySet := none } }

/-- A piece of FW_STAGE (R390): any OFFSET but 0 and the bytes already staged is answered RANGE with those bytes, whatever else is wrong with
the piece (DESIGN CHOICE, log entry 65). -/
def State.stagePiece (s : State) (h : OrderHdr) (kind : Fin 3) (p : StagePiece) : State :=
  let no := fun (r : Result) (b : ReplyBody) => s.refuse h 0x23 true r b
  let old := s.wdn.stage kind p.slot
  let have_ := match old with | some x => x.data.length | none => 0
  let astray := p.offset ≠ 0 ∧ p.offset.toNat ≠ have_
  if badStage kind p then no .range (if astray then .expected have_ else .none)
  else if (s.wdn.staging.any fun x => x.kind == kind && x.verifying) || s.wdn.armedKind kind then no .busy .none
  else if astray then no .range (.expected have_)
  else if p.offset ≠ 0 ∧ (match old with | some x => x.total != p.total | none => false) = true then no .range .none
  else
    let data := (if p.offset = 0 then [] else match old with | some x => x.data | none => []) ++ p.data
    let final := data.length == p.total.toNat
    let x : Staging := { kind := kind, slot := p.slot, arm := p.arm == 1, total := p.total, data := data
                         hdr := if final then some h else none, verifying := final }
    let s1 := s.putStage x
    if final then s1 else s1.reply h 0x23 .ok .none

/-- Verification of an item ends (R390, R391, R395, R397) (DESIGN CHOICE, log entry 65). -/
def State.stageEnd (s : State) (kind : Fin 3) : State :=
  match s.wdn.staging.find? fun x => x.kind == kind && x.verifying with
  | none => s
  | some x =>
    let w := { s.wdn with staging := s.wdn.staging.erase x }
    let slot : Fin 4 := ⟨x.slot.toNat % 4, Nat.mod_lt _ (by decide)⟩
    let r : Bool × Wdn := match kind with
      | 0 =>
        if imagePasses x.data w.svnMin.toNat then
          (true, { w with banks := w.banks.set (bankIx (!w.bank)) { bytes := x.data }, staged := true, armed := x.arm })
        else (false, w)
      | 1 =>
        if profileOk x.data then
          (true, { w with
            profiles := w.profiles.set slot (some x.data), assocW := w.assocW.set slot.val none
            profArm := if x.arm then some slot else w.profArm })
        else (false, w)
      | _ => if w.keySetOk x.data then (true, { w with keySet := some (keysOf x.data, hdrField x.data 342 1 == 1) }) else (false, w)
    let s1 : State := { s with wdn := r.2 }
    match x.hdr with
    | some h => s1.reply h 0x23 (if r.1 then .ok else .range) .none
    | none => s1

end Sys2Proof.Machine
end

