-- ==== Sys2Proof/Machine/Warden.lean ====
section
/-!
DEFINITION. Meanings of the orders that the warden serves (14 R311, 17 R368, 19 R390 to R402), and of the chronicle's writing.
-/
namespace Sys2Proof.Machine

/-! ### Certificates and attestation -/

/-- CERTIFY (R311, R312). -/
def execCertify (h : OrderHdr) (comb : CombId) (ins ws : List (BitVec 16)) (res : BitVec 16) (s : State) : Out :=
  .next (s.order h
    { code := 0x0B
      body := Config.orderBody 0x0B ([comb.val, ins.length] ++ ins.map (·.toNat) ++ [ws.length] ++ ws.map (·.toNat) ++ [res.toNat])
      states := workStates } fun t => t.certify h comb ins ws res)

/-- ATTEST (R393). -/
def execAttest (h : OrderHdr) (nonce : BitVec 256) (nchain : BitVec 8) (cert : Bool) (s : State) : Out :=
  .next (s.order h
    { code := 0x0C, len := some 64, body := leBytes 32 nonce.toNat ++ [nchain, if cert then 1 else 0] ++ List.replicate 30 0
      states := coreStates } fun t =>
    if 16 < nchain.toNat then t.refuse h 0x0C true .range .none
    else t.reply h 0x0C .ok (.bytes (withSig .quote (t.quoteHead nonce nchain.toNat) ++ if cert then identityCert else [])))

/-- PROT_QUERY (R394). -/
def execProtQuery (h : OrderHdr) (s : State) : Out :=
  .next (s.order h { code := 0x26, body := Config.orderBody 0x26 [], need := orderKeys, states := everyState } fun t => t.reply h 0x26 .ok (.bytes t.protBody))

/-! ### The chronicle -/

/-- CHR_READ (R401). -/
def execChrRead (h : OrderHdr) (first count : BitVec 32) (s : State) : Out :=
  .next (s.order h
    { code := 0x0D, len := some 8, body := leBytes 4 first.toNat ++ leBytes 4 count.toNat, states := everyState } fun t =>
    if count.toNat = 0 ∨ 128 < count.toNat then t.refuse h 0x0D true .range .none
    else t.reply h 0x0D .ok (.bytes (t.chronicleBody first.toNat count.toNat)))

/-- CHR_CLEAR (R402): the clear begins; a second one during it is answered BUSY. -/
def execChrClear (h : OrderHdr) (s : State) : Out :=
  .next (s.order h { code := 0x25, len := some 0, need := some [5], states := allButX } fun t =>
    if t.chr.clearing.isSome then t.refuse h 0x25 true .busy .none
    else { t with chr := { t.chr with clearing := some (some h, t.chr.records.length) } })

/-- CHR_CLEAR_DONE (R402): record 0 is the clear record, and the reply goes out, unless entry to FENCED has answered already (R361). -/
def execChrClearDone (s : State) : Out :=
  .next (
    match s.chr.clearing with
    | none => s
    | some (h, old) =>
      let nonce := match h with
        | some x => (match x.trailer with | some t => t.nonce | none => 0)
        | none => 0
      let r : Record := {
        chime := s.chm.n, tb := BitVec.ofNat 64 (if s.chm.running then s.chm.tb else s.ticks), boots := s.wdn.boots
        event := .clear old (s.readReg .chrRefused) nonce }
      let s1 : State := { s with chr := { s.chr with records := [r], clearing := none } }
      match h with
      | some x => s1.reply x 0x25 .ok .none
      | none => s1)

/-- CHRONICLE_RECORD_WRITE (R399, R400): the head of the queue is written at the fill point, or refused where the chronicle is full. -/
def execChronicleRecordWrite (s : State) : Out :=
  .next (
    if s.dev.st = .off ∨ s.chr.clearing.isSome then s
    else match s.chr.queue with
      | [] => s
      | r :: l =>
        if s.chr.records.length < 131072 then { s with chr := { s.chr with queue := l, records := s.chr.records ++ [r] } }
        else { s with chr := { s.chr with queue := l, full := sat32 s.chr.full 1 } })

/-! ### Profiles and MACsec -/

/-- PROFILE_SELECT (R398): the switch waits for the next chime, and its reply with it (R358) (DESIGN CHOICE, log entry 63). -/
def execProfileSelect (h : OrderHdr) (slot : BitVec 8) (s : State) : Out :=
  .next (s.order h
    { code := 0x22, body := [0, slot] ++ List.replicate (h.body - 2) 0, need := orderKeys, states := [.quiesced] } fun t =>
    if hk : slot.toNat < 4 then
      (if (t.wdn.profiles[slot.toNat]).isSome then
        { t with wdn := { t.wdn with profSwitch := t.wdn.profSwitch ++ [(⟨slot.toNat, hk⟩, h)] } }
      else t.refuse h 0x22 true .range .none)
    else t.refuse h 0x22 true .range .none)

/-- The body of a PROFILE order of KIND 1 (R398); direction 0 is reception (DESIGN CHOICE, log entry 88). -/
def assocBody (rx : Bool) (an : BitVec 8) (a : MacsecAssoc) : List Byte :=
  [1, if rx then 0 else 1, an] ++ List.replicate 5 0 ++ leBytes 32 a.key.toNat ++ leBytes 12 a.salt.toNat ++ leBytes 4 a.ssci.toNat

/-- ETHERNET_DEFAULTS (R368): one association of the active profile, which outlives resets; that in use for transmission is refused. -/
def execEthernetDefaults (h : OrderHdr) (rx : Bool) (an : BitVec 8) (a : MacsecAssoc) (s : State) : Out :=
  .next (s.order h { code := 0x22, len := some 56, body := assocBody rx an a, need := orderKeys, states := coreStates } fun t =>
    if 1 < an.toNat then t.refuse h 0x22 true .range .none
    else if !rx && an.toNat == t.eth.txan.val then t.refuse h 0x22 true .state .none
    else
      let i := (if rx then 0 else 2) + an.toNat
      let assoc := Vector.ofFn fun j => if j.val = i then a else t.eth.assoc[j]
      let pn := if rx then t.eth.pn else Vector.ofFn fun j => if j.val = an.toNat then 0 else t.eth.pn[j]
      let kept := if hp : t.wdn.profNo.toNat < 5 then t.wdn.assocW.set t.wdn.profNo.toNat (some assoc) else t.wdn.assocW
      ({ t with eth := { t.eth with assoc := assoc, pn := pn }, wdn := { t.wdn with assocW := kept } } : State).reply h 0x22 .ok .none)

/-! ### Firmware -/

/-- The body of an FW_STAGE piece (Table 19.4). -/
def stageBody (kind : BitVec 8) (p : StagePiece) : List Byte :=
  [kind, p.slot, p.arm] ++ leBytes 5 p.zeros.toNat ++ leBytes 8 p.offset.toNat ++ leBytes 8 p.total.toNat ++ p.data

/-- Rule of an FW_STAGE piece (Table 17.4, R395). -/
def stageRule (kind : BitVec 8) (p : StagePiece) (bare : Bool) : OrderRule :=
  { code := 0x23, len := some (24 + p.data.length), body := stageBody kind p, need := orderKeys, bare := bare, states := allButX }

/-- FW_STAGE_IMAGE (R390). -/
def execFwStageImage (h : OrderHdr) (b : StagePiece) (s : State) : Out := .next (s.order h (stageRule 0 b false) fun t => t.stagePiece h 0 b)

/-- FW_STAGE_PROFILE (R397). -/
def execFwStageProfile (h : OrderHdr) (b : StagePiece) (s : State) : Out :=
  .next (s.order h (stageRule 1 b false) fun t => t.stagePiece h 1 b)

/-- FW_STAGE_KEY_SET (R395): without a trailer while order keys 0 to 3 are empty. -/
def execFwStageKeySet (h : OrderHdr) (b : StagePiece) (s : State) : Out :=
  .next (s.order h (stageRule 2 b s.wdn.noOrderKey) fun t => t.stagePiece h 2 b)

/-- STAGE_VERIFIED (R390). -/
def execStageVerified (kind : Fin 3) (s : State) : Out := .next (s.stageEnd kind)

/-- FW_SWITCH (R391): the switch waits for the next chime, and its reply with it (R358) (DESIGN CHOICE, log entry 63). -/
def execFwSwitch (h : OrderHdr) (s : State) : Out :=
  .next (s.order h { code := 0x24, len := some 0, need := orderKeys, states := [.quiesced] } fun t =>
    if t.wdn.staged then { t with wdn := { t.wdn with fwSwitchAt := t.wdn.fwSwitchAt ++ [h] } }
    else t.refuse h 0x24 true .range .none)

end Sys2Proof.Machine
end

