-- ==== Sys2Proof/Machine/Dispatch.lean ====
section
/-!
DEFINITION. The commands and their meanings, one arm per constructor.
-/
namespace Sys2Proof.Machine

def exec (i : Instr) (s : State) : Host.Outcome State Fault Refusal :=
  match i with
  | .li c f => Sys2Proof.Machine.execLi c f s
  | .add c f => Sys2Proof.Machine.execAdd c f s
  | .sub c f => Sys2Proof.Machine.execSub c f s
  | .mul c f => Sys2Proof.Machine.execMul c f s
  | .and c f => Sys2Proof.Machine.execAnd c f s
  | .or c f => Sys2Proof.Machine.execOr c f s
  | .xor c f => Sys2Proof.Machine.execXor c f s
  | .shl c f => Sys2Proof.Machine.execShl c f s
  | .shr c f => Sys2Proof.Machine.execShr c f s
  | .cmp c f => Sys2Proof.Machine.execCmp c f s
  | .br c f => Sys2Proof.Machine.execBr c f s
  | .jmp c f => Sys2Proof.Machine.execJmp c f s
  | .call c f => Sys2Proof.Machine.execCall c f s
  | .ret c f => Sys2Proof.Machine.execRet c f s
  | .loop c f => Sys2Proof.Machine.execLoop c f s
  | .wait c f => Sys2Proof.Machine.execWait c f s
  | .waitRelease c => Sys2Proof.Machine.execWaitRelease c s
  | .fence c f => Sys2Proof.Machine.execFence c f s
  | .fenceRelease c => Sys2Proof.Machine.execFenceRelease c s
  | .halt c f => Sys2Proof.Machine.execHalt c f s
  | .haltDrained c => Sys2Proof.Machine.execHaltDrained c s
  | .csrr c f => Sys2Proof.Machine.execCsrr c f s
  | .csrw c f => Sys2Proof.Machine.execCsrw c f s
  | .dset c f => Sys2Proof.Machine.execDset c f s
  | .dld c f => Sys2Proof.Machine.execDld c f s
  | .dst c f => Sys2Proof.Machine.execDst c f s
  | .frame c f => Sys2Proof.Machine.execFrame c f s
  | .chimew c f => Sys2Proof.Machine.execChimew c f s
  | .chimewRelease c => Sys2Proof.Machine.execChimewRelease c s
  | .tally c f => Sys2Proof.Machine.execTally c f s
  | .tallySnapshotDone c => Sys2Proof.Machine.execTallySnapshotDone c s
  | .commitPrep c f => Sys2Proof.Machine.execCommitPrep c f s
  | .mshape c f => Sys2Proof.Machine.execMshape c f s
  | .mhold c f => Sys2Proof.Machine.execMhold c f s
  | .mholdFillDone c => Sys2Proof.Machine.execMholdFillDone c s
  | .mmul c f => Sys2Proof.Machine.execMmul c f s
  | .matrixCompletion c mm => Sys2Proof.Machine.execMatrixCompletion c mm s
  | .mx c f => Sys2Proof.Machine.execMx c f s
  | .mxCompletion c => Sys2Proof.Machine.execMxCompletion c s
  | .arrayAccept c => Sys2Proof.Machine.execArrayAccept c s
  | .extractorAccept c => Sys2Proof.Machine.execExtractorAccept c s
  | .vld c f => Sys2Proof.Machine.execVld c f s
  | .vst c f => Sys2Proof.Machine.execVst c f s
  | .vadd c f => Sys2Proof.Machine.execVadd c f s
  | .vsub c f => Sys2Proof.Machine.execVsub c f s
  | .vmul c f => Sys2Proof.Machine.execVmul c f s
  | .vfma c f => Sys2Proof.Machine.execVfma c f s
  | .vmax c f => Sys2Proof.Machine.execVmax c f s
  | .vmin c f => Sys2Proof.Machine.execVmin c f s
  | .vargmax c f => Sys2Proof.Machine.execVargmax c f s
  | .vargmin c f => Sys2Proof.Machine.execVargmin c f s
  | .vsum c f => Sys2Proof.Machine.execVsum c f s
  | .vexp2 c f => Sys2Proof.Machine.execVexp2 c f s
  | .vlog2 c f => Sys2Proof.Machine.execVlog2 c f s
  | .vrcp c f => Sys2Proof.Machine.execVrcp c f s
  | .vrsqrt c f => Sys2Proof.Machine.execVrsqrt c f s
  | .vcvt c f => Sys2Proof.Machine.execVcvt c f s
  | .vcmp c f => Sys2Proof.Machine.execVcmp c f s
  | .vsel c f => Sys2Proof.Machine.execVsel c f s
  | .updM2 c f => Sys2Proof.Machine.execUpdM2 c f s
  | .updM1 c f => Sys2Proof.Machine.execUpdM1 c f s
  | .updPlain c f => Sys2Proof.Machine.execUpdPlain c f s
  | .vectorAccept c => Sys2Proof.Machine.execVectorAccept c s
  | .vectorCompletion c => Sys2Proof.Machine.execVectorCompletion c s
  | .cpy c f => Sys2Proof.Machine.execCpy c f s
  | .gather c f => Sys2Proof.Machine.execGather c f s
  | .scatter c f => Sys2Proof.Machine.execScatter c f s
  | .seal c f => Sys2Proof.Machine.execSeal c f s
  | .amo c f => Sys2Proof.Machine.execAmo c f s
  | .courierAccept c => Sys2Proof.Machine.execCourierAccept c s
  | .courierCompletion c j => Sys2Proof.Machine.execCourierCompletion c j s
  | .sealEngineServe e => Sys2Proof.Machine.execSealEngineServe e s
  | .put c f => Sys2Proof.Machine.execPut c f s
  | .get c f => Sys2Proof.Machine.execGet c f s
  | .mcast c f => Sys2Proof.Machine.execMcast c f s
  | .coll c f => Sys2Proof.Machine.execColl c f s
  | .bar c f => Sys2Proof.Machine.execBar c f s
  | .instructionFetch c u => Sys2Proof.Machine.execInstructionFetch c u s
  | .lockstep c => Sys2Proof.Machine.execLockstep c s
  | .faultDrained c => Sys2Proof.Machine.execFaultDrained c s
  | .queueEntry c => Sys2Proof.Machine.execQueueEntry c s
  | .consignmentStart c => Sys2Proof.Machine.execConsignmentStart c s
  | .dropRoute j => Sys2Proof.Machine.execDropRoute j s
  | .dropTransmit l => Sys2Proof.Machine.execDropTransmit l s
  | .dropStaleDiscard j => Sys2Proof.Machine.execDropStaleDiscard j s
  | .data d => Sys2Proof.Machine.execData d s
  | .manifest d => Sys2Proof.Machine.execManifest d s
  | .mdata d => Sys2Proof.Machine.execMdata d s
  | .mmanifest d => Sys2Proof.Machine.execMmanifest d s
  | .getreq d => Sys2Proof.Machine.execGetreq d s
  | .rdata d => Sys2Proof.Machine.execRdata d s
  | .ack d => Sys2Proof.Machine.execAck d s
  | .done d => Sys2Proof.Machine.execDone d s
  | .error d => Sys2Proof.Machine.execError d s
  | .fenced d => Sys2Proof.Machine.execFenced d s
  | .retxTimeout k cid => Sys2Proof.Machine.execRetxTimeout k cid s
  | .codeword l w => Sys2Proof.Machine.execCodeword l w s
  | .controlWord l w => Sys2Proof.Machine.execControlWord l w s
  | .nak l n => Sys2Proof.Machine.execNak l n s
  | .ident l x => Sys2Proof.Machine.execIdent l x s
  | .replayStall l => Sys2Proof.Machine.execReplayStall l s
  | .laneFailure l lane => Sys2Proof.Machine.execLaneFailure l lane s
  | .spare l x => Sys2Proof.Machine.execSpare l x s
  | .spareSwitch l rx => Sys2Proof.Machine.execSpareSwitch l rx s
  | .linkFailure l => Sys2Proof.Machine.execLinkFailure l s
  | .linkRetry port n => Sys2Proof.Machine.execLinkRetry port n s
  | .linkPhaseDone l x => Sys2Proof.Machine.execLinkPhaseDone l x s
  | .roadworksSchedule l temp => Sys2Proof.Machine.execRoadworksSchedule l temp s
  | .rwRequest l => Sys2Proof.Machine.execRwRequest l s
  | .rwNotice l ts => Sys2Proof.Machine.execRwNotice l ts s
  | .rwCancel l ts => Sys2Proof.Machine.execRwCancel l ts s
  | .roadworksClose l => Sys2Proof.Machine.execRoadworksClose l s
  | .close l n => Sys2Proof.Machine.execClose l n s
  | .roadworksSettleEnd l => Sys2Proof.Machine.execRoadworksSettleEnd l s
  | .openLink l x => Sys2Proof.Machine.execOpenLink l x s
  | .hbmRetrainStart x => Sys2Proof.Machine.execHbmRetrainStart x s
  | .hbmRetrainEnd m finished => Sys2Proof.Machine.execHbmRetrainEnd m finished s
  | .hbmRefresh m temp => Sys2Proof.Machine.execHbmRefresh m temp s
  | .mergeSlotClose m page => Sys2Proof.Machine.execMergeSlotClose m page s
  | .hbmSweep m struck => Sys2Proof.Machine.execHbmSweep m struck s
  | .recodePage m => Sys2Proof.Machine.execRecodePage m s
  | .combStoreSweep c line struck => Sys2Proof.Machine.execCombStoreSweep c line struck s
  | .squareStoreSweep q line struck => Sys2Proof.Machine.execSquareStoreSweep q line struck s
  | .atomicOperation u => Sys2Proof.Machine.execAtomicOperation u s
  | .collAdmission => Sys2Proof.Machine.execCollAdmission s
  | .sign d => Sys2Proof.Machine.execSign d s
  | .grant d => Sys2Proof.Machine.execGrant d s
  | .collData d => Sys2Proof.Machine.execCollData d s
  | .abort d => Sys2Proof.Machine.execAbort d s
  | .arrive d => Sys2Proof.Machine.execArrive d s
  | .release d => Sys2Proof.Machine.execRelease d s
  | .barrierRelease g => Sys2Proof.Machine.execBarrierRelease g s
  | .collCompletion g => Sys2Proof.Machine.execCollCompletion g s
  | .chime => Sys2Proof.Machine.execChime s
  | .arraySelftestDone c x => Sys2Proof.Machine.execArraySelftestDone c x s
  | .chimeSymbol l x stamp => Sys2Proof.Machine.execChimeSymbol l x stamp s
  | .rootSuccession => Sys2Proof.Machine.execRootSuccession s
  | .synclossReset => Sys2Proof.Machine.execSynclossReset s
  | .ping l t1 => Sys2Proof.Machine.execPing l t1 s
  | .echo l x => Sys2Proof.Machine.execEcho l x s
  | .elect l x => Sys2Proof.Machine.execElect l x s
  | .electBroadcast => Sys2Proof.Machine.execElectBroadcast s
  | .electSettled => Sys2Proof.Machine.execElectSettled s
  | .time l x => Sys2Proof.Machine.execTime l x s
  | .musterPhaseDone => Sys2Proof.Machine.execMusterPhaseDone s
  | .qvote d => Sys2Proof.Machine.execQvote d s
  | .qdecide d => Sys2Proof.Machine.execQdecide d s
  | .vote d => Sys2Proof.Machine.execVote d s
  | .lodge d => Sys2Proof.Machine.execLodge d s
  | .lodged d => Sys2Proof.Machine.execLodged d s
  | .decide d => Sys2Proof.Machine.execDecide d s
  | .commitDeadline => Sys2Proof.Machine.execCommitDeadline s
  | .commitUndecided => Sys2Proof.Machine.execCommitUndecided s
  | .status h => Sys2Proof.Machine.execStatus h s
  | .regRead h addrs => Sys2Proof.Machine.execRegRead h addrs s
  | .regWrite h ws => Sys2Proof.Machine.execRegWrite h ws s
  | .bulkWrite h b => Sys2Proof.Machine.execBulkWrite h b s
  | .bulkTimeout src cid => Sys2Proof.Machine.execBulkTimeout src cid s
  | .bulkRead h addr len cid => Sys2Proof.Machine.execBulkRead h addr len cid s
  | .muster h => Sys2Proof.Machine.execMuster h s
  | .load h img combs => Sys2Proof.Machine.execLoad h img combs s
  | .loadComplete seq => Sys2Proof.Machine.execLoadComplete seq s
  | .start h combs chime v => Sys2Proof.Machine.execStart h combs chime v s
  | .quiesce h chime => Sys2Proof.Machine.execQuiesce h chime s
  | .resume h chime => Sys2Proof.Machine.execResume h chime s
  | .certify h comb ins ws res => Sys2Proof.Machine.execCertify h comb ins ws res s
  | .attest h nonce nchain cert => Sys2Proof.Machine.execAttest h nonce nchain cert s
  | .chrRead h first count => Sys2Proof.Machine.execChrRead h first count s
  | .nameRoot h root deputy base => Sys2Proof.Machine.execNameRoot h root deputy base s
  | .tableWrite h ws => Sys2Proof.Machine.execTableWrite h ws s
  | .resetComb h combs chime => Sys2Proof.Machine.execResetComb h combs chime s
  | .resetCompute h combs chime => Sys2Proof.Machine.execResetCompute h combs chime s
  | .resetCore h => Sys2Proof.Machine.execResetCore h s
  | .resetFull x => Sys2Proof.Machine.execResetFull x s
  | .profileSelect h slot => Sys2Proof.Machine.execProfileSelect h slot s
  | .ethernetDefaults h rx an a => Sys2Proof.Machine.execEthernetDefaults h rx an a s
  | .fwStageImage h b => Sys2Proof.Machine.execFwStageImage h b s
  | .fwStageProfile h b => Sys2Proof.Machine.execFwStageProfile h b s
  | .fwStageKeySet h b => Sys2Proof.Machine.execFwStageKeySet h b s
  | .stageVerified kind => Sys2Proof.Machine.execStageVerified kind s
  | .fwSwitch h => Sys2Proof.Machine.execFwSwitch h s
  | .chrClear h => Sys2Proof.Machine.execChrClear h s
  | .chrClearDone => Sys2Proof.Machine.execChrClearDone s
  | .protQuery h => Sys2Proof.Machine.execProtQuery h s
  | .arpRequest x => Sys2Proof.Machine.execArpRequest x s
  | .ethLinkChange up => Sys2Proof.Machine.execEthLinkChange up s
  | .chronicleRecordWrite => Sys2Proof.Machine.execChronicleRecordWrite s
  | .rteSelfWrite h v => Sys2Proof.Machine.execRteSelfWrite h v s
  | .rteFlipWrite h v => Sys2Proof.Machine.execRteFlipWrite h v s
  | .rteEpochRelease h v => Sys2Proof.Machine.execRteEpochRelease h v s
  | .rteFenceWrite h w v => Sys2Proof.Machine.execRteFenceWrite h w v s
  | .colGroupWrite h ver g v => Sys2Proof.Machine.execColGroupWrite h ver g v s
  | .colMemWrite h ver g w v => Sys2Proof.Machine.execColMemWrite h ver g w v s
  | .colCfgWrite h spill v => Sys2Proof.Machine.execColCfgWrite h spill v s
  | .chmPendingWrite h v => Sys2Proof.Machine.execChmPendingWrite h v s
  | .chmRootWrite h v => Sys2Proof.Machine.execChmRootWrite h v s
  | .chmCfgWrite h v => Sys2Proof.Machine.execChmCfgWrite h v s
  | .sealLevelPendWrite h v => Sys2Proof.Machine.execSealLevelPendWrite h v s
  | .sealLevelatWrite h v => Sys2Proof.Machine.execSealLevelatWrite h v s
  | .stpRegisterWrite h x v => Sys2Proof.Machine.execStpRegisterWrite h x v s
  | .memStrengthWrite h m v => Sys2Proof.Machine.execMemStrengthWrite h m v s
  | .sweeperDisable h x => Sys2Proof.Machine.execSweeperDisable h x s
  | .rwnow h l => Sys2Proof.Machine.execRwnow h l s
  | .linkEnWrite h l en => Sys2Proof.Machine.execLinkEnWrite h l en s
  | .txanWrite h an => Sys2Proof.Machine.execTxanWrite h an s
  | .stepminWrite h v => Sys2Proof.Machine.execStepminWrite h v s
  | .prefWrite h b => Sys2Proof.Machine.execPrefWrite h b s
  | .w1cClear r v setNow => Sys2Proof.Machine.execW1cClear r v setNow s
  | .againReset r => Sys2Proof.Machine.execAgainReset r s
  | .registerWrite r v => Sys2Proof.Machine.execRegisterWrite r v s
  | .hallLockstep => Sys2Proof.Machine.execHallLockstep s
  | .clockMonitorFault => Sys2Proof.Machine.execClockMonitorFault s
  | .railMonitorFault => Sys2Proof.Machine.execRailMonitorFault s
  | .vinTransfer va vb => Sys2Proof.Machine.execVinTransfer va vb s
  | .vinTransferBack va vb => Sys2Proof.Machine.execVinTransferBack va vb s
  | .supplyLoss va vb held9V => Sys2Proof.Machine.execSupplyLoss va vb held9V s
  | .vauxChange on pins => Sys2Proof.Machine.execVauxChange on pins s
  | .porst low pins => Sys2Proof.Machine.execPorst low pins s
  | .wardenWatchdog pins => Sys2Proof.Machine.execWardenWatchdog pins s
  | .aliveToggle => Sys2Proof.Machine.execAliveToggle s
  | .thermalRequest t deeper => Sys2Proof.Machine.execThermalRequest t deeper s
  | .currentRequest ia ib deeper => Sys2Proof.Machine.execCurrentRequest ia ib deeper s
  | .junctionOver t => Sys2Proof.Machine.execJunctionOver t s
  | .thermtrip t => Sys2Proof.Machine.execThermtrip t s
  | .latentFaultTest t failed => Sys2Proof.Machine.execLatentFaultTest t failed s
  | .resetComplete => Sys2Proof.Machine.execResetComplete s
  | .bootVerify => Sys2Proof.Machine.execBootVerify s
  | .bootSupply vin => Sys2Proof.Machine.execBootSupply vin s
  | .bootCore x => Sys2Proof.Machine.execBootCore x s
  | .bootClose => Sys2Proof.Machine.execBootClose s
  | .ethernetFrame x => Sys2Proof.Machine.execEthernetFrame x s
  | .tapInstruction j => Sys2Proof.Machine.execTapInstruction j s

end Sys2Proof.Machine
end

