-- ==== Sys2Proof/Machine/Tick.lean ====
section
/-!
DEFINITION. What one array cycle does of itself: the running time base counts it (13 R277, R286). Everything else that is due
at an instant is a command of its own.
-/
namespace Sys2Proof.Machine

/-- One array cycle of the time base (DESIGN CHOICE, log entry 1). -/
def State.tick (s : State) : State :=
  { s with chm := { s.chm with
      tb := if s.chm.running then s.chm.tb + 1 else s.chm.tb
      local_ := s.chm.local_ + 1 } }

end Sys2Proof.Machine
end

