-- ==== Sys2Proof/Safety.lean ====
section
/-!
DEFINITION. What claims use: the invariant of states (the sparse stores keep their canonical form, log entry 11), the words of
Vurdo as commands, when a word executes in full, and the small changes of state in whose terms claims say what a command does.
-/
namespace Sys2Proof.Machine

/-- Memory in canonical form: every sparse store of it has rising keys and lists no default (DESIGN CHOICE, log entry 11). -/
def Mem.wf (m : Mem) : Bool :=
  Sparse.wf (0 : Byte) m.bytes && Sparse.wf false m.poison && Sparse.wf Upset.clean m.upsets &&
    Sparse.wf (0 : BitVec 32) m.crc && Sparse.wf (0 : Byte) m.parity

/-! ### Vurdo words as commands -/

/-- The command that executes a sequencer word. -/
def wordS (c : CombId) (f : SForm) : SOp → Instr
  | .li => .li c f | .add => .add c f | .sub => .sub c f | .mul => .mul c f | .and => .and c f | .or => .or c f
  | .xor => .xor c f | .shl => .shl c f | .shr => .shr c f | .cmp => .cmp c f | .br => .br c f | .jmp => .jmp c f
  | .call => .call c f | .ret => .ret c f | .loop => .loop c f | .wait => .wait c f | .fence => .fence c f
  | .halt => .halt c f | .csrr => .csrr c f | .csrw => .csrw c f | .dset => .dset c f | .dld => .dld c f
  | .dst => .dst c f | .frame => .frame c f | .chimew => .chimew c f | .tally => .tally c f | .commitPrep => .commitPrep c f

/-- The command that issues a tensor word. -/
def wordT (c : CombId) (f : TForm) : TKind → Instr
  | .mshape => .mshape c f | .mhold => .mhold c f | .mmul => .mmul c f | .mx => .mx c f
  | .vec .vld => .vld c f | .vec .vst => .vst c f | .vec .vadd => .vadd c f | .vec .vsub => .vsub c f
  | .vec .vmul => .vmul c f | .vec .vfma => .vfma c f | .vec .vmax => .vmax c f | .vec .vmin => .vmin c f
  | .vec .vargmax => .vargmax c f | .vec .vargmin => .vargmin c f | .vec .vsum => .vsum c f | .vec .vexp2 => .vexp2 c f
  | .vec .vlog2 => .vlog2 c f | .vec .vrcp => .vrcp c f | .vec .vrsqrt => .vrsqrt c f | .vec .vcvt => .vcvt c f
  | .vec .vcmp => .vcmp c f | .vec .vsel => .vsel c f
  | .upd .m2 => .updM2 c f | .upd .m1 => .updM1 c f | .upd .plain => .updPlain c f
  | .cpy => .cpy c f | .gather => .gather c f | .scatter => .scatter c f | .seal => .seal c f | .amo => .amo c f
  | .put => .put c f | .get => .get c f | .mcast => .mcast c f | .coll => .coll c f | .bar => .bar c f

/-- The comb issues, and the word is legal, its predicate 1 and no register of it held by the scoreboard (R135, R143, R158). -/
def State.due (s : State) (c : CombId) (op : SOp) (f : SForm) : Bool :=
  (s.comb c).seq.issuing && !f.illegal op && (s.comb c).seq.pred f.pred && !(s.comb c).seq.held (sRegs op f)

/-- The same of a tensor word, with room in its queue and no condition of an issue fault (R140, R149). -/
def State.dueT (s : State) (c : CombId) (k : TKind) (f : TForm) : Bool :=
  (s.comb c).seq.issuing && !f.illegal k && (s.comb c).seq.pred f.pred && !(s.comb c).seq.held (tRegs k f) &&
    decide ((s.comb c).seq.busy[k.queue] < 32) && firstFault (s.tensorFaults c k f) == none

/-- Scalar register `r` of comb `c` takes `v`, and the next word is due; nothing else moves. -/
def State.wroteS (s : State) (c : CombId) (r : Fin 32) (v : W64) : State :=
  s.modSeq c fun q => ({ q with s := q.s.set r v } : Seq).advance

/-- The next word of comb `c` is due; nothing else moves. -/
def State.passed (s : State) (c : CombId) : State := s.modSeq c Seq.advance

/-- A tensor queue by its number (Table 7.3). -/
def Seq.queueOf (q : Seq) : Fin 4 → List QEntry
  | 0 => q.qMat
  | 1 => q.qVec
  | 2 => q.qCrr
  | 3 => q.qFab

/-- From `s` to `t` instruction `e` of queue `k` of comb `c` has ended at an unpopulated address: it has left its unit without its
counter, and ADDR is recorded unless a fault was (R149, R150). -/
def State.addrFaulted (s : State) (c : CombId) (e : QEntry) (k : Fin 4) (t : State) : Prop :=
  (t.comb c).seq.busy = (s.comb c).seq.busy.set k ((s.comb c).seq.busy[k] - 1) ∧ (t.comb c).seq.cnt = (s.comb c).seq.cnt ∧
    ((s.comb c).seq.stall ≠ .faulting → (s.comb c).seq.st ≠ .faulted →
      getF (t.comb c).seq.fault 0 8 = 3 ∧ getF (t.comb c).seq.fault 8 18 = e.pc.toNat ∧ getF (t.comb c).seq.fault 40 3 = k.val + 1)

/-- A COLL drop of a kind has reached this chip and its CID is new to its source's entry (R232, R276). -/
def State.newColl (s : State) (d : Drop) (kind : Nat) : Bool :=
  s.rte.arrived.contains d && d.type == 0xB && collKind d == kind &&
    (match s.fab.entry d.src none with
      | some e => !e.dup d.cid
      | none => decide (s.fab.srcs.length < 32768))

/-- The same of a one-drop SYNC consignment (R324). -/
def State.newSync (s : State) (d : Drop) (kind : Nat) : Bool :=
  s.rte.arrived.contains d && d.type == 0xC && d.addr % 16 == kind &&
    (match s.fab.entry d.src none with
      | some e => !e.dup d.cid
      | none => decide (s.fab.srcs.length < 32768))

/-! ### Orders -/

/-- A REG_WRITE or TABLE_WRITE order with one write (R362). -/
def oneWrite (h : OrderHdr) (table : Bool) (r : Reg) (v : W64) : OrderHdr × OrderRule := (h, writeOrder table [writeAddr r, v.toNat])

/-- Header and row of Table 17.4 of a command that is an order: code, body and its length where its own table fixes it, keys, states. -/
def State.orderRule (s : State) : Instr → Option (OrderHdr × OrderRule)
  | .status h => some (h, { code := 0x01, body := Config.orderBody 0x01 [], states := everyState })
  | .regRead h as_ => some (h, { code := 0x02, body := Config.orderBody 0x02 (as_.map (·.toNat)), states := everyState })
  | .regWrite h ws => some (h, writeOrder false (regFields ws))
  | .colCfgWrite h spill v => some (oneWrite h false (if spill then .colSpill else .colCfg) v)
  | .chmPendingWrite h v => some (oneWrite h false .chmPending v)
  | .chmRootWrite h v => some (oneWrite h false .chmRoot v)
  | .chmCfgWrite h v => some (oneWrite h false .chmCfg v)
  | .sealLevelPendWrite h v => some (oneWrite h false .sealLevel v)
  | .sealLevelatWrite h v => some (oneWrite h false .sealLevelat v)
  | .stpRegisterWrite h x v => some (oneWrite h false (stpRegOf x) v)
  | .memStrengthWrite h m v => some (oneWrite h false (.memStrength m) v)
  | .sweeperDisable h u => some (oneWrite h false (sweepReg u) (setB (s.readReg (sweepReg u)) 32 false))
  | .rwnow h l => some (oneWrite h false (.lnkCtrl l) (setB (s.readReg (.lnkCtrl l)) 1 true))
  | .linkEnWrite h l en => some (oneWrite h false (.lnkCtrl l) (pack [(0, en.toNat)]))
  | .txanWrite h an => some (oneWrite h false .ethCfg (setB s.eth.cfg 35 an))
  | .stepminWrite h v => some (oneWrite h false .pwrCtrl (setF (s.readReg .pwrCtrl) 0 3 v.toNat))
  | .prefWrite h b => some (oneWrite h false .pwrCtrl (setB (s.readReg .pwrCtrl) 8 b))
  | .bulkWrite h b =>
    some (h, { code := 0x04, len := some (64 + b.data.length), body := BulkPiece.body b, states := [.coreUp, .ready, .running, .quiesced]
               cached := false })
  | .bulkRead h addr len cid =>
    some (h, { code := 0x05, body := Config.orderBody 0x05 [addr.toNat, len.toNat, cid.toNat]
               states := [.coreUp, .ready, .running, .quiesced, .fenced] })
  | .muster h => some (h, { code := 0x06, body := Config.orderBody 0x06 [], states := [.coreUp] })
  | .load h img combs =>
    some (h, { code := 0x07, body := Config.orderBody 0x07 [img.toNat, combs.toNat], states := [.ready, .running, .quiesced] })
  | .start h combs chime v =>
    some (h, { code := 0x08, body := Config.orderBody 0x08 (combs.toNat :: chime.toNat :: v.toList.map (·.toNat))
               states := [.ready, .running] })
  | .quiesce h chime => some (h, { code := 0x09, body := Config.orderBody 0x09 [chime.toNat], states := [.ready, .running] })
  | .resume h chime => some (h, { code := 0x0A, body := Config.orderBody 0x0A [chime.toNat], states := [.quiesced] })
  | .certify h comb ins ws res =>
    some (h, { code := 0x0B
               body := Config.orderBody 0x0B ([comb.val, ins.length] ++ ins.map (·.toNat) ++ [ws.length] ++ ws.map (·.toNat) ++ [res.toNat])
               states := [.ready, .running, .quiesced] })
  | .attest h nonce nchain cert =>
    some (h, { code := 0x0C, len := some 64
               body := leBytes 32 nonce.toNat ++ [nchain, if cert then 1 else 0] ++ List.replicate 30 0, states := coreStates })
  | .chrRead h first count =>
    some (h, { code := 0x0D, len := some 8, body := leBytes 4 first.toNat ++ leBytes 4 count.toNat, states := everyState })
  | .nameRoot h root deputy base =>
    some (h, { code := 0x0E, body := Config.orderBody 0x0E [root.toNat, deputy.toNat, base.toNat], states := [.ready, .running, .quiesced] })
  | .tableWrite h ws => some (h, writeOrder true (regFields ws))
  | .rteSelfWrite h v => some (oneWrite h true .rteSelf v)
  | .rteFlipWrite h v => some (oneWrite h true .rteFlip v)
  | .rteEpochRelease h v => some (oneWrite h true .rteEpoch v)
  | .rteFenceWrite h w v => some (oneWrite h true (.rteFence w) v)
  | .colGroupWrite h ver g v => some (oneWrite h true (.colGroup ver g) v)
  | .colMemWrite h ver g w v => some (oneWrite h true (.colMem ver g w) v)
  | .resetComb h combs chime => some (h, resetRule 0 combs chime [.ready, .running, .quiesced])
  | .resetCompute h combs chime => some (h, resetRule 1 combs chime [.ready, .running, .quiesced, .fenced])
  | .resetCore h => some (h, resetRule 2 0 0 coreStates)
  | .resetFull x => some (x.hdr, resetRule 3 0 0 everyState)
  | .profileSelect h slot =>
    some (h, { code := 0x22, body := [0, slot] ++ List.replicate (h.body - 2) 0, need := some [0, 1, 2, 3], states := [.quiesced] })
  | .ethernetDefaults h rx an a =>
    some (h, { code := 0x22, len := some 56, body := assocBody rx an a, need := some [0, 1, 2, 3], states := coreStates })
  | .fwStageImage h b => some (h, stageRule 0 b false)
  | .fwStageProfile h b => some (h, stageRule 1 b false)
  | .fwStageKeySet h b => some (h, stageRule 2 b s.wdn.noOrderKey)
  | .fwSwitch h => some (h, { code := 0x24, len := some 0, need := some [0, 1, 2, 3], states := [.quiesced] })
  | .chrClear h => some (h, { code := 0x25, len := some 0, need := some [5], states := allButX })
  | .protQuery h => some (h, { code := 0x26, body := Config.orderBody 0x26 [], need := some [0, 1, 2, 3], states := everyState })
  | .ethernetFrame (.unknownCode h code) => some (h, { code := code, body := Config.orderBody code.toNat [], states := everyState })
  | .ethernetFrame (.badBody h code body) =>
    some (h, { code := code, len := some body.length, body := body, need := keysFor code, states := everyState })
  | _ => none

/-- The hall takes up the order: it came to this chip's port and VLAN, is addressed to it, and finds room among the orders waiting
(R355, R356, R358). -/
def State.takesUp (s : State) (h : OrderHdr) : Bool :=
  s.receives && h.port.toNat == getF s.eth.cfg 0 16 && s.tagged h.tag && s.addressed h && s.seated.1

/-- It is new to its source's window; pieces of a bulk consignment are not judged by it (R357, R358). -/
def State.newOrder (s : State) (h : OrderHdr) (u : OrderRule) : Bool := !u.cached || (s.eth.held h).isEmpty && !s.eth.old h

/-- The command is an order that is executed: new, well formed, signed as its row asks, in one of its states (R356 to R360). -/
def State.accepts (s : State) (c : Instr) : Bool :=
  match s.orderRule c with
  | some (h, u) => s.takesUp h && s.newOrder h u && hdrFormed h u.len && s.wdn.authOk h u && u.states.contains s.dev.st
  | none => false

/-- An accepted order's key has a new nonce (R359). -/
def State.noted (s : State) (h : OrderHdr) : State := { s with wdn := s.wdn.takeNonce h }

/-- An order's source is heard (R357). -/
def State.hearing (s : State) (h : OrderHdr) : State := { s with eth := s.eth.hear h }

/-- The state in which an accepted order is executed: the orders that wait have their places, its source is heard, and its key has a new
nonce (R357 to R359). -/
def State.heard (s : State) (h : OrderHdr) : State := (s.seated.2.hearing h).noted h

/-- The register writes that an order names: is it a TABLE_WRITE, and the registers (none: no register there) with their values. -/
def State.writeOf (s : State) : Instr → Option (Bool × List (Option Reg × W64))
  | .regWrite _ ws => some (false, regPairs ws)
  | .tableWrite _ ws => some (true, regPairs ws)
  | .rteSelfWrite _ v => some (true, [(some .rteSelf, v)])
  | .rteFlipWrite _ v => some (true, [(some .rteFlip, v)])
  | .rteEpochRelease _ v => some (true, [(some .rteEpoch, v)])
  | .rteFenceWrite _ w v => some (true, [(some (.rteFence w), v)])
  | .colGroupWrite _ ver g v => some (true, [(some (.colGroup ver g), v)])
  | .colMemWrite _ ver g w v => some (true, [(some (.colMem ver g w), v)])
  | .colCfgWrite _ spill v => some (false, [(some (if spill then .colSpill else .colCfg), v)])
  | .chmPendingWrite _ v => some (false, [(some .chmPending, v)])
  | .chmRootWrite _ v => some (false, [(some .chmRoot, v)])
  | .chmCfgWrite _ v => some (false, [(some .chmCfg, v)])
  | .sealLevelPendWrite _ v => some (false, [(some .sealLevel, v)])
  | .sealLevelatWrite _ v => some (false, [(some .sealLevelat, v)])
  | .stpRegisterWrite _ x v => some (false, [(some (stpRegOf x), v)])
  | .memStrengthWrite _ m v => some (false, [(some (.memStrength m), v)])
  | .sweeperDisable _ u => some (false, [(some (sweepReg u), setB (s.readReg (sweepReg u)) 32 false)])
  | .rwnow _ l => some (false, [(some (.lnkCtrl l), setB (s.readReg (.lnkCtrl l)) 1 true)])
  | .linkEnWrite _ l en => some (false, [(some (.lnkCtrl l), pack [(0, en.toNat)])])
  | .txanWrite _ an => some (false, [(some .ethCfg, setB s.eth.cfg 35 an)])
  | .stepminWrite _ v => some (false, [(some .pwrCtrl, setF (s.readReg .pwrCtrl) 0 3 v.toNat)])
  | .prefWrite _ b => some (false, [(some .pwrCtrl, setB (s.readReg .pwrCtrl) 8 b)])
  | _ => none

/-- Writes in order up to the first one refused: the state reached, the number made, and what ended them (R362). -/
def State.writes (s : State) (table : Bool) : List (Option Reg × W64) → State × Nat × Result
  | [] => (s, 0, .ok)
  | (r, v) :: l =>
    let x := s.hallWrite table r v
    if x.2 = .ok then
      let y := x.1.writes table l
      (y.1, y.2.1 + 1, y.2.2)
    else (s, 0, x.2)

/-- A full reset under a cause: WARDEN registers and MRAM as R378 keeps them, everything else as after reset. -/
def State.fullyReset (s : State) (cause : Nat) (t : State) : Prop :=
  t.dev.st = .resetting ∧ t.combs = State.reset.combs ∧ t.squares = State.reset.squares ∧ t.rte = {} ∧ t.fab = {} ∧ t.col = {} ∧
    t.seals = {} ∧ t.stp = {} ∧ t.mem.bytes = [] ∧ t.mem.poison = [] ∧
    getF t.wdn.rstcause 0 3 = 4 ∧ getF t.wdn.rstcause 8 8 = cause ∧ t.wdn.boots = s.wdn.boots + 1 ∧
    (t.wdn.profiles, t.wdn.banks, t.wdn.bank, t.wdn.svnMin) = (s.wdn.profiles, s.wdn.banks, s.wdn.bank, s.wdn.svnMin) ∧
    (t.wdn.keys, t.wdn.nonces, t.wdn.jtag, t.wdn.keySet) = (s.wdn.keys, s.wdn.nonces, s.wdn.jtag, s.wdn.keySet) ∧
    (s.chr.clearing = none → t.chr.records = s.chr.records)

/-- A core reset under a cause: combs, squares, router, collectives, seals and steps start afresh; HBM, keys and chronicle stay. -/
def State.coreWasReset (s : State) (cause : Nat) (hold : ResetHold) (t : State) : Prop :=
  t.dev.st = .resetting ∧ (t.dev.reset.map fun r => (r.kind, r.hold)) = some (3, hold) ∧
    (∀ c, (t.comb c).seq = {} ∧ (t.comb c).ext = {} ∧ (t.comb c).mat.slots = []) ∧ t.squares = State.reset.squares ∧ t.rte = {} ∧ t.fab = {} ∧
    t.col = {} ∧ t.seals = {} ∧ t.stp = {} ∧
    getF t.wdn.rstcause 0 3 = 3 ∧ getF t.wdn.rstcause 8 8 = cause ∧ (t.wdn.keys, t.wdn.nonces, t.wdn.banks) = (s.wdn.keys, s.wdn.nonces, s.wdn.banks) ∧
    t.chr.records = s.chr.records ∧
    (s.mem.crc = [] → ∀ a, t.byte a = if a < 0x00F000000000 then s.byte a else 0)

/-- Only the sequencer of comb `c` differs. -/
def State.onlySeq (s : State) (c : CombId) (t : State) : Prop := t = s.modSeq c fun _ => (t.comb c).seq

/-- Only comb `c` differs. -/
def State.onlyComb (s : State) (c : CombId) (t : State) : Prop := t = s.modComb c fun _ => t.comb c

/-- Only link `l` differs. -/
def State.onlyLink (s : State) (l : LinkId) (t : State) : Prop := t = s.modLink l fun _ => t.links[l]

/-- Only controller `m` differs. -/
def State.onlyMc (s : State) (m : McId) (t : State) : Prop := t = s.modMc m fun _ => t.mcs[m]

end Sys2Proof.Machine
end

