-- ==== Sys2Proof/Certificates/Slice0/Obligations.lean ====
section
/-!
DEFINITION. The statements about the chip, for the provers: each says what its rule or table of the spec says a command or the
machine does.
-/
section
open Sys2Proof Sys2Proof.Machine

/-! ### Sequencer words -/

/-- R134: scalar arithmetic is on 64-bit integers modulo 2^64; call writes the address of the next word into s31 and jumps, and ret
jumps to the address in s31, with no other return stack. -/
def Obligations.ScalarArithmeticAndCalls : Prop :=
  ∀ (s : State) (c : CombId) (f : SForm),
    let q := (s.comb c).seq
    let a := q.s[f.sa].toNat
    let b := (if f.i then f.sext else q.s[f.sb]).toNat
    let t := (q.s[f.sa] + f.sext).toNat
    (s.due c .add f = true → exec (.add c f) s = .next (s.wroteS c f.sd (BitVec.ofNat 64 (a + b)))) ∧
    (s.due c .sub f = true → exec (.sub c f) s = .next (s.wroteS c f.sd (BitVec.ofInt 64 ((a : Int) - b)))) ∧
    (s.due c .mul f = true → exec (.mul c f) s = .next (s.wroteS c f.sd (BitVec.ofNat 64 (a * b)))) ∧
    (s.due c .call f = true → t % 8 = 0 → t < 262144 → exec (.call c f) s = .next (s.modSeq c fun q =>
      { q with s := q.s.set 31 (BitVec.ofNat 64 (q.pc.toNat + 8)), pc := BitVec.ofNat 18 t, fetched := none })) ∧
    (s.due c .ret f = true → q.s[(31 : Fin 32)].toNat % 8 = 0 → exec (.ret c f) s = .next (s.modSeq c fun q =>
      { q with pc := q.s[(31 : Fin 32)].setWidth 18, fetched := none }))

/-- Table 9.3: what li, and, or, xor, shl, shr and cmp write, with nothing else changed but the word due.
Table 9.3: br and jmp go to their targets, and a target that is no word of the store is a fault. -/
def Obligations.LogicShiftCompareAndBranches : Prop :=
  (∀ (s : State) (c : CombId) (f : SForm),
    let q := (s.comb c).seq
    let a := q.s[f.sa]
    let b := if f.i then f.sext else q.s[f.sb]
    let n := b.toNat % 64
    let holds := match f.x.toNat % 16 with
      | 0 => decide (a = b) | 1 => decide (a.toInt < b.toInt) | 2 => decide (a.toNat < b.toNat) | _ => decide (a &&& b ≠ 0)
    (s.due c .li f = true → exec (.li c f) s = .next (s.wroteS c f.sd
      (if f.x.toNat % 2 = 0 then BitVec.ofInt 64 f.imm.toInt
       else BitVec.ofNat 64 (f.imm.toNat * 2 ^ 32 + q.s[f.sd].toNat % 2 ^ 32)))) ∧
    (s.due c .and f = true → exec (.and c f) s = .next (s.wroteS c f.sd (a &&& b))) ∧
    (s.due c .or f = true → exec (.or c f) s = .next (s.wroteS c f.sd (a ||| b))) ∧
    (s.due c .xor f = true → exec (.xor c f) s = .next (s.wroteS c f.sd (a ^^^ b))) ∧
    (s.due c .shl f = true → exec (.shl c f) s = .next (s.wroteS c f.sd (BitVec.ofNat 64 (a.toNat * 2 ^ n)))) ∧
    (s.due c .shr f = true → exec (.shr c f) s = .next (s.wroteS c f.sd
      (if f.x.toNat % 2 = 0 then BitVec.ofNat 64 (a.toNat / 2 ^ n) else BitVec.ofInt 64 (a.toInt / 2 ^ n)))) ∧
    (s.due c .cmp f = true → exec (.cmp c f) s = .next (s.modSeq c fun q =>
      ({ q with p := if f.sd = 0 then q.p else setB q.p f.sd.val (xor holds (decide (16 ≤ f.x.toNat))) } : Seq).advance))) ∧
  (∀ (s : State) (c : CombId) (f : SForm),
    let q := (s.comb c).seq
    let tb := (BitVec.ofInt 64 (q.pc.toNat + f.imm.toInt)).toNat
    let tj := (q.s[f.sa] + f.sext).toNat
    (s.due c .br f = true →
      exec (.br c f) s = .next (if tb % 8 ≠ 0 then s.issueFault c 1 else if 262144 ≤ tb then s.issueFault c 3
        else s.modSeq c fun q => { q with pc := BitVec.ofNat 18 tb, loops := loopLeave (tb / 8) q.loops, fetched := none })) ∧
    (s.due c .jmp f = true →
      exec (.jmp c f) s = .next (if tj % 8 ≠ 0 ∨ 262144 ≤ tj then s.issueFault c 3
        else s.modSeq c fun q => { q with pc := BitVec.ofNat 18 tj, loops := loopLeave (tj / 8) q.loops, fetched := none })) ∧
    (s.due c .call f = true → (tj % 8 ≠ 0 ∨ 262144 ≤ tj) → exec (.call c f) s = .next (s.issueFault c 3)) ∧
    (s.due c .ret f = true → q.s[(31 : Fin 32)].toNat % 8 ≠ 0 → exec (.ret c f) s = .next (s.issueFault c 3)))

/-- R187: what a loop word does for each repeat count, and its faults; with a count of 0 it leaves bodies as a taken branch does (log entry 34,
the model's reading).
R187: after a word that is no taken branch the innermost body that ends there is repeated while passes remain, else its entry is
popped and the next entry outward is examined; otherwise the next word follows.
R187: a taken branch leaves exactly the bodies that do not hold its target and those inside them. -/
def Obligations.Loops : Prop :=
  (∀ (s : State) (c : CombId) (f : SForm),
    let q := (s.comb c).seq
    let w := q.pc.toNat / 8
    let l := f.imm.toNat / 2 ^ 20
    let n := if f.i then f.imm.toNat % 2 ^ 20 else q.s[f.sa].toNat
    (q.issuing = true → l = 0 → exec (.loop c f) s = .next (s.issueFault c 1)) ∧
    (s.due c .loop f = true → n ≠ 0 → 4 ≤ q.loops.length → exec (.loop c f) s = .next (s.issueFault c 5)) ∧
    (s.due c .loop f = true → (n = 0 ∨ q.loops.length < 4) → (2 ^ 32 ≤ n ∨ 32768 ≤ w + l) →
      exec (.loop c f) s = .next (s.issueFault c 9)) ∧
    (s.due c .loop f = true → n = 0 → w + l < 32768 → exec (.loop c f) s = .next (s.modSeq c fun q =>
      { q with pc := BitVec.ofNat 18 (8 * (w + l + 1)), loops := loopLeave (w + l + 1) q.loops, fetched := none })) ∧
    (s.due c .loop f = true → n ≠ 0 → n < 2 ^ 32 → q.loops.length < 4 → w + l < 32768 →
      exec (.loop c f) s = .next (s.modSeq c fun q =>
        ({ q with loops := { start := w + 1, last := w + l, left := n - 1 } :: q.loops } : Seq).advance))) ∧
  (∀ (q : Seq),
    let w := q.pc.toNat / 8
    let ended := q.loops.takeWhile fun e => decide (e.last = w) && decide (e.left = 0)
    let rest := q.loops.dropWhile fun e => decide (e.last = w) && decide (e.left = 0)
    q.loops = ended ++ rest ∧
    (∀ e es, rest = e :: es → e.last = w →
      q.advance = { q with pc := BitVec.ofNat 18 (8 * e.start), loops := { e with left := e.left - 1 } :: es, fetched := none }) ∧
    ((∀ e ∈ rest.head?, e.last ≠ w) → q.advance = { q with pc := BitVec.ofNat 18 (8 * (w + 1)), loops := rest, fetched := none })) ∧
  (∀ (t : Nat) (ls : List LoopEntry), ∃ k, k ≤ ls.length ∧ loopLeave t ls = ls.drop k ∧
    (∀ e ∈ ls.drop k, e.start ≤ t ∧ t ≤ e.last) ∧ (∀ e, ls[k - 1]? = some e → k ≠ 0 → t < e.start ∨ e.last < t))

/-- R135: a word whose predicate is 0 only passes, but for a tensor word's counter; commit.prep has its own rule (R192).
R158, R184: a word with a nonzero reserved or unused field raises ILLEGAL, whatever its predicate.
R143, R148, log entry 2: a comb that does not issue, or whose scoreboard holds a register of the word, leaves the word where it
is. -/
def Obligations.WordsWithoutEffect : Prop :=
  (∀ (s : State) (c : CombId), (s.comb c).seq.issuing = true →
    (∀ (op : SOp) (f : SForm), op ≠ .commitPrep → f.illegal op = false → (s.comb c).seq.pred f.pred = false →
      exec (wordS c f op) s = .next (s.passed c)) ∧
    (∀ (k : TKind) (f : TForm), f.illegal k = false → (s.comb c).seq.pred f.pred = false →
      exec (wordT c f k) s = .next (if f.ce then (s.bump c (cntIx f.cnt) 1).passed c else s.passed c))) ∧
  (∀ (s : State) (c : CombId), (s.comb c).seq.issuing = true →
    (∀ (op : SOp) (f : SForm), f.illegal op = true → exec (wordS c f op) s = .next (s.issueFault c 1)) ∧
    (∀ (k : TKind) (f : TForm), f.illegal k = true → exec (wordT c f k) s = .next (s.issueFault c 1))) ∧
  (∀ (s : State) (c : CombId),
    ((s.comb c).seq.issuing = false →
      (∀ (op : SOp) (f : SForm), exec (wordS c f op) s = .next s) ∧ ∀ (k : TKind) (f : TForm), exec (wordT c f k) s = .next s) ∧
    (∀ (op : SOp) (f : SForm), op ≠ .commitPrep → f.illegal op = false → (s.comb c).seq.pred f.pred = true →
      (s.comb c).seq.held (sRegs op f) = true → exec (wordS c f op) s = .next s) ∧
    (∀ (k : TKind) (f : TForm), f.illegal k = false → (s.comb c).seq.pred f.pred = true →
      (s.comb c).seq.held (tRegs k f) = true → exec (wordT c f k) s = .next s))

/-- R137, R142, R190: wait, fence and chimew go on at once when their condition holds, else the comb stalls, and the release goes on
exactly when the condition has come to hold. A release of chimew moves the time base to its instant, and waits where a chime comes first (log
entry 4, the model's choice). -/
def Obligations.StallsAndReleases : Prop :=
  ∀ (s : State) (c : CombId) (f : SForm),
    let q := (s.comb c).seq
    let v : W32 := if f.i then f.imm else (q.s[f.sa]).setWidth 32 + f.imm
    let met (q : Seq) (i : Fin 256) (v : W32) := (q.cnt[i] - v).toNat < 2 ^ 31
    let t := q.frameT + v.toNat
    let set := fenceSet f
    (s.due c .wait f = true → exec (.wait c f) s = .next (if met q f.cnt v then s.passed c
      else s.modSeq c fun q => { q with stall := .counter (BitVec.ofNat 8 f.cnt.val) v, st := .waiting })) ∧
    (∀ i u, q.stall = .counter i u → q.st = .waiting →
      exec (.waitRelease c) s = .next (if met q (cntIx i) u
        then s.modSeq c fun q => ({ q with stall := .none, st := .running } : Seq).advance else s)) ∧
    (s.due c .fence f = true → exec (.fence c f) s = .next (if ∀ k : Fin 4, set.getLsbD k = true → q.busy[k] = 0 then s.passed c
      else s.modSeq c fun q => { q with stall := .fence set, st := .waiting })) ∧
    (∀ m, q.stall = .fence m → q.st = .waiting →
      exec (.fenceRelease c) s = .next (if ∀ k : Fin 4, m.getLsbD k = true → q.busy[k] = 0
        then s.modSeq c fun q => ({ q with stall := .none, st := .running } : Seq).advance else s)) ∧
    (s.due c .chimew f = true → exec (.chimew c f) s = .next (s.modSeq c fun q =>
      let q1 := if f.x.toNat % 2 = 1 then { q with s := q.s.set f.sd q.frameN } else q
      if t ≤ s.chm.tb then q1.advance else { q1 with stall := .chimew t, st := .chimeWait })) ∧
    (∀ u, q.stall = .chimew u → q.st = .chimeWait → u < s.chm.nextAt →
      exec (.chimewRelease c) s = .next ((s.until u).modSeq c fun q => ({ q with stall := .none, st := .running } : Seq).advance)) ∧
    (∀ u, q.stall = .chimew u → q.st = .chimeWait → s.chm.nextAt ≤ u → exec (.chimewRelease c) s = .next s)

/-- R156: halt stops issue, and the comb enters HALTED when all four queues are empty, with a completion notice of its number and
FRAMES. The program counter then stands past the halt word (log entry 18, the model's reading). -/
def Obligations.HaltAndDrain : Prop :=
  ∀ (s : State) (c : CombId) (f : SForm),
    (s.due c .halt f = true →
      ∃ t, exec (.halt c f) s = .next t ∧ s.onlySeq c t ∧ (t.comb c).seq = { (s.comb c).seq.advance with stall := .halting } ∧
        (t.comb c).seq.issuing = false) ∧
    ((s.comb c).seq.stall = .halting → (s.comb c).seq.st = .running → (∃ k : Fin 4, (s.comb c).seq.busy[k] ≠ 0) →
      exec (.haltDrained c) s = .next s) ∧
    ((s.comb c).seq.stall = .halting → (s.comb c).seq.st = .running → (∀ k : Fin 4, (s.comb c).seq.busy[k] = 0) →
      ∃ t, exec (.haltDrained c) s = .next t ∧
        (t.comb c).seq = { (s.comb c).seq with st := .halted, stall := .none } ∧
        (∀ d, d ≠ c → t.comb d = s.comb d) ∧ t.mem = s.mem ∧
        (s.eth.linkUp = true → getF s.eth.notify 63 1 = 1 → getF s.eth.cfg 33 1 = 0 →
          ∃ n, t.eth.notices.getLast? = some n ∧ n.body = .halt c (BitVec.ofNat 32 ((s.comb c).seq.frame.toNat / 2 ^ 32))))

/-! ### Faults, fetch, control registers, descriptors -/

/-- R149, R150: a first fault stops issue and records its code, address and unit; the word has no other effect, and a later one is
only counted. R323, R373: OVERRUN, LOCKSTEP and ISTORE force the chip's next vote to 0, also where the comb drains already.
R150, R192, R323: a comb whose fault is recorded enters FAULTED once its queues are empty, votes 0 and forces the step's abort. -/
def Obligations.FaultRecordAndDrain : Prop :=
  (∀ (s : State) (c : CombId) (code addr src : Nat), code < 256 → addr < 2 ^ 18 → src < 8 →
    let q := (s.comb c).seq
    let t := s.fault c code addr src
    let r := (t.comb c).seq
    (q.stall ≠ .faulting → q.st ≠ .faulted →
      getF r.fault 0 8 = code ∧ getF r.fault 8 18 = addr ∧ getF r.fault 40 3 = src ∧ r.issuing = false ∧ r.stall = .faulting ∧
        (r.st, r.s, r.d, r.p, r.cnt, r.pc, r.loops) = (q.st, q.s, q.d, q.p, q.cnt, q.pc, q.loops) ∧
        (r.qMat, r.qVec, r.qCrr, r.qFab, r.busy) = (q.qMat, q.qVec, q.qCrr, q.qFab, q.busy)) ∧
    (q.stall = .faulting ∨ q.st = .faulted →
      State.onlySeq (if code = 0x0A ∨ code = 0x0B ∨ code = 0x0C then s.abortStep else s) c t ∧
      r = { q with fault := satF q.fault 48 16 1, frame := if code = 0x0A then satF q.frame 16 16 1 else q.frame }) ∧
    getF r.fault 48 16 = min (getF q.fault 48 16 + 1) 0xFFFF ∧
    (code = 0x0A ∨ code = 0x0B ∨ code = 0x0C → t.stp = s.abortStep.stp) ∧
    t.mem = s.mem ∧ (∀ d, d ≠ c → t.comb d = s.comb d)) ∧
  (∀ (s : State) (c : CombId), (s.comb c).seq.stall = .faulting →
    ((∃ k : Fin 4, (s.comb c).seq.busy[k] ≠ 0) → exec (.faultDrained c) s = .next s) ∧
    ((∀ k : Fin 4, (s.comb c).seq.busy[k] = 0) →
      ∃ t, exec (.faultDrained c) s = .next t ∧ (t.comb c).seq = { (s.comb c).seq with st := .faulted, stall := .none } ∧
        (t.comb c).mat = { (s.comb c).mat with judged := (s.comb c).mat.reached } ∧ (∀ d, d ≠ c → t.comb d = s.comb d) ∧ t.mem = s.mem ∧
        (s.stp.round = none → t.stp = { s.stp with abort := true }) ∧
        (∀ r, s.stp.round = some r → r.chipVote = none → t.stp.abort = true) ∧
        (∀ r, s.stp.round = some r → r.chipVote ≠ none → t.stp.abortNext = true) ∧
        (∀ r, s.stp.round = some r → r.chipVote ≠ none ∨ r.step = s.stp.step ∨ s.stp.lodged = none →
          ∃ r', t.stp.round = some r' ∧ r'.voters = r.voters.map fun x => if x.1 = c ∧ x.2 = none then (c, some false) else x)))

/-- R132, R184: a fetch takes the word at the program counter; a single-bit error is corrected and written back, a double-bit error
raises ISTORE, and a reserved opcode, the all-zero word among them, raises ILLEGAL.
R133: a lockstep mismatch raises LOCKSTEP at the word due, and that word reaches no queue; a comb reset with reload is
due at the next chime (R151). While the queues drain after another fault it is counted only (R150, log entry 79, the model's reading). -/
def Obligations.FetchAndLockstep : Prop :=
  (∀ (s : State) (c : CombId) (u : Upset),
    let q := (s.comb c).seq
    let i := q.pc.toNat / 8
    let stored := Sparse.get .clean q.upsets i
    let w := Sparse.get 0 q.istore i
    let mended := s.modSeq c fun q => { q with upsets := Sparse.set .clean q.upsets i .clean }
    q.issuing = true →
      (u ≠ .double → stored ≠ .double → (Word.ofBits w).isSome = true →
        exec (.instructionFetch c u) s = .next (mended.modSeq c fun q => { q with fetched := some w })) ∧
      (u ≠ .double → stored ≠ .double → Word.ofBits w = none → exec (.instructionFetch c u) s = .next (mended.issueFault c 1)) ∧
      (u = .double ∨ stored = .double → exec (.instructionFetch c u) s = .next
        (((s.modSeq c fun q => { q with upsets := Sparse.set .clean q.upsets i .double }).fault c 0x0C q.pc.toNat 0).seqRetry c true q.pc)) ∧
      Word.ofBits 0 = none) ∧
  (∀ (s : State) (c : CombId),
    let q := (s.comb c).seq
    (q.st = .running ∨ q.st = .waiting ∨ q.st = .chimeWait ∨ q.st = .hold → q.stall = .faulting →
      exec (.lockstep c) s = .next (s.fault c 0x0B q.pc.toNat 0)) ∧
    (q.st = .running ∨ q.st = .waiting ∨ q.st = .chimeWait ∨ q.st = .hold → q.stall ≠ .faulting →
      ∃ t, exec (.lockstep c) s = .next t ∧ t = (s.fault c 0x0B q.pc.toNat 0).seqRetry c false q.pc ∧
        ((s.comb c).seqFaults = [] →
          (t.comb c).seq.stall = .faulting ∧ getF (t.comb c).seq.fault 0 8 = 0x0B ∧ getF (t.comb c).seq.fault 8 18 = q.pc.toNat ∧
          (t.comb c).seq.wait = none ∧ (t.comb c).seq.issuing = false ∧ (t.comb c).seq.busy = q.busy ∧
          (∃ d, (t.comb c).due = some d ∧ d.reload = true) ∧ t.mem = s.mem)))

/-- R138, R6, R7: csrr reads any control register, csrw writes the comb's own block and counters; another register raises ACCESS and
an address of none ADDR.
R188, R189: dset writes one field or raises OPERAND; dld loads a descriptor and dst stores one at a populated multiple of 64
outside the control registers, or raise ADDR. -/
def Obligations.ControlRegisterAndDescriptorWords : Prop :=
  (∀ (s : State) (c : CombId) (f : SForm),
    let q := (s.comb c).seq
    let a := 0x010200000000 + ((if f.i then 0 else (q.s[f.sa]).setWidth 32) + f.imm).toNat
    (s.due c .csrr f = true → regFor c a = none → exec (.csrr c f) s = .next (s.issueFault c 3)) ∧
    (s.due c .csrw f = true → regFor c a = none → exec (.csrw c f) s = .next (s.issueFault c 3)) ∧
    (∀ r, regFor c a = some r →
      (s.due c .csrr f = true → exec (.csrr c f) s = .next ((s.meter r).wroteS c f.sd ((s.meter r).readReg r))) ∧
      (s.due c .csrw f = true → ownReg c r = false → exec (.csrw c f) s = .next (s.issueFault c 4)) ∧
      (s.due c .csrw f = true → ownReg c r = true → exec (.csrw c f) s = .next ((s.writeReg r q.s[f.sb]).passed c)))) ∧
  (∀ (s : State) (c : CombId) (f : SForm),
    let q := (s.comb c).seq
    let v := if f.i then f.sext else q.s[f.sa]
    let a := (q.s[f.sa] + f.sext).toNat % 2 ^ 48
    (s.due c .dset f = true → q.d[f.sd].dset f.x.toNat v = none → exec (.dset c f) s = .next (s.issueFault c 9)) ∧
    (s.due c .dset f = true → ∀ d, q.d[f.sd].dset f.x.toNat v = some d →
      exec (.dset c f) s = .next ((s.setD c f.sd d).passed c)) ∧
    (∀ op, op = .dld ∨ op = .dst → s.due c op f = true → (a % 64 ≠ 0 ∨ s.opened a 64 = false) →
      exec (wordS c f op) s = .next (s.issueFault c 3)) ∧
    (s.due c .dld f = true → a % 64 = 0 → s.opened a 64 = true → ∃ t, exec (.dld c f) s = .next t ∧ t.mem = (s.touch a 64).mem ∧
      (t.comb c).seq = ((s.setD c f.sd (Desc.ofBytes ((s.touch a 64).bytes a 64))).comb c).seq.advance) ∧
    (s.due c .dst f = true → a % 64 = 0 → s.opened a 64 = true →
      exec (.dst c f) s = .next ((s.store a q.d[f.sd].toBytes false).passed c)))

/-- R145, R191, R192: frame waits for its chime; tally snapshots a census set at its instant and its write and counter follow;
commit.prep gives the comb's vote, 0 where it is predicated off or a condition fails.
The program counter then stands past a frame word (log entry 18), and a commit.prep that is predicated off opens the round of STP_STEP as well
(log entry 39), which are the model's readings. -/
def Obligations.FrameTallyAndCommitWords : Prop :=
  ∀ (s : State) (c : CombId) (f : SForm),
    let k := s.comb c
    let q := k.seq
    let a := (q.s[f.sa] + f.sext).toNat
    (s.due c .frame f = true → exec (.frame c f) s = .next (s.modSeq c fun q => { q.advance with stall := .frame, st := .chimeWait, framed := true })) ∧
    (s.due c .tally f = true → (a % 64 ≠ 0 ∨ a < combBase c ∨ combBase c + 0x03C00000 < a + 640) →
      exec (.tally c f) s = .next (s.issueFault c 3)) ∧
    (s.due c .tally f = true → a % 64 = 0 → combBase c ≤ a → a + 640 ≤ combBase c + 0x03C00000 → k.ext.tally = [] →
      ∃ t r, exec (.tally c f) s = .next t ∧ s.onlyComb c t ∧ (t.comb c).seq = q.advance ∧ (t.comb c).ext.tally = [r] ∧
        (r.set.val, r.clear, r.addr, r.ce, r.cnt.toNat) = (f.sd.val % 4, decide (f.sd.val / 4 % 2 = 1), a, f.ce, f.cnt.val) ∧
        r.image = some (k.ext.snapshot r.set q.frameN) ∧
        (r.clear = false → (t.comb c).ext.census = k.ext.census) ∧
        (r.clear = true → ∀ key, inSet r.set key = true → key ∉ (t.comb c).ext.census.map (·.1))) ∧
    (∀ r bs, k.ext.tally = [r] → r.image = some bs → ∃ t, exec (.tallySnapshotDone c) s = .next t ∧
      (t.comb c).ext.tally = [] ∧ t.mem = (s.store r.addr bs false).mem ∧
      (t.comb c).seq.cnt = (if r.ce then q.cnt.set (cntIx r.cnt) (q.cnt[cntIx r.cnt] + 1) else q.cnt)) ∧
    (let vote := q.pred f.pred && decide (getF k.vecStatus 0 1 = 0) && decide (getF k.crrStatus 0 1 = 0) && decide (q.s[f.sa] = s.stp.step)
     let voted := fun (vs : List (CombId × Option Bool)) => vs.map fun x => if x.1 = c ∧ x.2 = none then (c, some vote) else x
     q.issuing = true → f.illegal .commitPrep = false → q.vote = none →
      (∀ r, s.stp.round = some r → r.step = s.stp.step → (r.voters.any fun v => v.1 == c) = true → ∃ t r', exec (.commitPrep c f) s = .next t ∧
        (t.comb c).seq = { q.advance with vote := some (f.sd, f.ce, BitVec.ofNat 8 f.cnt.val) } ∧
        t.stp.round = some r' ∧ r'.voters = voted r.voters) ∧
      (s.roundNow = none → ∃ t r', exec (.commitPrep c f) s = .next t ∧
        (t.comb c).seq = { q.advance with vote := some (f.sd, f.ce, BitVec.ofNat 8 f.cnt.val) } ∧
        t.stp.round = some r' ∧ (r'.step, r'.openedAt, r'.cfg) = (s.stp.step, s.chm.n, s.stp.cfg) ∧ r'.voters = voted s.votersNow)) ∧
    (q.issuing = true → f.illegal .commitPrep = false → q.held (if q.pred f.pred then [f.sd, f.sa] else [f.sd]) = true →
      exec (.commitPrep c f) s = .next s) ∧
    (q.issuing = true → f.illegal .commitPrep = false → q.held (if q.pred f.pred then [f.sd, f.sa] else [f.sd]) = false → q.vote ≠ none →
      ∃ t, exec (.commitPrep c f) s = .next t ∧ getF (t.comb c).seq.fault 0 8 = 5 ∧ (t.comb c).seq.stall = .faulting)

/-! ### Tensor words and their units -/

/-- R136, R140: a tensor word that passes its checks enters its queue with the operands it read at issue, is counted as issued, and
changes no scalar, descriptor, predicate or counter, no slot and no memory. -/
def Obligations.TensorWordsEnterTheirQueue : Prop :=
  ∀ (s : State) (c : CombId) (k : TKind) (f : TForm), k ≠ .coll → k ≠ .bar → s.dueT c k f = true →
    let q := (s.comb c).seq
    let i := k.queue
    ∃ t, exec (wordT c f k) s = .next t ∧
      let r := (t.comb c).seq
      r.queueOf i = q.queueOf i ++ [{ pc := q.pc, ce := f.ce, cnt := f.cnt, op := s.tensorOp c k f }] ∧
      (∀ j, j ≠ i → r.queueOf j = q.queueOf j) ∧ r.busy = q.busy.set i (q.busy[i] + 1) ∧
      (r.pc, r.loops) = (q.advance.pc, q.advance.loops) ∧
      (r.st, r.stall, r.s, r.d, r.p, r.cnt, r.fault) = (q.st, q.stall, q.s, q.d, q.p, q.cnt, q.fault) ∧
      ((t.comb c).mat.slots, (t.comb c).mat.run, (t.comb c).ext, (t.comb c).vecRun, (t.comb c).crrRun) =
        ((s.comb c).mat.slots, (s.comb c).mat.run, (s.comb c).ext, (s.comb c).vecRun, (s.comb c).crrRun) ∧
      (∀ d, d ≠ c → t.comb d = s.comb d) ∧ t.mem = s.mem

/-- R140: a tensor word stalls on a full queue, and enters it once an instruction of that queue has ended.
R149: the lowest fault code whose condition holds is the one recorded, and the word enters no queue. -/
def Obligations.FullQueuesAndIssueFaults : Prop :=
  (∀ (s : State) (c : CombId) (k : TKind) (f : TForm),
    let q := (s.comb c).seq
    (q.issuing = true → f.illegal k = false → q.pred f.pred = true → q.held (tRegs k f) = false → 32 ≤ q.busy[k.queue] →
      ∃ t, exec (wordT c f k) s = .next t ∧ s.onlySeq c t ∧ (t.comb c).seq = { q with wait := some (k, f) } ∧
        (t.comb c).seq.issuing = false) ∧
    (q.wait = some (k, f) → 32 ≤ q.busy[k.queue] → exec (.queueEntry c) s = .next s) ∧
    (k ≠ .coll → k ≠ .bar → q.wait = some (k, f) → q.st = .running → q.busy[k.queue] < 32 → q.held (tRegs k f) = false →
      firstFault ((s.modSeq c fun q => { q with wait := none }).tensorFaults c k f) = none →
      ∃ t, exec (.queueEntry c) s = .next t ∧ (t.comb c).seq.wait = none ∧
        (t.comb c).seq.queueOf k.queue = q.queueOf k.queue ++
          [{ pc := q.pc, ce := f.ce, cnt := f.cnt, op := (s.modSeq c fun q => { q with wait := none }).tensorOp c k f }] ∧
        (t.comb c).seq.busy = q.busy.set k.queue (q.busy[k.queue] + 1) ∧ t.mem = s.mem)) ∧
  ((∀ (l : List (Nat × Bool)), (l.Pairwise fun a b => a.1 < b.1) →
    (∀ k, firstFault l = some k ↔ (k, true) ∈ l ∧ ∀ j, (j, true) ∈ l → k ≤ j) ∧ (firstFault l = none ↔ ∀ j, (j, true) ∉ l)) ∧
  ∀ (s : State) (c : CombId) (k : TKind) (f : TForm) (code : Nat), (s.comb c).seq.issuing = true → f.illegal k = false →
    (s.comb c).seq.pred f.pred = true → (s.comb c).seq.held (tRegs k f) = false → (s.comb c).seq.busy[k.queue] < 32 →
    firstFault (s.tensorFaults c k f) = some code → exec (wordT c f k) s = .next (s.issueFault c code))

/-- R74, R77, R91, R97, R124, R160: what the array and the extractor start from the matrix queue.
R92, R97, R98, R100, R163: what an mmul of streamed operands leaves in each element it serves: the products of its operands, accumulated onto
what stood there, or onto a fresh element. The operands are read at the start (log entry 5, the model's choice).
R109: an instruction that waits for its slot keeps none of another slot back (log entry 82, the model's reading). -/
def Obligations.MatrixStarts : Prop :=
  ∀ (s : State) (c : CombId) (e : QEntry) (es : List QEntry), (s.comb c).seq.qMat = e :: es → (s.comb c).testing = false →
    let k := s.comb c
    (∀ shape mode, e.op = .mshape shape mode → ∃ t, exec (.arrayAccept c) s = .next t ∧ s.onlyComb c t ∧
      (t.comb c).seq = { k.seq with qMat := es } ∧ ((t.comb c).mat.shape, (t.comb c).mat.mode) = (shape, mode) ∧
      (t.comb c).mat.slots = k.mat.slots ∧ (t.comb c).mat.run = k.mat.run ++ [{ e := e, cycles := 2 }]) ∧
    (∀ b k0 c0 tb p64, e.op = .mhold b k0 c0 tb p64 → s.openRuns (k.mholdReads b k0 c0 tb p64) = true →
      ∃ t h, exec (.arrayAccept c) s = .next t ∧ (t.comb c).seq = { k.seq with qMat := es } ∧
        (t.comb c).mat.shadow = some h ∧ (h.h, h.k0, h.ceil, h.ceilv) = (if p64 then 64 else 32, k0, b.ceil, b.ceilv) ∧
        (t.comb c).mat.full = false ∧ (t.comb c).mat.active = k.mat.active ∧ (t.comb c).mat.slots = k.mat.slots ∧
        (t.comb c).mat.run = k.mat.run ++ [{ e := e, cycles := 36 }]) ∧
    (∀ a b slot ow seq g auto win kc ta tb mask, e.op = .mmul a b slot ow seq g auto win kc ta tb mask →
      s.openRuns (k.mmulReads a b ta tb mask) = true →
      let keys := mmulKeys k k.mat.mode k.mat.shape a b slot.val ta tb mask
      ∃ (t : State) (fl : Flight), exec (.arrayAccept c) s = .next t ∧ (t.comb c).seq.qMat = es ∧ (t.comb c).mat.run = k.mat.run ++ [fl] ∧ fl.e = e ∧
        (∀ key, key ∉ keys → (t.comb c).mat.elem key = k.mat.elem key) ∧
        (ow = true → seq = true → ∀ key, key ∈ keys → ((t.comb c).mat.elem key).seq = true ∧ ((t.comb c).mat.elem key).g = g) ∧
        (k.mat.mode ≠ 2 → Sparse.wf {} k.mat.slots = true → keys.Nodup →
          let u := (s.setMat c es).touchRuns (k.mmulReads a b ta tb mask)
          ∀ rc ∈ activeList (a.extX ta) (b.extX tb) mask,
            let key := k.slotKey k.mat.shape slot.val rc.1 rc.2
            let wlo := if auto then autoWlo a.ceil b.ceil a.ceilv b.ceilv (if kc = 0 then a.extK ta else kc) else win
            let x := if ow then SlotElem.fresh seq g wlo else k.mat.elem key
            let prods := (List.range (a.extK ta)).map fun i => Val.mul (u.val a (Desc.posK ta i rc.1)) (u.val b (Desc.posK tb i rc.2))
            let y := (t.comb c).mat.elem key
            (y.value, y.kcount, y.seq) = if x.seq then ((x.seqAcc prods).value, (x.seqAcc prods).kcount, true)
              else ((x.exact prods).1.value, (x.exact prods).1.kcount, false)) ∧
        (k.mat.mode = 2 → k.mat.shadow.isSome = true →
          (t.comb c).mat.active = k.mat.shadow ∧ (t.comb c).mat.shadow = none ∧ (t.comb c).mat.full = false)) ∧
    (∀ shape dr d slot rm cs sv bv lo hi base pitch, e.op = .mx shape dr d slot rm cs sv bv lo hi base pitch →
      let ran (t : State) := ∃ fl : Flight, (t.comb c).ext.run = k.ext.run ++ [fl] ∧ fl.e = e ∧ (t.comb c).seq = { k.seq with qMat := es } ∧
        ((d.s0 = 0 ∨ d.s1 = 0) → fl.writes = [])
      (k.mat.slotBusy slot = true → es = [] → exec (.extractorAccept c) s = .next s) ∧
      (k.mat.slotBusy slot = false → s.openRuns (k.mxReads shape d sv bv) = true →
        (∀ r x, r < min d.s1 (shapeM shape) → x < min d.s0 (k.shapeN shape) → s.posOpen d ⟨x, r, 0, 0⟩ = true) →
        ∃ t, exec (.extractorAccept c) s = .next t ∧ (t.comb c).mat = k.mat ∧ ran t) ∧
      (k.mat.slotBusy slot = false →
        ∃ t, exec (.extractorAccept c) s = .next t ∧ (t.comb c).seq.qMat = es ∧ (t.comb c).mat = k.mat ∧
          ((t.comb c).ext.run = k.ext.run ∧ s.addrFaulted c e 0 t ∨ ran t)) ∧
      (∀ e2 es2 a b slot2 ow seq g auto win kc ta tb mask, es = e2 :: es2 → e2.op = .mmul a b slot2 ow seq g auto win kc ta tb mask →
        (slot2 ≠ slot → s.openRuns (k.mmulReads a b ta tb mask) = true → ∃ (t : State) (fl : Flight), exec (.arrayAccept c) s = .next t ∧
          (t.comb c).seq.qMat = e :: es2 ∧ (t.comb c).mat.run = k.mat.run ++ [fl] ∧ fl.e = e2) ∧
        (slot2 = slot → es2 = [] → exec (.arrayAccept c) s = .next s))) ∧
    (es = [] → (∀ slot a b ow seq g auto win kc ta tb mask, e.op ≠ .mmul a b slot ow seq g auto win kc ta tb mask) →
      (∀ shape mode, e.op ≠ .mshape shape mode) → (∀ b k0 c0 tb p64, e.op ≠ .mhold b k0 c0 tb p64) →
      exec (.arrayAccept c) s = .next s)

/-- R73, R85, R124, R127, R141, R170, R194: the completion of a unit's instruction takes it out of the unit and makes its effects
visible as `State.complete` does.
R127, R136, R137, R141, R142: what a completion changes: its bytes, its ceiling, its counter and the queue's count, and nothing else of the
sequencers. -/
def Obligations.UnitCompletions : Prop :=
  (∀ (s : State) (c : CombId) (fl : Flight) (rest : List Flight),
    let k := s.comb c
    (∀ b k0 c0 tb p64, k.mat.run = fl :: rest → fl.e.op = .mhold b k0 c0 tb p64 →
      exec (.mholdFillDone c) s = .next ((s.modMat c fun m => { m with run := rest, full := m.shadow.isSome }).complete c 0 fl)) ∧
    ((∀ b k0 c0 tb p64, fl.e.op ≠ .mhold b k0 c0 tb p64) → k.mat.run = fl :: rest →
      exec (.matrixCompletion c none) s = .next ((s.modMat c fun m => { m with run := rest }).complete c 0 fl)) ∧
    (k.ext.run = fl :: rest →
      exec (.mxCompletion c) s = .next ((s.modExt c fun x => { x with run := rest }).complete c 0 fl)) ∧
    (k.vecRun = fl :: rest →
      exec (.vectorCompletion c) s = .next ((s.modComb c fun k => { k with vecRun := rest }).complete c 1 fl)) ∧
    (∀ i, k.crrRun[i]? = some fl → fl.waits = 0 →
      exec (.courierCompletion c i) s = .next ((s.modComb c fun k => { k with crrRun := k.crrRun.eraseIdx i }).complete c 2 fl)) ∧
    (∀ i, k.crrRun[i]? = some fl → fl.waits ≠ 0 → exec (.courierCompletion c i) s = .next s)) ∧
  (∀ (s : State) (c : CombId) (k : Fin 4) (fl : Flight), s.mem.wf = true → s.mem.crc = [] →
    let q := (s.comb c).seq
    let t := s.complete c k fl
    let r := (t.comb c).seq
    r.cnt = (if fl.e.ce then q.cnt.set (cntIx fl.e.cnt) (q.cnt[cntIx fl.e.cnt] + 1) else q.cnt) ∧
    r.busy = q.busy.set k (q.busy[k] - 1) ∧
    (r.s, r.p, r.pc, r.loops, r.st, r.stall, r.fault) = (q.s, q.p, q.pc, q.loops, q.st, q.stall, q.fault) ∧
    (∀ i, i ∉ fl.ceils.map (·.1) → r.d[i] = q.d[i]) ∧
    (∀ i x, fl.ceils = [(i, x)] → -2048 ≤ x → x ≤ 2047 →
      r.d[i].ceilv = true ∧ r.d[i].ceil = (if q.d[i].ceilv then max q.d[i].ceil x else x)) ∧
    (∀ d, d ≠ c → (t.comb d).seq = (s.comb d).seq) ∧
    (fl.writes = [] → ∀ a, t.byte a = s.byte a) ∧
    (∀ a bs, fl.writes = [(a, bs)] →
      (∀ i (h : i < bs.length), t.byte (a + i) = bs[i]) ∧ ∀ x, x < a ∨ a + bs.length ≤ x → t.byte x = s.byte x))

/-- R86: a mismatch sets its bit and the count of MAT_FAULT, keeps the place of the first one, poisons every active element of the
slot, and the instruction's counter still moves. -/
def Obligations.MatrixMismatch : Prop :=
  ∀ (s : State) (c : CombId) (x : Mismatch) (fl : Flight) (rest : List Flight) (a b : Desc) (slot : Fin 4) (ow seq : Bool) (g : BitVec 2)
    (auto : Bool) (win : Int) (kc : Nat) (ta tb : Bool) (mask : Option W64),
    fl.e.op = .mmul a b slot ow seq g auto win kc ta tb mask → (s.comb c).mat.run = fl :: rest → fl.ceils = [] → fl.writes = [] →
    let m := (s.comb c).mat
    ∃ t, exec (.matrixCompletion c (some x)) s = .next t ∧
      let n := (t.comb c).mat
      n.fault.getLsbD (mismatchBit x.kind) = true ∧ getF n.fault 32 16 = min (getF m.fault 32 16 + 1) 0xFFFF ∧
      (getF m.fault 0 4 = 0 → (getF n.fault 8 6, getF n.fault 16 6, getF n.fault 24 2, n.faultPc) =
        (x.row.val, x.col.val, slot.val, fl.e.pc.setWidth 64)) ∧
      (getF m.fault 0 4 ≠ 0 → (getF n.fault 8 6, getF n.fault 16 6, getF n.fault 24 2, n.faultPc) =
        (getF m.fault 8 6, getF m.fault 16 6, getF m.fault 24 2, m.faultPc)) ∧
      (∀ key, key ∈ fl.keys → n.elem key = { m.elem key with poison := true }) ∧
      (∀ key, key ∉ fl.keys → n.elem key = m.elem key) ∧ (t.comb c).testDue = true ∧
      (t.comb c).seq.cnt = (if fl.e.ce then (s.comb c).seq.cnt.set (cntIx fl.e.cnt) ((s.comb c).seq.cnt[cntIx fl.e.cnt] + 1)
        else (s.comb c).seq.cnt) ∧
      ((s.comb c).seq.stall = (t.comb c).seq.stall)

/-- R167, R170: what the vector unit starts from the head of its queue; an empty destination writes nothing. -/
def Obligations.VectorStarts : Prop :=
  ∀ (s : State) (c : CombId) (e : QEntry) (es : List QEntry), (s.comb c).seq.qVec = e :: es →
    let k := s.comb c
    (∀ op dr d a b cc bs cs rm base pitch, e.op = .vec op dr d a b cc bs cs rm base pitch → d.empty = true →
      ∃ (t : State) (fl : Flight), exec (.vectorAccept c) s = .next t ∧ (t.comb c).seq = { k.seq with qVec := es } ∧
        (t.comb c).vecRun = k.vecRun ++ [fl] ∧ fl.e = e ∧ fl.writes = [] ∧ fl.cycles = 5 ∧ t.mem = s.mem) ∧
    ((∃ op dr d a b cc bs cs rm base pitch, e.op = .vec op dr d a b cc bs cs rm base pitch) ∨
      (∃ op da ds sc wc cs rm base pitch, e.op = .upd op da ds sc wc cs rm base pitch) →
      ∃ t, exec (.vectorAccept c) s = .next t ∧ (t.comb c).seq.qVec = es ∧
        ((t.comb c).vecRun = k.vecRun ∧ s.addrFaulted c e 1 t ∨
          ∃ fl : Flight, (t.comb c).vecRun = k.vecRun ++ [fl] ∧ fl.e = e ∧ (t.comb c).seq = { k.seq with qVec := es }))

/-- R92 to R94: an EXACT element holds the sum of its aligned products, in any order and any split, exactly while nothing overflows, and
its residue lane follows it modulo 127 with 2^96 taken as 32. -/
def Obligations.ExactAccumulation : Prop :=
  ∀ (x : SlotElem) (vs ws : List (Val × Bool)),
    let a (v : Val × Bool) : Int := (alignTo x.lo v.1).1
    let y := (x.exact vs).1
    (vs.Perm ws → x.exact vs = x.exact ws) ∧
    (y.int - (x.int + (vs.map a).sum)) % 2 ^ 96 = 0 ∧
    ((y.exact ws).1.value, (y.exact ws).1.kcount) = ((x.exact (vs ++ ws)).1.value, (x.exact (vs ++ ws)).1.kcount) ∧
    y.kcount.toNat = min (x.kcount.toNat + vs.length) (2 ^ 32 - 1) ∧
    ((x.int + 32 * x.wrap.toNat - x.res.toNat) % 127 = 0 → (y.int + 32 * y.wrap.toNat - y.res.toNat) % 127 = 0) ∧
    (∀ wlo : Int, x = SlotElem.fresh false 0 wlo → vs.length ≤ 2 ^ 31 → (∀ v ∈ vs, (alignTo x.lo v.1).2.2 = false) →
      y.int = (vs.map a).sum ∧ y.ovf = false)

/-- R110: with distinct indexes exactly one of two pairs wins, a winner over a winner wins, and so a reduction to the maximum or the
minimum does not depend on order or grouping. -/
def Obligations.IndexedPairReduction : Prop :=
  ∀ (mn : Bool),
    let wins (x y : Val × Nat) := pairWins mn x.1 x.2 y.1 y.2
    let pick (x y : Val × Nat) := if wins y x then y else x
    (∀ i j, wins (.nan, i) (.nan, j) = decide (i < j)) ∧
    (∀ v i j, v ≠ .nan → wins (.nan, i) (v, j) = true ∧ wins (v, i) (.nan, j) = false) ∧
    (∀ x y : Val × Nat, x.2 ≠ y.2 → wins x y = !wins y x) ∧
    (∀ x y z : Val × Nat, wins x y = true → wins y z = true → x.2 ≠ z.2 → wins x z = true) ∧
    (∀ x y z : Val × Nat, x.2 ≠ y.2 → y.2 ≠ z.2 → x.2 ≠ z.2 → pick x y = pick y x ∧ pick (pick x y) z = pick x (pick y z))

/-- R194, R197, R198: the courier starts the head of its queue while fewer than eight instructions execute; a seal asks an engine, an amo
gives each line to its atomic unit. The body of a seal is taken at its start (log entry 15, the model's choice) and the operations of an amo go
behind those that wait (log entry 99, the model's choice).
R196: a gather writes the codes of the rows that its indexes name, +0 where an index is not below the row count, and counts each such row in
CRR_OOB; its bytes are read at its start (log entry 5, the model's choice). -/
def Obligations.CourierStarts : Prop :=
  (∀ (s : State) (c : CombId) (e : QEntry) (es : List QEntry), (s.comb c).seq.qCrr = e :: es →
    let k := s.comb c
    (8 ≤ k.crrRun.length → exec (.courierAccept c) s = .next s) ∧
    (∀ a addr, k.crrRun.length < 8 → e.op = .seal a addr → s.openRuns a.ranges = true → s.opened addr.toNat 64 = true →
      ∃ (t : State) (fl : Flight) (r : SealReq), exec (.courierAccept c) s = .next t ∧ (t.comb c).seq = { k.seq with qCrr := es } ∧
        (t.comb c).crrRun = k.crrRun ++ [fl] ∧ (fl.e, fl.waits, fl.writes) = (e, 1, []) ∧
        t.seals.reqs.getLast? = some r ∧ (r.slot, r.src, r.addr, r.owner) = (a.sealSlot, 0, some addr.toNat, some (c, fl.id)) ∧
        r.body = (s.touchRuns a.ranges).sealBody a ∧ t.mem.bytes = (s.touchRuns a.ranges).mem.bytes) ∧
    (∀ op d a, k.crrRun.length < 8 → e.op = .amo op d a →
      (∀ l ∈ amoLines d a, s.opened l.1 64 = true ∧ s.opened l.2 64 = true) →
      ∃ (t : State) (fl : Flight), exec (.courierAccept c) s = .next t ∧ (t.comb c).seq = { k.seq with qCrr := es } ∧
        (t.comb c).crrRun = k.crrRun ++ [fl] ∧ (fl.e, fl.waits) = (e, (amoLines d a).length) ∧
        (t.mem.atomics.map fun x => (x.1, x.2.op, x.2.addr, x.2.src)) = (s.mem.atomics.map fun x => (x.1, x.2.op, x.2.addr, x.2.src)) ++
          (amoLines d a).map fun l => (atomicUnit l.1, op, l.1, some (c, fl.id))) ∧
    (∀ dr d a di, k.crrRun.length < 8 → e.op = .gather dr d a di →
      let v := s.modSeq c fun q => { q with qCrr := q.qCrr.drop 1 }
      let rows := (v.touchRuns (di.runs di.positions)).indices di a.s1
      let cells := rows.flatMap fun r => (List.range d.s0).map fun i => ((⟨i, r.1, 0, 0⟩ : Pos), r.2.1.map fun n => (⟨i, n, 0, 0⟩ : Pos))
      let runs := a.runs (cells.filterMap (·.2)) ++ di.runs di.positions
      let u := (v.touchRuns runs).touchRuns (d.restRuns cells)
      s.openRuns (di.runs di.positions) = true → s.openRuns runs = true → (∀ x ∈ cells, s.posOpen d x.1 = true) →
      ∃ (t : State) (fl : Flight), exec (.courierAccept c) s = .next t ∧ (t.comb c).seq = { k.seq with qCrr := es } ∧
        (t.comb c).crrRun = k.crrRun ++ [fl] ∧ fl.e = e ∧
        fl.writes = u.destRuns d (cells.map fun x => (x.1, match x.2 with | some p => u.code a p | none => 0))
          (if d.blk = 0 then [] else (cells.map fun x =>
            (d.scaleIndex x.1, match x.2 with | some p => (u.byte (a.scale + a.scaleIndex p)).toNat | none => 0)).eraseDups) ∧
        (t.comb c).crrOob = k.crrOob + BitVec.ofNat 64 (rows.filter fun r => r.2.1.isNone).length) ∧
    (k.crrRun.length < 8 → (∃ dr d a z, e.op = .cpy dr d a z) ∨ (∃ dr d a di, e.op = .gather dr d a di) ∨
        (∃ dr d a di, e.op = .scatter dr d a di) ∨ (∃ a addr, e.op = .seal a addr) ∨ (∃ op d a, e.op = .amo op d a) →
      ∃ t, exec (.courierAccept c) s = .next t ∧ (t.comb c).seq.qCrr = es ∧
        ((t.comb c).crrRun = k.crrRun ∧ s.addrFaulted c e 2 t ∨
          ∃ fl : Flight, (t.comb c).crrRun = k.crrRun ++ [fl] ∧ fl.e = e ∧ (t.comb c).seq = { k.seq with qCrr := es }))) ∧
  (∀ (n : Nat) (v : Val),
    (∀ i, inRange n v = some i → i < n) ∧ (v = .nan ∨ (∃ g, v = .inf g) ∨ (∃ m e, v = .fin true m e) → inRange n v = none) ∧
    (∀ m : Nat, 0 < m → inRange n (Val.ofInt m 0) = if m < n then some m else none) ∧ (0 < n → inRange n (.zero false) = some 0))

/-- R307 to R309: an engine digests its oldest request: SEAL_COUNT moves, the slot takes the seal and its marks, and who waited goes
on.
R112, R114, Table 5.4: an atomic unit applies its oldest operation to the 64 bytes at its address and to no other byte, and an LF64
overflow counts in the unit's register. -/
def Obligations.SealEngineAndAtomicUnit : Prop :=
  (∀ (s : State) (e : Fin 26) (r : SealReq), (s.seals.reqs.find? (·.engine == e)) = some r → r.bulk = none →
    ∃ t, exec (.sealEngineServe e) s = .next t ∧ t.seals.reqs = s.seals.reqs.erase r ∧ t.seals.count = s.seals.count + 1 ∧
      (r.slot = 0 → t.seals.slots = s.seals.slots) ∧
      (r.slot ≠ 0 → Sparse.get {} t.seals.slots r.slot.toNat =
        { digest := sealOf r.header r.body, chime := s.chm.n, valid := true, poison := r.poison, clash := r.clash, src := r.src,
          length := BitVec.ofNat 48 r.body.length }) ∧
      (∀ j : Fin 65536, j.val ≠ r.slot.toNat → Sparse.get {} t.seals.slots j.val = Sparse.get {} s.seals.slots j.val) ∧
      (r.poison = true → t.seals.status.getLsbD 3 = true) ∧ (r.clash = true → t.seals.status.getLsbD 2 = true) ∧
      (r.addr = none → t.mem = s.mem) ∧
      (∀ (c : CombId) (id i : Nat) (fl : Flight), r.owner = some (c, id) → (s.comb c).crrRun[i]? = some fl → fl.id = id → fl.waits = 1 →
        ∃ fl' : Flight, (t.comb c).crrRun[i]? = some fl' ∧ fl'.waits = 0 ∧ fl'.e = fl.e)) ∧
  (∀ (s : State) (u : Nat) (r : AtomicReq), s.mem.wf = true → s.mem.crc = [] →
    (s.mem.atomics.find? (·.1 == u)) = some (u, r) → r.data.length = 64 →
    (r.addr < 0x00F000000000 → s.retraining (r.addr / 4096) = true → exec (.atomicOperation u) s = .next s) ∧
    (¬ (r.addr < 0x00F000000000 ∧ s.retraining (r.addr / 4096) = true) →
      let w := atomicSize r.op
      let res := atomicBytes r.op w (64 / w) (s.bytes r.addr 64) r.data
      ∃ t, exec (.atomicOperation u) s = .next t ∧ t.mem.atomics = s.mem.atomics.erase (u, r) ∧ t.bytes r.addr 64 = res.1 ∧
        (∀ x, x < r.addr ∨ r.addr + 64 ≤ x → t.byte x = s.byte x) ∧
        (∀ m, s.region r.addr = .hbm m → (t.mcs[m]).aovf = (s.mcs[m]).aovf + BitVec.ofNat 64 res.2) ∧
        (∀ q, s.region r.addr = .square q → (t.squares[q]).aovf = (s.squares[q]).aovf + BitVec.ofNat 64 res.2) ∧
        (∀ d, (t.comb d).seq = (s.comb d).seq)))

/-- R231, R251, R233: the consignment at the head of the fabric queue starts while fewer than 256 to its peer are open and 4,096 of the
last millisecond have started; a fenced destination completes it at once. -/
def Obligations.ConsignmentStarts : Prop :=
  ∀ (s : State) (c : CombId) (e : QEntry), (s.comb c).seq.qFab = [e] → (∀ b ∈ s.col.bars, b.comb = c → b.started = true) →
    (∀ d a w op, e.op = .put d a w op →
      let dst := s.rte.physOf s.rte.inj (coordOf w)
      (s.rte.fenced dst = true → ∃ t, exec (.consignmentStart c) s = .next t ∧ (t.comb c).seq.qFab = [] ∧
        t.fab = s.fab ∧ t.rte = s.rte ∧ (t.comb c).seq.busy = (s.comb c).seq.busy.set 3 ((s.comb c).seq.busy[3] - 1) ∧
        (t.comb c).crrStatus.getLsbD 0 = true) ∧
      (s.rte.fenced dst = false → s.mayStart (.chip dst) = false → exec (.consignmentStart c) s = .next s) ∧
      (s.rte.fenced dst = false → s.mayStart (.chip dst) = true → s.openRuns a.ranges = true →
        ∃ (t : State) (x : Cons), exec (.consignmentStart c) s = .next t ∧ (t.comb c).seq.qFab = [] ∧ x ∈ t.fab.open_ ∧
          t.fab.open_.length = s.fab.open_.length + 1 ∧
          (x.key, x.cid, x.n, x.members) = (.chip dst, Sparse.get 0 s.fab.next dst.toNat, a.dropCount, [(dst, 0)]) ∧
          x.sent = min a.dropCount 1024 ∧ t.rte.drops.length = s.rte.drops.length + 1 + min a.dropCount 1024)) ∧
    (∀ dr d a w, e.op = .get dr d a w →
      let dst := s.rte.physOf s.rte.inj (coordOf w)
      s.rte.fenced dst = false → s.mayStart (.chip dst) = true → d.dropCount ≠ 0 →
        ∃ (t : State) (x : Cons), exec (.consignmentStart c) s = .next t ∧ (t.comb c).seq.qFab = [] ∧ x ∈ t.fab.open_ ∧
          (x.key, x.cid, x.n, x.sent) = (.chip dst, Sparse.get 0 s.fab.next dst.toNat, d.dropCount, 0) ∧
          t.rte.drops.length = s.rte.drops.length + 1) ∧
    (∀ d a w, e.op = .mcast d a w →
      let g : BitVec 8 := w.setWidth 8
      let all := (((s.rte.tab[s.rte.inj]).members g).map (s.rte.physOf s.rte.inj)).filter (· ≠ s.rte.selfId)
      (∀ p ∈ all, s.rte.fenced p = false) →
      (all = [] → ∃ t, exec (.consignmentStart c) s = .next t ∧ (t.comb c).seq.qFab = [] ∧ t.fab = s.fab ∧
        (t.comb c).seq.busy = (s.comb c).seq.busy.set 3 ((s.comb c).seq.busy[3] - 1)) ∧
      (all ≠ [] → s.mayStart (.group g) = false → exec (.consignmentStart c) s = .next s) ∧
      (all ≠ [] → s.mayStart (.group g) = true → s.openRuns a.ranges = true →
        ∃ (t : State) (x : Cons), exec (.consignmentStart c) s = .next t ∧ (t.comb c).seq.qFab = [] ∧ x ∈ t.fab.open_ ∧
          (x.key, x.n, x.members) = (.group g, a.dropCount, all.map fun p => (p, 0)) ∧
          x.sent = min a.dropCount 1024 ∧ t.rte.drops.length = s.rte.drops.length + 1 + min a.dropCount 1024))

/-- R257, R268, R271: a coll takes the group's next number at issue and joins its queue and the admission queue; a bar takes its number and waits
in the queue until it stands at its head, where it starts (log entry 32, the model's reading). -/
def Obligations.CollectiveIssue : Prop :=
  ∀ (s : State) (c : CombId) (f : TForm),
    let q := (s.comb c).seq
    let gw := q.s[f.reg 30]
    let g : BitVec 8 := gw.setWidth 8
    (s.dueT c .coll f = true → q.qFab = [] → s.col.staged = [] → (∀ b ∈ s.col.bars, b.comb = c → b.started = true) →
      ∃ (t : State) (k : CollInst) (e : QEntry), exec (.coll c f) s = .next t ∧ (t.comb c).seq.qFab = [e] ∧ (e.pc, e.ce, e.cnt, e.op) = (q.pc, f.ce, f.cnt, s.collOp c .coll f) ∧
        (t.comb c).seq.busy = q.busy.set 3 (q.busy[3] + 1) ∧ t.col.colls = s.col.colls ++ [k] ∧
        (k.comb, k.key, k.ver, k.admitted) = (c, ⟨g, s.col.nextColl g, s.col.era, false⟩, s.rte.inj, false) ∧
        t.col.queue = s.col.queue ++ [k.key] ∧
        t.col.collNum = Sparse.set 0 s.col.collNum g.toNat (Sparse.get 0 s.col.collNum g.toNat + 1) ∧ t.mem = s.mem) ∧
    (s.dueT c .bar f = true → s.col.noAdmit = true → s.heldAbort ⟨g, s.col.nextBar g, s.col.era, true⟩ = none →
      ∃ (t : State) (e : QEntry) (b : BarInst), exec (.bar c f) s = .next t ∧ (t.comb c).seq.qFab = q.qFab ++ [e] ∧
        (e.pc, e.ce, e.cnt, e.op) = (q.pc, f.ce, f.cnt, s.collOp c .bar f) ∧ (t.comb c).seq.busy = q.busy.set 3 (q.busy[3] + 1) ∧
        t.col.barNum = Sparse.set 0 s.col.barNum g.toNat (Sparse.get 0 s.col.barNum g.toNat + 1) ∧
        t.col.bars = s.col.bars ++ [b] ∧ (b.comb, b.e, b.key, b.started) = (c, e, ⟨g, s.col.nextBar g, s.col.era, true⟩, false) ∧ t.mem = s.mem) ∧
    (s.dueT c .bar f = true → s.col.noAdmit = false → q.qFab = [] → s.col.staged = [] →
      (∀ b ∈ s.col.bars, b.comb = c → b.started = true) → (((s.rte.tab[s.rte.inj]).members g).map (s.rte.physOf s.rte.inj)).any s.rte.fenced = false →
      ∃ (t : State) (b : BarInst), exec (.bar c f) s = .next t ∧ (t.comb c).seq.qFab = [] ∧ (t.comb c).seq.busy = q.busy.set 3 (q.busy[3] + 1) ∧ b ∈ t.col.bars ∧
        (b.comb, b.key, b.ver, b.started) = (c, ⟨g, s.col.nextBar g, s.col.era, true⟩, s.rte.inj, true) ∧ t.mem = s.mem)

/-! ### Router and consignments -/

/-- R228, R246, R251: what the router does with a drop that it holds, but for the choice of a link.
R237: a drop of C1 to C3 that has waited too long leaves the router and is counted; a C0 drop never does. -/
def Obligations.RouterDelivers : Prop :=
  (∀ (s : State) (i : Nat) (h : HeldDrop), s.rte.drops[i]? = some h →
    let d := h.drop
    let gone : State := { s with rte := { s.rte with drops := s.rte.drops.eraseIdx i } }
    let formed := 1 ≤ d.type ∧ d.type ≤ 12 ∧ d.esc ≠ 3 ∧ d.parityOk = true
    (¬ formed → exec (.dropRoute i) s = .next gone.discHdr) ∧
    (formed → s.rte.fenced d.src = true → exec (.dropRoute i) s = .next gone.discFenced) ∧
    (formed → s.rte.fenced d.src = false → d.multi = false → s.rte.fenced d.dst = true →
      ∃ (t : State) (a : HeldDrop), exec (.dropRoute i) s = .next t ∧ t.rte.drops = gone.rte.drops ++ [a] ∧
        getF t.rte.discard1 32 16 = min (getF s.rte.discard1 32 16 + 1) 0xFFFF ∧ t.links = s.links ∧ t.rte.arrived = s.rte.arrived) ∧
    (formed → s.rte.fenced d.src = false → d.multi = false → s.rte.fenced d.dst = false → d.dst = s.rte.selfId →
      (∀ w, d.serve s.rte = some (false, w) → d.badKind = false →
        exec (.dropRoute i) s = .next { gone with rte := { gone.rte with arrived := gone.rte.arrived ++ [d] } }) ∧
      (d.serve s.rte = none → exec (.dropRoute i) s = .next gone.discTag))) ∧
  (∀ (s : State) (i : Nat) (h : HeldDrop), s.rte.drops[i]? = some h →
    (h.drop.cls = 0 → exec (.dropStaleDiscard i) s = .next s) ∧
    (h.drop.cls ≠ 0 → ∃ t, exec (.dropStaleDiscard i) s = .next t ∧ t.rte.drops = s.rte.drops.eraseIdx i ∧
      getF t.rte.discard0 48 16 = min (getF s.rte.discard0 48 16 + 1) 0xFFFF ∧ t.rte.arrived = s.rte.arrived ∧ t.links = s.links ∧
      t.mem = s.mem))

/-- R238, R240: a drop for another chip takes an adaptive channel of the productive link with the shortest queue, the lowest index on a tie;
without a productive link it is discarded, counted and recorded once for each port and chime.
R239: one that finds no adaptive credit takes the escape channel of its lowest productive axis, ESC 1 before the dateline and 2 after it, on the
link of that port with the shortest queue (log entry 46, the model's choice), and waits where none has a credit.
R241: a multicast that begins here leaves as one copy, on an escape channel, by each port that some member's route leaves by, which is the first
productive one with a usable link (log entry 17, the model's choice where two directions of an axis tie); a member without such a port counts as
NOROUTE. -/
def Obligations.RouterForwards : Prop :=
  (∀ (s : State) (i : Nat) (h : HeldDrop) (corr : Bool) (wraps : Nat), s.rte.drops[i]? = some h →
    let d := h.drop
    let gone : State := { s with rte := { s.rte with drops := s.rte.drops.eraseIdx i } }
    let dirs := s.rte.productive wraps s.rte.selfId d.dst
    let links := dirs.flatMap fun x => s.usable d.ep d.slice x.1 x.2
    let free := links.filter fun l => decide (0 < s.spare_ l (d.chan s.rte 0))
    1 ≤ d.type → d.type ≤ 12 → d.esc ≠ 3 → d.parityOk = true → s.rte.fenced d.src = false → d.multi = false → s.rte.fenced d.dst = false →
    d.dst ≠ s.rte.selfId → d.serve s.rte = some (corr, wraps) →
      (links = [] → s.chr.queue.length ≤ 1018 → ∃ t, exec (.dropRoute i) s = .next t ∧ t.rte.drops = gone.rte.drops ∧ t.links = s.links ∧
        getF t.rte.discard0 32 16 = min (getF s.rte.discard0 32 16 + 1) 0xFFFF ∧
        (t.chr.queue.map (·.event)) = (s.chr.queue.map (·.event)) ++
          ((dirs.map fun x => portOf x.1 x.2).filter fun p => !s.rte.noroute.contains p).map Event.noRoute ∧
        ∀ x ∈ dirs, portOf x.1 x.2 ∈ t.rte.noroute) ∧
      (free ≠ [] → ∃ l ∈ free, (∀ m ∈ free, (s.links[l]).txq.length ≤ (s.links[m]).txq.length ∧
          ((s.links[l]).txq.length = (s.links[m]).txq.length → l ≤ m)) ∧
        exec (.dropRoute i) s = .next (gone.modLink l fun k => { k with txq := k.txq ++ [d.setEsc 0] })) ∧
      (∀ a neg rest, dirs = (a, neg) :: rest → links ≠ [] → free = [] →
        let from_ := axisOf d.src a
        let here := axisOf s.rte.selfId a
        let e := if wraps.testBit a = true ∧ (if neg then from_ < here else here < from_) then 2 else 1
        let port := (s.usable d.ep d.slice a neg).filter fun l => decide (0 < s.spare_ l (d.chan s.rte e))
        (port ≠ [] → ∃ l ∈ port, (∀ m ∈ port, (s.links[l]).txq.length ≤ (s.links[m]).txq.length ∧
            ((s.links[l]).txq.length = (s.links[m]).txq.length → l ≤ m)) ∧
          exec (.dropRoute i) s = .next (gone.modLink l fun k => { k with txq := k.txq ++ [d.setEsc e] })) ∧
        (port = [] → exec (.dropRoute i) s = .next s)) ∧
      (links ≠ [] → (∀ l ∈ links, ∀ e, s.spare_ l (d.chan s.rte e) = 0) → exec (.dropRoute i) s = .next s)) ∧
  (∀ (s : State) (i : Nat) (h : HeldDrop) (corr : Bool) (wraps : Nat), s.rte.drops[i]? = some h →
    let d := h.drop
    let ms := (s.rte.tab[d.ep].members d.group).map (s.rte.physOf d.ep)
    let far := ms.filter fun m => m != s.rte.selfId && m != d.src
    let usable := fun (x : Nat × Bool) => s.usable d.ep d.slice x.1 x.2
    let leaves := fun (m : ChipId) => (s.rte.productive wraps s.rte.selfId m).find? fun x => !(usable x).isEmpty
    let esc := fun (x : Nat × Bool) =>
      let from_ := axisOf d.src x.1
      let here := axisOf s.rte.selfId x.1
      if wraps.testBit x.1 = true ∧ (if x.2 then from_ < here else here < from_) then 2 else 1
    d.multi = true → d.esc ≠ 3 → d.parityOk = true → s.rte.fenced d.src = false → d.serve s.rte = some (corr, wraps) →
    s.rte.tab[d.ep].groupValid d.group = true → h.from_ = none → (∀ m ∈ far, s.rte.fenced m = false) →
      ∃ t, exec (.dropRoute i) s = .next t ∧ t.rte.drops = s.rte.drops.eraseIdx i ∧
        (∀ m ∈ far, ∀ x, leaves m = some x → ∃ l ∈ usable x,
          (∀ k ∈ usable x, (s.links[l]).txq.length ≤ (s.links[k]).txq.length ∧
            ((s.links[l]).txq.length = (s.links[k]).txq.length → l ≤ k)) ∧
          t.links[l] = { s.links[l] with txq := (s.links[l]).txq ++ [d.setEsc (esc x)] } ∧ ∀ k ∈ usable x, k ≠ l → t.links[k] = s.links[k]) ∧
        (∀ l : LinkId, (∀ m ∈ far, ∀ x, leaves m = some x → l ∉ usable x) → t.links[l] = s.links[l]) ∧
        getF t.rte.discard0 32 16 = min (getF s.rte.discard0 32 16 + (far.filter fun m => (leaves m).isNone).length) 0xFFFF ∧
        t.rte.arrived = s.rte.arrived ++
          (if ms.contains s.rte.selfId = true ∧ d.src ≠ s.rte.selfId ∧ corr = false ∧ (s.rte.memberIndex d.ep d.group).isSome = true
            then [d] else []))

/-- R212, R215, R221, R242: a slot of a link that talks takes the drop that a symbol displaced, then one of a replay, then the queued drop of R242,
C0 first while its bucket holds; that drop is numbered, kept for replay and spends a credit of its channel. The tenth slot closes the codeword. -/
def Obligations.TransmitterSlot : Prop :=
  ∀ (s : State) (l : LinkId),
    let k : Link := s.links[l]
    let chan := fun (d : Drop) => d.chan s.rte d.esc
    let k1 := k.startCw.slot
    let slot (x : Option (BitVec 16 × Drop)) := ∃ t, exec (.dropTransmit l) s = .next t ∧ s.onlyLink l t ∧
      (let r : Link := t.links[l]
       r.cwSlots = k.cwSlots ++ [x] ∧ (r.txq, r.buf, r.txSeq, r.credits) = (k.txq, k.buf, k.txSeq, k.credits))
    (k.talks = false → exec (.dropTransmit l) s = .next s) ∧
    (k.talks = true → k.cwSlots.length < 9 →
      (∀ x, k.carry = some x → slot (some x)) ∧
      (∀ x xs, k.carry = none → k.resend = x :: xs → slot (some x)) ∧
      (k.carry = none → k.resend = [] → (k.carries = false ∨ 4688 ≤ k.buf.length ∨ k1.pick chan = none) → slot none) ∧
      (∀ c i, k.carry = none → k.resend = [] → k.carries = true → k.buf.length < 4688 → k1.pick chan = some (c, i) →
        ∃ (d : Drop) (t : State), k.txq[i]? = some d ∧ chanClass (chan d) = c ∧ exec (.dropTransmit l) s = .next t ∧ s.onlyLink l t ∧
          (let r : Link := t.links[l]
           r.txq = k.txq.eraseIdx i ∧ r.cwSlots = k.cwSlots ++ [some (k.txSeq, d)] ∧ r.buf = k.buf ++ [(k.txSeq, d)] ∧ r.txSeq = k.txSeq + 1 ∧
           (∀ j : Fin 12, r.credits[j] = if j.val = chan d then k.credits[j] - 1 else k.credits[j]) ∧
           (c ≠ 0 → ¬ (0 < k1.c0Bucket ∧ ∃ x ∈ k.txq, chanClass (chan x) = 0 ∧ 0 < k.credits.toList.getD (chan x) 0))))) ∧
    (k.talks = true → k.cwSlots.length = 9 → ∃ (t : State) (w : List (Nat × Nat)), exec (.dropTransmit l) s = .next t ∧ s.onlyLink l t ∧
      (let r : Link := t.links[l]
       r.cwSlots = [] ∧ r.cwSym = none ∧ r.cwTx = k.cwTx + 1 ∧ r.cwOut = k.cwOut ++ [w] ∧ w.length = 544 ∧ (k.cwSym = none → r.carry = none) ∧
       (k.cwSym ≠ none → (∀ x ∈ k.cwSlots, x ≠ none) → ∀ x, k.carry = some x → r.carry = some x)))

/-- R55, R232 to R234: a data drop is written once, where its manifest says, and shared storage keeps the higher drop; a duplicate is discarded;
one before its manifest waits. R252: a compute reset holds a drop for a comb store, a control register or a comb's counter at the router (log
entries 41 and 75, the model's reading).
R232, R234: a manifest opens its consignment; a repeated one of a completed consignment is answered with DONE; one without data drops is
whole at once, counts in RCNT and is answered with DONE. -/
def Obligations.DataAndManifestDrops : Prop :=
  (∀ (s : State) (d : Drop) (cmd : Instr), (cmd = .data d ∧ d.type = 1) ∨ (cmd = .mdata d ∧ d.type = 3) →
    d ∈ s.rte.arrived →
    let g := dropGroup d
    (s.heldByReset d = true → exec cmd s = .next s) ∧
    (s.heldByReset d = false →
    (∀ x, s.fab.rxOf d.src g d.cid = some x → resolveIx x.base d.seqoff x.got = none →
      exec cmd s = .next (s.taken d).discDup) ∧
    (∀ x i, s.fab.rxOf d.src g d.cid = some x → resolveIx x.base d.seqoff x.got = some i →
      let desc := (manifestDesc x.man.payload).1
      (desc.dropCount ≤ i ∨ d.addr ≠ desc.dropAddr i → exec cmd s = .next (s.taken d).discHdr) ∧
      (i < desc.dropCount → d.addr = desc.dropAddr i → (manifestDesc x.man.payload).2 = 0 →
        (∀ a ∈ desc.dropAddrs i, s.opened a 1 = true) → s.mem.wf = true → s.mem.crc = [] →
        ∃ t, exec cmd s = .next t ∧ t.rte.arrived = s.rte.arrived.erase d ∧
          (∀ a, a ∉ desc.dropAddrs i → t.byte a = s.byte a) ∧
          ((desc.dropAddrs i).Nodup → ∀ (j : Nat) a b, (desc.dropAddrs i)[j]? = some a → d.payload[j]? = some b →
            t.byte a = if ∃ n ∈ x.got, i < n ∧ a ∈ desc.dropAddrs n then s.byte a else b) ∧
          ((slideBase desc.dropCount x.base (x.got ++ [i])).1 < desc.dropCount →
            ∃ y, t.fab.rxOf d.src g d.cid = some y ∧ y.base = (slideBase desc.dropCount x.base (x.got ++ [i])).1))) ∧
    (s.fab.rxOf d.src g d.cid = none → (∀ e, s.fab.entry d.src g = some e → e.dup d.cid = false) → s.fab.early.length < 2048 →
      ∃ t, exec cmd s = .next t ∧ t.fab.early = s.fab.early ++ [d] ∧ t.rte.arrived = s.rte.arrived.erase d ∧ t.mem = s.mem))) ∧
  (∀ (s : State) (d : Drop) (cmd : Instr), (cmd = .manifest d ∧ d.type = 2) ∨ (cmd = .mmanifest d ∧ d.type = 4) →
    d ∈ s.rte.arrived → ∀ e, s.fab.entry d.src (dropGroup d) = some e →
    let g := dropGroup d
    (s.manifestHeld d = true → exec cmd s = .next s) ∧
    (s.manifestHeld d = false →
    (e.dup d.cid = true → ∃ (t : State) (a : HeldDrop), exec cmd s = .next t ∧ t.rte.drops = s.rte.drops ++ [a] ∧ a.drop.type = 8 ∧ t.mem = s.mem) ∧
    (e.dup d.cid = false → s.fab.rxOf d.src g d.cid = none → s.fab.rx.length < 8192 → s.fab.early = [] →
      ((manifestDesc d.payload).1.dropCount ≠ 0 → ∃ (t : State) (x : RxCons), exec cmd s = .next t ∧ t.fab.rx = s.fab.rx ++ [x] ∧
        (x.src, x.group, x.cid, x.man, x.base, x.got) = (d.src, g, d.cid, d, 0, []) ∧ t.mem = s.mem ∧ t.rte.drops = s.rte.drops) ∧
      ((manifestDesc d.payload).1.dropCount = 0 → ∃ (t : State) (a : HeldDrop), exec cmd s = .next t ∧ t.rte.drops = s.rte.drops ++ [a] ∧
        a.drop.type = 8 ∧ t.mem = s.mem ∧ t.fab.rxOf d.src g d.cid = none ∧
        (d.addr / 64 % 2 = 1 → ∀ c : CombId, c.val = d.addr % 64 → ∀ n : Fin 256, n.val = d.addr / 256 % 256 →
          (t.comb c).seq.cnt[n] = (s.comb c).seq.cnt[n] + 1)))))

/-- R201, R233, R235, R236, R251: what the answers to a consignment and its timeouts do at the sender; an error of one destination of an mcast
counts and the others go on (log entry 36, the model's reading, which also says which consignment an answer belongs to).
R235: a get's request is answered with one RDATA for each index asked, or with ERROR at a byte that is not open; the requester writes each
index once, where its own descriptor says, and completes with the last one (log entry 35, the model's reading). R252: a compute reset holds a
request for what it resets (log entry 41, the model's reading). -/
def Obligations.AnswersAndGets : Prop :=
  (∀ (s : State) (d : Drop) (x : Cons),
    (d ∈ s.rte.arrived → s.fab.consFor d.src d.cid = some x →
      (d.type = 7 → ∃ t, exec (.ack d) s = .next t ∧ t.rte.arrived = s.rte.arrived.erase d ∧ t.fab.open_.length = s.fab.open_.length ∧
        ∃ y ∈ t.fab.open_, (y.key, y.cid, y.n) = (x.key, x.cid, x.n) ∧
          y.members = x.members.map fun r => if r.1 = d.src then (r.1, max r.2 d.addr) else r) ∧
      (d.type = 8 → ∀ c e, x.comb = some c → x.e = some e →
        (∀ m, x.members = [(d.src, m)] →
          let u := ((s.taken d).dropCons x).busySub c 3
          exec (.done d) s = .next (if x.failed then u else u.bumpE c e)) ∧
        ((∃ r ∈ x.members, r.1 ≠ d.src) → ∃ t, exec (.done d) s = .next t ∧ (t.comb c).seq.busy = (s.comb c).seq.busy ∧
          (t.comb c).seq.cnt = (s.comb c).seq.cnt ∧ ∃ y ∈ t.fab.open_, (y.key, y.cid, y.failed) = (x.key, x.cid, x.failed) ∧
            y.members = x.members.filter fun r => r.1 != d.src)) ∧
      (d.type = 9 → ∀ c e, x.comb = some c → x.e = some e → ∃ t, exec (.error d) s = .next t ∧
        (t.comb c).crrStatus.getLsbD 1 = true ∧ getF (t.comb c).crrStatus 32 16 = min (getF (s.comb c).crrStatus 32 16 + 1) 0xFFFF ∧
        (t.comb c).seq.cnt = (s.comb c).seq.cnt ∧
        ((s.comb c).seq.stall ≠ .faulting → (s.comb c).seq.st ≠ .faulted → getF (t.comb c).seq.fault 0 8 = 0x0D ∧
          getF (t.comb c).seq.fault 8 18 = e.pc.toNat) ∧
        (∀ m, x.members = [(d.src, m)] → s.fab.wait = [] →
          t.fab.open_ = (s.fab.open_.filter fun y => !(y.key == x.key && y.cid == x.cid)) ∧
          (t.comb c).seq.busy = (s.comb c).seq.busy.set 3 ((s.comb c).seq.busy[3] - 1)) ∧
        ((∃ r ∈ x.members, r.1 ≠ d.src) → (t.comb c).seq.busy = (s.comb c).seq.busy ∧
          ∃ y ∈ t.fab.open_, (y.key, y.cid, y.failed) = (x.key, x.cid, true) ∧ y.members = x.members.filter fun r => r.1 != d.src))) ∧
    (d ∈ s.rte.arrived → d.type = 0xA → s.fab.consFor (BitVec.ofNat 18 d.addr) d.cid = some x →
      ∀ c e m, x.comb = some c → x.e = some e → x.members = [(BitVec.ofNat 18 d.addr, m)] → s.fab.wait = [] → ∃ t, exec (.fenced d) s = .next t ∧
        (t.comb c).crrStatus.getLsbD 0 = true ∧
        t.fab.open_ = (s.fab.open_.filter fun y => !(y.key == x.key && y.cid == x.cid)) ∧
        (t.comb c).seq.cnt = (if e.ce && !x.failed then (s.comb c).seq.cnt.set (cntIx e.cnt) ((s.comb c).seq.cnt[cntIx e.cnt] + 1)
          else (s.comb c).seq.cnt)) ∧
    (s.fab.open_.find? (fun y => y.key == x.key && y.cid == x.cid) = some x →
      (x.timeouts < max 1 (getF s.rte.retx 20 4) → ∃ t, exec (.retxTimeout x.key x.cid) s = .next t ∧
        getF t.rte.retx 32 32 = (getF s.rte.retx 32 32 + 1) % 2 ^ 32 ∧ t.fab.open_.length = s.fab.open_.length ∧
        ∃ y ∈ t.fab.open_, (y.key, y.cid, y.n, y.members, y.timeouts) = (x.key, x.cid, x.n, x.members, x.timeouts + 1)) ∧
      (max 1 (getF s.rte.retx 20 4) ≤ x.timeouts → s.fab.wait = [] → ∀ c e, x.comb = some c → x.e = some e → ∃ t, exec (.retxTimeout x.key x.cid) s = .next t ∧
        t.rte.retx = s.rte.retx ∧ t.fab.open_ = (s.fab.open_.filter fun y => !(y.key == x.key && y.cid == x.cid)) ∧
        (t.comb c).crrStatus.getLsbD 1 = true ∧
        ((s.comb c).seq.stall ≠ .faulting → (s.comb c).seq.st ≠ .faulted → getF (t.comb c).seq.fault 0 8 = 0x0D)))) ∧
  (∀ (s : State) (d : Drop), d ∈ s.rte.arrived →
    (d.type = 5 → s.getreqHeld d = true → exec (.getreq d) s = .next s) ∧
    (d.type = 5 → s.getreqHeld d = false →
      let desc := (manifestDesc d.payload).1
      let n := min desc.dropCount (d.addr + 1024) - d.addr
      let bad := (List.range n).any fun j => (desc.dropAddrs (d.addr + j)).any fun a => !s.opened a 1
      ∃ t, exec (.getreq d) s = .next t ∧ t.rte.arrived = s.rte.arrived.erase d ∧
        t.rte.drops.length = s.rte.drops.length + (if bad then 1 else n) ∧
        ∀ h ∈ t.rte.drops.drop s.rte.drops.length, h.drop.type = if bad then 9 else 6) ∧
    (∀ x desc a c e, d.type = 6 → s.fab.consFor d.src d.cid = some x → x.kind = .get desc a → x.comb = some c → x.e = some e →
      (d.addr < x.base ∨ x.base + 1024 ≤ d.addr ∨ x.n ≤ d.addr ∨ d.addr ∈ x.got → exec (.rdata d) s = .next (s.taken d).discDup) ∧
      (x.base = d.addr → d.addr + 1 = x.n → x.got = [] → s.fab.wait = [] →
        (∀ r ∈ desc.freshRuns d.addr [] d.payload, s.opened r.1 r.2.length = true) → s.mem.crc = [] →
        ∃ t, exec (.rdata d) s = .next t ∧ t.fab.open_ = (s.fab.open_.filter fun y => !(y.key == x.key && y.cid == x.cid)) ∧
          (∀ b, b ∉ desc.dropAddrs d.addr → t.byte b = s.byte b) ∧
          (s.mem.wf = true → (desc.dropAddrs d.addr).Nodup → ∀ (j : Nat) b v, (desc.dropAddrs d.addr)[j]? = some b → d.payload[j]? = some v →
            t.byte b = v) ∧
          (t.comb c).seq.busy = (s.comb c).seq.busy.set 3 ((s.comb c).seq.busy[3] - 1))))

/-! ### Links -/

/-- R213 to R215, R223: a codeword that fails its checks is discarded whole, counted and answered with NAK, and the 64th within a millisecond fails
the link; the drops of a good one that are next in sequence go to the router in slot order, unless a replay is awaited.
R214, R215: a control word frees the drops before its ACK and returns its credits; a NAK has every drop kept from its number on sent again, in their
order, and is counted.
The millisecond ends now (log entry 93), and a codeword says itself the number of its first drop and whether the replay begins with it (log
entry 46), which are the model's choices. -/
def Obligations.CodewordsAndReplay : Prop :=
  (∀ (s : State) (l : LinkId) (w : CodewordIn),
    let k : Link := s.links[l]
    (k.talks = false → exec (.codeword l w) s = .next s) ∧
    (k.talks = true → (cwMessage w = none ∨ ∃ m, cwMessage w = some (m, []) ∧ messageOk m = false) →
      ((k.discAt.filter (recentMs s.chm.local_)).length < 63 → ∃ t, exec (.codeword l w) s = .next t ∧ s.onlyLink l t ∧
        (let r : Link := t.links[l]
         r.hunting = true ∧ r.symOut = k.symOut ++ [.nak k.rxSeq] ∧ r.rxSeq = k.rxSeq ∧ r.cwCount = k.cwCount + 1 ∧
         r.err.getLsbD 0 = true ∧ getF r.err 16 16 = min (getF k.err 16 16 + 1) 0xFFFF)) ∧
      (63 ≤ (k.discAt.filter (recentMs s.chm.local_)).length → ∃ t, exec (.codeword l w) s = .next t ∧
        (let r : Link := t.links[l]
         r.st = .failed ∧ r.err.getLsbD 2 = true))) ∧
    (∀ m fixed, k.talks = true → cwMessage w = some (m, fixed) → ∃ t, exec (.codeword l w) s = .next t ∧
      (let r : Link := t.links[l]
       getF r.err 32 32 = min (getF k.err 32 32 + fixed.length) (2 ^ 32 - 1))) ∧
    (∀ m, k.st.up = true → k.talks = true → k.st ≠ .aligned → cwMessage w = some (m, []) → messageOk m = true →
      let ds := slotDrops m
      let awaited := k.hunting = true ∧ w.replay = false
      ∃ (t : State) (got : List Drop), exec (.codeword l w) s = .next t ∧ t.rte.drops = s.rte.drops ++ got.map (fun d => ⟨d, some l, false⟩) ∧
        (awaited → got = []) ∧
        (∀ j, ¬ awaited → j ≤ ds.length → w.seq + BitVec.ofNat 16 j = k.rxSeq → got = ds.drop j) ∧
        (let r : Link := t.links[l]
         r.rxSeq = k.rxSeq + BitVec.ofNat 16 got.length ∧ r.hunting = (k.hunting && !w.replay) ∧ r.symOut = k.symOut) ∧
        ∀ m', m' ≠ l → t.links[m'] = s.links[m'])) ∧
  (∀ (s : State) (l : LinkId),
    let k : Link := s.links[l]
    (∀ w : BitVec 64, w ∈ k.ctl → ∃ t, exec (.controlWord l w) s = .next t ∧ s.onlyLink l t ∧
      (let r : Link := t.links[l]
       r.ctl = k.ctl.erase w ∧ (∀ x, x ∈ r.buf ↔ x ∈ k.buf ∧ (x.1 - w.setWidth 16).toNat < 0x8000) ∧
       (∀ j : Fin 12, r.credits[j] = k.credits[j] + (if getF w 16 4 = j.val then getF w 20 12 else 0) +
         (if getF w 32 4 = j.val then getF w 36 12 else 0)) ∧
       (r.txq, r.cwSlots, r.st, r.txSeq, r.rxSeq) = (k.txq, k.cwSlots, k.st, k.txSeq, k.rxSeq))) ∧
    (∀ n : BitVec 16, k.st.up = true → ∃ t, exec (.nak l n) s = .next t ∧ s.onlyLink l t ∧
      (let r : Link := t.links[l]
       r.resend = (k.buf.filter fun x => decide ((x.1 - n).toNat < 0x8000)) ∧ r.buf = k.buf ∧ r.txq = k.txq ∧
       getF r.replay 32 32 = min (getF k.replay 32 32 + 1) (2 ^ 32 - 1))))

/-- R215, R218, R223: what fails a link, and what its failure does: FAILED, its kept and queued drops back at the router, and no other port
touched.
R218: a first failed lane is spared: SPARE names a codeword count on a multiple of 16 at least 64 ahead, and each direction switches to seven
lanes once it has come to that count. A SPARE that names the direction it came by has no effect (log entry 87, the model's choice). -/
def Obligations.LinkFailuresAndSparing : Prop :=
  (∀ (s : State) (l : LinkId),
    let k : Link := s.links[l]
    (k.st.up = true → k.buf ≠ [] → exec (.replayStall l) s = .next (s.linkFail l)) ∧
    (k.st ≠ .down → exec (.linkFailure l) s = .next (s.linkFail l)) ∧
    (∀ lane, k.st.up = true → k.rxSpare ≠ some lane → k.rxSwitch.map (·.1) ≠ some lane → (k.rxSpare ≠ none ∨ k.rxSwitch ≠ none) →
      exec (.laneFailure l lane) s = .next (s.linkFail l)) ∧
    (∀ x : SpareSym, x.toOwner = ownerEnd l → exec (.spare l x) s = .next s) ∧
    (∀ x : SpareSym, k.st.up = true → x.toOwner ≠ ownerEnd l → k.txSpare ≠ some x.lane → k.txSwitch.map (·.1) ≠ some x.lane → (k.txSpare ≠ none ∨ k.txSwitch ≠ none) →
      exec (.spare l x) s = .next (s.linkFail l)) ∧
    (k.st ≠ .off → k.st ≠ .failed →
      let t := s.linkFail l
      let r : Link := t.links[l]
      r.st = .failed ∧ r.err.getLsbD 2 = true ∧ r.buf = [] ∧ r.txq = [] ∧
      t.rte.drops.map (·.drop) = s.rte.drops.map (·.drop) ++ (k.buf.map (·.2) ++ k.txq) ∧
      (∀ m : LinkId, m.val / 4 ≠ l.val / 4 → t.links[m] = s.links[m]) ∧ t.mem = s.mem)) ∧
  (∀ (s : State) (l : LinkId),
    let k : Link := s.links[l]
    (∀ lane, k.st.up = true → k.rxSpare = none → k.rxSwitch = none → k.cwCount.toNat < 2 ^ 63 →
      ∃ n : W64, n.toNat % 16 = 0 ∧ k.cwCount.toNat + 64 ≤ n.toNat ∧ n.toNat < k.cwCount.toNat + 80 ∧
        exec (.laneFailure l lane) s = .next (s.modLink l fun k =>
          { k with rxSwitch := some (lane, n), symOut := k.symOut ++ [.spare (ownerEnd l) lane n] })) ∧
    (∀ x : SpareSym, k.st.up = true → x.toOwner ≠ ownerEnd l → k.txSpare = none → k.txSwitch = none →
      exec (.spare l x) s = .next (s.modLink l fun k => { k with txSwitch := some (x.lane, x.at_) })) ∧
    (∀ lane n, k.rxSwitch = some (lane, n) →
      (n.toNat ≤ k.cwCount.toNat → ∃ t, exec (.spareSwitch l true) s = .next t ∧ s.onlyLink l t ∧
        (let r : Link := t.links[l]
         (r.rxSpare, r.rxSwitch, r.err, r.txSpare) = (some lane, none, setB k.err 1 true, k.txSpare))) ∧
      (k.cwCount.toNat < n.toNat → exec (.spareSwitch l true) s = .next s)) ∧
    (∀ lane n, k.txSwitch = some (lane, n) →
      (n.toNat ≤ k.cwTx.toNat → ∃ t, exec (.spareSwitch l false) s = .next t ∧ s.onlyLink l t ∧
        (let r : Link := t.links[l]
         (r.txSpare, r.txSwitch, r.err, r.rxSpare) = (some lane, none, setB k.err 1 true, k.rxSpare))) ∧
      (k.cwTx.toNat < n.toNat → exec (.spareSwitch l false) s = .next s)))

/-- R14, R217, R219, R224, R414: the phases of bring-up, the identity check against R12, and a failed link that trains again. Alignment begins the
numbering of drops and codewords anew, and an unused port stays DOWN where its signal phase fails (log entry 46, the model's choice). -/
def Obligations.LinkBringUp : Prop :=
  ∀ (s : State) (l : LinkId),
    let k : Link := s.links[l]
    (∀ rx tx, k.en = true → s.trains = true → (k.st = .down ∨ k.st = .training) →
      (k.phase = .signal → exec (.linkPhaseDone l ⟨true, rx, tx⟩) s =
        .next (s.modLink l fun k => { k with st := .training, phase := .equalisation })) ∧
      (k.phase = .equalisation → exec (.linkPhaseDone l ⟨true, rx, tx⟩) s = .next (s.modLink l fun k => { k with phase := .alignment })) ∧
      (k.phase = .alignment → ∃ t, exec (.linkPhaseDone l ⟨true, rx, tx⟩) s = .next t ∧ s.onlyLink l t ∧
        (let r : Link := t.links[l]
         (r.phase, r.txSeq, r.rxSeq, r.buf, r.cwCount, r.rxSpare, r.txSpare) = (.identity, 0, 0, [], 0, rx, tx) ∧
         r.symOut = k.symOut ++ [.ident s.rte.selfId l.val (s.wdn.core.ifaces.getD l.val 0) s.wdn.core.shares])) ∧
      (k.phase = .identity → k.far ≠ none → ∃ t, exec (.linkPhaseDone l ⟨true, rx, tx⟩) s = .next t ∧
        (let r : Link := t.links[l]
         (r.st, r.phase, r.credits, r.far, r.symOut) = (.aligned, .delay, k.credits, k.far, k.symOut)) ∧
        ∀ m : LinkId, m ≠ l → t.links[m] = s.links[m]) ∧
      exec (.linkPhaseDone l ⟨false, rx, tx⟩) s = .next (if k.phase = .signal ∧ s.unusedPort l = true then s else s.linkFail l)) ∧
    (∀ x, k.st = .training → k.phase = .identity → ∃ t, exec (.ident l x) s = .next t ∧
      (let r : Link := t.links[l]
       r.far = some x.chip ∧ (∀ j : Fin 12, r.credits[j] = x.alloc.getD j.val 0) ∧
       (s.rte.selfValid = true → (x.chip ≠ s.expectedFar l ∨ x.link.toNat ≠ (facing l).val) →
         t.rte.cableFault.getLsbD l.val = true ∧ r.badCable = true) ∧
       (x.chip = s.expectedFar l → x.link.toNat = (facing l).val → t.rte.cableFault = s.rte.cableFault ∧ r.badCable = false)) ∧
      ∀ m : LinkId, m ≠ l → t.links[m] = s.links[m]) ∧
    (∀ port n, linkAt port n = l →
      (k.st = .failed → k.en = true → s.trains = true → ∃ t, exec (.linkRetry port n) s = .next t ∧ s.onlyLink l t ∧
        (let r : Link := t.links[l]
         (r.st, r.phase, r.far, r.rxSpare, r.txSpare) = (.down, .signal, none, none, none))) ∧
      ((k.st ≠ .failed ∨ k.en = false ∨ s.trains = false) → exec (.linkRetry port n) s = .next s))

/-- R220, R221, R222, R224, R226: the owner end gives notice 1 µs ahead when every link of the port is ACTIVE, and counts a deferral otherwise; what asks
for roadworks; the notice, its withdrawal, the close, the settle span and the reopening. A first temperature is no change and a start that is
forbidden waits (log entry 95), and the close moves the time base to its instant (log entry 4), which are the model's choices. -/
def Obligations.Roadworks : Prop :=
  ∀ (s : State) (l : LinkId),
    let k : Link := s.links[l]
    let ts : W64 := BitVec.ofNat 64 (s.chm.tb + 3600)
    let may := s.dev.st.working = true ∧ k.st = .active ∧ (∀ m : LinkId, m.val / 4 = l.val / 4 → (s.links[m]).st = .active)
    let begins (t : State) :=
      let r : Link := t.links[l]
      (r.st, r.rwAt, r.rwWait) = (.notice, some ts, false) ∧ r.symOut = k.symOut ++ [.rwNotice ts]
    let defers (t : State) :=
      let r : Link := t.links[l]
      (r.st, r.symOut, r.rwWait) = (k.st, k.symOut, true) ∧ getF r.rw 16 8 = min (getF k.rw 16 8 + 1) 255
    let others (t : State) := (∀ m : LinkId, m ≠ l → t.links[m] = s.links[m]) ∧ t.lnkUse = s.lnkCfg ∧ t.mem = s.mem
    let gap : BitVec 8 → Nat := fun temp => match k.calTemp with
      | some t0 => ((temp.toNat : Int) - (t0.toNat : Int)).natAbs
      | none => 0
    let hot := fun temp => max 1 (getF s.lnkCfg 16 8) ≤ gap temp
    let old := k.calAt + getF s.lnkCfg 0 16 * 3600000000 ≤ s.chm.local_
    let idle := ∀ m : LinkId, (s.links[m]).rwWait = false
    (ownerEnd l = true → k.en = true → k.st ≠ .notice → k.st ≠ .roadworks →
      (∃ t, exec (.rwRequest l) s = .next t ∧ others t ∧ (may → begins t) ∧ (¬ may → defers t)) ∧
      (∀ temp, hot temp ∨ old → ∃ t, exec (.roadworksSchedule l temp) s = .next t ∧ others t ∧ (may → begins t) ∧ (¬ may → defers t)) ∧
      (∀ temp, ¬ hot temp → ¬ old → ∃ t, exec (.roadworksSchedule l temp) s = .next t ∧ others t ∧
        (let r : Link := t.links[l]
         (r.st, r.symOut, r.rw, r.rwWait) = (k.st, k.symOut, k.rw, k.rwWait)))) ∧
    (∀ temp, ownerEnd l = false → k.en = true → k.st = .active → hot temp → ∃ t, exec (.roadworksSchedule l temp) s = .next t ∧ others t ∧
      (let r : Link := t.links[l]
       r.st = .active ∧ r.symOut = k.symOut ++ [.rwRequest])) ∧
    (∀ t, k.st = .active → exec (.rwNotice l t) s = .next (s.modLink l fun k => { k with st := .notice, rwAt := some t })) ∧
    (∀ t, k.st = .notice → k.rwAt = some t → idle →
      exec (.rwCancel l t) s = .next (s.modLink l fun k => { k with st := .active, rwAt := none })) ∧
    (∀ t, k.st = .notice → k.rwAt = some t → ∃ u, exec (.roadworksClose l) s = .next u ∧
      (let r : Link := u.links[l]
       r.st = .roadworks ∧ r.txq = [] ∧ r.buf = k.buf ∧ r.symOut = k.symOut ++ [.close (k.txSeq - 1)]) ∧
      u.chm.tb = max s.chm.tb t.toNat) ∧
    (∀ n, k.st = .notice ∨ k.st = .roadworks → exec (.close l n) s = .next (s.modLink l fun k => { k with closeAt := some n })) ∧
    (k.st = .roadworks → k.settled = false → ∃ u, exec (.roadworksSettleEnd l) s = .next u ∧
      (let r : Link := u.links[l]
       r.buf = [] ∧ r.settled = true ∧ r.st = if k.en then .roadworks else .off) ∧ u.mem = s.mem) ∧
    (∀ x : OpenSym, k.st = .roadworks → k.settled = true → idle → ∃ u, exec (.openLink l x) s = .next u ∧
      (let r : Link := u.links[l]
       r.st = .active ∧ r.txSeq = k.txSeq ∧ (∀ n, k.closeAt = some n → r.rxSeq = n + 1) ∧ (k.closeAt = none → r.rxSeq = k.rxSeq) ∧
       r.buf = [] ∧ r.chimex = (k.chimex || decide (getF k.delay 0 16 ≠ x.delay.toNat)) ∧ getF r.delay 32 16 = x.delay.toNat ∧
       (k.rwCut = false → getF r.rw 32 32 = (getF k.rw 32 32 + 1) % 2 ^ 32 ∧ (x.rxOk = true → r.rxSpare = none) ∧ (x.txOk = true → r.txSpare = none)) ∧
       (k.rwCut = true → getF r.rw 32 32 = getF k.rw 32 32 ∧ (r.rxSpare, r.txSpare) = (k.rxSpare, k.txSpare))) ∧
      ∀ m : LinkId, m ≠ l → u.links[m] = s.links[m]) ∧
    (∀ x : OpenSym, k.st = .aligned → k.phase = .delay → s.chm.running = true → ∃ u, exec (.openLink l x) s = .next u ∧
      (let r : Link := u.links[l]
       r.st = .aligned ∧ (r.matched = true ↔ getF k.delay 0 16 = x.delay.toNat ∧ getF k.delay 0 16 ≠ 0 ∧ (s.chm.link[l]).toNat ≤ 2160 * 64 ∧
         k.badCable = false)) ∧
      ∀ m : LinkId, m ≠ l → u.links[m] = s.links[m])

/-! ### Memory -/

/-- R225, R348, R350, R352: retraining of a stack's pseudo-channels, the one in turn or one whose temperature has moved, refresh, and the closing of
a merge slot, which waits for the pseudo-channels of its page and of its parity; a stack in self-refresh does none of them. The 32
pseudo-channels of the even controller come first (log entry 86, the model's choice). -/
def Obligations.MemoryBackground : Prop :=
  ∀ (s : State) (m : McId),
    let c : Mc := s.mcs[m]
    let head : Mc := s.mcs[stackHead m]
    let tail : Mc := s.mcs[stackTail m]
    let turn := head.turn.toNat
    let may := (s.dev.st = .ready ∨ s.dev.st = .running ∨ s.dev.st = .quiesced) ∧ head.rt = false ∧ tail.rt = false ∧ head.rtFloor ≤ s.chm.local_
    let away := fun (temp : BitVec 8) (i : Nat) => ∃ x, head.rtTemps.find? (·.1 == i) = some x ∧
      5 ≤ ((temp.toNat : Int) - (x.2.toNat : Int)).natAbs
    let starts := fun (temp : BitVec 8) (i : Nat) => ∃ t, exec (.hbmRetrainStart ⟨m, temp⟩) s = .next t ∧ t.mem = s.mem ∧
      (let h : Mc := t.mcs[stackHead m]
       let u : Mc := t.mcs[if i < 32 then stackHead m else stackTail m]
       u.rt = true ∧ u.rtpc.toNat = i % 32 ∧ (h.temp, h.turn, h.rtTemps) = (temp, head.turn, head.rtTemps) ∧
       h.rtNext = if i = turn then s.chm.local_ + getF s.mem.cfg 16 16 * 3600000 / 64 else head.rtNext) ∧
      ∀ x : McId, x.val / 2 ≠ m.val / 2 → t.mcs[x] = s.mcs[x]
    (∀ temp, may → head.rtNext ≤ s.chm.local_ → starts temp turn) ∧
    (∀ temp k, may → s.chm.local_ < head.rtNext → k < 64 → away temp ((turn + k) % 64) → (∀ j, j < k → ¬ away temp ((turn + j) % 64)) →
      starts temp ((turn + k) % 64)) ∧
    (∀ temp, (¬ may ∨ s.chm.local_ < head.rtNext ∧ ∀ i, i < 64 → ¬ away temp i) → exec (.hbmRetrainStart ⟨m, temp⟩) s = .next s) ∧
    (c.rt = true → ∃ t u, exec (.hbmRetrainEnd m true) s = .next t ∧ exec (.hbmRetrainEnd m false) s = .next u ∧
      let i := (if m = stackHead m then 0 else 32) + c.rtpc.toNat
      ((t.mcs[m]).rt, (t.mcs[m]).retrains) = (false, c.retrains + 1) ∧ ((u.mcs[m]).rt, (u.mcs[m]).retrains) = (false, c.retrains) ∧
      ((t.mcs[stackHead m]).turn, (t.mcs[stackHead m]).rtTemps) =
        (if turn = i then head.turn + 1 else head.turn, head.rtTemps.filter (·.1 != i) ++ [(i, head.temp)]) ∧
      ((u.mcs[stackHead m]).turn, (u.mcs[stackHead m]).rtTemps, (u.mcs[stackHead m]).rtFloor) =
        (head.turn, head.rtTemps, s.chm.local_ + 3600000) ∧ (t.mem, u.mem) = (s.mem, s.mem)) ∧
    (∀ temp : BitVec 8, s.coreOn = true → exec (.hbmRefresh m temp) s = .next (s.modMc m fun c =>
      { c with temp := temp, hot := decide (85 < temp.toNat), refresh := c.refresh + 1 })) ∧
    (∀ page, s.pageWaits page = true → exec (.mergeSlotClose m page) s = .next s) ∧
    (∀ page, (c.slots.any fun x => x.page == page) = true → s.pageWaits page = false → s.coreOn = true → s.mem.wf = true → s.mem.crc = [] →
      ∃ t, exec (.mergeSlotClose m page) s = .next t ∧ (t.mcs[m]).slots = (c.slots.filter fun x => x.page != page) ∧
        t.mem.bytes = s.mem.bytes ∧ t.mem.poison = s.mem.poison ∧ (∀ d, t.comb d = s.comb d) ∧
        ∀ i, i < parityBytes (t.pageCode page) →
          t.parByte (t.paritySlot page + i) = BitVec.ofNat 8 (parityOf (t.pageCode page) (t.stackNat page) / 256 ^ i)) ∧
    (s.coreOn = false → (∀ temp, exec (.hbmRefresh m temp) s = .next s) ∧ ∀ page, exec (.mergeSlotClose m page) s = .next s)

/-- R339, R343 to R345, R349: the sweeper checks the page due and passes on; a page that the code corrects is mended, stale parity is rewritten, and a
page that it cannot correct is poisoned sector by sector, counted and shown in WDN_FAULT.
R346: a recode passes the pages of its zone one by one, each checked under its old code and its parity written under the new one, and ends after the
last. R225: both wait while the pseudo-channel of the page, or of its parity, is being retrained. -/
def Obligations.HbmSweepAndRecode : Prop :=
  (∀ (s : State) (m : McId),
    let c : Mc := s.mcs[m]
    let page := m.val * 0xA00000 + c.sweepAt
    let next := if s.dataPages ≤ c.sweepAt + 1 then 0 else c.sweepAt + 1
    let sector := fun (k : Nat) => 64 * page + k
    getF c.sweep 32 1 = 1 → s.coreOn = true → s.pageWaits page = false → c.sweepAt < s.dataPages → s.pageSlot page = none → s.mem.wf = true →
      (∀ x ∈ s.paritySectors page, Sparse.get 0 s.mem.crc x = 0) →
      (s.badSectors page = [] → s.storedParity page = parityOf (s.pageCode page) (s.stackNat page) →
        ∃ t, exec (.hbmSweep m {}) s = .next t ∧ s.onlyMc m t ∧ (t.mcs[m]).sweepAt = next ∧ (t.mcs[m]).err = c.err) ∧
      (s.badSectors page = [] → s.storedParity page ≠ parityOf (s.pageCode page) (s.stackNat page) →
        ∃ t, exec (.hbmSweep m {}) s = .next t ∧ (t.mcs[m]).sweepAt = next ∧ (t.mem.bytes, t.mem.poison, t.mem.crc) = (s.mem.bytes, s.mem.poison, s.mem.crc) ∧
          getF (t.mcs[m]).err 4 8 = min (getF c.err 4 8 + 1) 255) ∧
      (∀ n, s.badSectors page ≠ [] → s.mended page = some n →
        ∃ t, exec (.hbmSweep m {}) s = .next t ∧ (t.mcs[m]).sweepAt = next ∧ t.badSectors page = [] ∧
          (∀ k, k < 64 → leNat (t.bytes (64 * sector k) 64) = sectorNat n k) ∧ (∀ a, a / 4096 ≠ page → t.byte a = s.byte a) ∧
          t.mem.parity = s.mem.parity ∧ (t.mcs[m]).err.getLsbD 0 = true ∧ (t.mcs[m]).err.getLsbD 1 = true ∧
          getF (t.mcs[m]).err 24 16 = min (getF c.err 24 16 + 1) 0xFFFF) ∧
      (s.badSectors page ≠ [] → s.mended page = none →
        ∃ t, exec (.hbmSweep m {}) s = .next t ∧ (t.mcs[m]).sweepAt = next ∧ t.badSectors page = [] ∧
          (∀ k ∈ s.badSectors page, t.poisonAt (64 * sector k) = true) ∧ (∀ a, t.byte a = s.byte a) ∧
          (t.mcs[m]).err.getLsbD 0 = true ∧ (t.mcs[m]).err.getLsbD 2 = true ∧ t.wdn.fault.getLsbD 7 = true)) ∧
  (∀ (s : State) (m : McId),
    let c : Mc := s.mcs[m]
    let z := getF c.recode 48 3
    let cur := getF c.recode 0 21
    let page := m.val * 0xA00000 + z * 0x140000 + cur
    let n := min 0x140000 (s.dataPages - z * 0x140000)
    let new := getF c.recode 40 2
    (getF c.recode 63 1 = 0 ∨ s.coreOn = false ∨ s.pageWaits page = true → exec (.recodePage m) s = .next s) ∧
    (s.pageWaits (m.val * 0xA00000 + c.sweepAt) = true → exec (.hbmSweep m {}) s = .next s) ∧
    (getF c.recode 63 1 = 1 → s.coreOn = true → s.pageWaits page = false → n ≤ cur →
      exec (.recodePage m) s = .next (s.modMc m fun c => { c with recode := setB c.recode 63 false })) ∧
    (getF c.recode 63 1 = 1 → s.coreOn = true → s.pageWaits page = false → cur < n → s.mem.wf = true → s.mem.crc = [] →
      ∃ t, exec (.recodePage m) s = .next t ∧ getF (t.mcs[m]).recode 0 21 = cur + 1 ∧
        ((t.mcs[m]).recode.getLsbD 63 = decide (cur + 1 < n)) ∧ t.mem.bytes = s.mem.bytes ∧ t.mem.poison = s.mem.poison ∧
        (c.slots.any (fun x => x.page == page) = true → ∀ x ∈ (t.mcs[m]).slots, x.page ≠ page) ∧
        ∀ i, i < parityBytes new → t.parByte (s.paritySlot page + i) = BitVec.ofNat 8 (parityOf new (t.stackNat page) / 256 ^ i)))

/-- R36, R37, R39: a sweeper corrects the single-bit errors of a line and counts them; a double-bit error is counted and poisons the line. -/
def Obligations.SramSweepers : Prop :=
  ∀ (s : State) (line w : Nat), w < 8 → s.mem.upsets = [] →
    (∀ c : CombId, line < 983040 → getF (s.comb c).sweep 32 1 = 1 →
      (∃ t, exec (.combStoreSweep c line []) s = .next t ∧ s.onlyComb c t ∧ (t.comb c).ecc = (s.comb c).ecc ∧
        (t.comb c).sweepAt = if 983040 ≤ (s.comb c).sweepAt + 1 then 0 else (s.comb c).sweepAt + 1) ∧
      (∃ t, exec (.combStoreSweep c line [(w, .single)]) s = .next t ∧ t.mem = s.mem ∧ (t.comb c).ecc.getLsbD 0 = true ∧
        getF (t.comb c).ecc 32 32 = min (getF (s.comb c).ecc 32 32 + 1) (2 ^ 32 - 1) ∧ (t.comb c).seq = (s.comb c).seq) ∧
      (∃ t, exec (.combStoreSweep c line [(w, .double)]) s = .next t ∧ t.poisonAt (combBase c + 64 * line) = true ∧
        t.mem.bytes = s.mem.bytes ∧ (t.comb c).ecc.getLsbD 1 = true ∧
        getF (t.comb c).ecc 16 16 = min (getF (s.comb c).ecc 16 16 + 1) 0xFFFF ∧ (t.comb c).eccAddr = BitVec.ofNat 64 (line * 64))) ∧
    (∀ q : SqId, line < 262144 → getF (s.squares[q]).sweep 32 1 = 1 →
      (∃ t, exec (.squareStoreSweep q line [(w, .single)]) s = .next t ∧ t.mem = s.mem ∧ (t.squares[q]).ecc.getLsbD 0 = true ∧
        getF (t.squares[q]).ecc 32 32 = min (getF (s.squares[q]).ecc 32 32 + 1) (2 ^ 32 - 1) ∧ t.combs = s.combs) ∧
      (∃ t, exec (.squareStoreSweep q line [(w, .double)]) s = .next t ∧ t.poisonAt (squareBase q + 64 * line) = true ∧
        t.mem.bytes = s.mem.bytes ∧ (t.squares[q]).ecc.getLsbD 1 = true ∧
        (t.squares[q]).eccAddr = BitVec.ofNat 64 (line * 64)))

/-! ### Collectives and barriers -/

/-- R257 to R259, R276: a SIGN is matched against the coll it names, kept until that coll issues, or ends it with COL_STATUS.MISMATCH; a GRANT is
noted, for the first open coll of its group and number (log entry 47, the model's choice), or kept; a repeated drop is answered with DONE and nothing else. -/
def Obligations.CollectiveMatching : Prop :=
  ∀ (s : State) (d : Drop),
    let key := dropKey d (signEra d)
    (∀ cmd kind e, (cmd = .sign d ∧ kind = 1) ∨ (cmd = .grant d ∧ kind = 2) ∨ (cmd = .abort d ∧ kind = 4) ∨ (cmd = .arrive d ∧ kind = 5) ∨
        (cmd = .release d ∧ kind = 6) → d ∈ s.rte.arrived → d.type = 0xB → collKind d = kind → s.fab.entry d.src none = some e →
      e.dup d.cid = true → ∃ (t : State) (a : HeldDrop), exec cmd s = .next t ∧ t.rte.drops = s.rte.drops ++ [a] ∧ a.drop.type = 8 ∧
        t.col = s.col ∧ t.combs = s.combs ∧ t.mem = s.mem) ∧
    (s.newColl d 1 = true → s.col.colls.find? (fun k => k.key == key) = none → s.col.issuedColl key = false →
      s.col.era.toNat ≤ key.era.toNat → ∃ t, exec (.sign d) s = .next t ∧ t.col = { s.col with staged := s.col.staged ++ [d] } ∧
        t.combs = s.combs ∧ t.mem = s.mem) ∧
    (∀ k m, s.newColl d 1 = true → s.col.colls.find? (fun k => k.key == key) = some k → memberOf k.phys d.src = some m →
      d.payload.take 14 = (State.signBytes k).take 14 → k.admitted = false → ∃ t, exec (.sign d) s = .next t ∧
        t.col.colls = updFirst (fun y => y.key == key) (fun _ => { k with signs := k.signs ++ [linkKey (dropStage d) 0 m] }) s.col.colls ∧
        t.combs = s.combs ∧ t.mem = s.mem) ∧
    (∀ k m, s.newColl d 1 = true → s.col.colls.find? (fun k => k.key == key) = some k → memberOf k.phys d.src = some m →
      d.payload.take 14 ≠ (State.signBytes k).take 14 → k.fin = none → ∃ t, exec (.sign d) s = .next t ∧
        t.col.status.getLsbD 4 = true ∧ t.col.colls = (s.col.colls.filter fun y => y.key != key) ∧
        k.e ∉ (t.comb k.comb).seq.qFab ∧ (t.comb k.comb).seq.cnt = (s.comb k.comb).seq.cnt ∧
        ((s.comb k.comb).seq.stall ≠ .faulting → (s.comb k.comb).seq.st ≠ .faulted → getF (t.comb k.comb).seq.fault 0 8 = 0x0D) ∧ t.mem = s.mem) ∧
    (∀ k m, s.newColl d 2 = true → s.col.colls.find? (fun k => dropKey d k.key.era == k.key) = some k → memberOf k.phys d.src = some m →
      k.admitted = false → k.grants = [] → ∃ t, exec (.grant d) s = .next t ∧
        t.col.colls = updFirst (fun y => y.key == k.key)
          (fun _ => { k with grants := [(linkKey (dropStage d) (dropDir d).toNat m, leNat (d.payload.take 2))] }) s.col.colls ∧
        t.combs = s.combs ∧ t.mem = s.mem)

/-- R258, R268, R270, R273, R421 (the segments and their items: log entry 16; an ABORT that meets a coll: log entry 48; the model's): admission from the head of both queues, the end of a coll by ABORT, its data and its completion. -/
def Obligations.CollectiveProgress : Prop :=
  ∀ (s : State),
    (∀ key k, s.col.queue.head? = some key → s.col.colls.find? (fun x => x.key == key) = some k →
      (s.col.noAdmit = true ∨ (s.comb k.comb).seq.qFab.head? ≠ some k.e → exec .collAdmission s = .next s) ∧
      (16 * s.pool < collBanks k.args.op k.args.a + s.col.used → 0 < collBanks k.args.op k.args.a →
        ¬ (collWide k.args.op k.args.rf = true ∧ getF s.col.cfg 16 1 = 1) → exec .collAdmission s = .next s) ∧
      (s.col.noAdmit = false → (s.comb k.comb).seq.qFab = [k.e] → collBanks k.args.op k.args.a + s.col.used ≤ 16 * s.pool →
        k.phys.any s.rte.fenced = false → s.openRuns (if k.args.op = 3 ∧ k.me ≠ k.rootIx then [] else k.args.a.ranges) = true →
        let joined (t : State) := ∃ k' ∈ t.col.colls, (k'.key, k'.comb, k'.e, k'.admitted) = (key, k.comb, k.e, true)
        ∃ t, exec .collAdmission s = .next t ∧ t.col.queue = (s.col.queue.filter fun x => x != key) ∧
          (t.comb k.comb).seq.qFab = [] ∧ (∀ c, c ≠ k.comb → (t.comb c).seq.qFab = (s.comb c).seq.qFab) ∧
          (joined t ∨ s.addrFaulted k.comb k.e 3 t) ∧
          ((∀ p ∈ k.writes.1, s.posOpen k.args.d (k.args.d.pos p.1) = true) → joined t ∧ t.col.used = s.col.used + collBanks k.args.op k.args.a))) ∧
    (∀ d k, s.newColl d 4 = true → s.col.colls.find? (fun x => x.key == dropKey d (abortEra d)) = some k →
      s.col.bars.find? (fun x => x.key == barKey d (abortEra d)) = none → k.fin = none →
      ∃ t, exec (.abort d) s = .next t ∧ t.col.colls = (s.col.colls.filter fun y => y.key != k.key) ∧
        t.col.staged = s.col.staged ∧ (t.comb k.comb).seq.cnt = (s.comb k.comb).seq.cnt ∧
        ((s.comb k.comb).seq.stall ≠ .faulting → (s.comb k.comb).seq.st ≠ .faulted → getF (t.comb k.comb).seq.fault 0 8 = 0x0D) ∧ t.mem = s.mem) ∧
    (∀ (d : Drop) (k : CollInst) (e : SrcEntry) (m : Nat) (st : Nat × Pat) (seg : Nat) (its : List Nat) (f : Flow),
      d ∈ s.rte.arrived → d.type = 0xB → collKind d = 3 → s.fab.entry d.src none = some e → e.dup d.cid = false →
      s.col.colls.find? (fun x => dropKey d x.key.era == x.key) = some k → memberOf k.phys d.src = some m → k.stageNow = some st →
      k.admitted = true → stageKey st = dropStage d → (k.expected st m (dropDir d)).find? (fun x => x.1 == dropSeg d) = some (seg, its, f) →
      let n := max 1 (ceilDiv (ceilDiv (its.foldl (fun t i => t + k.bits i) 0) 8) 48)
      let at_ := segKey k.stage f.dir.toNat m seg
      (n ≤ d.seqoff → exec (.collData d) s = .next (s.taken d).discHdr) ∧
      (1 < n → d.seqoff = 1 → k.got = [] → ∃ t, exec (.collData d) s = .next t ∧ t.rte.arrived = s.rte.arrived.erase d ∧
        t.col.colls = updFirst (fun y => y.key == k.key) (fun _ => { k with got := [(at_, [(1, d.payload)])] }) s.col.colls ∧ t.mem = s.mem)) ∧
    (∀ g k fl, s.col.colls.find? (fun k => k.key.group == g && (k.fin.map (·.waits)) == some 0 &&
        !(s.fab.open_.any fun x => x.coll == some k.key) && !s.fab.wait.any fun x => x.coll == some k.key) = some k → k.fin = some fl → (s.comb k.comb).seq.qFab = [] →
      exec (.collCompletion g) s = .next (((s.dropColl k).complete k.comb 3 fl).collCount))

/-- R271, R272, R274: arrivals climb the tree, the release goes down it, and each member counts at T_rel, or at once where it is late
(the time base at T_rel + 32 is log entry 4, a RELEASE for the oldest bar that matches log entry 47: the model's). -/
def Obligations.BarrierTree : Prop :=
  ∀ (s : State) (d : Drop),
    (∀ b m, s.newColl d 5 = true → s.col.bars.find? (fun x => x.key == barKey d (arriveEra d)) = some b → memberOf b.phys d.src = some m →
      b.sentUp = false → ∃ t, exec (.arrive d) s = .next t ∧ t.combs = s.combs ∧ t.mem = s.mem ∧ t.col.staged = s.col.staged ∧
        ∃ b' ∈ t.col.bars, (b'.comb, b'.e, b'.key) = (b.comb, b.e, b.key) ∧ b'.arrived = b.arrived ++ [m] ∧
          (b.started = false → b'.sentUp = false) ∧
          (b.started = true → (b'.sentUp = true ↔ ∀ x ∈ (barNear b.me b.phys.length).filter (· > b.me), x ∈ b.arrived ++ [m])) ∧
          (b'.sentUp = true → b.me = 0 → ∃ w : W64, b'.trel = some w ∧
            w = BitVec.ofNat 64 (s.chm.tb + barDepth b.phys.length * c0Cycles b.span))) ∧
    (∀ b, s.newColl d 6 = true → s.col.bars.find? (fun x => barKey d x.key.era == x.key) = some b →
      let w : W64 := BitVec.ofNat 64 (leNat (d.payload.take 8))
      (s.chm.tb ≤ w.toNat → ∃ t, exec (.release d) s = .next t ∧ t.combs = s.combs ∧
        t.col.bars = updFirst (fun y => y.key == b.key) (fun _ => { b with trel := some w }) s.col.bars) ∧
      (w.toNat < s.chm.tb → (s.comb b.comb).seq.qFab = [] → ∃ t, exec (.release d) s = .next t ∧ t.col.status.getLsbD 3 = true ∧
        t.col.bars = (s.col.bars.filter fun y => y.key != b.key) ∧
        (t.comb b.comb).seq.cnt = (if b.e.ce then (s.comb b.comb).seq.cnt.set (cntIx b.e.cnt) ((s.comb b.comb).seq.cnt[cntIx b.e.cnt] + 1)
          else (s.comb b.comb).seq.cnt))) ∧
    (∀ g b w, s.col.bars.find? (fun b => b.key.group == g && b.trel.isSome) = some b → b.trel = some w → (s.comb b.comb).seq.qFab = [] →
      ∃ t, exec (.barrierRelease g) s = .next t ∧ t.col.bars = (s.col.bars.filter fun y => y.key != b.key) ∧
        t.chm.tb = max s.chm.tb (w.toNat + 32 + w.toNat % 2) ∧
        (t.comb b.comb).seq.busy = (s.comb b.comb).seq.busy.set 3 ((s.comb b.comb).seq.busy[3] - 1) ∧
        (t.comb b.comb).seq.cnt = (if b.e.ce then (s.comb b.comb).seq.cnt.set (cntIx b.e.cnt) ((s.comb b.comb).seq.cnt[cntIx b.e.cnt] + 1)
          else (s.comb b.comb).seq.cnt))

/-- R149, R167, R170, R182, R194 to R196: what the vector unit and the courier start runs to its completion, in queue order, wherever the addresses it
reads and writes are populated; what vadd, vsub, vmul and vfma write is rounded once from the exact result, and cpy writes codes and scale bytes as
they stand.
R235: an RDATA drop inside the window is written and kept, and the next GETREQ goes out when its time has come (log entry 35; the writes wait for their
completion: log entry 5; the model's). R362: one write of an accepted order
that its rule allows is made and answered. -/
def Obligations.QueuedWorkProceeds : Prop :=
  (∀ (s : State) (c : CombId) (e : QEntry) (es : List QEntry), (s.comb c).seq.qVec = e :: es →
    let starts := ∃ (t : State) (fl : Flight), exec (.vectorAccept c) s = .next t ∧ (t.comb c).seq = { (s.comb c).seq with qVec := es } ∧
      (t.comb c).vecRun = (s.comb c).vecRun ++ [fl] ∧ fl.e = e ∧ ∀ d, d ≠ c → (t.comb d).seq = (s.comb d).seq
    (∀ op dr d a b cc bs cs rm base pitch, e.op = .vec op dr d a b cc bs cs rm base pitch → s.openRuns (vecReads op d a b cc bs) = true →
      (∀ p ∈ d.positions, s.posOpen d p = true) → starts ∧
        (op ∈ [VOp.vadd, .vsub, .vmul, .vfma] →
          let v := (s.modSeq c fun q => { q with qVec := es }).touchRuns (vecReads op d a b cc bs)
          let y (p : Pos) : Val := match bs with | some w => fp32 w | none => v.val b p
          let r (p : Pos) : Val := match op with
            | .vsub => (Val.add false (v.val a p) (y p).neg).1
            | .vmul => (Val.mul (v.val a p) (y p)).1
            | .vfma => (Val.add false (Val.mul (v.val a p) (y p)).1 (v.val cc p)).1
            | _ => (Val.add false (v.val a p) (y p)).1
          ∃ t fl, exec (.vectorAccept c) s = .next t ∧ (t.comb c).vecRun = (s.comb c).vecRun ++ [fl] ∧
            fl.writes = v.destRuns d (d.positions.map fun p => (p, (d.fmt.convert d.sat false .rne (r p)).code)) [])) ∧
    (∀ op da (ds : Vector Desc 7) sc wc cs rm base pitch, e.op = .upd op da ds sc wc cs rm base pitch →
      s.openRuns (if ds[2].empty then [] else (updTensors op ds wc).1.flatMap fun x => x.runs x.positions) = true →
      (∀ d ∈ (updTensors op ds wc).2, ∀ p ∈ ds[2].positions, s.posOpen d p = true) → starts)) ∧
  (∀ (s : State) (c : CombId) (e : QEntry) (es : List QEntry), (s.comb c).seq.qCrr = e :: es → (s.comb c).crrRun.length < 8 →
    let starts := ∃ (t : State) (fl : Flight), exec (.courierAccept c) s = .next t ∧ (t.comb c).seq = { (s.comb c).seq with qCrr := es } ∧
      (t.comb c).crrRun = (s.comb c).crrRun ++ [fl] ∧ fl.e = e ∧ ∀ d, d ≠ c → (t.comb d).seq = (s.comb d).seq
    let cells (n : Nat) (rows : List Nat) : List Pos := rows.flatMap fun r => (List.range n).map fun i => ⟨i, r, 0, 0⟩
    (∀ dr d a z, e.op = .cpy dr d a z → s.openRuns (a.runs (if z then [] else d.positions)) = true →
      (∀ p ∈ d.positions, s.posOpen d p = true) → starts ∧
        let v := (s.modSeq c fun q => { q with qCrr := es }).touchRuns (a.runs (if z then [] else d.positions))
        ∃ t fl, exec (.courierAccept c) s = .next t ∧ (t.comb c).crrRun = (s.comb c).crrRun ++ [fl] ∧
          fl.writes = v.destRuns d (d.positions.map fun p => (p, if z then 0 else v.code a p))
            (if d.blk = 0 then [] else
              (d.positions.map fun p => (d.scaleIndex p, if z then 0 else (v.byte (a.scale + a.scaleIndex p)).toNat)).eraseDups)) ∧
    (∀ dr d a di, e.op = .gather dr d a di →
      let ix := (s.touchRuns (di.runs di.positions)).indices di a.s1
      s.openRuns (di.runs di.positions) = true → s.openRuns (a.runs (cells d.s0 (ix.filterMap (·.2.1)))) = true →
      (∀ p ∈ cells d.s0 (List.range di.s0), s.posOpen d p = true) → starts) ∧
    (∀ dr d a di, e.op = .scatter dr d a di →
      let rows := scatterRows ((s.touchRuns (di.runs di.positions)).indices di d.s1)
      s.openRuns (di.runs di.positions) = true → s.openRuns (a.runs (cells d.s0 (rows.map (·.2)))) = true →
      (∀ p ∈ cells d.s0 (rows.map (·.1)), s.posOpen d p = true) → starts)) ∧
  (∀ (s : State) (d : Drop) (x : Cons) (desc a : Desc) (c : CombId) (e : QEntry), d ∈ s.rte.arrived → d.type = 6 →
    s.fab.consFor d.src d.cid = some x → x.kind = .get desc a → x.comb = some c → x.e = some e →
    x.base ≤ d.addr → d.addr < x.base + 1024 → d.addr < x.n → d.addr ∉ x.got →
    (∀ r ∈ desc.freshRuns d.addr x.got d.payload, s.opened r.1 r.2.length = true) → s.mem.crc = [] → s.mem.wf = true →
    let r := slideBase x.n x.base (x.got ++ [d.addr])
    r.1 ≠ x.n → ∃ t, exec (.rdata d) s = .next t ∧ t.rte.arrived = s.rte.arrived.erase d ∧ t.fab.open_.length = s.fab.open_.length ∧
      (∃ y ∈ t.fab.open_, (y.key, y.cid, y.n, y.base, y.got) = (x.key, x.cid, x.n, r.1, r.2)) ∧
      t.rte.drops.length = s.rte.drops.length + (if x.sent + 512 ≤ r.1 then 1 else 0) ∧
      (∀ b, b ∉ desc.dropAddrs d.addr → t.byte b = s.byte b) ∧
      ((desc.dropAddrs d.addr).Nodup → ∀ (j : Nat) b v, (desc.dropAddrs d.addr)[j]? = some b → d.payload[j]? = some v →
        t.byte b = if ∃ n ∈ x.got, d.addr < n ∧ b ∈ desc.dropAddrs n then s.byte b else v) ∧ t.combs = s.combs) ∧
  (∀ (s : State) (h : OrderHdr) (a : BitVec 48) (r : Reg) (v : W64) (table : Bool), s.dev.st ≠ .wardenUp → regAt a.toNat = some r →
    tableOnly r = table ∨ colReg r = true →
    let cmd := if table then Instr.tableWrite h [(a, v)] else Instr.regWrite h [(a, v)]
    let u := s.heard h
    s.accepts cmd = true → u.writeRule r v = .ok →
      let t := u.orderWrite r v
      exec cmd s = .next (t.reply h (if table then 0x20 else 0x03) (if s.dev.st ≠ .fenced ∧ t.dev.st = .fenced then .fenced else .ok) .none))

/-! ### The block -/

/-- A step takes the command at the front of the queue and is exec of it on the state with the queue's rest; on an empty queue one cycle of
the time base passes and nothing else moves (the model's choice, log entry 1). -/
def Obligations.StepTakesTheFrontCommand : Prop :=
  (∀ (s : State) (c : Instr) (rest : List Instr), step { s with pending := c :: rest } = exec c { s with pending := rest }) ∧
  ∀ (s : State), s.pending = [] → ∃ t, step s = .next t ∧ t.chm.local_ = s.chm.local_ + 1 ∧
    t.chm.tb = (if s.chm.running then s.chm.tb + 1 else s.chm.tb) ∧
    t = { s with chm := { s.chm with tb := t.chm.tb, local_ := t.chm.local_ } }

/-- Register tables of chapters 2, 4, 6, 7, 10 to 18, and Table 17.5: after reset the registers named here hold the values that their tables
state; no command waits, no byte of memory is listed (log entries 11 and 12, the model's), every comb is EMPTY and the device in WARDEN-UP. -/
def Obligations.ResetState : Prop :=
  let s := State.reset
  s.pending = [] ∧ s.mem.wf = true ∧ s.mem.bytes = [] ∧ s.dev.st = .wardenUp ∧
    (∀ c : CombId, (s.comb c).seq.st = .empty ∧ s.readReg (.cmbSweep c) = 0x1000003E8 ∧ s.readReg (.extCtrl c) = 0x0000FD0FD0FD0FD0 ∧
      s.readReg (.matFault c) = 0 ∧ s.readReg (.seqFault c) = 0 ∧ ∀ i : Fin 256, s.readReg (.cnt c i) = 0) ∧
    (∀ q : SqId, s.readReg (.sqrSweep q) = 0x1000003E8) ∧ (∀ m : McId, s.readReg (.memSweep m) = 0x10000003C) ∧
    s.readReg .lnkCfg = 0x00030D400005000A ∧ s.readReg .rteMachine = 0x010101 ∧ s.readReg .rteRetx = 0x0000000000F00040 ∧
    s.readReg .rteSelf = 0 ∧ (∀ w : Fin 4096, s.readReg (.rteFence w) = 0) ∧ s.readReg .colCfg = 6 ∧
    s.readReg .chmChime = BitVec.allOnes 64 ∧ s.readReg .chmCfg = 0x000000C800000002 ∧ s.readReg .sealLevel = 0 ∧
    (∀ i w, s.readReg (.sealSlot i w) = 0) ∧ s.readReg .stpLast = BitVec.allOnes 64 ∧ s.readReg .stpCfg = 0x0000006400000100 ∧
    s.readReg .stpStep = 0 ∧ s.readReg .ethNotify = 45391 ∧ getF (s.readReg .ethCfg) 0 16 = 45390 ∧
    s.readReg .wdnRstcause = 0x0000000000000B04

/-- Log entry 11: every step keeps the sparse stores of memory in canonical form, so that equal memories are equal data. -/
def Obligations.EveryStepKeepsMemoryCanonical : Prop :=
  ∀ (s t : State), s.mem.wf = true → step s = .next t → t.mem.wf = true

/-- No command stops the block, and none adds to the queue of waiting commands or takes from it (log entries 2 and 3, the model's). -/
def Obligations.EveryCommandAnswers : Prop :=
  ∀ (c : Instr) (s : State), ∃ t, exec c s = .next t ∧ t.pending = s.pending

/-- R184, Tables 8.1, 9.1 and 9.2: every word of either form is read back from its bits, no bit of a legal word is lost, and no two words
share their bits. -/
def Obligations.VurdoWordsRoundTrip : Prop :=
  (∀ w : Word, Word.ofBits w.toBits = some w) ∧ (∀ (b : W64) (w : Word), Word.ofBits b = some w → w.toBits = b) ∧
    (Word.ofBits 0 = none) ∧ ∀ w1 w2 : Word, w1.toBits = w2.toBits → w1 = w2

/-! ### Orders -/

/-- R356 to R360, Table 17.4: what becomes of an order before it is executed: discarded and counted, answered BUSY, answered from the reply
cache, or refused with RANGE, AUTH or STATE; what a refusal changes; and which orders find a place behind the one that executes. The nonce that an
order refused STATE raises is log entry 29, a TARGET while VALID is 0 log entry 30, and the 256 places counted in `pending` log entry 97 (the model's). -/
def Obligations.OrderProtocol : Prop :=
  (∀ (s : State) (c : Instr) (h : OrderHdr) (u : OrderRule), s.orderRule c = some (h, u) →
    let w := s.seated.2
    let v : State := if u.cached then w.hearing h else w
    (s.receives = false → exec c s = .next w) ∧
    (s.receives = true → (h.port.toNat ≠ getF s.eth.cfg 0 16 ∨ s.tagged h.tag = false ∨ s.addressed h = false) →
      ∃ t, exec c s = .next t ∧ t = { w with eth := { w.eth with count := t.eth.count } } ∧
        getF t.eth.count 0 16 = min (getF s.eth.count 0 16 + 1) 0xFFFF) ∧
    (s.receives = true → h.port.toNat = getF s.eth.cfg 0 16 → s.tagged h.tag = true → s.addressed h = true → s.seated.1 = false →
      ∃ t, exec c s = .next t ∧ (t.combs, t.mem, t.dev, t.wdn, t.eth.cache) = (s.combs, s.mem, s.dev, s.wdn, s.eth.cache) ∧
        (getF s.eth.cfg 33 1 = 0 → t.eth.replies = s.eth.replies ++ [⟨h.src, u.code, h.seq, .busy, s.dev.st, .none⟩])) ∧
    (s.takesUp h = true → u.cached = true → s.eth.old h = false → s.eth.held h ≠ [] →
      ∃ t, exec c s = .next t ∧ (t.combs, t.mem, t.dev, t.wdn) = (s.combs, s.mem, s.dev, s.wdn) ∧
        (getF s.eth.cfg 33 1 = 0 → t.eth.replies = s.eth.replies ++ s.eth.held h ∧
          getF t.eth.count 16 16 = min (getF s.eth.count 16 16 + 1) 0xFFFF)) ∧
    (s.takesUp h = true → u.cached = true → s.eth.old h = true →
      ∃ t, exec c s = .next t ∧ t = { s with eth := t.eth } ∧ t.eth.replies = s.eth.replies ∧
        getF t.eth.count 16 16 = min (getF s.eth.count 16 16 + 1) 0xFFFF) ∧
    (s.takesUp h = true → s.newOrder h u = true → hdrFormed h u.len = false →
      exec c s = .next (v.refuse h u.code u.cached .range .none)) ∧
    (s.takesUp h = true → s.newOrder h u = true → hdrFormed h u.len = true → s.wdn.authOk h u = false →
      exec c s = .next (v.refuse h u.code u.cached .auth .none)) ∧
    (s.takesUp h = true → s.newOrder h u = true → hdrFormed h u.len = true → s.wdn.authOk h u = true →
      s.dev.st ∉ u.states → exec c s = .next ((v.noted h).refuse h u.code u.cached .state .none))) ∧
  (∀ (s : State),
    let kept (l : List Bool) : State := { s with eth := { s.eth with seats := if l.all id then [] else l } }
    (s.eth.seats = [] → s.waiting ≤ 256 → s.seated = (true, s)) ∧
    (s.eth.seats = [] → 256 < s.waiting →
      s.seated = (true, kept (List.replicate 256 true ++ List.replicate (s.waiting - 256) false))) ∧
    (∀ b l, s.eth.seats = b :: l → s.waiting = l.length → s.seated = (b, kept l)) ∧
    ∀ b l, s.eth.seats = b :: l → s.waiting = l.length + 1 → s.seated = (b, kept (l ++ [decide ((l.filter id).length < 256)]))) ∧
  ∀ (v : State) (h : OrderHdr) (code : BitVec 8) (cached : Bool) (r : Result) (b : ReplyBody),
    v.eth.linkUp = true → getF v.eth.cfg 33 1 = 0 →
      let t := v.refuse h code cached r b
      t = { v with eth := t.eth } ∧ t.eth.replies = v.eth.replies ++ [⟨h.src, code, h.seq, r, v.dev.st, b⟩] ∧
        getF t.eth.count 48 16 = (if r = .state then min (getF v.eth.count 48 16 + 1) 0xFFFF else getF v.eth.count 48 16) ∧
        getF t.eth.count 32 16 = (if r = .auth then min (getF v.eth.count 32 16 + 1) 0xFFFF else getF v.eth.count 32 16) ∧
        (cached = true → r ≠ .busy → ∀ x ∈ v.eth.cache, x.1 = h.src → ∃ y ∈ t.eth.cache, y.1 = h.src ∧ (⟨h.src, code, h.seq, r, v.dev.st, b⟩ : Reply) ∈ y.2.2)

/-- R354, R355, R360, R362, R393, R394, R401: the orders that only answer, the frames that are no orders, and the port going down or up. -/
def Obligations.QueryOrdersAndFrames : Prop :=
  ∀ (s : State) (h : OrderHdr),
    let u := s.heard h
    (s.accepts (.status h) = true → exec (.status h) s = .next (u.reply h 0x01 .ok (.status s.rte.selfId s.chm.base s.chm.n))) ∧
    (∀ addrs, s.accepts (.regRead h addrs) = true →
      let shut (r : Reg) := (s.dev.st = .wardenUp ∨ s.dev.st = .resetting) ∧ wardenReg r = false
      let plain (a : BitVec 48) := ∃ r, regAt a.toNat = some r ∧ r ≠ .pwrEnergy ∧ (∀ n, r ≠ .cmbEnergy n) ∧ ¬ shut r
      (64 < addrs.length → exec (.regRead h addrs) s = .next (u.refuse h 0x02 true .range .none)) ∧
      (addrs.length ≤ 64 → (∀ a ∈ addrs, plain a) →
        exec (.regRead h addrs) s = .next (u.reply h 0x02 .ok (.values (addrs.map fun a => ((regAt a.toNat).map u.readReg).getD 0)))) ∧
      (∀ pre a post, addrs.length ≤ 64 → addrs = pre ++ a :: post → (∀ x ∈ pre, plain x) →
        (regAt a.toNat = none → exec (.regRead h addrs) s = .next (u.refuse h 0x02 true .range (.index pre.length))) ∧
        (∀ r, regAt a.toNat = some r → shut r → exec (.regRead h addrs) s = .next (u.refuse h 0x02 true .state (.index pre.length))))) ∧
    (∀ nonce nchain cert, s.accepts (.attest h nonce nchain cert) = true →
      exec (.attest h nonce nchain cert) s = .next (if 16 < nchain.toNat then u.refuse h 0x0C true .range .none
        else
          let q := u.quoteHead nonce nchain.toNat
          u.reply h 0x0C .ok (.bytes (q ++ leBytes 114 (ed448Sign Config.identityKey .quote q).toNat ++ if cert then identityCert else [])))) ∧
    (∀ first count, s.accepts (.chrRead h first count) = true →
      exec (.chrRead h first count) s = .next (if count = 0 ∨ 128 < count.toNat then u.refuse h 0x0D true .range .none
        else u.reply h 0x0D .ok (.bytes (s.chronicleBody first.toNat count.toNat)))) ∧
    (s.accepts (.protQuery h) = true → exec (.protQuery h) s = .next (u.reply h 0x26 .ok (.bytes s.protBody))) ∧
    (∀ x, x ∈ [FrameIn.badFcs, .featureBreach, .badMagic, .badVersion, .badTarget] →
      exec (.ethernetFrame x) s = .next (if s.receives then s.ethDisc else s)) ∧
    (∀ x, x ∈ [FrameIn.badMacsec, .unprotected] → s.receives = true → getF s.eth.cfg 33 1 = 1 → exec (.ethernetFrame x) s = .next s.ethDisc) ∧
    (∀ code, s.accepts (.ethernetFrame (.unknownCode h code)) = true →
      exec (.ethernetFrame (.unknownCode h code)) s = .next (u.refuse h code true .range .none)) ∧
    (∀ code body, s.accepts (.ethernetFrame (.badBody h code body)) = true →
      exec (.ethernetFrame (.badBody h code body)) s = .next (u.refuse h code true .range .none)) ∧
    (∀ x : NdFrame, s.receives = true →
      let own : BitVec 128 := if x.v6 then s.wdn.core.ip6 else s.wdn.core.ip4.setWidth 128
      (getF s.eth.cfg 33 1 = 0 → s.tagged x.tag = true →
        exec (.arpRequest x) s = .next (if x.target = own then { s with eth := { s.eth with nd := s.eth.nd ++ [(x.v6, s.wdn.core.mac)] } } else s)) ∧
      (getF s.eth.cfg 33 1 = 0 → s.tagged x.tag = false → exec (.arpRequest x) s = .next s.ethDisc) ∧
      (x.isProtected = false → getF s.eth.cfg 33 1 = 1 → getF s.eth.cfg 34 1 = 0 → exec (.arpRequest x) s = .next s.ethDisc)) ∧
    (∀ up, s.dev.st ≠ .off → exec (.ethLinkChange up) s = .next { s with eth := { s.eth with linkUp := up } })

/-- R362: the writes of an accepted order are made in listed order; the first one refused ends it with its index, and those made stay; the
order in which the chip enters FENCED is answered FENCED (R361). The writes after the one that fences the chip are log entry 31, RANGE or STATE in
WARDEN-UP log entry 59 (the model's readings). -/
def Obligations.RegisterWriteOrders : Prop :=
  (∀ (s : State) (c : Instr) (h : OrderHdr) (u : OrderRule) (table : Bool) (ws : List (Option Reg × W64)),
    s.orderRule c = some (h, u) → s.writeOf c = some (table, ws) → s.accepts c = true →
      (64 < ws.length → exec c s = .next ((s.heard h).refuse h u.code true .range .none)) ∧
      (ws.length ≤ 64 →
        let x := (s.heard h).writes table ws
        exec c s = .next (if x.2.2 = .ok then
            x.1.reply h u.code (if s.dev.st ≠ .fenced ∧ x.1.dev.st = .fenced then .fenced else .ok) .none
          else x.1.refuse h u.code true x.2.2 (.index x.2.1)))) ∧
  (∀ (s : State) (r : Reg) (v : W64) (table : Bool),
    s.hallWrite table none v = (s, .range) ∧
    (s.dev.st ≠ .wardenUp →
      (tableOnly r = true → s.hallWrite false (some r) v = (s, .auth)) ∧
      (tableOnly r = false → colReg r = false → s.hallWrite true (some r) v = (s, .range)) ∧
      ((tableOnly r = table ∨ colReg r = true) → s.hallWrite table (some r) v =
        (if s.writeRule r v = .ok then (s.orderWrite r v, .ok) else (s, s.writeRule r v)))) ∧
    (s.dev.st = .wardenUp →
      let early := if table then r = .rteSelf ∨ r = .rteMachine else r = .chmRoot ∨ r = .chmCfg
      (early → s.hallWrite table (some r) v =
        ({ s with dev := { s.dev with stagedWrites := s.dev.stagedWrites ++ [(r, v)] } }, .ok)) ∧
      (¬ early → s.hallWrite table (some r) v =
        (s, if table = true ∧ tableOnly r = false ∧ colReg r = false then .range else .state))))

/-- R8 to R10, R37: W1C bits written 1 are cleared, but for those that hardware sets in the same cycle, which AGAIN counts; an AGAIN counter is
zeroed by any write; a register without writable bits keeps its value; a sweeper's period is taken at its bounds; a write that the register's own
rule refuses (R353) changes nothing. AGAIN counts one for each bit (log entry 71, the model's reading). -/
def Obligations.RegisterAccessCodes : Prop :=
  ∀ (s : State) (r : Reg) (v now : W64),
    let w1c := (regMasks r).2
    ((∃ n, r = .cmbEcc n ∨ r = .matFault n ∨ r = .vecStatus n ∨ r = .seqExc n ∨ r = .crrStatus n) ∨ (∃ q, r = .sqrEcc q) ∨
        (∃ l, r = .lnkErr l) ∨ (∃ m, r = .memErr m) → s.writeRule r v = .ok →
      ∃ t a, againOf r = some a ∧ exec (.w1cClear r v now) s = .next t ∧
        t.readReg r = (s.readReg r &&& ~~~(v &&& w1c)) ||| (v &&& now &&& w1c) ∧
        getF (t.readReg a) 0 32 = min (getF (s.readReg a) 0 32 + popCount 64 (v &&& now &&& w1c).toNat) (2 ^ 32 - 1)) ∧
    (s.writeRule r v ≠ .ok → exec (.w1cClear r v now) s = .next s) ∧
    (∀ m, r = .memErr m → s.dev.st ∈ [DevState.wardenUp, .muster, .fenced, .resetting] → s.writeRule r v = .state) ∧
    (regIsAgain r = true → s.writeRule r 0 = .ok → ∃ t, exec (.againReset r) s = .next t ∧ t.readReg r = 0) ∧
    (regIsAgain r = true → s.writeRule r 0 ≠ .ok → exec (.againReset r) s = .next s) ∧
    (regIsAgain r = false → exec (.againReset r) s = .next s) ∧
    (regMasks r = (0, 0) → regIsAgain r = false → r ≠ .rteEpoch → r ≠ .wdnProt → exec (.registerWrite r v) s = .next s) ∧
    (r = .rteEpoch → getF v 8 1 = 0 → exec (.registerWrite r v) s = .next s) ∧
    (s.writeRule r v ≠ .ok → exec (.registerWrite r v) s = .next s) ∧
    (r = .wdnProt → exec (.registerWrite r v) s = .next (if s.wdn.closed then s.record .rwlWrite else s)) ∧
    (∀ c, r = .cmbSweep c → ∃ t, exec (.registerWrite r v) s = .next t ∧
      getF (t.readReg r) 0 16 = max 600 (min 60000 (getF v 0 16)) ∧ getF (t.readReg r) 32 1 = getF v 32 1 ∧
      (s.chr.queue.length < 1024 → (t.chr.queue.map (·.event)) = (s.chr.queue.map (·.event)) ++
        (if getF (s.readReg r) 32 1 = 1 ∧ getF v 32 1 = 0 then [Event.sweepOff (.comb c)] else []))) ∧
    (∀ c, r = .extCtrl c → ∃ t, exec (.registerWrite r v) s = .next t ∧
      t.readReg r = (s.readReg r &&& ~~~(0xFFFFFFFFFFFF : W64)) ||| (v &&& 0xFFFFFFFFFFFF))

/-- R14, R248, R249, R251, R255: when the writes of RTE_SELF, RTE_FLIP, RTE_EPOCH, group headers and member words are refused, what they change,
and what a fence ends (a locked header is refused STATE whatever its value: log entry 59, the model's reading). -/
def Obligations.TableRegisterWrites : Prop :=
  ∀ (s : State) (h : OrderHdr) (v : W64),
    let u := s.heard h
    let no (c : Instr) (r : Result) := exec c s = .next (u.refuse h 0x20 true r (.index 0))
    (s.accepts (.rteSelfWrite h v) = true →
      (s.dev.st = .coreUp → ∃ t, exec (.rteSelfWrite h v) s = .next t ∧
        t.rte = { s.rte with self := (s.rte.self &&& ~~~(0x1003F3F3F : W64)) ||| (v &&& 0x1003F3F3F) }) ∧
      (s.dev.st = .wardenUp → ∃ t, exec (.rteSelfWrite h v) s = .next t ∧ t.rte = s.rte ∧
        t.dev.stagedWrites = s.dev.stagedWrites ++ [(.rteSelf, v)]) ∧
      (s.dev.st ≠ .coreUp → s.dev.st ≠ .wardenUp → no (.rteSelfWrite h v) .state)) ∧
    (s.accepts (.rteFlipWrite h v) = true → s.dev.st ≠ .wardenUp →
      ((v = 0 ∨ s.past v = false ∧ s.rte.released = true) → ∃ t, exec (.rteFlipWrite h v) s = .next t ∧ t.rte = { s.rte with flip := v }) ∧
      (v ≠ 0 → (s.past v = true ∨ s.rte.released = false) → no (.rteFlipWrite h v) .state)) ∧
    (s.accepts (.rteEpochRelease h v) = true → s.dev.st ≠ .wardenUp → getF v 8 1 = 1 →
      (s.rte.run = true → ∃ t, exec (.rteEpochRelease h v) s = .next t ∧ t.rte = { s.rte with released := true }) ∧
      (s.rte.run = false → no (.rteEpochRelease h v) .state)) ∧
    (∀ w, s.accepts (.rteFenceWrite h w v) = true → s.dev.st ≠ .wardenUp →
      let old := Sparse.get 0 s.rte.fence w.val
      ∃ t, exec (.rteFenceWrite h w v) s = .next t ∧ t.rte.fence = Sparse.set 0 s.rte.fence w.val v ∧
        (∀ f ∈ fenceChips w (old ^^^ v), (∀ x ∈ t.fab.srcs, x.src ≠ f) ∧ ∀ x ∈ t.fab.rx, x.src ≠ f) ∧
        (∀ f ∈ fenceChips w (v &&& ~~~old), ∀ l : LinkId, ∀ d ∈ (t.links[l]).txq, d.src ≠ f) ∧
        (s.rte.selfId ∈ fenceChips w (v &&& ~~~old) → t.dev.st = .fenced)) ∧
    (∀ ver g, s.accepts (.colGroupWrite h ver g v) = true → s.dev.st ≠ .wardenUp →
      let m : W64 := 0x8000001FFFFF3FFF
      (s.rte.writable ver = false → no (.colGroupWrite h ver g v) .state) ∧
      (s.rte.writable ver = true → getF v 63 1 = 1 → (s.rte.tab[ver]).groupOk (BitVec.ofNat 8 g.val) v = false →
        no (.colGroupWrite h ver g v) .range) ∧
      (s.rte.writable ver = true → (getF v 63 1 = 0 ∨ (s.rte.tab[ver]).groupOk (BitVec.ofNat 8 g.val) v = true) →
        ∃ t, exec (.colGroupWrite h ver g v) s = .next t ∧ t.rte = { s.rte with tab := s.rte.tab.set ver { s.rte.tab[ver] with
          group := Sparse.set 0 (s.rte.tab[ver]).group g.val ((s.readReg (.colGroup ver g) &&& ~~~m) ||| (v &&& m)) } })) ∧
    (∀ ver g w, s.accepts (.colMemWrite h ver g w v) = true → s.dev.st ≠ .wardenUp →
      let m : W64 := 0x3FFFF0003FFFF
      (s.rte.writable ver = true → (s.rte.tab[ver]).groupValid (BitVec.ofNat 8 g.val) = false →
        ∃ t, exec (.colMemWrite h ver g w v) s = .next t ∧ t.rte = { s.rte with tab := s.rte.tab.set ver { s.rte.tab[ver] with
          mem := Sparse.set 0 (s.rte.tab[ver]).mem (2048 * g.val + w.val) ((s.readReg (.colMem ver g w) &&& ~~~m) ||| (v &&& m)) } }) ∧
      ((s.rte.writable ver = false ∨ (s.rte.tab[ver]).groupValid (BitVec.ofNat 8 g.val) = true) → no (.colMemWrite h ver g w v) .state))

/-- R270, R287, R296, R298: when the writes of the pool and spill settings, the pending interval, root and deputy, CHM_CFG and the level are
refused, and what they change; pool, spill, interval and level wait for a chime (RANGE is found before STATE: log entry 59, the model's reading). -/
def Obligations.ChimeBoundRegisterWrites : Prop :=
  ∀ (s : State) (h : OrderHdr) (v : W64),
    let u := s.heard h
    let no (c : Instr) (r : Result) := exec c s = .next (u.refuse h 0x03 true r (.index 0))
    let rest := s.dev.st = .ready ∨ s.dev.st = .quiesced
    let work := s.dev.st = .ready ∨ s.dev.st = .running ∨ s.dev.st = .quiesced
    (s.accepts (.colCfgWrite h false v) = true →
      (rest → ∃ t w, exec (.colCfgWrite h false v) s = .next t ∧ t.col = { s.col with cfgNext := some w } ∧
        getF w 0 4 = min 14 (getF v 0 4) ∧ getF w 16 1 = getF v 16 1) ∧
      (¬ rest → no (.colCfgWrite h false v) .state)) ∧
    (s.accepts (.colCfgWrite h true v) = true → s.dev.st ≠ .wardenUp →
      let bad := getF v 0 20 ≠ 0 ∨ 0xF000000000 < getF v 0 48 + getF v 48 16 * 2 ^ 20
      (bad → no (.colCfgWrite h true v) .range) ∧ (¬ bad → ¬ rest → no (.colCfgWrite h true v) .state) ∧
      (¬ bad → rest → ∃ t, exec (.colCfgWrite h true v) s = .next t ∧ t.col = { s.col with spillNext := some v })) ∧
    (s.accepts (.chmPendingWrite h v) = true → s.dev.st ≠ .wardenUp →
      let bad := getF v 0 26 < 36000 ∨ 36000000 < getF v 0 26
      (bad → no (.chmPendingWrite h v) .range) ∧ (¬ bad → s.chm.isRoot = false → no (.chmPendingWrite h v) .state) ∧
      (¬ bad → s.chm.isRoot = true → ∃ t, exec (.chmPendingWrite h v) s = .next t ∧
        t.chm = { s.chm with pendV := true, pendC := BitVec.ofNat 26 (getF v 0 26), pendAt := s.chm.n + 16 })) ∧
    (s.accepts (.chmRootWrite h v) = true →
      (s.dev.st = .coreUp → ∃ t, exec (.chmRootWrite h v) s = .next t ∧
        t.chm = { s.chm with prefV := getF v 18 1 == 1, pref := BitVec.ofNat 18 (getF v 0 18) }) ∧
      (s.dev.st ≠ .coreUp → s.dev.st ≠ .wardenUp → s.chm.isRoot = true → (getF v 18 1 == 1) = s.chm.prefV → getF v 0 18 = s.chm.pref.toNat →
        ∃ t, exec (.chmRootWrite h v) s = .next t ∧ t.chm = { s.chm with deputy := BitVec.ofNat 18 (getF v 40 18) }) ∧
      (s.dev.st ≠ .coreUp → s.dev.st ≠ .wardenUp →
        (s.chm.isRoot = false ∨ (getF v 18 1 == 1) ≠ s.chm.prefV ∨ getF v 0 18 ≠ s.chm.pref.toNat) → no (.chmRootWrite h v) .state)) ∧
    (s.accepts (.chmCfgWrite h v) = true →
      (s.dev.st = .coreUp → ∃ t, exec (.chmCfgWrite h v) s = .next t ∧ t.chm = { s.chm with cfg := t.chm.cfg } ∧
        getF t.chm.cfg 32 12 = max 10 (min 4000 (getF v 32 12)) ∧ getF t.chm.cfg 0 4 = max 1 (getF v 0 4)) ∧
      (s.dev.st ≠ .coreUp → s.dev.st ≠ .wardenUp → no (.chmCfgWrite h v) .state)) ∧
    (s.accepts (.sealLevelPendWrite h v) = true → s.dev.st ≠ .wardenUp →
      (getF v 8 2 = 3 → no (.sealLevelPendWrite h v) .range) ∧
      (getF v 8 2 ≠ 3 → work → s.seals.at_ = 0 → ∃ t, exec (.sealLevelPendWrite h v) s = .next t ∧
        t.seals = { s.seals with pend := BitVec.ofNat 2 (getF v 8 2) }) ∧
      (getF v 8 2 ≠ 3 → (¬ work ∨ s.seals.at_ ≠ 0) → no (.sealLevelPendWrite h v) .state)) ∧
    (s.accepts (.sealLevelatWrite h v) = true →
      (work → (v = 0 ∨ s.past v = false ∧ s.seals.at_ = 0) → ∃ t, exec (.sealLevelatWrite h v) s = .next t ∧
        t.seals = { s.seals with at_ := v }) ∧
      ((¬ work ∨ v ≠ 0 ∧ (s.past v = true ∨ s.seals.at_ ≠ 0)) → no (.sealLevelatWrite h v) .state))

/-- R334: a write by order of STP_MASTER_BANK, STP_STEP, STP_CFG or a stage entry is refused with STATE, and with no effect, unless the device is
READY or QUIESCED and no round is open or it is undecided; then it is made. -/
def Obligations.StepRegisterWrites : Prop :=
  ∀ (s : State) (h : OrderHdr) (x : StpReg) (v : W64),
    let may := (s.dev.st = .ready ∨ s.dev.st = .quiesced) ∧ (s.stp.round = none ∨ s.stp.undecided = true)
    (¬ may → s.hallWrite false (some (stpRegOf x)) v = (s, .state)) ∧
    (s.accepts (.stpRegisterWrite h x v) = true →
      (¬ may → exec (.stpRegisterWrite h x v) s = .next ((s.heard h).refuse h 0x03 true .state (.index 0))) ∧
      (may → ∃ t, exec (.stpRegisterWrite h x v) s = .next t ∧ t.mem = s.mem ∧ t.combs = s.combs ∧
        match x with
        | .masterBank => t.stp = { s.stp with bank := getF v 0 1 == 1 }
        | .step => t.stp = { s.stp with step := v, round := t.stp.round, made := t.stp.made, lodged := t.stp.lodged }
        | .cfg => t.stp = { s.stp with cfg := t.stp.cfg } ∧ getF t.stp.cfg 0 16 = max 1 (getF v 0 16) ∧
            getF t.stp.cfg 32 16 = max 10 (min 10000 (getF v 32 16))
        | .stage k => ∃ w, t.stp = { s.stp with stages := Sparse.set 0 s.stp.stages k.val w } ∧
            w &&& 0x1EFFF00FF = v &&& 0x1EFFF00FF))

/-- R37, R220, R224, R346, R368, R406, R409: the writes that start a recode, disable a sweeper, ask for roadworks, close or open a link, change the
transmit association, the shallowest step and the preferred input. An ACTIVE link that EN = 0 closes through NOTICE is log entry 46, RANGE before
STATE for MEM_STRENGTH log entry 59 (the model's). -/
def Obligations.UnitRegisterWrites : Prop :=
  ∀ (s : State) (h : OrderHdr), s.dev.st ≠ .wardenUp →
    let u := s.heard h
    (∀ m v, s.accepts (.memStrengthWrite h m v) = true →
      let c : Mc := s.mcs[m]
      let high := ∃ z, z < 8 ∧ getF s.mem.cfg 32 2 < zoneCode v z
      let may := (s.dev.st = .coreUp ∨ s.dev.st = .ready ∨ s.dev.st = .running ∨ s.dev.st = .quiesced) ∧ getF c.recode 63 1 = 0
      (high → exec (.memStrengthWrite h m v) s = .next (u.refuse h 0x03 true .range (.index 0))) ∧
      (¬ high → may → (∃ y z, y < 8 ∧ z < 8 ∧ y ≠ z ∧ zoneCode c.strength y ≠ zoneCode v y ∧ zoneCode c.strength z ≠ zoneCode v z) →
        exec (.memStrengthWrite h m v) s = .next (u.refuse h 0x03 true .state (.index 0))) ∧
      (¬ high → ¬ may → exec (.memStrengthWrite h m v) s = .next (u.refuse h 0x03 true .state (.index 0))) ∧
      (∀ z, ¬ high → may → z < 8 → zoneCode c.strength z ≠ zoneCode v z → (∀ y, y < 8 → y ≠ z → zoneCode c.strength y = zoneCode v y) →
        ∃ t, exec (.memStrengthWrite h m v) s = .next t ∧ t.mem = s.mem ∧
          (let d : Mc := t.mcs[m]
           d = { c with strength := v &&& 0xFFFF, recode := d.recode } ∧ getF d.recode 63 1 = 1 ∧ getF d.recode 48 3 = z ∧ getF d.recode 0 21 = 0 ∧
           getF d.recode 44 2 = zoneCode c.strength z ∧ getF d.recode 40 2 = zoneCode v z))) ∧
    (∀ x, s.accepts (.sweeperDisable h x) = true → s.dev.st ∈ [DevState.coreUp, .ready, .running, .quiesced] → getF s.eth.cfg 33 1 = 0 →
      ∃ t, exec (.sweeperDisable h x) s = .next t ∧ getF (t.readReg (sweepReg x)) 32 1 = 0 ∧ t.mem = s.mem ∧
        (s.chr.queue.length < 1024 → (t.chr.queue.map (·.event)) = (s.chr.queue.map (·.event)) ++
          (if getF (s.readReg (sweepReg x)) 32 1 = 1 then [Event.sweepOff x] else []))) ∧
    (∀ l, s.accepts (.rwnow h l) = true →
      exec (.rwnow h l) s = .next ((if ownerEnd l then u.rwTry l else u).reply h 0x03 .ok .none)) ∧
    (∀ l en, s.accepts (.linkEnWrite h l en) = true →
      let k : Link := s.links[l]
      exec (.linkEnWrite h l en) s = .next ((if k.en = en then u else u.linkEnable l en).reply h 0x03 .ok .none) ∧
      (k.en = true → en = false →
        let r : Link := (u.linkEnable l en).links[l]
        r.en = false ∧ (k.st = .active → r.st = .notice ∧ r.symOut = k.symOut ++ [.rwNotice (BitVec.ofNat 64 (s.chm.tb + 3600))]) ∧
        (k.st = .notice ∨ k.st = .roadworks ∧ k.settled = false → r.st = k.st) ∧
        (k.st ≠ .active → k.st ≠ .notice → ¬ (k.st = .roadworks ∧ k.settled = false) → r.st = .off))) ∧
    (∀ an, s.accepts (.txanWrite h an) = true →
      ∃ t, exec (.txanWrite h an) s = .next t ∧ getF t.eth.cfg 35 1 = an.toNat ∧ ∀ i, i ≠ 35 → t.eth.cfg.getLsbD i = s.eth.cfg.getLsbD i) ∧
    (∀ v, s.accepts (.stepminWrite h v) = true →
      ∃ t, exec (.stepminWrite h v) s = .next t ∧
        t.pwr = { s.pwr with stepmin := BitVec.ofNat 3 (min v.toNat s.wdn.prof.deepest.toNat) }) ∧
    (∀ b, s.accepts (.prefWrite h b) = true →
      ∃ t, exec (.prefWrite h b) s = .next t ∧
        t.pwr = { s.pwr with pref := b, stepmin := BitVec.ofNat 3 (min s.pwr.stepmin.toNat s.wdn.prof.deepest.toNat) })

/-- R363 to R365: a piece that breaks the rules is refused, a 65th consignment is answered BUSY, a repeated piece changes nothing, and a piece that
completes its consignment is written, moves the counter and brings the final reply; a consignment without pieces is closed; a read is answered with
its data. A BULK_READ of length 0 and the order of the checks are log entry 61 (the model's choice). -/
def Obligations.BulkConsignments : Prop :=
  ∀ (s : State) (h : OrderHdr) (b : BulkPiece),
    let u := s.seated.2.noted h
    let inside := s.opened b.dest.toNat b.total.toNat
    (s.accepts (.bulkWrite h b) = true →
      (badPiece b = true → exec (.bulkWrite h b) s = .next (u.ethDisc.refuse h 0x04 false .range .none)) ∧
      (∀ x, s.bulkOf h.src b.cid = some x → samePiece x.piece b = false →
        exec (.bulkWrite h b) s = .next (u.ethDisc.refuse h 0x04 false .range .none)) ∧
      (badPiece b = false → (∀ x, s.bulkOf h.src b.cid = some x → samePiece x.piece b = true) → (badFields b = true ∨ inside = false) →
        exec (.bulkWrite h b) s = .next (u.refuse h 0x04 false .range .none)) ∧
      (badFields b = false → badPiece b = false → s.bulkOf h.src b.cid = none → inside = true → 64 ≤ s.eth.bulks.length →
        exec (.bulkWrite h b) s = .next (u.refuse h 0x04 false .busy .none)) ∧
      (∀ x, badFields b = false → badPiece b = false → s.bulkOf h.src b.cid = some x → samePiece x.piece b = true → inside = true →
        x.fresh b = [] → exec (.bulkWrite h b) s = .next u) ∧
      (badFields b = false → badPiece b = false → s.bulkOf h.src b.cid = none → inside = true → s.eth.bulks.length < 64 →
        b.offset = 0 → b.data.length = b.total.toNat → b.slot = 0 → s.mem.wf = true → s.mem.crc = [] →
        ∃ t, exec (.bulkWrite h b) s = .next t ∧ t.eth.bulks = s.eth.bulks ∧
          (∀ i (hi : i < b.data.length), t.byte (b.dest.toNat + i) = b.data[i]) ∧
          (∀ a, a < b.dest.toNat ∨ b.dest.toNat + b.data.length ≤ a → t.byte a = s.byte a) ∧
          (∀ c : CombId, (t.comb c).seq.cnt = if b.rce = 1 ∧ c.val = b.rcomb.toNat then
              (s.comb c).seq.cnt.set (cntIx b.rcnt) ((s.comb c).seq.cnt[cntIx b.rcnt] + 1) else (s.comb c).seq.cnt) ∧
          (getF s.eth.cfg 33 1 = 0 → t.eth.replies.getLast? = some ⟨h.src, 0x04, b.cid, .ok, s.dev.st, .bulk b.cid b.total.toNat true⟩))) ∧
    (∀ src cid,
      (s.bulkOf src cid = none → exec (.bulkTimeout src cid) s = .next s) ∧
      (∀ x, s.bulkOf src cid = some x → x.count < x.piece.total.toNat → ∃ t, exec (.bulkTimeout src cid) s = .next t ∧
        t.eth.bulks = (s.eth.bulks.filter fun y => !(y.src == src && y.piece.cid == cid)) ∧ t.mem = s.mem ∧ t.combs = s.combs ∧
        (s.eth.linkUp = true → getF s.eth.cfg 33 1 = 0 →
          t.eth.replies = s.eth.replies ++ [⟨src, 0x04, cid, .range, s.dev.st, .bulk cid x.count true⟩] ∧
          (getF s.eth.notify 63 1 = 1 → ∃ n, t.eth.notices.getLast? = some n ∧ n.body = .bulkLost cid)))) ∧
    (∀ addr len cid, s.accepts (.bulkRead h addr len cid) = true →
      let bad := len.toNat = 0 ∨ 2 ^ 30 < len.toNat ∨ s.opened addr.toNat len.toNat = false
      (bad → exec (.bulkRead h addr len cid) s = .next ((s.heard h).refuse h 0x05 true .range .none)) ∧
      (¬ bad → s.mem.crc = [] → s.mem.upsets = [] → getF s.eth.cfg 33 1 = 0 → ∃ t, exec (.bulkRead h addr len cid) s = .next t ∧
        t.mem = s.mem ∧ t.combs = s.combs ∧
        t.eth.replies = s.eth.replies ++ (List.range (ceilDiv len.toNat 8192)).map fun i => (⟨h.src, 0x05, h.seq, .ok, s.dev.st,
          .data cid (8192 * i) (s.bytes (addr.toNat + 8192 * i) (min 8192 (len.toNat - 8192 * i)))⟩ : Reply)))

/-! ### Time -/

/-- R24, R28, R87, R145 to R147, R249, R257, R270, R286, R287, R288, R292, R294, R298, R327: the actions of a chime, and how an array self-test
ends: a comb with new findings takes its bypasses or a spare at the next chime, in ascending order, and without a spare the chip is fenced there. The
time base at the chime is log entry 4, the frame that held combs count and the overrun of a draining comb log entry 52 (the model's choices). -/
def Obligations.ChimeActions : Prop :=
  ∀ (s : State),
    let n := s.chm.n + 1
    let used := s.useHeard.chm
    let moved := used.pendV = true ∧ used.pendAt = n
    let calm := s.rte.flip = 0 ∧ s.stp.round = none ∧ s.chm.resumeAt = none ∧ s.dev.jobs = [] ∧ ∀ c, (s.comb c).due = none
    (s.chm.running = false → exec .chime s = .next s) ∧
    (s.chm.running = true → ∃ t, exec .chime s = .next t ∧ t.chm.n = n ∧ t.chm.tb = max used.tb (s.chm.nextAt + 32) ∧
      t.chm.ival = (if moved then used.pendC else s.chm.ival) ∧
      t.chm.nextAt = s.chm.nextAt + (if moved then used.pendC else s.chm.ival).toNat ∧
      (s.rte.flip ≠ 0 → s.rte.flip = n → t.rte.inj ≠ s.rte.inj ∧ t.rte.flip = 0 ∧ t.rte.released = false ∧ t.col.era = n ∧
        t.col.collNum = [] ∧ t.col.barNum = []) ∧
      (s.rte.flip ≠ n → t.rte.inj = s.rte.inj ∧ t.rte.flip = s.rte.flip) ∧
      (s.seals.at_ ≠ 0 → s.seals.at_ = n → t.seals.level = s.seals.pend ∧ t.seals.at_ = 0) ∧
      (s.seals.at_ ≠ n → t.seals.level = s.seals.level ∧ t.seals.at_ = s.seals.at_) ∧
      t.col.cfg = s.col.cfgNext.getD s.col.cfg ∧ t.col.spill = s.col.spillNext.getD s.col.spill ∧
      (∀ r v c, s.stp.round = some r → r.decision = some (v, c) → c.toNat ≤ n.toNat → t.stp.round = none ∧
        (t.stp.bank, t.stp.flips, t.stp.step, t.stp.last, t.stp.skips, t.stp.decision) =
          if v then (!s.stp.bank, s.stp.flips + 1, r.step + 1, r.step, s.stp.skips, true)
          else (s.stp.bank, s.stp.flips, s.stp.step, s.stp.last, s.stp.skips + 1, false)) ∧
      (calm → s.chm.qGo = none → s.chm.qReq = none → s.chm.qVoted = none → s.dev.st ≠ .quiesced → ∀ c : CombId,
        let q := (s.comb c).seq
        let r := (t.comb c).seq
        let going := q.st = .running ∨ q.st = .waiting ∨ q.st = .chimeWait
        (going → q.framed = true → r = if q.stall = .faulting then { q with framed := false } else
          { q with st := .running, stall := .none, frame := wrapF q.frame 32 32 1, frameN := n, frameT := s.chm.nextAt, framed := false }) ∧
        (∀ k, q.st = .armed → q.startAt = some k → r = if k.toNat ≤ n.toNat then
          { q with st := .running, stall := .none, startAt := none, frameN := n, frameT := s.chm.nextAt, framed := false } else q) ∧
        (going → q.framed = false → getF r.frame 16 16 = min (getF q.frame 16 16 + 1) 0xFFFF ∧ getF r.fault 48 16 = min (getF q.fault 48 16 + 1) 0xFFFF ∧
          (q.stall ≠ .faulting → getF r.fault 0 8 = 0x0A ∧ getF r.fault 8 18 = q.pc.toNat ∧ r.stall = .faulting)) ∧
        (q.st ∈ [SeqState.empty, .loading, .loaded, .halted, .faulted, .hold] → r = q)) ∧
      (calm → s.chm.qGo = some n → s.chm.qVoted = none → s.dev.st = .ready ∨ s.dev.st = .running →
        t.dev.st = .quiesced ∧ t.chm.qGo = none ∧ ∀ c : CombId,
          let q := (s.comb c).seq
          q.st = .running ∨ q.st = .waiting ∨ q.st = .chimeWait → q.framed = true → q.stall ≠ .faulting →
            (t.comb c).seq = { q with st := .hold }) ∧
      (∀ k, s.chm.resumeAt = some k → k.toNat ≤ n.toNat → s.dev.st = .quiesced → s.wdn.fwSwitchAt = [] → s.rte.flip = 0 → s.stp.round = none →
        s.dev.jobs = [] → (∀ c, (s.comb c).due = none) → s.chm.qGo = none → s.chm.qReq = none → s.chm.qVoted = none → s.col.bars = [] →
        t.chm.resumeAt = none ∧ ∀ c : CombId,
          let q := (s.comb c).seq
          q.st = .hold → (t.comb c).seq = if q.stall = .faulting then q else
            { q with st := .running, stall := .none, frame := wrapF q.frame 32 32 1, frameN := n, frameT := s.chm.nextAt, framed := false }) ∧
      (calm → s.chm.qGo = none → s.chm.qReq = none → s.chm.qVoted = none → s.dev.st = .ready ∨ s.dev.st = .running → s.chm.isRoot = true →
        (∀ l : LinkId, (s.links[l]).matched = false ∧ (s.links[l]).rwWait = false) → ∀ l ∈ s.chimeLinks, ∃ y : ChimeSym, (t.links[l]).symOut = (s.links[l]).symOut ++ [.chime y] ∧
          (y.n, y.base, y.root) = (n, s.chm.base, s.rte.selfId) ∧ y.hops.toNat = min 255 (s.chm.hops.toNat + 1)) ∧
      (∀ c : CombId, (s.comb c).due = some { cause := 3, reload := true, remap := true } → (∀ d, d ≠ c → (s.comb d).due = none) →
        (∀ w, s.nextMap c = some w → (t.comb c).map = w) ∧ (s.nextMap c = none → t.dev.st = .fenced))) ∧
    (∀ (c : CombId),
      let k := s.comb c
      let p := getF k.map 0 7
      let found (t : State) := s.chm.n = t.chm.n ∧ t.dev.st = s.dev.st ∧ (t.comb c).testing = false ∧ (t.comb c).map = k.map ∧
        (t.comb c).due = some { cause := 3, reload := true, remap := true }
      (s.dev.failed p = false → s.nextMap c = some (s.dev.mapWord p)) ∧
      (s.dev.failed p = true → s.spareFree (64 + fieldOf c) = true → s.nextMap c = some (s.dev.mapWord (64 + fieldOf c))) ∧
      (∀ q, s.dev.failed p = true → s.spareFree (64 + fieldOf c) = false → 64 ≤ q → q ≤ 67 → s.spareFree q = true →
        (∀ q', 64 ≤ q' → q' < q → s.spareFree q' = false) → s.nextMap c = some (s.dev.mapWord q)) ∧
      (s.dev.failed p = true → (∀ q, 64 ≤ q → q ≤ 67 → s.spareFree q = false) → s.nextMap c = none) ∧
      (∀ q, q < 128 → getF (s.dev.mapWord q) 0 7 = q ∧ (Sparse.get 0 s.dev.phys q = 0 → s.dev.mapWord q = BitVec.ofNat 64 q) ∧
        ∀ a : Fin 32, Sparse.get 0 s.dev.phys q = BitVec.ofNat 64 (2 ^ a.val) → s.dev.mapWord q = pack [(15, 1), (8, a.val), (0, q)]) ∧
      (k.testing = false → ∀ x, exec (.arraySelftestDone c x) s = .next s) ∧
      (k.testing = true →
        exec (.arraySelftestDone c .interrupted) s = .next (s.modComb c fun k => { k with testing := false, testDue := true }) ∧
        ((k.cleanTests.filter fun x => decide ((s.chm.n - x).toNat < 10000)).length < 2 → ∃ t, exec (.arraySelftestDone c .noFault) s = .next t ∧
          s.onlyComb c t ∧ getF (t.comb c).mat.selftest 34 2 = 1 ∧ (t.comb c).testing = false ∧ (t.comb c).cleanTests = k.cleanTests ++ [s.chm.n]) ∧
        (2 ≤ (k.cleanTests.filter fun x => decide ((s.chm.n - x).toNat < 10000)).length → ∃ t, exec (.arraySelftestDone c .noFault) s = .next t ∧
          found t ∧ getF (t.comb c).mat.selftest 34 2 = 1 ∧ t.dev.failed p = true) ∧
        (∀ a : Fin 32, ∃ t, exec (.arraySelftestDone c (.columns (BitVec.ofNat 32 (2 ^ a.val)))) s = .next t ∧
          found t ∧ getF (t.comb c).mat.selftest 34 2 = 2 ∧
          Sparse.get 0 t.dev.phys p = (Sparse.get 0 s.dev.phys p ||| BitVec.ofNat 64 (2 ^ a.val))) ∧
        (∃ t, exec (.arraySelftestDone c .failed) s = .next t ∧ found t ∧ getF (t.comb c).mat.selftest 34 2 = 3 ∧ t.dev.failed p = true)))

/-- R285, R288 to R290, R380: what a CHIME copy does: it is forwarded once; the one of lowest HOPS that came by the next chime moves the time base
there by a sixty-fourth against its offset, and shows drift and loss (which of equal HOPS, and how long a chip knows what it forwarded: log entry 55;
WDN_FAULT.CLOCK and the abort of the step at a loss: log entry 56; the model's); succession of the root; and the core reset after 16 chimes of lost synchronism. -/
def Obligations.ChimeCopies : Prop :=
  ∀ (s : State) (l : LinkId) (x : ChimeSym) (stamp : BitVec 70),
    let c := s.chm
    let k : Link := s.links[l]
    let me := s.rte.selfId
    let e := c.offsetOf l x stamp
    (x.n = c.n → c.ival.toNat ≤ c.nextAt →
      e = (stamp.toNat : Int) - ((c.nextAt - c.ival.toNat) * 64 + x.launch.toNat + (c.link[l]).toNat : Nat)) ∧
    (c.running = false ∨ k.st.up = false ∨ k.chimex = true → exec (.chimeSymbol l x stamp) s = .next s) ∧
    (c.running = true → k.st.up = true → k.chimex = false →
      (x.base ≠ c.base → ∃ t, exec (.chimeSymbol l x stamp) s = .next t ∧ (t.links[l]).chimex = true ∧ t.chm = c ∧
        ∀ m : LinkId, m ≠ l → t.links[m] = s.links[m]) ∧
      (x.base = c.base → some x.root = s.rte.named → exec (.chimeSymbol l x stamp) s = .next s) ∧
      (x.base = c.base → c.isRoot = true → candLt (c.prefOf x.root, x.root) (c.prefOf me, me) = false →
        exec (.chimeSymbol l x stamp) s = .next s) ∧
      (x.base = c.base → some x.root ≠ s.rte.named → (c.isRoot = true → candLt (c.prefOf x.root, x.root) (c.prefOf me, me) = true) →
        let once := x.n ∉ c.fwd ∧ c.since x.n < 64 ∧ c.syncloss = false
        ∃ t, exec (.chimeSymbol l x stamp) s = .next t ∧
          t.chm = { c with isRoot := false, copies := c.keepCopy x e, fwd := if once then c.fwd ++ [x.n] else c.fwd } ∧
          (∀ m : LinkId, once → m ∈ s.chimeLinks → m ≠ l → ∃ y : ChimeSym, (t.links[m]).symOut = (s.links[m]).symOut ++ [.chime y] ∧
            y = { x with launch := y.launch, hops := BitVec.ofNat 8 (min 255 (x.hops.toNat + 1)) }) ∧
          (∀ m : LinkId, ¬ once ∨ m ∉ s.chimeLinks ∨ m = l → t.links[m] = s.links[m]))) ∧
    (0 < c.since x.n → c.keepCopy x e = c.copies) ∧
    (¬ 0 < c.since x.n →
      ((c.copies.find? fun y => y.1.n == x.n) = none → c.keepCopy x e = c.copies ++ [(x, e)]) ∧
      (∀ y, (c.copies.find? fun y => y.1.n == x.n) = some y →
        (y.1.hops.toNat ≤ x.hops.toNat → c.keepCopy x e = c.copies) ∧
        (x.hops.toNat < y.1.hops.toNat → c.keepCopy x e = (c.copies.filter fun z => z.1.n != x.n) ++ [(x, e)]))) ∧
    ((c.isRoot = true ∨ (c.copies.find? fun y => y.1.n == c.n) = none) → s.useHeard = s) ∧
    (∀ y (d : Int), c.running = true → c.isRoot = false → (c.copies.find? fun y => y.1.n == c.n) = some (y, d) → 0 < c.tb →
      let used := s.useHeard.chm
      ((used.tb * 64 + used.frac : Nat) : Int) = (c.tb * 64 + c.frac : Nat) - d.sign ∧
      ∃ t, exec .chime s = .next t ∧ (t.chm.hops, t.chm.elected, t.chm.deputy, t.chm.isRoot) = (y.hops, y.root, y.deputy, false) ∧
        t.chm.drift = (c.drift || decide (64 < d.natAbs)) ∧ t.chm.syncloss = (c.syncloss || decide (128 < d.natAbs)) ∧
        (128 < d.natAbs → t.wdn.fault.getLsbD 4 = true ∧ (s.stp.round = none → t.stp.abort = true))) ∧
    (let least := max 1 (getF c.cfg 0 4)
     (c.running = false ∨ c.isRoot = true ∨ c.silent < least → exec .rootSuccession s = .next s) ∧
     (c.running = true → c.isRoot = false → least ≤ c.silent → c.isDeputy = true → exec .rootSuccession s = .next { s with chm := { c with
        isRoot := true, isDeputy := false, deputy := 0x3FFFF, elected := me, silent := 0, orphan := false } }) ∧
     (c.running = true → c.isRoot = false → least ≤ c.silent → c.isDeputy = false →
        exec .rootSuccession s = .next { s with chm := { c with orphan := true } })) ∧
    (c.running = true → c.syncloss = true → 16 ≤ c.lossRun → ∃ t, exec .synclossReset s = .next t ∧ s.coreWasReset 6 .refclk t ∧
      t.wdn.fault.getLsbD 4 = true) ∧
    (c.syncloss = false ∨ c.lossRun < 16 → exec .synclossReset s = .next s)

/-- R279 to R285: the muster: its phases, the measurement of delays, the election and the setting of the time base. Links that go DOWN as it begins
are log entry 46, a running chip that answers ELECT with ELECT and TIME log entry 57 (the model's). -/
def Obligations.Muster : Prop :=
  ∀ (s : State),
    let c := s.chm
    let dev := s.dev.st
    (∀ h, s.accepts (.muster h) = true →
      (s.dev.stuck = true → exec (.muster h) s = .next ((s.heard h).refuse h 0x06 true .state .none)) ∧
      (s.dev.stuck = false → ∃ t, exec (.muster h) s = .next t ∧ t.dev.st = .muster ∧ t.chm.phase = 1 ∧ t.chm.best = none ∧
        (∀ l : LinkId, (s.links[l]).en = true → (t.links[l]).st = .down) ∧ (∀ l : LinkId, (s.links[l]).en = false → t.links[l] = s.links[l]) ∧ t.mem = s.mem)) ∧
    (dev ≠ .muster → exec .musterPhaseDone s = .next s) ∧
    (dev = .muster →
      (c.phase = 1 → (s.alignedLinks ≠ [] ∨ s.rte.alone = true) → ∃ t, exec .musterPhaseDone s = .next t ∧ t.chm = { c with phase := 2 } ∧
        ∀ l : LinkId, ((s.links[l]).st ≠ .aligned → t.links[l] = s.links[l]) ∧
          ((s.links[l]).st = .aligned → ∃ t1, t.links[l] =
            { s.links[l] with pings := 1, samples := [], symOut := (s.links[l]).symOut ++ [.ping t1] })) ∧
      (c.phase = 1 → s.alignedLinks = [] → s.rte.alone = false → ∃ t, exec .musterPhaseDone s = .next t ∧ t.chm = c ∧
        ∀ l : LinkId, t.links[l] = if (s.links[l]).st = .failed ∧ (s.links[l]).en = true then (s.links[l]).restart else s.links[l]) ∧
      (c.phase = 2 → exec .musterPhaseDone s = .next { s with chm := { c with phase := 3 } }) ∧
      (c.phase = 3 ∨ c.phase = 5 → ∃ t, exec .musterPhaseDone s = .next t ∧ t.chm.phase = 4 ∧ t.chm.second = none ∧
        t.chm.best = (if s.rte.selfValid then some (if c.prefV = true ∧ c.pref = s.rte.selfId then 0 else 1, s.rte.selfId) else none) ∧
        t.links = s.links)) ∧
    (∀ (l : LinkId) (t1 : W64),
      let k : Link := s.links[l]
      let begins := c.running = true ∧ k.st = .aligned ∧ k.pings = 0 ∧ k.matched = false
      (k.st.up = false ∨ k.chimex = true ∧ k.st ≠ .aligned → exec (.ping l t1) s = .next s) ∧
      (k.st.up = true → (k.chimex = false ∨ k.st = .aligned) → ∃ t t2 t3 own, exec (.ping l t1) s = .next t ∧
        (t.links[l]).symOut = k.symOut ++ .echo t1 t2 t3 :: (if begins then [.ping own] else []) ∧
        (t.links[l]).pings = (if begins then 1 else k.pings) ∧ t.chm = c ∧ ∀ m : LinkId, m ≠ l → t.links[m] = s.links[m])) ∧
    (∀ (l : LinkId) (x : EchoSym),
      let k : Link := s.links[l]
      let xs := k.samples ++ [(x.t4 - x.t1).toInt - (x.t3 - x.t2).toInt]
      let d := ((2 * xs.sum + 512) / 1024).toNat
      let due := k.st = .aligned ∧ k.pings ≠ 0 ∧ k.matched = false
      (¬ due → exec (.echo l x) s = .next s) ∧
      (due → k.samples.length < 255 → ∃ t own, exec (.echo l x) s = .next t ∧ t.chm = c ∧ (∀ m : LinkId, m ≠ l → t.links[m] = s.links[m]) ∧
        t.links[l] = (if 256 ≤ k.pings then { k with samples := xs }
          else { k with samples := xs, pings := k.pings + 1, symOut := k.symOut ++ [.ping own] })) ∧
      (due → k.samples.length = 255 → ∃ t, exec (.echo l x) s = .next t ∧ t.chm.link[l] = BitVec.ofNat 64 (d % 2 ^ 22) ∧
        (d ≤ 64 * 2160 → (t.links[l]).chimex = false ∧ getF (t.links[l]).delay 0 16 = d / 64 ∧ (t.links[l]).st = .aligned ∧
          (t.links[l]).matched = !k.badCable) ∧
        (64 * 2160 < d → (t.links[l]).st = .failed))) ∧
    (∀ (l : LinkId) (x : ElectSym), (s.links[l]).st.up = false ∨ (s.links[l]).chimex = true → exec (.elect l x) s = .next s) ∧
    (∀ (l : LinkId) (x : ElectSym), (s.links[l]).st.up = true → (s.links[l]).chimex = false →
      (c.running = true → x.running = true → x.base = c.base → exec (.elect l x) s = .next s) ∧
      (c.running = true → x.running = true → x.base ≠ c.base → ∃ t, exec (.elect l x) s = .next t ∧ (t.links[l]).chimex = true ∧ t.chm = c) ∧
      (c.running = true → x.running = false → ∃ t y, exec (.elect l x) s = .next t ∧ t.chm = c ∧
        (t.links[l]).symOut = (s.links[l]).symOut ++ [.elect s.electSym, .time y] ∧ (y.base, y.root, y.nextN, y.nextAt.toNat) = (c.base, c.elected, c.n + 1, c.nextAt % 2 ^ 64)) ∧
      (c.running = false → dev = .muster → c.phase = 4 → x.running = true → ∃ t, exec (.elect l x) s = .next t ∧
        (t.chm.phase, t.chm.elected, t.chm.deputy, t.chm.base, t.chm.isRoot, t.chm.heard) = (5, x.best, x.second, x.base, false, true)) ∧
      (c.running = false → dev = .muster → c.phase = 4 → x.running = false → x.second = 0x3FFFF → x.secondPref = 0xFF →
        ¬ (x.best = 0x3FFFF ∧ x.bestPref = 0xFF) → c.best.map (·.2) ≠ some x.best → c.second.map (·.2) ≠ some x.best →
        let a : Cand := (x.bestPref.toNat, x.best)
        ∃ t, exec (.elect l x) s = .next t ∧ t.chm.phase = 4 ∧
          (c.best = none → t.chm.best = some a) ∧
          (∀ b, c.best = some b → candLt a b = true → t.chm.best = some a ∧ t.chm.second = some b) ∧
          (∀ b, c.best = some b → candLt a b = false → t.chm.best = some b ∧
            t.chm.second = match c.second with | none => some a | some d => if candLt a d then some a else some d))) ∧
    ((dev = .muster ∧ c.phase = 4 ∨ c.running = true) → ∃ t, exec .electBroadcast s = .next t ∧ t.chm = c ∧
      ∀ l : LinkId, t.links[l] = if (s.links[l]).st = .aligned ∧ (s.links[l]).chimex = false then
        { s.links[l] with symOut := (s.links[l]).symOut ++ [.elect s.electSym] } else s.links[l]) ∧
    (¬ (dev = .muster ∧ c.phase = 4 ∨ c.running = true) → exec .electBroadcast s = .next s) ∧
    (dev ≠ .muster ∨ c.phase ≠ 4 → exec .electSettled s = .next s) ∧
    (dev = .muster → c.phase = 4 →
      (c.best = none → ∃ t, exec .electSettled s = .next t ∧ t.dev.st = .coreUp ∧ t.chm.phase = 0 ∧ t.links = s.links ∧
        (s.chr.queue.length < 1024 → getF s.eth.cfg 33 1 = 0 → (t.chr.queue.map (·.event)) = (s.chr.queue.map (·.event)) ++ [.noCandidate])) ∧
      (∀ p root, c.best = some (p, root) → (s.rte.selfValid = false ∨ root ≠ s.rte.selfId) → ∃ t, exec .electSettled s = .next t ∧
        (t.chm.elected, t.chm.deputy, t.chm.isRoot, t.chm.phase, t.chm.running) = (root, (c.second.map (·.2)).getD 0x3FFFF, false, 5, c.running)) ∧
      (∀ p, c.best = some (p, s.rte.selfId) → s.rte.selfValid = true → ∃ t, exec .electSettled s = .next t ∧
        (t.chm.running, t.chm.isRoot, t.chm.tb, t.chm.n, t.chm.nextAt, t.chm.hops) = (true, true, 0, BitVec.allOnes 64, 36000000, 0) ∧
        getF t.chm.base 0 18 = s.rte.selfId.toNat ∧ getF t.chm.base 18 46 = c.local_ % 2 ^ 46 ∧
        ∀ l ∈ s.musterLinks, ∃ y : TimeSym, (t.links[l]).symOut = (s.links[l]).symOut ++ [.time y] ∧ (y.tb, y.base, y.hops) = (0, t.chm.base, 1))) ∧
    (∀ (l : LinkId) (x : TimeSym), (s.links[l]).st.up = false ∨ (s.links[l]).chimex = true → exec (.time l x) s = .next s) ∧
    (∀ (l : LinkId) (x : TimeSym), (s.links[l]).st.up = true → (s.links[l]).chimex = false →
      (c.running = true → x.base = c.base → exec (.time l x) s = .next s) ∧
      (c.running = true → x.base ≠ c.base → ∃ t, exec (.time l x) s = .next t ∧ (t.links[l]).chimex = true ∧ t.chm = c) ∧
      (c.running = false → dev = .muster → c.phase = 4 ∨ c.phase = 5 → ∃ t, exec (.time l x) s = .next t ∧
        t.chm.tb * 64 + t.chm.frac = x.tb.toNat * 64 + x.frac.toNat + x.launch.toNat + (c.link[l]).toNat ∧
        (t.chm.running, t.chm.base, t.chm.n, t.chm.nextAt, t.chm.t0, t.chm.elected, t.chm.hops) = (true, x.base, x.nextN - 1, x.nextAt.toNat, x.t0.toNat, x.root, x.hops) ∧
        t.chm.ival.toNat = x.ival.toNat % 2 ^ 26 ∧
        ∀ m ∈ s.musterLinks, ∃ y : TimeSym, (t.links[m]).symOut = (s.links[m]).symOut ++ [.time y] ∧ y.base = x.base ∧ y.hops.toNat = min 255 (x.hops.toNat + 1)))

/-- R294, R322 to R329: the votes and decisions of quiesce and commit rounds, and the deadlines of a commit round; a write of STP_STEP by order ends
an undecided one (log entry 42), and a first 0 vote ends the leader's own wait at once (log entry 53; the model's readings). -/
def Obligations.QuiesceAndCommitRounds : Prop :=
  ∀ (s : State) (d : Drop),
    let k := syncStep d
    let v := syncValue d
    let me := s.rte.selfId
    let past := fun (r : Round) => (s.chm.n - r.openedAt).toNat
    (s.newSync d 1 = true →
      (s.rte.leader ≠ some me → ∃ t, exec (.qvote d) s = .next t ∧ t.chm = s.chm ∧ t.combs = s.combs ∧ t.mem = s.mem) ∧
      (s.rte.leader = some me → s.chm.votesFor k = [] → k ∉ s.chm.qTold → ∃ t, exec (.qvote d) s = .next t ∧
        let live := s.rte.liveBox.map (s.rte.physOf s.rte.inj)
        t.chm.qVotes = s.chm.qVotes ++ [(k, d.src, v)] ∧
        (d.src ∉ live → live ≠ [] → t.chm = { s.chm with qVotes := t.chm.qVotes }) ∧
        (v = false → d.src ∈ live → k ∈ t.chm.qTold ∧ t.chm.qGo = s.chm.qGo ∧
          (s.chm.qVoted = some k → t.chm.qVoted = none ∧ t.col.noAdmit = false)) ∧
        (v = true → s.chm.qVoted = some k → live = [d.src] → t.chm.qVoted = none ∧ t.chm.qGo = some (k + 1)))) ∧
    (s.newSync d 2 = true →
      (s.chm.qVoted ≠ some k → ∃ t, exec (.qdecide d) s = .next t ∧ t.chm = s.chm) ∧
      (s.chm.qVoted = some k → v = true → ∃ t, exec (.qdecide d) s = .next t ∧ t.chm = { s.chm with qVoted := none, qGo := some (k + 1) }) ∧
      (s.chm.qVoted = some k → v = false → ∃ t, exec (.qdecide d) s = .next t ∧ t.chm = { s.chm with qVoted := none } ∧ t.col.noAdmit = false)) ∧
    (s.newSync d 8 = true → k ≠ s.stp.step → ∃ t, exec (.vote d) s = .next t ∧ t.stp = s.stp) ∧
    (∀ r, s.newSync d 8 = true → s.stp.round = some r → r.step = k → k = s.stp.step →
      (s.rte.leader ≠ some me → ∃ t, exec (.vote d) s = .next t ∧
        t.stp = { s.stp with round := some { r with votes := if r.votes.any (fun x => x.1 == d.src) then r.votes else r.votes ++ [(d.src, v)] } }) ∧
      (s.rte.leader = some me → s.inBox = true → r.decision = none → s.stp.made = none → s.stp.lodged = none → v = false →
        d.src ∈ s.rte.boxChips → r.votes = [] → ∃ t r', exec (.vote d) s = .next t ∧
          t.stp.round = some r' ∧ r'.votes = [(d.src, false)] ∧
          t.stp.made = some ⟨k, false, s.chm.firstAt (s.chm.tb + getF r.cfg 32 16 * 3600), me⟩ ∧ (s.rte.deputy ≠ none → r'.decision = none))) ∧
    (s.newSync d 8 = true → k = s.stp.step → s.roundNow = none → (s.rte.leader = some me ∨ s.rte.deputy = some me) → ∃ t r, exec (.vote d) s = .next t ∧
      t.stp.round = some r ∧ (r.step, r.openedAt, r.cfg, r.votes) = (k, s.chm.n, s.stp.cfg, [(d.src, v)])) ∧
    (s.newSync d 9 = true → ∃ t, exec (.lodge d) s = .next t ∧
      t.stp = { s.stp with lodged := if s.applied d then s.stp.lodged else some ⟨k, v, syncChime d, syncDecider d⟩ } ∧
      (s.mayStart (.chip d.src) = true → s.fab.wait = [] → ∃ a b : HeldDrop, t.rte.drops = s.rte.drops ++ [a, b] ∧
        (a.drop.type, b.drop.type, b.drop.addr, b.drop.dst) = (8, 0xC, 0xA, d.src))) ∧
    (∀ r w c x, s.newSync d 0xA = true → s.stp.round = some r → r.step = k → k = s.stp.step → r.decision = none → s.stp.made = some ⟨k, w, c, x⟩ →
      s.rte.deputy = some d.src → ∃ t, exec (.lodged d) s = .next t ∧
        t.stp = { s.stp with round := some { r with decision := some (w, c), late := s.past c } } ∧
        t.rte.drops.length + t.fab.wait.length = s.rte.drops.length + s.fab.wait.length + 1 +
          (s.rte.boxChips.filter fun m => m != me && !s.rte.fenced m).length) ∧
    (s.newSync d 0xB = true →
      (k ≠ s.stp.step ∨ s.applied d = true → ∃ t, exec (.decide d) s = .next t ∧ t.stp = s.stp) ∧
      (∀ r, k = s.stp.step → s.applied d = false → s.stp.round = some r → r.step = k → r.decision = none → ∃ t, exec (.decide d) s = .next t ∧
        t.stp = { s.stp with round := some { r with decision := some (v, syncChime d), late := s.past (syncChime d) } }) ∧
      (∀ r, s.stp.round = some r → r.step = k → r.decision ≠ none → ∃ t, exec (.decide d) s = .next t ∧ t.stp = s.stp) ∧
      (k = s.stp.step → s.applied d = false → s.roundNow = none → ∃ t r, exec (.decide d) s = .next t ∧ t.stp.round = some r ∧
        (r.step, r.openedAt, r.cfg, r.decision) = (k, s.chm.n, s.stp.cfg, some (v, syncChime d)))) ∧
    (∀ h w, s.accepts (.stpRegisterWrite h .step w) = true → s.dev.st = .ready ∨ s.dev.st = .quiesced → s.stp.round = none ∨ s.stp.undecided = true →
      ∃ t, exec (.stpRegisterWrite h .step w) s = .next t ∧ t.stp = { s.stp with step := w, round := none, made := none, lodged := none }) ∧
    (s.stp.round = none → exec .commitDeadline s = .next s ∧ exec .commitUndecided s = .next s) ∧
    (∀ r, s.stp.round = some r →
      (past r < max 1 (getF r.cfg 0 16) ∨ r.step ≠ s.stp.step → exec .commitDeadline s = .next s) ∧
      (max 1 (getF r.cfg 0 16) ≤ past r → r.step = s.stp.step → s.leads = true → ∃ t, exec .commitDeadline s = .next t ∧
        t.stp.made = some ⟨r.step, false, s.chm.firstAt (s.chm.tb + getF r.cfg 32 16 * 3600), me⟩) ∧
      (r.decision = none → r.told = false → 2 * max 1 (getF r.cfg 0 16) ≤ past r → ∃ t, exec .commitUndecided s = .next t ∧
        t.stp = { s.stp with undecided := true, round := some { r with told := true } } ∧ t.wdn.fault.getLsbD 6 = true ∧ t.combs = s.combs) ∧
      (r.decision ≠ none ∨ r.told = true ∨ past r < 2 * max 1 (getF r.cfg 0 16) → exec .commitUndecided s = .next s))

/-! ### Programs, resets, the warden, power -/

/-- R147, R154, R155, R290, R294, R311, R312: LOAD and its end, START, QUIESCE, RESUME, CERTIFY and NAME_ROOT: what each asks of the combs, the
chime or the seals, and what it leaves. LOAD's states before its image are log entry 59, registers cleared at acceptance 62, QUIESCE and RESUME
answered when accepted 63, NAME_ROOT of another BASE 64 (the model's). -/
def Obligations.ProgramOrders : Prop :=
  ∀ (s : State) (h : OrderHdr),
    let u := s.heard h
    let st := fun (c : CombId) => (s.comb c).seq.st
    (∀ img combs, s.accepts (.load h img combs) = true →
      let cs := maskCombs combs
      ((∃ c ∈ cs, st c ∉ [SeqState.empty, .loaded, .halted, .faulted]) → exec (.load h img combs) s = .next (u.refuse h 0x07 true .state .none)) ∧
      ((∀ c ∈ cs, st c ∈ [SeqState.empty, .loaded, .halted, .faulted]) →
        ((u.readImage img.toNat).1 = none → exec (.load h img combs) s = .next ((u.readImage img.toNat).2.refuse h 0x07 true .range .none)) ∧
        (∀ im, (u.readImage img.toNat).1 = some im → ∃ t, exec (.load h img combs) s = .next t ∧
          t.eth.loads = s.eth.loads ++ [⟨h.seq, combs, img.toNat⟩] ∧ ∀ c : CombId,
            let q := (t.comb c).seq
            (c ∈ cs → q.st = .loading ∧ q.prog = some ⟨im.addr, im.entry, im.words, plainSeal im.bytes⟩ ∧ q.s = Vector.replicate 32 0 ∧
              q.cnt = Vector.replicate 256 0 ∧ getF q.fault 0 8 = 0) ∧
            (c ∉ cs → q = (s.comb c).seq)))) ∧
    (∀ seq : BitVec 32, (s.eth.loads.find? fun j => j.seq == seq) = none → exec (.loadComplete seq) s = .next s) ∧
    (∀ (seq : BitVec 32) j, (s.eth.loads.find? fun j => j.seq == seq) = some j → (∀ c ∈ maskCombs j.combs, st c = .loading) →
      ∃ t, exec (.loadComplete seq) s = .next t ∧ t.eth.loads = s.eth.loads.erase j ∧
        (∀ c : CombId, (t.comb c).seq.st = if c ∈ maskCombs j.combs then .loaded else st c) ∧
        (getF s.eth.notify 63 1 = 1 → s.eth.linkUp = true → getF s.eth.cfg 33 1 = 0 →
          ∃ m, t.eth.notices.getLast? = some m ∧ (m.st, m.body) = (t.dev.st, .load j.seq j.combs) ∧ m.port.toNat = getF s.eth.notify 0 16)) ∧
    (∀ combs chime v, s.accepts (.start h combs chime v) = true →
      let cs := maskCombs combs
      ((∃ c ∈ cs, st c ∉ [SeqState.loaded, .halted, .faulted]) ∨ s.past chime = true →
        exec (.start h combs chime v) s = .next (u.refuse h 0x08 true .state .none)) ∧
      ((∀ c ∈ cs, st c ∈ [SeqState.loaded, .halted, .faulted]) → s.past chime = false → ∃ t, exec (.start h combs chime v) s = .next t ∧
        (cs ≠ [] → t.dev.st = .running) ∧ ∀ c : CombId,
          let q := (s.comb c).seq
          let r := (t.comb c).seq
          (c ∈ cs → r.st = .armed ∧ r.startAt = some chime ∧ (∀ p, q.prog = some p → r.pc = p.entry) ∧ r.loops = [] ∧ getF r.fault 0 8 = 0 ∧
            getF r.frame 32 32 = 0 ∧ ∀ i : Fin 32, r.s[i] = if hi : i.val < 8 then v[i.val] else q.s[i]) ∧
          (c ∉ cs → r = q))) ∧
    (∀ chime, s.accepts (.quiesce h chime) = true →
      exec (.quiesce h chime) s = .next (({ u with chm := { u.chm with qReq := some chime } } : State).reply h 0x09 .ok .none)) ∧
    (∀ chime, s.accepts (.resume h chime) = true →
      exec (.resume h chime) s = .next (({ u with chm := { u.chm with resumeAt := some chime } } : State).reply h 0x0A .ok .none)) ∧
    (∀ c ins ws res, s.accepts (.certify h c ins ws res) = true →
      let no := fun (r : Result) => u.refuse h 0x0B true r .none
      (255 < ins.length ∨ 255 < ws.length → exec (.certify h c ins ws res) s = .next (no .range)) ∧
      (ins.length ≤ 255 → ws.length ≤ 255 →
        ((s.comb c).seq.progSeal = none ∨ s.seals.named ins = none ∨ s.seals.named ws = none ∨ s.seals.named [res] = none →
          exec (.certify h c ins ws res) s = .next (no .state)) ∧
        (∀ p is wv r, (s.comb c).seq.progSeal = some p → s.seals.named ins = some is → s.seals.named ws = some wv → s.seals.named [res] = some [r] →
          let x := chainOf p is wv
          exec (.certify h c ins ws res) s = .next (({ u with seals := { u.seals with chains := (x :: s.seals.chains).take 16 } } : State).reply h 0x0B
            .ok (.bytes (withSig .result (u.certHead x r p is.length wv.length))))))) ∧
    (∀ root deputy base, s.accepts (.nameRoot h root deputy base) = true →
      (s.chm.base ≠ base → exec (.nameRoot h root deputy base) s = .next (u.refuse h 0x0E true .state .none)) ∧
      (s.chm.base = base → ∃ t, exec (.nameRoot h root deputy base) s = .next t ∧
        (t.chm.elected, t.chm.deputy, t.chm.isRoot, t.chm.isDeputy, t.chm.silent) =
          (root, deputy, decide (some root = s.rte.named), decide (some deputy = s.rte.named), 0) ∧
        (some root = s.rte.named → t.chm.orphan = false ∧ t.chm.hops = 0) ∧ (some root ≠ s.rte.named → t.chm.hops = s.chm.hops) ∧ (t.chm.tb, t.chm.n, t.chm.base) = (s.chm.tb, s.chm.n, s.chm.base)))

/-- R33, R378, R380, R381, R383, R406, R407, R411, R416: resets by order, by fault and by pin: their kind, cause and what they leave; how each ends. What waits for a reset's
end is log entry 43, the clock fault 56, boot's phases 2 and 3 67, what reads 0 or stays 68, the answers to orders that a core reset ends 106 (the
model's). -/
def Obligations.Resets : Prop :=
  ∀ (s : State),
    let up := s.dev.st ≠ .off ∧ s.dev.st ≠ .wardenUp ∧ s.dev.reset = none
    let bare := s.eth.linkUp = true ∧ getF s.eth.cfg 33 1 = 0
    (∀ h combs chime,
      let u := s.heard h
      let job := fun (compute : Bool) => { u with dev := { u.dev with jobs := s.dev.jobs ++
        [{ hdr := h, compute := compute, combs := combs, chime := if chime = 0 then s.chm.n + 1 else chime }] } }
      let late := chime ≠ 0 ∧ s.past chime = true
      (s.accepts (.resetComb h combs chime) = true →
        (combs = 0 ∨ late → exec (.resetComb h combs chime) s = .next (u.refuse h 0x21 true .range .none)) ∧
        (combs ≠ 0 → ¬ late → exec (.resetComb h combs chime) s = .next (job false))) ∧
      (s.accepts (.resetCompute h combs chime) = true →
        (combs ≠ 0 ∨ late → exec (.resetCompute h combs chime) s = .next (u.refuse h 0x21 true .range .none)) ∧
        (combs = 0 → ¬ late → exec (.resetCompute h combs chime) s = .next (job true)))) ∧
    (∀ h, let u := s.heard h
      let told := fun (t : State) => getF s.eth.cfg 33 1 = 0 → t.eth.replies = s.eth.replies ++ [⟨h.src, 0x21, h.seq, .ok, s.dev.st, .none⟩]
      let ended := fun (g : OrderHdr) (code : BitVec 8) => (⟨g.src, code, g.seq, .state, s.dev.st, .none⟩ : Reply)
      (s.accepts (.resetCore h) = true → ∃ t, exec (.resetCore h) s = .next t ∧ u.coreWasReset 1 .none t ∧
        (getF s.eth.cfg 33 1 = 0 → t.eth.replies = s.eth.replies ++ [⟨h.src, 0x21, h.seq, .ok, s.dev.st, .none⟩] ++
          ((s.dev.jobs ++ (s.dev.reset.map (·.jobs)).getD []).map fun j => ended j.hdr 0x21) ++
          (s.wdn.profSwitch.map fun x => ended x.2 0x22) ++ s.wdn.fwSwitchAt.map fun g => ended g 0x24)) ∧
      ∀ pins, s.accepts (.resetFull ⟨h, pins⟩) = true → ∃ t, exec (.resetFull ⟨h, pins⟩) s = .next t ∧ u.fullyReset 1 t ∧ t.dev.pins = pins ∧ told t) ∧
    (s.dev.reset = none → exec .resetComplete s = .next s) ∧
    (∀ r, s.dev.reset = some r →
      (r.kind = 3 ∨ r.kind = 4 ∧ r.hold = .porst → exec .resetComplete s = .next s) ∧
      (r.kind = 4 → r.hold ≠ .porst → ∃ t, exec .resetComplete s = .next t ∧ t.dev.st = .wardenUp ∧ t.dev.reset = none ∧
        (s.wdn.phase = 1 → t.wdn.phase = 4 ∧ t.wdn.pins = s.dev.pins ∧
          (t.wdn.profNo, t.wdn.prof) = ({ s.wdn with pins := s.dev.pins } : Wdn).select ∧ t.lnkCfg = t.wdn.prof.lnkWord ∧ t.eth.cfg = t.wdn.prof.ethWord ∧
          (∀ ks j, s.wdn.keySet = some (ks, j) → t.wdn.keySet = none ∧ t.wdn.keys = ks ∧ t.wdn.jtag = j ∧
            ∀ k : Fin 6, t.wdn.nonces[k] = if ks[k] = s.wdn.keys[k] then s.wdn.nonces[k] else 0)) ∧
        (s.wdn.phase ≠ 1 → t.wdn = s.wdn)) ∧
      (r.kind = 1 ∨ r.kind = 2 → ∃ t, exec .resetComplete s = .next t ∧ t.dev.reset = none ∧
        (s.dev.st = .resetting → (∀ c : CombId, (s.comb c).seq.st.active = false) → t.dev.st = (if r.back = .running then .ready else r.back)) ∧
        (bare → t.eth.replies = s.eth.replies ++ r.jobs.map fun j => ⟨j.hdr.src, 0x21, j.hdr.seq, .ok, t.dev.st, .none⟩) ∧ ∀ c : CombId,
          let q := (s.comb c).seq
          (q.st ≠ .empty ∨ q.prog = none → (t.comb c).seq = q) ∧
          (∀ p, q.st = .empty → q.prog = some p → s.mem.crc = [] → s.mem.upsets = [] →
            (∀ im, (s.readImage p.image).1 = some im → plainSeal im.bytes = p.digest →
              (t.comb c).seq.st = .loaded ∧ (t.comb c).seq.cnt = Vector.replicate 256 0) ∧
            ((∀ im, (s.readImage p.image).1 = some im → plainSeal im.bytes ≠ p.digest) → (t.comb c).seq = { q with prog := none })))) ∧
    (s.hallOn = false → exec .hallLockstep s = .next s) ∧
    (s.hallOn = true → ∃ t, exec .hallLockstep s = .next t ∧ s.coreWasReset 5 .none t ∧
      t.wdn.fault.getLsbD 1 = (s.wdn.fault.getLsbD 1 || s.wdn.hallResets.any fun x => decide (s.chm.local_ < x + 2160000000000)) ∧
      (s.chr.queue.length < 1024 → ∃ r ∈ t.chr.queue, r.event = .hallLockstep)) ∧
    (up → (∃ t, exec .clockMonitorFault s = .next t ∧ s.coreWasReset 6 .refclk t ∧ t.wdn.fault.getLsbD 4 = true ∧ t.dev.refclkOk = false) ∧
      (∃ t, exec .railMonitorFault s = .next t ∧ s.coreWasReset 7 .none t ∧ t.wdn.fault.getLsbD 3 = true) ∧
      (∀ va vb, vinOk va = false → vinOk vb = false →
        (∃ t, exec (.supplyLoss va vb true) s = .next t ∧ s.coreWasReset 8 .supply t ∧ t.wdn.fault.getLsbD 3 = true) ∧
        (∃ t, exec (.supplyLoss va vb false) s = .next t ∧ t.dev.st = .resetting ∧ getF t.wdn.rstcause 8 8 = 8 ∧ t.wdn.rstcause.getLsbD 3 = true ∧
          ∀ a, t.byte a = 0)) ∧
      (∀ x, 115 ≤ x → ∃ t, exec (.thermtrip x) s = .next t ∧ s.coreWasReset 9 .thermal t ∧ t.wdn.fault.getLsbD 2 = true ∧ t.dev.thermtrip = true)) ∧
    (∀ va vb held, s.dev.st ≠ .off → vinOk va = true ∨ vinOk vb = true → exec (.supplyLoss va vb held) s = .next (s.measure va vb)) ∧
    (∀ x, x < 115 → exec (.thermtrip x) s = .next s) ∧
    (∀ pins, (s.dev.st ≠ .off → s.dev.porstLow = false → ∃ t, exec (.wardenWatchdog pins) s = .next t ∧ s.fullyReset 0x0C t ∧ t.dev.pins = pins) ∧
      (s.dev.porstLow = true → exec (.wardenWatchdog pins) s = .next s) ∧
      (s.dev.st ≠ .off → ∃ t, exec (.porst true pins) s = .next t ∧ s.fullyReset 0x0A t ∧ (t.dev.reset.map (·.hold)) = some .porst ∧ t.dev.porstLow = true ∧
        t.dev.alive = false) ∧
      (∀ r, s.dev.st ≠ .off → s.dev.reset = some r → r.hold = .porst → ∃ t, exec (.porst false pins) s = .next t ∧
        t.dev.reset = some { r with hold := .none } ∧ t.dev.porstLow = false ∧ t.dev.pins = pins) ∧
      (s.dev.st ≠ .off → s.dev.reset = none → exec (.porst false pins) s = .next { s with dev := { s.dev with porstLow := false } })) ∧
    (∀ pins, s.dev.st = .off → (exec (.vauxChange (false, false) pins) s = .next { s with pwr := { s.pwr with vaux := (false, false) } }) ∧
      ∀ a b, (a || b) = true → s.dev.porstLow = false → ∃ t, exec (.vauxChange (a, b) pins) s = .next t ∧ t.dev.st = .wardenUp ∧ t.dev.reset = none ∧ t.wdn.pins = pins ∧ t.wdn.phase = 4 ∧
        getF t.wdn.rstcause 8 8 = 0x0B ∧ t.wdn.boots = s.wdn.boots + 1 ∧ t.pwr.vaux = (a, b) ∧ t.mem.bytes = []) ∧
    (∀ pins, s.dev.st ≠ .off → (∃ t, exec (.vauxChange (false, false) pins) s = .next t ∧ t.dev.st = .off ∧ t.mem.bytes = [] ∧
        (t.wdn.keys, t.wdn.nonces, t.wdn.profiles, t.wdn.banks, t.wdn.boots) = (s.wdn.keys, s.wdn.nonces, s.wdn.profiles, s.wdn.banks, s.wdn.boots) ∧
        (s.chr.clearing = none → t.chr.records = s.chr.records)) ∧
      (s.pwr.vaux = (true, true) → exec (.vauxChange (false, true) pins) s = .next
        (({ s with pwr := { s.pwr with vaux := (false, true) } } : State).record (.vauxLost false))))

/-- R368, R390, R391, R395, R397, R398, R399, R400, R402: profiles and associations by order, the staging of items piece by piece and their verification, the firmware switch,
and the chronicle's clearing and writing. The replies of PROFILE and FW_SWITCH at the chime are log entry 63, the staging rules 65, the associations
at once 58 (the model's). -/
def Obligations.WardenOrders : Prop :=
  ∀ (s : State) (h : OrderHdr),
    let u := s.heard h
    let w := s.wdn
    (∀ slot, s.accepts (.profileSelect h slot) = true →
      let no := exec (.profileSelect h slot) s = .next (u.refuse h 0x22 true .range .none)
      (4 ≤ slot.toNat → no) ∧
      (∀ hk : slot.toNat < 4, (w.profiles[slot.toNat] = none → no) ∧ (w.profiles[slot.toNat] ≠ none → exec (.profileSelect h slot) s =
        .next { u with wdn := { u.wdn with profSwitch := u.wdn.profSwitch ++ [(⟨slot.toNat, hk⟩, h)] } }))) ∧
    (let due := s.chm.running = true ∧ s.dev.st = .quiesced ∧ s.chm.qGo = none ∧ s.chm.resumeAt = none ∧ s.eth.linkUp = true ∧ getF s.eth.cfg 33 1 = 0
     (∀ k g bs, due → w.profSwitch = [(k, g)] → w.profiles[k] = some bs → ∃ t, exec .chime s = .next t ∧
        (t.wdn.profNo.toNat, t.wdn.prof, t.wdn.profSwitch) = (k.val, Config.parseProfile bs, []) ∧
        (⟨g.src, 0x22, g.seq, .ok, .quiesced, .none⟩ : Reply) ∈ t.eth.replies) ∧
     (∀ g, due → w.fwSwitchAt = [g] → w.staged = true → ∃ t, exec .chime s = .next t ∧
        (t.wdn.bank, t.wdn.staged, t.wdn.fwSwitchAt) = (!w.bank, false, []) ∧ (⟨g.src, 0x24, g.seq, .ok, .quiesced, .none⟩ : Reply) ∈ t.eth.replies)) ∧
    (∀ rx an a, s.accepts (.ethernetDefaults h rx an a) = true →
      (1 < an.toNat → exec (.ethernetDefaults h rx an a) s = .next (u.refuse h 0x22 true .range .none)) ∧
      (rx = false → an.toNat = getF s.eth.cfg 35 1 → exec (.ethernetDefaults h rx an a) s = .next (u.refuse h 0x22 true .state .none)) ∧
      (an.toNat ≤ 1 → rx = true ∨ an.toNat ≠ getF s.eth.cfg 35 1 → ∃ t, exec (.ethernetDefaults h rx an a) s = .next t ∧
        (∀ j : Fin 4, t.eth.assoc[j] = if j.val = (if rx then 0 else 2) + an.toNat then a else s.eth.assoc[j]) ∧
        (∀ j : Fin 2, rx = false → j.val = an.toNat → t.eth.pn[j] = 0))) ∧
    (∀ (kind : Fin 3) (b : StagePiece),
      let c := match kind with | 0 => Instr.fwStageImage h b | 1 => .fwStageProfile h b | 2 => .fwStageKeySet h b
      let no := fun (r : Result) (x : ReplyBody) => exec c s = .next (u.refuse h 0x23 true r x)
      let most := match kind with | 0 => 16777216 | 1 => 262144 | 2 => 462
      let fits := b.zeros = 0 ∧ b.data.length ≤ 8192 ∧ 1 ≤ b.total.toNat ∧ b.total.toNat ≤ most ∧ b.offset.toNat + b.data.length ≤ b.total.toNat ∧
        (if kind = 1 then b.slot.toNat ≤ 3 else b.slot = 0) ∧ (b.arm = 0 ∨ b.arm = 1 ∧ b.offset.toNat + b.data.length = b.total.toNat ∧ kind ≠ 2)
      let busy := (∃ x ∈ w.staging, x.kind = kind ∧ x.verifying = true) ∨ w.armedKind kind = true
      let old := ((w.stage kind b.slot).map (·.data)).getD []
      s.accepts c = true →
        (¬ fits → no .range (if b.offset ≠ 0 ∧ b.offset.toNat ≠ old.length then .expected old.length else .none)) ∧ (fits → busy → no .busy .none) ∧
        (fits → ¬ busy → b.offset ≠ 0 → b.offset.toNat ≠ old.length → no .range (.expected old.length)) ∧
        (∀ x, fits → ¬ busy → b.offset ≠ 0 → b.offset.toNat = old.length → w.stage kind b.slot = some x → x.total ≠ b.total → no .range .none) ∧
        (fits → ¬ busy → b.offset = 0 ∨ b.offset.toNat = old.length ∧ (∀ x, w.stage kind b.slot = some x → x.total = b.total) →
          let data := (if b.offset = 0 then [] else old) ++ b.data
          ∃ t y, exec c s = .next t ∧ y ∈ t.wdn.staging ∧ (y.kind, y.slot, y.total, y.data) = (kind, b.slot, b.total, data) ∧
            y.verifying = decide (data.length = b.total.toNat) ∧
            (data.length = b.total.toNat → y.hdr = some h ∧ t.eth.replies = s.eth.replies) ∧
            (data.length ≠ b.total.toNat → getF s.eth.cfg 33 1 = 0 →
              t.eth.replies = s.eth.replies ++ [⟨h.src, 0x23, h.seq, .ok, s.dev.st, .none⟩]) ∧
            (kind = 0 → t.wdn.banks = w.banks.set (bankIx (!w.bank)) { bytes := data, failed := true } ∧ t.wdn.staged = false) ∧
            (kind = 2 → t.wdn.keySet = none))) ∧
    (∀ (kind : Fin 3),
      ((w.staging.find? fun x => x.kind == kind && x.verifying) = none → exec (.stageVerified kind) s = .next s) ∧
      (∀ x, (w.staging.find? fun x => x.kind == kind && x.verifying) = some x →
        let ok := match kind with
          | 0 => imagePasses x.data w.svnMin.toNat
          | 1 => profileOk x.data
          | 2 => w.keySetOk x.data
        ∃ t, exec (.stageVerified kind) s = .next t ∧ t.wdn.staging = w.staging.erase x ∧
          (∀ g, x.hdr = some g → s.eth.linkUp = true → getF s.eth.cfg 33 1 = 0 →
            t.eth.replies = s.eth.replies ++ [⟨g.src, 0x23, g.seq, if ok then .ok else .range, s.dev.st, .none⟩]) ∧
          (ok = false → t.wdn = { w with staging := w.staging.erase x }) ∧
          (ok = true → kind = 0 → t.wdn.banks = w.banks.set (bankIx (!w.bank)) { bytes := x.data } ∧ t.wdn.staged = true ∧ t.wdn.armed = x.arm) ∧
          (∀ k : Fin 4, ok = true → kind = 1 → x.slot.toNat = k.val → t.wdn.profiles[k] = some x.data ∧ (x.arm = true → t.wdn.profArm = some k)) ∧
          (ok = true → kind = 2 → t.wdn.keySet = some (keysOf x.data, hdrField x.data 342 1 == 1) ∧ t.wdn.keys = w.keys))) ∧
    (s.accepts (.fwSwitch h) = true → exec (.fwSwitch h) s = .next (if w.staged then
      { u with wdn := { u.wdn with fwSwitchAt := u.wdn.fwSwitchAt ++ [h] } } else u.refuse h 0x24 true .range .none)) ∧
    (s.accepts (.chrClear h) = true → exec (.chrClear h) s = .next (if s.chr.clearing ≠ none then u.refuse h 0x25 true .busy .none
      else { u with chr := { s.chr with clearing := some (some h, s.chr.records.length) } })) ∧
    (s.chr.clearing = none → exec .chrClearDone s = .next s) ∧
    (∀ g old, s.chr.clearing = some (g, old) → ∃ t r, exec .chrClearDone s = .next t ∧ t.chr.records = [r] ∧ t.chr.clearing = none ∧
      r.event = .clear old (s.readReg .chrRefused) (((g.bind (·.trailer)).map (·.nonce)).getD 0) ∧ (r.chime, r.boots) = (s.chm.n, w.boots) ∧
      (g = none → t.eth = s.eth) ∧
      (∀ x, g = some x → s.eth.linkUp = true → getF s.eth.cfg 33 1 = 0 →
        t.eth.replies = s.eth.replies ++ [⟨x.src, 0x25, x.seq, .ok, s.dev.st, .none⟩])) ∧
    ((s.dev.st = .off ∨ s.chr.clearing ≠ none ∨ s.chr.queue = []) → exec .chronicleRecordWrite s = .next s) ∧
    (∀ r l, s.dev.st ≠ .off → s.chr.clearing = none → s.chr.queue = r :: l → exec .chronicleRecordWrite s = .next { s with chr :=
      if s.chr.records.length < 131072 then { s.chr with queue := l, records := s.chr.records ++ [r] }
      else { s.chr with queue := l, full := BitVec.ofNat 32 (min (2 ^ 32 - 1) (s.chr.full.toNat + 1)) } })

/-- R24, R26, R27, R376, R383, R387, R388, R394, R406, R407, R409, R411, R418: the supplies and their transfer, ALIVE, throttling, heat, latent-fault tests, the
TAP, and the boot phases 4 to 7. Phases 2 and 3 with NOFW and FALLBACK are log entry 67, ILIM at each request above the limit 69, a square's failed
test 70, what the TAP's data registers hold 107 (the model's). -/
def Obligations.PowerPinsAndBoot : Prop :=
  ∀ (s : State),
    let p := s.pwr
    let w := s.wdn
    let on := s.dev.st ≠ .off
    let moved := fun (va vb : Nat) (c : Instr) => ∃ t, exec c s = .next t ∧ t.pwr.onB = !p.onB ∧ t.pwr.xfers.toNat = min 0xFFFF (p.xfers.toNat + 1) ∧
      (t.combs, t.mem, t.dev) = (s.combs, s.mem, s.dev) ∧
      (s.chr.queue.length < 1024 → (t.chr.queue.map (·.event)) = (s.chr.queue.map (·.event)) ++ [.vinTransfer va vb])
    let steps := fun (t : State) => (t.combs, t.mem, t.dev, t.wdn) = (s.combs, s.mem, s.dev, s.wdn)
    (∀ va vb, on →
      let used := if p.onB then vinOk vb else vinOk va
      let other := if p.onB then vinOk va else vinOk vb
      let v := if p.pref then vb else va
      (used = false ∧ other = true → moved va vb (.vinTransfer va vb)) ∧
      (used = true ∨ other = false → exec (.vinTransfer va vb) s = .next (s.measure va vb)) ∧
      (p.pref ≠ p.onB ∧ 10800 ≤ v ∧ v ≤ 13200 → moved va vb (.vinTransferBack va vb)) ∧
      (p.pref = p.onB ∨ v < 10800 ∨ 13200 < v → exec (.vinTransferBack va vb) s = .next (s.measure va vb))) ∧
    (on → s.dev.porstLow = false → exec .aliveToggle s = .next { s with dev := { s.dev with alive := !s.dev.alive } }) ∧
    (∀ x, on →
      (∃ t, exec (.thermalRequest x true) s = .next t ∧ steps t ∧ t.pwr.tjmax.toNat = min 255 x ∧
        t.pwr.thstep.toNat = if 95 ≤ x ∧ p.thstep.toNat < w.prof.deepest.toNat then p.thstep.toNat + 1 else p.thstep.toNat) ∧
      (∃ t, exec (.thermalRequest x false) s = .next t ∧ steps t ∧ t.pwr.thstep.toNat = if x < 92 then p.thstep.toNat - 1 else p.thstep.toNat)) ∧
    (∀ ia ib, on →
      (∃ t, exec (.currentRequest ia ib true) s = .next t ∧ steps t ∧
        t.pwr.curstep.toNat = (if 2000 < ia + ib ∧ p.curstep.toNat < w.prof.deepest.toNat then p.curstep.toNat + 1 else p.curstep.toNat) ∧
        t.pwr.ilim = (p.ilim || decide (2000 < ia + ib ∧ w.prof.deepest.toNat ≤ p.curstep.toNat))) ∧
      (∃ t, exec (.currentRequest ia ib false) s = .next t ∧ steps t ∧ t.pwr.ilim = p.ilim ∧
        t.pwr.curstep.toNat = if ia + ib < 1800 then p.curstep.toNat - 1 else p.curstep.toNat)) ∧
    (∀ x, on → (x < 105 ∨ p.overArmed = false → exec (.junctionOver x) s = .next (s.heat x)) ∧
      (105 ≤ x → p.overArmed = true → ∃ t, exec (.junctionOver x) s = .next t ∧ t.pwr.overT = true ∧ t.pwr.overArmed = false ∧ t.combs = s.combs ∧
        (s.chr.queue.length < 1023 → .junctionOver ∈ (t.chr.queue.map (·.event))))) ∧
    (∀ x failed, (s.dev.st = .off ∨ x ≠ .monitors ∧ s.coreOn = false) → exec (.latentFaultTest x failed) s = .next s) ∧
    (∀ x, on → x = .monitors ∨ s.coreOn = true →
      exec (.latentFaultTest x false) s = .next { s with wdn := { w with latent := wrapF w.latent 32 32 1 } } ∧
      ∃ t, exec (.latentFaultTest x true) s = .next t ∧
        (x = .hallComparator ∨ (∃ q, x = .squareSecded q) ∨ (∃ m, x = .pageDecoder m) ∨ x = .monitors →
          t.wdn.latent = setB (wrapF w.latent 32 32 1) (LatentTest.row x) true ∧ t.wdn.fault.getLsbD 5 = true ∧ t.combs = s.combs) ∧
        (∀ l : LinkId, x = .linkCrc l → (s.links[l]).st ≠ .off → (t.links[l]).st = .failed ∧ t.wdn.latent.getLsbD 4 = true) ∧
        (∀ c : CombId, x = .arrayChecker c ∨ x = .seqComparator c ∨ x = .combSecded c →
          (t.comb c).due = some { cause := 3, reload := true, remap := true } ∧ t.dev.failed (getF (s.comb c).map 0 7) = true ∧
          t.dev.st = s.dev.st ∧ t.wdn.latent.getLsbD (LatentTest.row x) = true)) ∧
    (∀ x : TapIn,
      let tap := s.dev.tap
      let early := s.dev.st = .wardenUp ∨ s.dev.st = .coreUp
      let pins := [TapInstr.extest, .extestPulse, .extestTrain]
      let i := if x.instr ∈ pins ∧ ¬ early then .bypass else x.instr
      let n := x.tdi.length
      (s.dev.st = .off → exec (.tapInstruction x) s = .next s) ∧
      (on → x.trstN = false ∨ w.closed = true ∧ w.protJtag = false →
        exec (.tapInstruction x) s = .next { s with dev := { s.dev with tap := { tap with instr := .idcode, drive := false, trstN := x.trstN } } }) ∧
      (on → x.trstN = true → w.closed = false ∨ w.protJtag = true → ∃ t, exec (.tapInstruction x) s = .next t ∧
        t = { s with chr := t.chr, dev := { s.dev with tap := t.dev.tap } } ∧
        (t.dev.tap.instr, t.dev.tap.trstN, t.dev.tap.drive) = (i, true, decide (i ∈ pins)) ∧
        (i = .bypass → t.dev.tap.cells = tap.cells ∧ t.dev.tap.tdo = tap.tdo ++ (false :: x.tdi).take n) ∧
        (i = .idcode → t.dev.tap.cells = tap.cells ∧ (n = 32 → ∃ maker : BitVec 11, t.dev.tap.tdo = tap.tdo ++
          (List.range 32).map (1#4 ++ 0x6424#16 ++ maker ++ 1#1 : BitVec 32).getLsbD)) ∧
        (i = .samplePreload ∨ i ∈ pins → n = x.cells.length → n ≠ 0 → t.dev.tap.cells = x.tdi ∧ t.dev.tap.tdo = tap.tdo ++ x.cells) ∧
        (s.chr.queue.length < 1024 → (t.chr.queue.map (·.event)) = (s.chr.queue.map (·.event)) ++
          (if x.instr ∈ pins ∧ ¬ early then [.tapBypass] else [])))) ∧
    (let v := if s.booting then s.midBoot else s
     let x := v.wdn
     let own := x.banks[bankIx x.bank]
     let spare := x.banks[bankIx (!x.bank)]
     let pass := fun (k : FwBank) => k.failed = false ∧ imagePasses k.bytes x.svnMin.toNat = true
     let due := s.booting = true ∧ x.nofw = false ∧ x.phase = 4
     let runs := fun (bs : List Byte) => if x.wdnFw = [] then fwMeas bs else x.wdnFw
     (w.phase ≠ 1 → v = s) ∧ (s.booting = true → w.phase = 1 → x.phase = 4 ∧ x.pins = s.dev.pins) ∧
     (¬ due → exec .bootVerify s = .next v) ∧
     (due → pass own → exec .bootVerify s = .next { v with wdn := { x with phase := 5, wdnFw := runs own.bytes } }) ∧
     (due → ¬ pass own → pass spare → ∃ t, exec .bootVerify s = .next t ∧ (t.wdn.bank, t.wdn.svnMin) = (!x.bank, x.svnMin) ∧
       t.wdn = { x with phase := 5, bootRec := t.wdn.bootRec, fallback := true, staged := false, wdnFw := runs spare.bytes }) ∧
     (due → ¬ pass own → ¬ pass spare → ∃ t, exec .bootVerify s = .next t ∧
       t.dev.st = .wardenUp ∧ t.dev.reset = none ∧ t.wdn = { x with phase := 4, nofw := true })) ∧
    (∀ vin, let due := s.booting = true ∧ w.phase = 5 ∧ s.dev.thermtrip = false ∧ 10800 ≤ vin ∧ vin ≤ 13200
      (due → exec (.bootSupply vin) s = .next { s with wdn := { w with phase := 6 } }) ∧ (¬ due → exec (.bootSupply vin) s = .next s)) ∧
    (∀ x : CombSelftest, let due := s.booting = true ∧ w.phase = 6 ∧ x.refclkGood = true
      (¬ due → exec (.bootCore x) s = .next s) ∧
      (due → ∃ t, exec (.bootCore x) s = .next t ∧ t.wdn.phase = 7 ∧ t.dev.stagedWrites = [] ∧
        (s.dev.stagedWrites = [] → x.findings = [] → t.dev.stuck = s.wdn.fault.getLsbD 1 ∧ ∀ c : CombId, (t.comb c).map = BitVec.ofNat 64 c.val) ∧
        (∀ n : CombId, s.dev.stagedWrites = [] → x.findings = [⟨n.castLE (by decide), [], true⟩] → t.wdn.fault.getLsbD 0 = false ∧
          ∀ c : CombId, (t.comb c).map = BitVec.ofNat 64 (if c = n then 64 + fieldOf n else c.val)))) ∧
    (s.booting = false ∨ w.phase ≠ 7 → exec .bootClose s = .next s) ∧
    (s.booting = true → w.phase = 7 → ∃ t, exec .bootClose s = .next t ∧ t.dev.st = .coreUp ∧ t.dev.reset = none ∧
      t.wdn = { w with closed := true, protKeys := w.keys, protJtag := w.jtag, protMap := s.combs.toList.map (·.map) } ∧
      t.dev.tap = (if w.jtag then s.dev.tap else { s.dev.tap with instr := .idcode, drive := false }))

end
end

