-- ==== Sys2Proof/Laws/Sparse.lean ====
section
/-!
SUPPORT. Laws of the sparse stores: what is written is read back, other keys read as before, and every operation keeps the
canonical form.
-/
namespace Sys2Proof.Machine

variable {α : Type} [DecidableEq α] {d : α}

theorem Sparse.wfFrom_mono {m : List (Nat × α)} {a b : Nat} (hab : a ≤ b) (h : Sparse.wfFrom d b m = true) :
    Sparse.wfFrom d a m = true := by
  cases m with
  | nil => rfl
  | cons x t => simp only [Sparse.wfFrom, Bool.and_eq_true, decide_eq_true_eq] at h ⊢; exact ⟨⟨by omega, h.1.2⟩, h.2⟩

theorem Sparse.wfFrom_set {m : List (Nat × α)} {lo k : Nat} {v : α} (hk : lo ≤ k) (h : Sparse.wfFrom d lo m = true) :
    Sparse.wfFrom d lo (Sparse.set d m k v) = true := by
  induction m generalizing lo with
  | nil => by_cases hv : v = d <;> simp [Sparse.set, Sparse.wfFrom, hv, hk]
  | cons x t ih =>
    obtain ⟨j, w⟩ := x
    simp only [Sparse.wfFrom, Bool.and_eq_true, decide_eq_true_eq] at h
    obtain ⟨⟨h1, h2⟩, h3⟩ := h
    rcases Nat.lt_trichotomy k j with hj | hj | hj
    · by_cases hv : v = d <;> simp [Sparse.set, Sparse.wfFrom, hv, hk, hj, h1, h2, h3]
    · subst hj
      by_cases hv : v = d
      · simpa [Sparse.set, hv] using Sparse.wfFrom_mono (by omega : lo ≤ k + 1) h3
      · simp [Sparse.set, Sparse.wfFrom, hv, hk, h3]
    · have e : Sparse.set d ((j, w) :: t) k v = (j, w) :: Sparse.set d t k v := by
        simp [Sparse.set, show ¬ k < j by omega, show ¬ k = j by omega]
      simp [e, Sparse.wfFrom, h1, h2, ih (by omega : j + 1 ≤ k) h3]

@[simp] theorem Sparse.wf_set {m : List (Nat × α)} (k : Nat) (v : α) (h : Sparse.wf d m = true) :
    Sparse.wf d (Sparse.set d m k v) = true := Sparse.wfFrom_set (Nat.zero_le k) h

theorem Sparse.wfFrom_filter (p : Nat × α → Bool) {m : List (Nat × α)} {lo : Nat} (h : Sparse.wfFrom d lo m = true) :
    Sparse.wfFrom d lo (m.filter p) = true := by
  induction m generalizing lo with
  | nil => rfl
  | cons x t ih =>
    obtain ⟨j, w⟩ := x
    simp only [Sparse.wfFrom, Bool.and_eq_true, decide_eq_true_eq] at h
    by_cases hp : p (j, w) = true
    · simp [hp, Sparse.wfFrom, h.1.1, h.1.2, ih h.2]
    · simpa [List.filter_cons, hp] using Sparse.wfFrom_mono (by omega : lo ≤ j + 1) (ih h.2)

@[simp] theorem Sparse.wf_filter (p : Nat × α → Bool) {m : List (Nat × α)} (h : Sparse.wf d m = true) :
    Sparse.wf d (m.filter p) = true := Sparse.wfFrom_filter p h

@[simp] theorem Sparse.wf_nil : Sparse.wf d ([] : List (Nat × α)) = true := rfl

/-- A fold of writes keeps the canonical form. -/
theorem Sparse.wf_foldl {β : Type} (f : List (Nat × α) → β → List (Nat × α))
    (hf : ∀ m x, Sparse.wf d m = true → Sparse.wf d (f m x) = true) (l : List β) {m : List (Nat × α)} (h : Sparse.wf d m = true) :
    Sparse.wf d (l.foldl f m) = true := by
  induction l generalizing m with
  | nil => exact h
  | cons x t ih => exact ih (hf m x h)

/-- A key below every key listed reads as the default. -/
theorem Sparse.get_below {m : List (Nat × α)} {lo k : Nat} (h : Sparse.wfFrom d lo m = true) (hk : k < lo) : Sparse.get d m k = d := by
  induction m generalizing lo with
  | nil => rfl
  | cons x t ih =>
    obtain ⟨j, w⟩ := x
    simp only [Sparse.wfFrom, Bool.and_eq_true, decide_eq_true_eq] at h
    simp [Sparse.get, show ¬ k = j by omega, ih h.2 (by omega)]

/-- What is written and is not the default is read back, whatever the list. -/
theorem Sparse.get_set_self_ne (m : List (Nat × α)) (k : Nat) {v : α} (hv : v ≠ d) : Sparse.get d (Sparse.set d m k v) k = v := by
  induction m with
  | nil => simp [Sparse.set, Sparse.get, hv]
  | cons x t ih =>
    obtain ⟨j, w⟩ := x
    rcases Nat.lt_trichotomy k j with hj | hj | hj
    · simp [Sparse.set, Sparse.get, hv, hj]
    · simp [Sparse.set, Sparse.get, hv, hj]
    · simp [Sparse.set, Sparse.get, show ¬ k < j by omega, show ¬ k = j by omega, ih]

@[simp] theorem Sparse.get_set_self (m : List (Nat × α)) (k : Nat) (v : α) (h : Sparse.wf d m = true) :
    Sparse.get d (Sparse.set d m k v) k = v := by
  by_cases hv : v = d
  · subst hv
    have H : ∀ lo, Sparse.wfFrom v lo m = true → Sparse.get v (Sparse.set v m k v) k = v := by
      intro lo hl
      induction m generalizing lo with
      | nil => simp [Sparse.set, Sparse.get]
      | cons x t ih =>
        obtain ⟨j, w⟩ := x
        have hl' := hl
        simp only [Sparse.wfFrom, Bool.and_eq_true, decide_eq_true_eq] at hl
        rcases Nat.lt_trichotomy k j with hj | hj | hj
        · simp [Sparse.set, Sparse.get, hj, show ¬ k = j by omega, Sparse.get_below hl.2 (show k < j + 1 by omega)]
        · subst hj; simp [Sparse.set, Sparse.get_below hl.2 (Nat.lt_succ_self k)]
        · simp [Sparse.set, Sparse.get, show ¬ k < j by omega, show ¬ k = j by omega,
            ih (Sparse.wfFrom_mono (Nat.zero_le _) hl.2) (j + 1) hl.2]
    exact H 0 h
  · exact Sparse.get_set_self_ne m k hv

/-- Other keys read as before, whatever the list. -/
@[simp] theorem Sparse.get_set_ne (m : List (Nat × α)) {k j : Nat} (v : α) (hkj : j ≠ k) :
    Sparse.get d (Sparse.set d m k v) j = Sparse.get d m j := by
  induction m with
  | nil => by_cases hv : v = d <;> simp [Sparse.set, Sparse.get, hv, hkj]
  | cons x t ih =>
    obtain ⟨i, w⟩ := x
    rcases Nat.lt_trichotomy k i with hi | hi | hi
    · by_cases hv : v = d <;> simp [Sparse.set, Sparse.get, hv, hi, hkj]
    · subst hi
      by_cases hv : v = d <;> simp [Sparse.set, Sparse.get, hv, hkj]
    · by_cases hj : j = i <;> simp [Sparse.set, Sparse.get, show ¬ k < i by omega, show ¬ k = i by omega, hj, ih]

end Sys2Proof.Machine
end

