-- ==== Sys2Proof/Laws/State.lean ====
section
/-!
SUPPORT. What each update of State leaves: one lemma a field, true by reflexivity, so that no proof unfolds a record update.
-/
namespace Sys2Proof.Machine

variable (s : State)

@[simp] theorem State.modComb_pending (c : CombId) (f : Comb → Comb) : (s.modComb c f).pending = s.pending := rfl
@[simp] theorem State.modComb_dev (c : CombId) (f : Comb → Comb) : (s.modComb c f).dev = s.dev := rfl
@[simp] theorem State.modComb_squares (c : CombId) (f : Comb → Comb) : (s.modComb c f).squares = s.squares := rfl
@[simp] theorem State.modComb_mem (c : CombId) (f : Comb → Comb) : (s.modComb c f).mem = s.mem := rfl
@[simp] theorem State.modComb_mcs (c : CombId) (f : Comb → Comb) : (s.modComb c f).mcs = s.mcs := rfl
@[simp] theorem State.modComb_links (c : CombId) (f : Comb → Comb) : (s.modComb c f).links = s.links := rfl
@[simp] theorem State.modComb_lnkCfg (c : CombId) (f : Comb → Comb) : (s.modComb c f).lnkCfg = s.lnkCfg := rfl
@[simp] theorem State.modComb_rte (c : CombId) (f : Comb → Comb) : (s.modComb c f).rte = s.rte := rfl
@[simp] theorem State.modComb_fab (c : CombId) (f : Comb → Comb) : (s.modComb c f).fab = s.fab := rfl
@[simp] theorem State.modComb_col (c : CombId) (f : Comb → Comb) : (s.modComb c f).col = s.col := rfl
@[simp] theorem State.modComb_chm (c : CombId) (f : Comb → Comb) : (s.modComb c f).chm = s.chm := rfl
@[simp] theorem State.modComb_seals (c : CombId) (f : Comb → Comb) : (s.modComb c f).seals = s.seals := rfl
@[simp] theorem State.modComb_stp (c : CombId) (f : Comb → Comb) : (s.modComb c f).stp = s.stp := rfl
@[simp] theorem State.modComb_eth (c : CombId) (f : Comb → Comb) : (s.modComb c f).eth = s.eth := rfl
@[simp] theorem State.modComb_wdn (c : CombId) (f : Comb → Comb) : (s.modComb c f).wdn = s.wdn := rfl
@[simp] theorem State.modComb_chr (c : CombId) (f : Comb → Comb) : (s.modComb c f).chr = s.chr := rfl
@[simp] theorem State.modComb_pwr (c : CombId) (f : Comb → Comb) : (s.modComb c f).pwr = s.pwr := rfl
@[simp] theorem State.modComb_free (c : CombId) (f : Comb → Comb) : (s.modComb c f).free = s.free := rfl

@[simp] theorem State.modSeq_pending (c : CombId) (f : Seq → Seq) : (s.modSeq c f).pending = s.pending := rfl
@[simp] theorem State.modSeq_dev (c : CombId) (f : Seq → Seq) : (s.modSeq c f).dev = s.dev := rfl
@[simp] theorem State.modSeq_squares (c : CombId) (f : Seq → Seq) : (s.modSeq c f).squares = s.squares := rfl
@[simp] theorem State.modSeq_mem (c : CombId) (f : Seq → Seq) : (s.modSeq c f).mem = s.mem := rfl
@[simp] theorem State.modSeq_mcs (c : CombId) (f : Seq → Seq) : (s.modSeq c f).mcs = s.mcs := rfl
@[simp] theorem State.modSeq_links (c : CombId) (f : Seq → Seq) : (s.modSeq c f).links = s.links := rfl
@[simp] theorem State.modSeq_lnkCfg (c : CombId) (f : Seq → Seq) : (s.modSeq c f).lnkCfg = s.lnkCfg := rfl
@[simp] theorem State.modSeq_rte (c : CombId) (f : Seq → Seq) : (s.modSeq c f).rte = s.rte := rfl
@[simp] theorem State.modSeq_fab (c : CombId) (f : Seq → Seq) : (s.modSeq c f).fab = s.fab := rfl
@[simp] theorem State.modSeq_col (c : CombId) (f : Seq → Seq) : (s.modSeq c f).col = s.col := rfl
@[simp] theorem State.modSeq_chm (c : CombId) (f : Seq → Seq) : (s.modSeq c f).chm = s.chm := rfl
@[simp] theorem State.modSeq_seals (c : CombId) (f : Seq → Seq) : (s.modSeq c f).seals = s.seals := rfl
@[simp] theorem State.modSeq_stp (c : CombId) (f : Seq → Seq) : (s.modSeq c f).stp = s.stp := rfl
@[simp] theorem State.modSeq_eth (c : CombId) (f : Seq → Seq) : (s.modSeq c f).eth = s.eth := rfl
@[simp] theorem State.modSeq_wdn (c : CombId) (f : Seq → Seq) : (s.modSeq c f).wdn = s.wdn := rfl
@[simp] theorem State.modSeq_chr (c : CombId) (f : Seq → Seq) : (s.modSeq c f).chr = s.chr := rfl
@[simp] theorem State.modSeq_pwr (c : CombId) (f : Seq → Seq) : (s.modSeq c f).pwr = s.pwr := rfl
@[simp] theorem State.modSeq_free (c : CombId) (f : Seq → Seq) : (s.modSeq c f).free = s.free := rfl

@[simp] theorem State.modMat_pending (c : CombId) (f : Mat → Mat) : (s.modMat c f).pending = s.pending := rfl
@[simp] theorem State.modMat_dev (c : CombId) (f : Mat → Mat) : (s.modMat c f).dev = s.dev := rfl
@[simp] theorem State.modMat_squares (c : CombId) (f : Mat → Mat) : (s.modMat c f).squares = s.squares := rfl
@[simp] theorem State.modMat_mem (c : CombId) (f : Mat → Mat) : (s.modMat c f).mem = s.mem := rfl
@[simp] theorem State.modMat_mcs (c : CombId) (f : Mat → Mat) : (s.modMat c f).mcs = s.mcs := rfl
@[simp] theorem State.modMat_links (c : CombId) (f : Mat → Mat) : (s.modMat c f).links = s.links := rfl
@[simp] theorem State.modMat_lnkCfg (c : CombId) (f : Mat → Mat) : (s.modMat c f).lnkCfg = s.lnkCfg := rfl
@[simp] theorem State.modMat_rte (c : CombId) (f : Mat → Mat) : (s.modMat c f).rte = s.rte := rfl
@[simp] theorem State.modMat_fab (c : CombId) (f : Mat → Mat) : (s.modMat c f).fab = s.fab := rfl
@[simp] theorem State.modMat_col (c : CombId) (f : Mat → Mat) : (s.modMat c f).col = s.col := rfl
@[simp] theorem State.modMat_chm (c : CombId) (f : Mat → Mat) : (s.modMat c f).chm = s.chm := rfl
@[simp] theorem State.modMat_seals (c : CombId) (f : Mat → Mat) : (s.modMat c f).seals = s.seals := rfl
@[simp] theorem State.modMat_stp (c : CombId) (f : Mat → Mat) : (s.modMat c f).stp = s.stp := rfl
@[simp] theorem State.modMat_eth (c : CombId) (f : Mat → Mat) : (s.modMat c f).eth = s.eth := rfl
@[simp] theorem State.modMat_wdn (c : CombId) (f : Mat → Mat) : (s.modMat c f).wdn = s.wdn := rfl
@[simp] theorem State.modMat_chr (c : CombId) (f : Mat → Mat) : (s.modMat c f).chr = s.chr := rfl
@[simp] theorem State.modMat_pwr (c : CombId) (f : Mat → Mat) : (s.modMat c f).pwr = s.pwr := rfl
@[simp] theorem State.modMat_free (c : CombId) (f : Mat → Mat) : (s.modMat c f).free = s.free := rfl

@[simp] theorem State.modExt_pending (c : CombId) (f : Ext → Ext) : (s.modExt c f).pending = s.pending := rfl
@[simp] theorem State.modExt_dev (c : CombId) (f : Ext → Ext) : (s.modExt c f).dev = s.dev := rfl
@[simp] theorem State.modExt_squares (c : CombId) (f : Ext → Ext) : (s.modExt c f).squares = s.squares := rfl
@[simp] theorem State.modExt_mem (c : CombId) (f : Ext → Ext) : (s.modExt c f).mem = s.mem := rfl
@[simp] theorem State.modExt_mcs (c : CombId) (f : Ext → Ext) : (s.modExt c f).mcs = s.mcs := rfl
@[simp] theorem State.modExt_links (c : CombId) (f : Ext → Ext) : (s.modExt c f).links = s.links := rfl
@[simp] theorem State.modExt_lnkCfg (c : CombId) (f : Ext → Ext) : (s.modExt c f).lnkCfg = s.lnkCfg := rfl
@[simp] theorem State.modExt_rte (c : CombId) (f : Ext → Ext) : (s.modExt c f).rte = s.rte := rfl
@[simp] theorem State.modExt_fab (c : CombId) (f : Ext → Ext) : (s.modExt c f).fab = s.fab := rfl
@[simp] theorem State.modExt_col (c : CombId) (f : Ext → Ext) : (s.modExt c f).col = s.col := rfl
@[simp] theorem State.modExt_chm (c : CombId) (f : Ext → Ext) : (s.modExt c f).chm = s.chm := rfl
@[simp] theorem State.modExt_seals (c : CombId) (f : Ext → Ext) : (s.modExt c f).seals = s.seals := rfl
@[simp] theorem State.modExt_stp (c : CombId) (f : Ext → Ext) : (s.modExt c f).stp = s.stp := rfl
@[simp] theorem State.modExt_eth (c : CombId) (f : Ext → Ext) : (s.modExt c f).eth = s.eth := rfl
@[simp] theorem State.modExt_wdn (c : CombId) (f : Ext → Ext) : (s.modExt c f).wdn = s.wdn := rfl
@[simp] theorem State.modExt_chr (c : CombId) (f : Ext → Ext) : (s.modExt c f).chr = s.chr := rfl
@[simp] theorem State.modExt_pwr (c : CombId) (f : Ext → Ext) : (s.modExt c f).pwr = s.pwr := rfl
@[simp] theorem State.modExt_free (c : CombId) (f : Ext → Ext) : (s.modExt c f).free = s.free := rfl

@[simp] theorem State.modCombs_pending (f : CombId → Comb → Comb) : (s.modCombs f).pending = s.pending := by simp only [State.modCombs]
@[simp] theorem State.modCombs_dev (f : CombId → Comb → Comb) : (s.modCombs f).dev = s.dev := by simp only [State.modCombs]
@[simp] theorem State.modCombs_squares (f : CombId → Comb → Comb) : (s.modCombs f).squares = s.squares := by simp only [State.modCombs]
@[simp] theorem State.modCombs_mem (f : CombId → Comb → Comb) : (s.modCombs f).mem = s.mem := by simp only [State.modCombs]
@[simp] theorem State.modCombs_mcs (f : CombId → Comb → Comb) : (s.modCombs f).mcs = s.mcs := by simp only [State.modCombs]
@[simp] theorem State.modCombs_links (f : CombId → Comb → Comb) : (s.modCombs f).links = s.links := by simp only [State.modCombs]
@[simp] theorem State.modCombs_lnkCfg (f : CombId → Comb → Comb) : (s.modCombs f).lnkCfg = s.lnkCfg := by simp only [State.modCombs]
@[simp] theorem State.modCombs_rte (f : CombId → Comb → Comb) : (s.modCombs f).rte = s.rte := by simp only [State.modCombs]
@[simp] theorem State.modCombs_fab (f : CombId → Comb → Comb) : (s.modCombs f).fab = s.fab := by simp only [State.modCombs]
@[simp] theorem State.modCombs_col (f : CombId → Comb → Comb) : (s.modCombs f).col = s.col := by simp only [State.modCombs]
@[simp] theorem State.modCombs_chm (f : CombId → Comb → Comb) : (s.modCombs f).chm = s.chm := by simp only [State.modCombs]
@[simp] theorem State.modCombs_seals (f : CombId → Comb → Comb) : (s.modCombs f).seals = s.seals := by simp only [State.modCombs]
@[simp] theorem State.modCombs_stp (f : CombId → Comb → Comb) : (s.modCombs f).stp = s.stp := by simp only [State.modCombs]
@[simp] theorem State.modCombs_eth (f : CombId → Comb → Comb) : (s.modCombs f).eth = s.eth := by simp only [State.modCombs]
@[simp] theorem State.modCombs_wdn (f : CombId → Comb → Comb) : (s.modCombs f).wdn = s.wdn := by simp only [State.modCombs]
@[simp] theorem State.modCombs_chr (f : CombId → Comb → Comb) : (s.modCombs f).chr = s.chr := by simp only [State.modCombs]
@[simp] theorem State.modCombs_pwr (f : CombId → Comb → Comb) : (s.modCombs f).pwr = s.pwr := by simp only [State.modCombs]
@[simp] theorem State.modCombs_free (f : CombId → Comb → Comb) : (s.modCombs f).free = s.free := by simp only [State.modCombs]

@[simp] theorem State.modSquare_pending (q : SqId) (f : Square → Square) : (s.modSquare q f).pending = s.pending := rfl
@[simp] theorem State.modSquare_dev (q : SqId) (f : Square → Square) : (s.modSquare q f).dev = s.dev := rfl
@[simp] theorem State.modSquare_combs (q : SqId) (f : Square → Square) : (s.modSquare q f).combs = s.combs := rfl
@[simp] theorem State.modSquare_mem (q : SqId) (f : Square → Square) : (s.modSquare q f).mem = s.mem := rfl
@[simp] theorem State.modSquare_mcs (q : SqId) (f : Square → Square) : (s.modSquare q f).mcs = s.mcs := rfl
@[simp] theorem State.modSquare_links (q : SqId) (f : Square → Square) : (s.modSquare q f).links = s.links := rfl
@[simp] theorem State.modSquare_lnkCfg (q : SqId) (f : Square → Square) : (s.modSquare q f).lnkCfg = s.lnkCfg := rfl
@[simp] theorem State.modSquare_rte (q : SqId) (f : Square → Square) : (s.modSquare q f).rte = s.rte := rfl
@[simp] theorem State.modSquare_fab (q : SqId) (f : Square → Square) : (s.modSquare q f).fab = s.fab := rfl
@[simp] theorem State.modSquare_col (q : SqId) (f : Square → Square) : (s.modSquare q f).col = s.col := rfl
@[simp] theorem State.modSquare_chm (q : SqId) (f : Square → Square) : (s.modSquare q f).chm = s.chm := rfl
@[simp] theorem State.modSquare_seals (q : SqId) (f : Square → Square) : (s.modSquare q f).seals = s.seals := rfl
@[simp] theorem State.modSquare_stp (q : SqId) (f : Square → Square) : (s.modSquare q f).stp = s.stp := rfl
@[simp] theorem State.modSquare_eth (q : SqId) (f : Square → Square) : (s.modSquare q f).eth = s.eth := rfl
@[simp] theorem State.modSquare_wdn (q : SqId) (f : Square → Square) : (s.modSquare q f).wdn = s.wdn := rfl
@[simp] theorem State.modSquare_chr (q : SqId) (f : Square → Square) : (s.modSquare q f).chr = s.chr := rfl
@[simp] theorem State.modSquare_pwr (q : SqId) (f : Square → Square) : (s.modSquare q f).pwr = s.pwr := rfl
@[simp] theorem State.modSquare_free (q : SqId) (f : Square → Square) : (s.modSquare q f).free = s.free := rfl

@[simp] theorem State.modMc_pending (m : McId) (f : Mc → Mc) : (s.modMc m f).pending = s.pending := rfl
@[simp] theorem State.modMc_dev (m : McId) (f : Mc → Mc) : (s.modMc m f).dev = s.dev := rfl
@[simp] theorem State.modMc_combs (m : McId) (f : Mc → Mc) : (s.modMc m f).combs = s.combs := rfl
@[simp] theorem State.modMc_squares (m : McId) (f : Mc → Mc) : (s.modMc m f).squares = s.squares := rfl
@[simp] theorem State.modMc_mem (m : McId) (f : Mc → Mc) : (s.modMc m f).mem = s.mem := rfl
@[simp] theorem State.modMc_links (m : McId) (f : Mc → Mc) : (s.modMc m f).links = s.links := rfl
@[simp] theorem State.modMc_lnkCfg (m : McId) (f : Mc → Mc) : (s.modMc m f).lnkCfg = s.lnkCfg := rfl
@[simp] theorem State.modMc_rte (m : McId) (f : Mc → Mc) : (s.modMc m f).rte = s.rte := rfl
@[simp] theorem State.modMc_fab (m : McId) (f : Mc → Mc) : (s.modMc m f).fab = s.fab := rfl
@[simp] theorem State.modMc_col (m : McId) (f : Mc → Mc) : (s.modMc m f).col = s.col := rfl
@[simp] theorem State.modMc_chm (m : McId) (f : Mc → Mc) : (s.modMc m f).chm = s.chm := rfl
@[simp] theorem State.modMc_seals (m : McId) (f : Mc → Mc) : (s.modMc m f).seals = s.seals := rfl
@[simp] theorem State.modMc_stp (m : McId) (f : Mc → Mc) : (s.modMc m f).stp = s.stp := rfl
@[simp] theorem State.modMc_eth (m : McId) (f : Mc → Mc) : (s.modMc m f).eth = s.eth := rfl
@[simp] theorem State.modMc_wdn (m : McId) (f : Mc → Mc) : (s.modMc m f).wdn = s.wdn := rfl
@[simp] theorem State.modMc_chr (m : McId) (f : Mc → Mc) : (s.modMc m f).chr = s.chr := rfl
@[simp] theorem State.modMc_pwr (m : McId) (f : Mc → Mc) : (s.modMc m f).pwr = s.pwr := rfl
@[simp] theorem State.modMc_free (m : McId) (f : Mc → Mc) : (s.modMc m f).free = s.free := rfl

@[simp] theorem State.modLink_pending (l : LinkId) (f : Link → Link) : (s.modLink l f).pending = s.pending := rfl
@[simp] theorem State.modLink_dev (l : LinkId) (f : Link → Link) : (s.modLink l f).dev = s.dev := rfl
@[simp] theorem State.modLink_combs (l : LinkId) (f : Link → Link) : (s.modLink l f).combs = s.combs := rfl
@[simp] theorem State.modLink_squares (l : LinkId) (f : Link → Link) : (s.modLink l f).squares = s.squares := rfl
@[simp] theorem State.modLink_mem (l : LinkId) (f : Link → Link) : (s.modLink l f).mem = s.mem := rfl
@[simp] theorem State.modLink_mcs (l : LinkId) (f : Link → Link) : (s.modLink l f).mcs = s.mcs := rfl
@[simp] theorem State.modLink_lnkCfg (l : LinkId) (f : Link → Link) : (s.modLink l f).lnkCfg = s.lnkCfg := rfl
@[simp] theorem State.modLink_rte (l : LinkId) (f : Link → Link) : (s.modLink l f).rte = s.rte := rfl
@[simp] theorem State.modLink_fab (l : LinkId) (f : Link → Link) : (s.modLink l f).fab = s.fab := rfl
@[simp] theorem State.modLink_col (l : LinkId) (f : Link → Link) : (s.modLink l f).col = s.col := rfl
@[simp] theorem State.modLink_chm (l : LinkId) (f : Link → Link) : (s.modLink l f).chm = s.chm := rfl
@[simp] theorem State.modLink_seals (l : LinkId) (f : Link → Link) : (s.modLink l f).seals = s.seals := rfl
@[simp] theorem State.modLink_stp (l : LinkId) (f : Link → Link) : (s.modLink l f).stp = s.stp := rfl
@[simp] theorem State.modLink_eth (l : LinkId) (f : Link → Link) : (s.modLink l f).eth = s.eth := rfl
@[simp] theorem State.modLink_wdn (l : LinkId) (f : Link → Link) : (s.modLink l f).wdn = s.wdn := rfl
@[simp] theorem State.modLink_chr (l : LinkId) (f : Link → Link) : (s.modLink l f).chr = s.chr := rfl
@[simp] theorem State.modLink_pwr (l : LinkId) (f : Link → Link) : (s.modLink l f).pwr = s.pwr := rfl
@[simp] theorem State.modLink_free (l : LinkId) (f : Link → Link) : (s.modLink l f).free = s.free := rfl

@[simp] theorem State.modMem_pending (f : Mem → Mem) : (s.modMem f).pending = s.pending := rfl
@[simp] theorem State.modMem_dev (f : Mem → Mem) : (s.modMem f).dev = s.dev := rfl
@[simp] theorem State.modMem_combs (f : Mem → Mem) : (s.modMem f).combs = s.combs := rfl
@[simp] theorem State.modMem_squares (f : Mem → Mem) : (s.modMem f).squares = s.squares := rfl
@[simp] theorem State.modMem_mcs (f : Mem → Mem) : (s.modMem f).mcs = s.mcs := rfl
@[simp] theorem State.modMem_links (f : Mem → Mem) : (s.modMem f).links = s.links := rfl
@[simp] theorem State.modMem_lnkCfg (f : Mem → Mem) : (s.modMem f).lnkCfg = s.lnkCfg := rfl
@[simp] theorem State.modMem_rte (f : Mem → Mem) : (s.modMem f).rte = s.rte := rfl
@[simp] theorem State.modMem_fab (f : Mem → Mem) : (s.modMem f).fab = s.fab := rfl
@[simp] theorem State.modMem_col (f : Mem → Mem) : (s.modMem f).col = s.col := rfl
@[simp] theorem State.modMem_chm (f : Mem → Mem) : (s.modMem f).chm = s.chm := rfl
@[simp] theorem State.modMem_seals (f : Mem → Mem) : (s.modMem f).seals = s.seals := rfl
@[simp] theorem State.modMem_stp (f : Mem → Mem) : (s.modMem f).stp = s.stp := rfl
@[simp] theorem State.modMem_eth (f : Mem → Mem) : (s.modMem f).eth = s.eth := rfl
@[simp] theorem State.modMem_wdn (f : Mem → Mem) : (s.modMem f).wdn = s.wdn := rfl
@[simp] theorem State.modMem_chr (f : Mem → Mem) : (s.modMem f).chr = s.chr := rfl
@[simp] theorem State.modMem_pwr (f : Mem → Mem) : (s.modMem f).pwr = s.pwr := rfl
@[simp] theorem State.modMem_free (f : Mem → Mem) : (s.modMem f).free = s.free := rfl

@[simp] theorem State.bump_pending (c : CombId) (i : Fin 256) (k : Nat) : (s.bump c i k).pending = s.pending := rfl
@[simp] theorem State.bump_dev (c : CombId) (i : Fin 256) (k : Nat) : (s.bump c i k).dev = s.dev := rfl
@[simp] theorem State.bump_squares (c : CombId) (i : Fin 256) (k : Nat) : (s.bump c i k).squares = s.squares := rfl
@[simp] theorem State.bump_mem (c : CombId) (i : Fin 256) (k : Nat) : (s.bump c i k).mem = s.mem := rfl
@[simp] theorem State.bump_mcs (c : CombId) (i : Fin 256) (k : Nat) : (s.bump c i k).mcs = s.mcs := rfl
@[simp] theorem State.bump_links (c : CombId) (i : Fin 256) (k : Nat) : (s.bump c i k).links = s.links := rfl
@[simp] theorem State.bump_lnkCfg (c : CombId) (i : Fin 256) (k : Nat) : (s.bump c i k).lnkCfg = s.lnkCfg := rfl
@[simp] theorem State.bump_rte (c : CombId) (i : Fin 256) (k : Nat) : (s.bump c i k).rte = s.rte := rfl
@[simp] theorem State.bump_fab (c : CombId) (i : Fin 256) (k : Nat) : (s.bump c i k).fab = s.fab := rfl
@[simp] theorem State.bump_col (c : CombId) (i : Fin 256) (k : Nat) : (s.bump c i k).col = s.col := rfl
@[simp] theorem State.bump_chm (c : CombId) (i : Fin 256) (k : Nat) : (s.bump c i k).chm = s.chm := rfl
@[simp] theorem State.bump_seals (c : CombId) (i : Fin 256) (k : Nat) : (s.bump c i k).seals = s.seals := rfl
@[simp] theorem State.bump_stp (c : CombId) (i : Fin 256) (k : Nat) : (s.bump c i k).stp = s.stp := rfl
@[simp] theorem State.bump_eth (c : CombId) (i : Fin 256) (k : Nat) : (s.bump c i k).eth = s.eth := rfl
@[simp] theorem State.bump_wdn (c : CombId) (i : Fin 256) (k : Nat) : (s.bump c i k).wdn = s.wdn := rfl
@[simp] theorem State.bump_chr (c : CombId) (i : Fin 256) (k : Nat) : (s.bump c i k).chr = s.chr := rfl
@[simp] theorem State.bump_pwr (c : CombId) (i : Fin 256) (k : Nat) : (s.bump c i k).pwr = s.pwr := rfl
@[simp] theorem State.bump_free (c : CombId) (i : Fin 256) (k : Nat) : (s.bump c i k).free = s.free := rfl

@[simp] theorem State.setS_pending (c : CombId) (i : Fin 32) (v : W64) : (s.setS c i v).pending = s.pending := rfl
@[simp] theorem State.setS_dev (c : CombId) (i : Fin 32) (v : W64) : (s.setS c i v).dev = s.dev := rfl
@[simp] theorem State.setS_squares (c : CombId) (i : Fin 32) (v : W64) : (s.setS c i v).squares = s.squares := rfl
@[simp] theorem State.setS_mem (c : CombId) (i : Fin 32) (v : W64) : (s.setS c i v).mem = s.mem := rfl
@[simp] theorem State.setS_mcs (c : CombId) (i : Fin 32) (v : W64) : (s.setS c i v).mcs = s.mcs := rfl
@[simp] theorem State.setS_links (c : CombId) (i : Fin 32) (v : W64) : (s.setS c i v).links = s.links := rfl
@[simp] theorem State.setS_lnkCfg (c : CombId) (i : Fin 32) (v : W64) : (s.setS c i v).lnkCfg = s.lnkCfg := rfl
@[simp] theorem State.setS_rte (c : CombId) (i : Fin 32) (v : W64) : (s.setS c i v).rte = s.rte := rfl
@[simp] theorem State.setS_fab (c : CombId) (i : Fin 32) (v : W64) : (s.setS c i v).fab = s.fab := rfl
@[simp] theorem State.setS_col (c : CombId) (i : Fin 32) (v : W64) : (s.setS c i v).col = s.col := rfl
@[simp] theorem State.setS_chm (c : CombId) (i : Fin 32) (v : W64) : (s.setS c i v).chm = s.chm := rfl
@[simp] theorem State.setS_seals (c : CombId) (i : Fin 32) (v : W64) : (s.setS c i v).seals = s.seals := rfl
@[simp] theorem State.setS_stp (c : CombId) (i : Fin 32) (v : W64) : (s.setS c i v).stp = s.stp := rfl
@[simp] theorem State.setS_eth (c : CombId) (i : Fin 32) (v : W64) : (s.setS c i v).eth = s.eth := rfl
@[simp] theorem State.setS_wdn (c : CombId) (i : Fin 32) (v : W64) : (s.setS c i v).wdn = s.wdn := rfl
@[simp] theorem State.setS_chr (c : CombId) (i : Fin 32) (v : W64) : (s.setS c i v).chr = s.chr := rfl
@[simp] theorem State.setS_pwr (c : CombId) (i : Fin 32) (v : W64) : (s.setS c i v).pwr = s.pwr := rfl
@[simp] theorem State.setS_free (c : CombId) (i : Fin 32) (v : W64) : (s.setS c i v).free = s.free := rfl

@[simp] theorem State.setD_pending (c : CombId) (i : Fin 32) (v : Desc) : (s.setD c i v).pending = s.pending := rfl
@[simp] theorem State.setD_dev (c : CombId) (i : Fin 32) (v : Desc) : (s.setD c i v).dev = s.dev := rfl
@[simp] theorem State.setD_squares (c : CombId) (i : Fin 32) (v : Desc) : (s.setD c i v).squares = s.squares := rfl
@[simp] theorem State.setD_mem (c : CombId) (i : Fin 32) (v : Desc) : (s.setD c i v).mem = s.mem := rfl
@[simp] theorem State.setD_mcs (c : CombId) (i : Fin 32) (v : Desc) : (s.setD c i v).mcs = s.mcs := rfl
@[simp] theorem State.setD_links (c : CombId) (i : Fin 32) (v : Desc) : (s.setD c i v).links = s.links := rfl
@[simp] theorem State.setD_lnkCfg (c : CombId) (i : Fin 32) (v : Desc) : (s.setD c i v).lnkCfg = s.lnkCfg := rfl
@[simp] theorem State.setD_rte (c : CombId) (i : Fin 32) (v : Desc) : (s.setD c i v).rte = s.rte := rfl
@[simp] theorem State.setD_fab (c : CombId) (i : Fin 32) (v : Desc) : (s.setD c i v).fab = s.fab := rfl
@[simp] theorem State.setD_col (c : CombId) (i : Fin 32) (v : Desc) : (s.setD c i v).col = s.col := rfl
@[simp] theorem State.setD_chm (c : CombId) (i : Fin 32) (v : Desc) : (s.setD c i v).chm = s.chm := rfl
@[simp] theorem State.setD_seals (c : CombId) (i : Fin 32) (v : Desc) : (s.setD c i v).seals = s.seals := rfl
@[simp] theorem State.setD_stp (c : CombId) (i : Fin 32) (v : Desc) : (s.setD c i v).stp = s.stp := rfl
@[simp] theorem State.setD_eth (c : CombId) (i : Fin 32) (v : Desc) : (s.setD c i v).eth = s.eth := rfl
@[simp] theorem State.setD_wdn (c : CombId) (i : Fin 32) (v : Desc) : (s.setD c i v).wdn = s.wdn := rfl
@[simp] theorem State.setD_chr (c : CombId) (i : Fin 32) (v : Desc) : (s.setD c i v).chr = s.chr := rfl
@[simp] theorem State.setD_pwr (c : CombId) (i : Fin 32) (v : Desc) : (s.setD c i v).pwr = s.pwr := rfl
@[simp] theorem State.setD_free (c : CombId) (i : Fin 32) (v : Desc) : (s.setD c i v).free = s.free := rfl

@[simp] theorem State.busyAdd_pending (c : CombId) (k : Fin 4) : (s.busyAdd c k).pending = s.pending := rfl
@[simp] theorem State.busyAdd_dev (c : CombId) (k : Fin 4) : (s.busyAdd c k).dev = s.dev := rfl
@[simp] theorem State.busyAdd_squares (c : CombId) (k : Fin 4) : (s.busyAdd c k).squares = s.squares := rfl
@[simp] theorem State.busyAdd_mem (c : CombId) (k : Fin 4) : (s.busyAdd c k).mem = s.mem := rfl
@[simp] theorem State.busyAdd_mcs (c : CombId) (k : Fin 4) : (s.busyAdd c k).mcs = s.mcs := rfl
@[simp] theorem State.busyAdd_links (c : CombId) (k : Fin 4) : (s.busyAdd c k).links = s.links := rfl
@[simp] theorem State.busyAdd_lnkCfg (c : CombId) (k : Fin 4) : (s.busyAdd c k).lnkCfg = s.lnkCfg := rfl
@[simp] theorem State.busyAdd_rte (c : CombId) (k : Fin 4) : (s.busyAdd c k).rte = s.rte := rfl
@[simp] theorem State.busyAdd_fab (c : CombId) (k : Fin 4) : (s.busyAdd c k).fab = s.fab := rfl
@[simp] theorem State.busyAdd_col (c : CombId) (k : Fin 4) : (s.busyAdd c k).col = s.col := rfl
@[simp] theorem State.busyAdd_chm (c : CombId) (k : Fin 4) : (s.busyAdd c k).chm = s.chm := rfl
@[simp] theorem State.busyAdd_seals (c : CombId) (k : Fin 4) : (s.busyAdd c k).seals = s.seals := rfl
@[simp] theorem State.busyAdd_stp (c : CombId) (k : Fin 4) : (s.busyAdd c k).stp = s.stp := rfl
@[simp] theorem State.busyAdd_eth (c : CombId) (k : Fin 4) : (s.busyAdd c k).eth = s.eth := rfl
@[simp] theorem State.busyAdd_wdn (c : CombId) (k : Fin 4) : (s.busyAdd c k).wdn = s.wdn := rfl
@[simp] theorem State.busyAdd_chr (c : CombId) (k : Fin 4) : (s.busyAdd c k).chr = s.chr := rfl
@[simp] theorem State.busyAdd_pwr (c : CombId) (k : Fin 4) : (s.busyAdd c k).pwr = s.pwr := rfl
@[simp] theorem State.busyAdd_free (c : CombId) (k : Fin 4) : (s.busyAdd c k).free = s.free := rfl

@[simp] theorem State.busySub_pending (c : CombId) (k : Fin 4) : (s.busySub c k).pending = s.pending := rfl
@[simp] theorem State.busySub_dev (c : CombId) (k : Fin 4) : (s.busySub c k).dev = s.dev := rfl
@[simp] theorem State.busySub_squares (c : CombId) (k : Fin 4) : (s.busySub c k).squares = s.squares := rfl
@[simp] theorem State.busySub_mem (c : CombId) (k : Fin 4) : (s.busySub c k).mem = s.mem := rfl
@[simp] theorem State.busySub_mcs (c : CombId) (k : Fin 4) : (s.busySub c k).mcs = s.mcs := rfl
@[simp] theorem State.busySub_links (c : CombId) (k : Fin 4) : (s.busySub c k).links = s.links := rfl
@[simp] theorem State.busySub_lnkCfg (c : CombId) (k : Fin 4) : (s.busySub c k).lnkCfg = s.lnkCfg := rfl
@[simp] theorem State.busySub_rte (c : CombId) (k : Fin 4) : (s.busySub c k).rte = s.rte := rfl
@[simp] theorem State.busySub_fab (c : CombId) (k : Fin 4) : (s.busySub c k).fab = s.fab := rfl
@[simp] theorem State.busySub_col (c : CombId) (k : Fin 4) : (s.busySub c k).col = s.col := rfl
@[simp] theorem State.busySub_chm (c : CombId) (k : Fin 4) : (s.busySub c k).chm = s.chm := rfl
@[simp] theorem State.busySub_seals (c : CombId) (k : Fin 4) : (s.busySub c k).seals = s.seals := rfl
@[simp] theorem State.busySub_stp (c : CombId) (k : Fin 4) : (s.busySub c k).stp = s.stp := rfl
@[simp] theorem State.busySub_eth (c : CombId) (k : Fin 4) : (s.busySub c k).eth = s.eth := rfl
@[simp] theorem State.busySub_wdn (c : CombId) (k : Fin 4) : (s.busySub c k).wdn = s.wdn := rfl
@[simp] theorem State.busySub_chr (c : CombId) (k : Fin 4) : (s.busySub c k).chr = s.chr := rfl
@[simp] theorem State.busySub_pwr (c : CombId) (k : Fin 4) : (s.busySub c k).pwr = s.pwr := rfl
@[simp] theorem State.busySub_free (c : CombId) (k : Fin 4) : (s.busySub c k).free = s.free := rfl

@[simp] theorem State.modMem_mem (f : Mem → Mem) : (s.modMem f).mem = f s.mem := rfl
@[simp] theorem State.draw_pending : s.draw.2.pending = s.pending := rfl
@[simp] theorem State.draw_dev : s.draw.2.dev = s.dev := rfl
@[simp] theorem State.draw_combs : s.draw.2.combs = s.combs := rfl
@[simp] theorem State.draw_squares : s.draw.2.squares = s.squares := rfl
@[simp] theorem State.draw_mem : s.draw.2.mem = s.mem := rfl
@[simp] theorem State.draw_mcs : s.draw.2.mcs = s.mcs := rfl
@[simp] theorem State.draw_links : s.draw.2.links = s.links := rfl
@[simp] theorem State.draw_lnkCfg : s.draw.2.lnkCfg = s.lnkCfg := rfl
@[simp] theorem State.draw_rte : s.draw.2.rte = s.rte := rfl
@[simp] theorem State.draw_fab : s.draw.2.fab = s.fab := rfl
@[simp] theorem State.draw_col : s.draw.2.col = s.col := rfl
@[simp] theorem State.draw_chm : s.draw.2.chm = s.chm := rfl
@[simp] theorem State.draw_seals : s.draw.2.seals = s.seals := rfl
@[simp] theorem State.draw_stp : s.draw.2.stp = s.stp := rfl
@[simp] theorem State.draw_eth : s.draw.2.eth = s.eth := rfl
@[simp] theorem State.draw_wdn : s.draw.2.wdn = s.wdn := rfl
@[simp] theorem State.draw_chr : s.draw.2.chr = s.chr := rfl
@[simp] theorem State.draw_pwr : s.draw.2.pwr = s.pwr := rfl
@[simp] theorem State.draw_free : s.draw.2.free = s.free + 1 := rfl
/-! ### Combs -/

@[simp] theorem State.modComb_comb (c : CombId) (f : Comb → Comb) : (s.modComb c f).comb c = f (s.comb c) := by
  simp [State.comb, State.modComb]

theorem State.modComb_comb_ne {c k : CombId} (f : Comb → Comb) (h : k ≠ c) : (s.modComb c f).comb k = s.comb k := by
  have hv : c.val ≠ k.val := fun e => h (Fin.ext e.symm)
  simp [State.comb, State.modComb, hv]

@[simp] theorem State.modSeq_seq (c : CombId) (f : Seq → Seq) : ((s.modSeq c f).comb c).seq = f (s.comb c).seq := by
  simp [State.modSeq]

@[simp] theorem State.modSeq_mat (c : CombId) (f : Seq → Seq) : ((s.modSeq c f).comb c).mat = (s.comb c).mat := by
  simp [State.modSeq]

@[simp] theorem State.modSeq_ext (c : CombId) (f : Seq → Seq) : ((s.modSeq c f).comb c).ext = (s.comb c).ext := by
  simp [State.modSeq]

theorem State.modSeq_comb_ne {c k : CombId} (f : Seq → Seq) (h : k ≠ c) : (s.modSeq c f).comb k = s.comb k :=
  s.modComb_comb_ne _ h

@[simp] theorem State.modMat_seq (c : CombId) (f : Mat → Mat) : ((s.modMat c f).comb c).seq = (s.comb c).seq := by
  simp [State.modMat]

@[simp] theorem State.modExt_seq (c : CombId) (f : Ext → Ext) : ((s.modExt c f).comb c).seq = (s.comb c).seq := by
  simp [State.modExt]

@[simp] theorem State.modSeq_modSeq (c : CombId) (f g : Seq → Seq) : (s.modSeq c f).modSeq c g = s.modSeq c fun q => g (f q) := by
  simp [State.modSeq, State.modComb, Vector.set_set]

/-- Counter i of comb c after a bump. -/
@[simp] theorem State.bump_cnt (c : CombId) (i : Fin 256) (k : Nat) :
    ((s.bump c i k).comb c).seq.cnt[i] = (s.comb c).seq.cnt[i] + BitVec.ofNat 32 k := by
  simp [State.bump]

end Sys2Proof.Machine
end

