-- ==== Sys2Proof/Laws/Stores.lean ====
section
/-!
SUPPORT. What the operations on memory and the port leave alone: the queue of waiting commands (always), and memory, either as it was or in
its canonical form. Step proofs cite these and unfold no operation.
-/
namespace Sys2Proof.Machine

/-! ### Shared -/

@[simp] theorem foldl_pending {β : Type} (f : State → β → State) (l : List β) (s : State)
    (hf : ∀ t x, (f t x).pending = t.pending) : (l.foldl f s).pending = s.pending := by
  induction l generalizing s with
  | nil => rfl
  | cons x t ih => simp [List.foldl, ih, hf]

@[simp] theorem foldl_mem {β : Type} (f : State → β → State) (l : List β) (s : State)
    (hf : ∀ t x, (f t x).mem = t.mem) : (l.foldl f s).mem = s.mem := by
  induction l generalizing s with
  | nil => rfl
  | cons x t ih => simp [List.foldl, ih, hf]

@[simp] theorem foldl_mem_wf {β : Type} (f : State → β → State) (l : List β) (s : State) (h : s.mem.wf = true)
    (hf : ∀ t x, t.mem.wf = true → (f t x).mem.wf = true) : (l.foldl f s).mem.wf = true := by
  induction l generalizing s with
  | nil => exact h
  | cons x t ih => exact ih _ (hf _ _ h)

theorem ite_pending (c : Prop) [Decidable c] (a b : State) (p : List Instr) (ha : a.pending = p) (hb : b.pending = p) :
    (if c then a else b).pending = p := by split <;> assumption

theorem ite_mem (c : Prop) [Decidable c] (a b : State) (m : Mem) (ha : a.mem = m) (hb : b.mem = m) :
    (if c then a else b).mem = m := by split <;> assumption

theorem ite_mem_wf (c : Prop) [Decidable c] (a b : State) (ha : a.mem.wf = true) (hb : b.mem.wf = true) :
    (if c then a else b).mem.wf = true := by split <;> assumption

/-! ### Memory stores -/

theorem Mem.wf_iff (m : Mem) : m.wf = true ↔ Sparse.wf (0 : Byte) m.bytes = true ∧ Sparse.wf false m.poison = true ∧
    Sparse.wf Upset.clean m.upsets = true ∧ Sparse.wf (0 : BitVec 32) m.crc = true ∧ Sparse.wf (0 : Byte) m.parity = true := by
  simp [Mem.wf, Bool.and_eq_true, and_assoc]

theorem putBytes_wf (m : List (Nat × Byte)) (a : Nat) (bs : List Byte) (h : Sparse.wf 0 m = true) :
    Sparse.wf 0 (putBytes m a bs) = true := by
  induction bs generalizing m a with
  | nil => exact h
  | cons b t ih => exact ih _ _ (Sparse.wf_set _ _ h)

@[simp] theorem Mem.zeroRange_wf (m : Mem) (a n : Nat) (h : m.wf = true) : (m.zeroRange a n).wf = true := by
  rw [Mem.wf_iff] at h ⊢
  exact ⟨Sparse.wf_filter _ h.1, Sparse.wf_filter _ h.2.1, Sparse.wf_filter _ h.2.2.1, h.2.2.2⟩

/-- A change of memory keeps the canonical form where it keeps that of each store. -/
theorem State.modMem_wf (s : State) (f : Mem → Mem) (h : s.mem.wf = true) (hf : ∀ m : Mem, m.wf = true → (f m).wf = true) :
    (s.modMem f).mem.wf = true := hf _ h

/-! ### Ops -/

@[simp] theorem State.bumpE_pending (s : State) (c : CombId) (e : QEntry) : (State.bumpE s c e).pending = s.pending := by
  simp only [State.bumpE]
  repeat' (first | (simp; done) | refine (foldl_pending _ _ _ (fun t x => ?_)).trans ?_ | split | simp)

@[simp] theorem State.bumpE_mem (s : State) (c : CombId) (e : QEntry) : (State.bumpE s c e).mem = s.mem := by
  simp only [State.bumpE]
  repeat' (first | (simp; done) | refine (foldl_mem _ _ _ (fun t x => ?_)).trans ?_ | split | simp)

@[simp] theorem State.until_pending (s : State) (t : ℕ) : (State.until s t).pending = s.pending := by
  simp only [State.until]
  repeat' (first | (simp; done) | refine (foldl_pending _ _ _ (fun t x => ?_)).trans ?_ | split | simp)

@[simp] theorem State.until_mem (s : State) (t : ℕ) : (State.until s t).mem = s.mem := by
  simp only [State.until]
  repeat' (first | (simp; done) | refine (foldl_mem _ _ _ (fun t x => ?_)).trans ?_ | split | simp)

@[simp] theorem State.record_pending (s : State) (ev : Event) : (State.record s ev).pending = s.pending := by
  simp only [State.record]
  repeat' (first | (simp; done) | refine (foldl_pending _ _ _ (fun t x => ?_)).trans ?_ | split | simp)

@[simp] theorem State.record_mem (s : State) (ev : Event) : (State.record s ev).mem = s.mem := by
  simp only [State.record]
  repeat' (first | (simp; done) | refine (foldl_mem _ _ _ (fun t x => ?_)).trans ?_ | split | simp)

@[simp] theorem State.frameOut_pending (s : State) : s.frameOut.2.pending = s.pending := by
  simp only [State.frameOut]; (repeat' split) <;> simp

@[simp] theorem State.frameOut_mem (s : State) : s.frameOut.2.mem = s.mem := by
  simp only [State.frameOut]; (repeat' split) <;> simp

@[simp] theorem State.notice_pending (s : State) (b : NoticeBody) : (s.notice b).pending = s.pending := by
  unfold State.notice; split
  · dsimp only; split <;> simp
  · rfl

@[simp] theorem State.notice_mem (s : State) (b : NoticeBody) : (s.notice b).mem = s.mem := by
  unfold State.notice; split
  · dsimp only; split <;> simp
  · rfl

@[simp] theorem State.sendReply_pending (s : State) (r : Reply) : (s.sendReply r).pending = s.pending := by
  unfold State.sendReply; dsimp only; split <;> simp

@[simp] theorem State.sendReply_mem (s : State) (r : Reply) : (s.sendReply r).mem = s.mem := by
  unfold State.sendReply; dsimp only; split <;> simp

@[simp] theorem State.setDev_pending (s : State) (d : DevState) : (State.setDev s d).pending = s.pending := by
  simp only [State.setDev]
  repeat' (first | (simp; done) | refine (foldl_pending _ _ _ (fun t x => ?_)).trans ?_ | split | simp)

@[simp] theorem State.setDev_mem (s : State) (d : DevState) : (State.setDev s d).mem = s.mem := by
  simp only [State.setDev]
  repeat' (first | (simp; done) | refine (foldl_mem _ _ _ (fun t x => ?_)).trans ?_ | split | simp)

@[simp] theorem State.refresh_pending (s : State) : (State.refresh s).pending = s.pending := by
  simp only [State.refresh]
  repeat' (first | (simp; done) | refine (foldl_pending _ _ _ (fun t x => ?_)).trans ?_ | split | simp)

@[simp] theorem State.refresh_mem (s : State) : (State.refresh s).mem = s.mem := by
  simp only [State.refresh]
  repeat' (first | (simp; done) | refine (foldl_mem _ _ _ (fun t x => ?_)).trans ?_ | split | simp)

@[simp] theorem State.setSeqSt_pending (s : State) (c : CombId) (t : SeqState) : (State.setSeqSt s c t).pending = s.pending := by
  simp only [State.setSeqSt]
  repeat' (first | (simp; done) | refine (foldl_pending _ _ _ (fun t x => ?_)).trans ?_ | split | simp)

@[simp] theorem State.setSeqSt_mem (s : State) (c : CombId) (t : SeqState) : (State.setSeqSt s c t).mem = s.mem := by
  simp only [State.setSeqSt]
  repeat' (first | (simp; done) | refine (foldl_mem _ _ _ (fun t x => ?_)).trans ?_ | split | simp)

@[simp] theorem State.abortStep_pending (s : State) : s.abortStep.pending = s.pending := rfl

@[simp] theorem State.abortStep_mem (s : State) : s.abortStep.mem = s.mem := rfl

@[simp] theorem State.fault_pending (s : State) (c : CombId) (code : ℕ) (addr : ℕ) (src : ℕ) : (State.fault s c code addr src).pending = s.pending := by
  simp only [State.fault]
  repeat' (first | (simp; done) | refine (foldl_pending _ _ _ (fun t x => ?_)).trans ?_ | split | simp)

@[simp] theorem State.fault_mem (s : State) (c : CombId) (code : ℕ) (addr : ℕ) (src : ℕ) : (State.fault s c code addr src).mem = s.mem := by
  simp only [State.fault]
  repeat' (first | (simp; done) | refine (foldl_mem _ _ _ (fun t x => ?_)).trans ?_ | split | simp)

@[simp] theorem State.poisonRange_pending (s : State) (a : ℕ) (n : ℕ) : (State.poisonRange s a n).pending = s.pending := by
  simp only [State.poisonRange]
  repeat' (first | (simp; done) | refine (foldl_pending _ _ _ (fun t x => ?_)).trans ?_ | split | simp)

@[simp] theorem State.poisonRange_wf (s : State) (a n : Nat) (h : s.mem.wf = true) : (s.poisonRange a n).mem.wf = true := by
  refine State.modMem_wf s _ h fun m hm => ?_
  rw [Mem.wf_iff] at hm ⊢
  exact ⟨hm.1, Sparse.wf_foldl _ (fun _ _ hp => Sparse.wf_set _ _ hp) _ hm.2.1, hm.2.2⟩

@[simp] theorem State.corrected_pending (s : State) (block n : Nat) : (s.corrected block n).pending = s.pending := by
  simp only [State.corrected]
  repeat' (first | (simp; done) | refine (foldl_pending _ _ _ (fun t x => ?_)).trans ?_ | split | simp)

@[simp] theorem State.corrected_mem (s : State) (block n : Nat) : (s.corrected block n).mem = s.mem := by
  simp only [State.corrected]
  repeat' (first | (simp; done) | refine (foldl_mem _ _ _ (fun t x => ?_)).trans ?_ | split | simp)

@[simp] theorem State.eccNote_pending (s : State) (u : SweepUnit) (n : ℕ) (d : ℕ) (line : ℕ) : (State.eccNote s u n d line).pending = s.pending := by
  simp only [State.eccNote]
  repeat' (first | (simp; done) | refine (foldl_pending _ _ _ (fun t x => ?_)).trans ?_ | split | simp)

@[simp] theorem State.eccNote_mem (s : State) (u : SweepUnit) (n : ℕ) (d : ℕ) (line : ℕ) : (State.eccNote s u n d line).mem = s.mem := by
  simp only [State.eccNote]
  repeat' (first | (simp; done) | refine (foldl_mem _ _ _ (fun t x => ?_)).trans ?_ | split | simp)

@[simp] theorem State.touchSram_pending (s : State) (u : SweepUnit) (a : ℕ) (n : ℕ) : (State.touchSram s u a n).pending = s.pending := by
  simp only [State.touchSram]
  repeat' (first | (simp; done) | refine (foldl_pending _ _ _ (fun t x => ?_)).trans ?_ | split | simp)

@[simp] theorem State.touchSram_wf (s : State) (u : SweepUnit) (a n : Nat) (h : s.mem.wf = true) :
    (s.touchSram u a n).mem.wf = true := by
  unfold State.touchSram; dsimp only; split
  · exact h
  · rw [State.eccNote_mem]
    refine State.modMem_wf s _ h fun m hm => ?_
    rw [Mem.wf_iff] at hm ⊢
    exact ⟨hm.1, hm.2.1, Sparse.wf_foldl _ (fun _ _ hp => Sparse.wf_set _ _ hp) _ hm.2.2.1, hm.2.2.2⟩

@[simp] theorem State.setStack_pending (s : State) (k : Nat) (f : List Byte × Bool → List Byte × Bool) : (s.setStack k f).pending = s.pending := by
  simp only [State.setStack]
  repeat' (first | (simp; done) | refine (foldl_pending _ _ _ (fun t x => ?_)).trans ?_ | split | simp)

@[simp] theorem State.setStack_wf (s : State) (k : Nat) (f : List Byte × Bool → List Byte × Bool) (h : s.mem.wf = true) :
    (s.setStack k f).mem.wf = true := by
  unfold State.setStack; dsimp only; split
  · exact h
  · refine State.modMem_wf s _ h fun m hm => ?_
    rw [Mem.wf_iff] at hm ⊢
    exact ⟨putBytes_wf _ _ _ hm.1, Sparse.wf_set _ _ hm.2.1, hm.2.2⟩

@[simp] theorem State.setCrc_pending (s : State) (k : Nat) (d : BitVec 32) : (s.setCrc k d).pending = s.pending := rfl

@[simp] theorem State.setCrc_wf (s : State) (k : Nat) (d : BitVec 32) (h : s.mem.wf = true) : (s.setCrc k d).mem.wf = true := by
  refine State.modMem_wf s _ h fun m hm => ?_
  rw [Mem.wf_iff] at hm ⊢
  exact ⟨hm.1, hm.2.1, hm.2.2.1, Sparse.wf_set _ _ hm.2.2.2.1, hm.2.2.2.2⟩

@[simp] theorem State.putParity_pending (s : State) (page code n : Nat) : (s.putParity page code n).pending = s.pending := rfl

@[simp] theorem State.putParity_wf (s : State) (page code n : Nat) (h : s.mem.wf = true) : (s.putParity page code n).mem.wf = true := by
  refine State.modMem_wf s _ h fun m hm => ?_
  rw [Mem.wf_iff] at hm ⊢
  exact ⟨hm.1, hm.2.1, hm.2.2.1, hm.2.2.2.1, Sparse.wf_foldl _ (fun _ _ hp => Sparse.wf_set _ _ hp) _ hm.2.2.2.2⟩

@[simp] theorem State.rewriteParity_pending (s : State) (page : Nat) : (s.rewriteParity page).pending = s.pending := by
  simp only [State.rewriteParity]
  repeat' (first | (simp; done) | refine (foldl_pending _ _ _ (fun t x => ?_)).trans ?_ | split | simp)

@[simp] theorem State.rewriteParity_wf (s : State) (page : Nat) (h : s.mem.wf = true) : (s.rewriteParity page).mem.wf = true := by
  simp only [State.rewriteParity]
  repeat' (first | (with_reducible assumption) | (simp [*]; done) | refine foldl_mem_wf _ _ _ ?_ (fun t x ht => ?_) | split | simp [*])

@[simp] theorem State.uncorrectable_pending (s : State) (page : Nat) : (s.uncorrectable page).pending = s.pending := by
  simp only [State.uncorrectable]
  repeat' (first | (simp; done) | refine (foldl_pending _ _ _ (fun t x => ?_)).trans ?_ | split | simp)

@[simp] theorem State.uncorrectable_wf (s : State) (page : Nat) (h : s.mem.wf = true) : (s.uncorrectable page).mem.wf = true := by
  simp only [State.uncorrectable]
  repeat' (first | (with_reducible assumption) | (simp [*]; done) | refine foldl_mem_wf _ _ _ ?_ (fun t x ht => ?_) | split | simp [*])

@[simp] theorem State.endRetrain_pending (s : State) (m : McId) (b : Bool) : (s.endRetrain m b).pending = s.pending := by
  simp only [State.endRetrain]
  repeat' (first | (simp; done) | refine (foldl_pending _ _ _ (fun t x => ?_)).trans ?_ | split | simp)

@[simp] theorem State.endRetrain_mem (s : State) (m : McId) (b : Bool) : (s.endRetrain m b).mem = s.mem := by
  simp only [State.endRetrain]
  repeat' (first | (simp; done) | refine (foldl_mem _ _ _ (fun t x => ?_)).trans ?_ | split | simp)

@[simp] theorem State.waitRetrain_pending (s : State) (page : Nat) : (s.waitRetrain page).pending = s.pending := by
  simp only [State.waitRetrain]
  repeat' (first | (simp; done) | refine (foldl_pending _ _ _ (fun t x => ?_)).trans ?_ | split | simp)

@[simp] theorem State.waitRetrain_mem (s : State) (page : Nat) : (s.waitRetrain page).mem = s.mem := by
  simp only [State.waitRetrain]
  repeat' (first | (simp; done) | refine (foldl_mem _ _ _ (fun t x => ?_)).trans ?_ | split | simp)

@[simp] theorem State.waitParity_pending (s : State) (page : Nat) : (s.waitParity page).pending = s.pending :=
  ite_pending _ _ _ _ rfl (foldl_pending _ _ _ fun _ _ => State.waitRetrain_pending _ _)

@[simp] theorem State.waitParity_mem (s : State) (page : Nat) : (s.waitParity page).mem = s.mem := by
  unfold State.waitParity
  split
  · rfl
  · exact foldl_mem _ _ _ fun _ _ => State.waitRetrain_mem _ _

@[simp] theorem State.lostParity_pending (s : State) (k : Nat) : (s.lostParity k).pending = s.pending := by
  refine (State.setCrc_pending _ _ _).trans ((foldl_pending _ _ _ fun t p => ?_).trans (State.modMc_pending _ _ _))
  exact ite_pending _ _ _ _ ((State.rewriteParity_pending _ _).trans (State.waitRetrain_pending _ _))
    ((State.uncorrectable_pending _ _).trans (State.waitRetrain_pending _ _))

@[simp] theorem State.lostParity_wf (s : State) (k : Nat) (h : s.mem.wf = true) : (s.lostParity k).mem.wf = true :=
  State.setCrc_wf _ _ _ (foldl_mem_wf _ _ _ ((congrArg Mem.wf (State.modMc_mem _ _ _)).trans h) fun t p ht => by
    have hw : (t.waitRetrain p).mem.wf = true := (congrArg Mem.wf (State.waitRetrain_mem _ _)).trans ht
    exact ite_mem_wf _ _ _ (State.rewriteParity_wf _ _ hw) (State.uncorrectable_wf _ _ hw))

@[simp] theorem State.mendParity_pending (s : State) (page : Nat) : (s.mendParity page).pending = s.pending := by
  simp only [State.mendParity]
  repeat' (first | (simp; done) | refine (foldl_pending _ _ _ (fun t x => ?_)).trans ?_ | split | simp)

@[simp] theorem State.mendParity_wf (s : State) (page : Nat) (h : s.mem.wf = true) : (s.mendParity page).mem.wf = true := by
  simp only [State.mendParity]
  repeat' (first | (with_reducible assumption) | (simp [*]; done) | refine foldl_mem_wf _ _ _ ?_ (fun t x ht => ?_) | split | simp [*])

@[simp] theorem State.mendPage_pending (s : State) (page : Nat) : (s.mendPage page).pending = s.pending := by
  rw [State.mendPage]
  split
  · exact State.uncorrectable_pending _ _
  · exact (State.corrected_pending _ _ _).trans ((State.modMc_pending _ _ _).trans (foldl_pending _ _ _ fun _ _ =>
      (State.setCrc_pending _ _ _).trans (State.setStack_pending _ _ _)))

@[simp] theorem State.mendPage_wf (s : State) (page : Nat) (h : s.mem.wf = true) : (s.mendPage page).mem.wf = true := by
  rw [State.mendPage]
  split
  · exact State.uncorrectable_wf _ _ h
  · refine (congrArg Mem.wf ((State.corrected_mem _ _ _).trans (State.modMc_mem _ _ _))).trans ?_
    exact foldl_mem_wf _ _ _ h fun _ _ ht => State.setCrc_wf _ _ _ (State.setStack_wf _ _ _ ht)

@[simp] theorem State.checkPage_pending (s : State) (page : Nat) : (s.checkPage page).pending = s.pending := by
  rw [State.checkPage]
  have h1 := (State.mendParity_pending (s.waitParity page) page).trans (State.waitParity_pending s page)
  exact ite_pending _ _ _ _ (ite_pending _ _ _ _ h1 ((State.rewriteParity_pending _ _).trans h1)) ((State.mendPage_pending _ _).trans h1)

@[simp] theorem State.checkPage_wf (s : State) (page : Nat) (h : s.mem.wf = true) : (s.checkPage page).mem.wf = true := by
  rw [State.checkPage]
  have h1 := State.mendParity_wf (s.waitParity page) page ((congrArg Mem.wf (State.waitParity_mem _ _)).trans h)
  exact ite_mem_wf _ _ _ (ite_mem_wf _ _ _ h1 (State.rewriteParity_wf _ _ h1)) (State.mendPage_wf _ _ h1)

@[simp] theorem State.touchHbm_pending (s : State) (a n : Nat) : (s.touchHbm a n).pending = s.pending := by
  simp only [State.touchHbm]
  repeat' (first | (simp; done) | refine (foldl_pending _ _ _ (fun t x => ?_)).trans ?_ | split | simp)

@[simp] theorem State.touchHbm_wf (s : State) (a n : Nat) (h : s.mem.wf = true) : (s.touchHbm a n).mem.wf = true := by
  simp only [State.touchHbm]
  repeat' (first | (with_reducible assumption) | (simp [*]; done) | refine foldl_mem_wf _ _ _ ?_ (fun t x ht => ?_) | split | simp [*])

@[simp] theorem State.closeSlot_pending (s : State) (m : McId) (page : Nat) (cut : Bool) :
    (s.closeSlot m page cut).pending = s.pending := by
  rw [State.closeSlot]
  have h0 := State.waitRetrain_pending s page
  refine ite_pending _ _ _ _ ?_ ((State.putParity_pending _ _ _ _).trans ((State.mendParity_pending _ _).trans
    ((State.waitParity_pending _ _).trans ?_))) <;>
    exact (foldl_pending _ _ _ fun _ _ => State.setCrc_pending _ _ _).trans ((State.modMc_pending _ _ _).trans
      (ite_pending _ _ _ _ h0 ((State.checkPage_pending _ _).trans h0)))

@[simp] theorem State.closeSlot_wf (s : State) (m : McId) (page : Nat) (cut : Bool) (h : s.mem.wf = true) :
    (s.closeSlot m page cut).mem.wf = true := by
  rw [State.closeSlot]
  have h0 : (s.waitRetrain page).mem.wf = true := (congrArg Mem.wf (State.waitRetrain_mem _ _)).trans h
  refine ite_mem_wf _ _ _ ?_ (State.putParity_wf _ _ _ _ (State.mendParity_wf _ _ ((congrArg Mem.wf (State.waitParity_mem _ _)).trans ?_))) <;>
    exact foldl_mem_wf _ _ _ ((congrArg Mem.wf (State.modMc_mem _ _ _)).trans (ite_mem_wf _ _ _ h0 (State.checkPage_wf _ _ h0)))
      fun _ _ ht => State.setCrc_wf _ _ _ ht

@[simp] theorem State.slotOpen_pending (s : State) (page : Nat) (v : BitVec 64) : (s.slotOpen page v).pending = s.pending := by
  unfold State.slotOpen
  extract_lets m c s1 sl new
  have h1 : s1.pending = s.pending := by
    dsimp only [s1]
    split
    · rfl
    · split
      · rfl
      · split
        · exact State.closeSlot_pending _ _ _ _
        · rfl
  clear_value s1 sl new
  exact (State.modMc_pending _ _ _).trans h1

@[simp] theorem State.slotOpen_wf (s : State) (page : Nat) (v : BitVec 64) (h : s.mem.wf = true) : (s.slotOpen page v).mem.wf = true := by
  unfold State.slotOpen
  extract_lets m c s1 sl new
  have h1 : s1.mem.wf = true := by
    dsimp only [s1]
    split
    · exact h
    · split
      · exact h
      · split
        · exact State.closeSlot_wf _ _ _ _ h
        · exact h
  clear_value s1 sl new
  exact (congrArg Mem.wf (State.modMc_mem _ _ _)).trans h1

@[simp] theorem State.slotDone_pending (s : State) (page : Nat) : (s.slotDone page).pending = s.pending := by
  unfold State.slotDone
  split
  · exact ite_pending _ _ _ _ (State.closeSlot_pending _ _ _ _) rfl
  · rfl

@[simp] theorem State.slotDone_wf (s : State) (page : Nat) (h : s.mem.wf = true) : (s.slotDone page).mem.wf = true := by
  unfold State.slotDone
  split
  · exact ite_mem_wf _ _ _ (State.closeSlot_wf _ _ _ _ h) h
  · exact h

@[simp] theorem State.touch_pending (s : State) (a : ℕ) (n : ℕ) : (State.touch s a n).pending = s.pending := by
  simp only [State.touch]
  repeat' (first | (simp; done) | refine (foldl_pending _ _ _ (fun t x => ?_)).trans ?_ | split | simp)

@[simp] theorem State.touch_wf (s : State) (a : ℕ) (n : ℕ) (h : s.mem.wf = true) : (State.touch s a n).mem.wf = true := by
  simp only [State.touch]
  repeat' (first | (with_reducible assumption) | (simp [*]; done) | refine foldl_mem_wf _ _ _ ?_ (fun t x ht => ?_) | split | simp [*])

@[simp] theorem State.freshSram_pending (s : State) (u : SweepUnit) (a : ℕ) (n : ℕ) : (State.freshSram s u a n).pending = s.pending := by
  simp only [State.freshSram]
  repeat' (first | (simp; done) | refine (foldl_pending _ _ _ (fun t x => ?_)).trans ?_ | split | simp)

@[simp] theorem State.freshSram_wf (s : State) (u : SweepUnit) (a n : Nat) (h : s.mem.wf = true) :
    (s.freshSram u a n).mem.wf = true := by
  unfold State.freshSram; dsimp only
  have key : ∀ m : Mem, m.wf = true → ∀ (l1 l2 : List (Nat × Upset)) (p : Nat × Bool → Bool), ({ m with
      upsets := l1.foldl (fun l kv => Sparse.set .clean l kv.1 .clean) m.upsets
      poison := l2.foldl (fun q kv => Sparse.set false q (kv.1 / 8) true) (m.poison.filter p) } : Mem).wf = true := by
    intro m hm l1 l2 p
    rw [Mem.wf_iff] at hm ⊢
    exact ⟨hm.1, Sparse.wf_foldl _ (fun _ _ hp => Sparse.wf_set _ _ hp) _ (Sparse.wf_filter _ hm.2.1),
      Sparse.wf_foldl _ (fun _ _ hp => Sparse.wf_set _ _ hp) _ hm.2.2.1, hm.2.2.2⟩
  split
  · exact key _ h _ _ _
  · rw [State.eccNote_mem]; exact key _ h _ _ _

@[simp] theorem State.freshHbm_pending (s : State) (a : ℕ) (n : ℕ) : (State.freshHbm s a n).pending = s.pending := by
  unfold State.freshHbm
  extract_lets s1 s2
  have h1 : s1.pending = s.pending := ite_pending _ _ _ _ rfl (State.touchHbm_pending _ _ _)
  have h2 : s2.pending = s.pending := ite_pending _ _ _ _ h1 ((State.touchHbm_pending _ _ _).trans h1)
  clear_value s1 s2
  exact (State.modMem_pending _ _).trans ((State.slotOpen_pending _ _ _).trans ((State.waitRetrain_pending _ _).trans h2))

@[simp] theorem State.freshHbm_wf (s : State) (a n : Nat) (h : s.mem.wf = true) : (s.freshHbm a n).mem.wf = true := by
  unfold State.freshHbm
  extract_lets s1 s2
  have h1 : s1.mem.wf = true := ite_mem_wf _ _ _ h (State.touchHbm_wf _ _ _ h)
  have h2 : s2.mem.wf = true := ite_mem_wf _ _ _ h1 (State.touchHbm_wf _ _ _ h1)
  clear_value s1 s2
  refine State.modMem_wf _ _ (State.slotOpen_wf _ _ _ ((congrArg Mem.wf (State.waitRetrain_mem _ _)).trans h2)) fun m hm => ?_
  rw [Mem.wf_iff] at hm ⊢
  exact ⟨hm.1, Sparse.wf_filter _ hm.2.1, hm.2.2⟩

@[simp] theorem State.putMarked_pending (s : State) (a : Nat) (bs : List Byte) (poison : Bool) : (s.putMarked a bs poison).pending = s.pending := by
  simp only [State.putMarked]
  repeat' (first | (simp; done) | refine (foldl_pending _ _ _ (fun t x => ?_)).trans ?_ | split | simp)

@[simp] theorem State.putMarked_wf (s : State) (a : Nat) (bs : List Byte) (poison : Bool) (h : s.mem.wf = true) :
    (s.putMarked a bs poison).mem.wf = true := by
  have key : (s.modMem fun m => { m with bytes := putBytes m.bytes a bs }).mem.wf = true :=
    State.modMem_wf s _ h fun m hm => by
      rw [Mem.wf_iff] at hm ⊢
      exact ⟨putBytes_wf _ _ _ hm.1, hm.2⟩
  unfold State.putMarked; dsimp only; split
  · exact State.poisonRange_wf _ _ _ key
  · exact key

@[simp] theorem State.storePage_pending (s : State) (a : Nat) (bs : List Byte) (poison : Bool) : (s.storePage a bs poison).pending = s.pending :=
  (State.slotDone_pending _ _).trans ((State.putMarked_pending _ _ _ _).trans (State.freshHbm_pending _ _ _))

@[simp] theorem State.storePage_wf (s : State) (a : Nat) (bs : List Byte) (poison : Bool) (h : s.mem.wf = true) : (s.storePage a bs poison).mem.wf = true :=
  State.slotDone_wf _ _ (State.putMarked_wf _ _ _ _ (State.freshHbm_wf _ _ _ h))

@[simp] theorem State.store_pending (s : State) (a : ℕ) (bs : List Byte) (poison : Bool) : (State.store s a bs poison).pending = s.pending := by
  simp only [State.store]
  repeat' (first | (simp; done) | refine (foldl_pending _ _ _ (fun t x => ?_)).trans ?_ | split | simp)

@[simp] theorem State.store_wf (s : State) (a : Nat) (bs : List Byte) (poison : Bool) (h : s.mem.wf = true) :
    (s.store a bs poison).mem.wf = true := by
  unfold State.store
  repeat' (first | (with_reducible assumption) | (simp [*]; done) | refine foldl_mem_wf _ _ _ ?_ (fun t x ht => ?_) | split | simp [*])

end Sys2Proof.Machine
end

