-- ==== Sys2Proof/Laws/Frames.lean ====
section
/-!
SUPPORT. What the shared operations of the units leave alone: the queue of waiting commands (always), and memory, either as it was or in
its canonical form. Step proofs cite these and unfold no operation.
-/
namespace Sys2Proof.Machine

/-! ### Issue -/

@[simp] theorem State.issueFault_pending (s : State) (c : CombId) (code : ℕ) : (State.issueFault s c code).pending = s.pending := by
  simp only [State.issueFault]
  repeat' (first | (simp; done) | refine (foldl_pending _ _ _ (fun t x => ?_)).trans ?_ | split | simp)

@[simp] theorem State.issueFault_mem (s : State) (c : CombId) (code : ℕ) : (State.issueFault s c code).mem = s.mem := by
  simp only [State.issueFault]
  repeat' (first | (simp; done) | refine (foldl_mem _ _ _ (fun t x => ?_)).trans ?_ | split | simp)

@[simp] theorem State.issueS_pending (s : State) (c : CombId) (op : SOp) (f : SForm) (act : State) (ha : act.pending = s.pending) :
    (s.issueS c op f act).pending = s.pending := by
  simp only [State.issueS]; (repeat' split) <;> simp [ha]

@[simp] theorem State.issueS_mem (s : State) (c : CombId) (op : SOp) (f : SForm) (act : State) (ha : act.mem = s.mem) :
    (s.issueS c op f act).mem = s.mem := by
  simp only [State.issueS]; (repeat' split) <;> simp [ha]

@[simp] theorem State.issueS_wf (s : State) (c : CombId) (op : SOp) (f : SForm) (act : State) (h : s.mem.wf = true)
    (ha : act.mem.wf = true) : (s.issueS c op f act).mem.wf = true := by
  simp only [State.issueS]; (repeat' split) <;> simp [h, ha]

@[simp] theorem State.scalar_pending (s : State) (c : CombId) (op : SOp) (f : SForm) (g : W64 → W64 → W64) :
    (s.scalar c op f g).pending = s.pending := State.issueS_pending _ _ _ _ _ rfl

@[simp] theorem State.scalar_mem (s : State) (c : CombId) (op : SOp) (f : SForm) (g : W64 → W64 → W64) :
    (s.scalar c op f g).mem = s.mem := State.issueS_mem _ _ _ _ _ rfl

/-! ### Tensor -/

@[simp] theorem State.touchRuns_pending (s : State) (rs : List (ℕ × ℕ)) : (State.touchRuns s rs).pending = s.pending := by
  simp only [State.touchRuns]
  repeat' (first | (simp; done) | refine (foldl_pending _ _ _ (fun t x => ?_)).trans ?_ | split | simp)

@[simp] theorem State.touchRuns_wf (s : State) (rs : List (ℕ × ℕ)) (h : s.mem.wf = true) : (State.touchRuns s rs).mem.wf = true := by
  simp only [State.touchRuns]
  repeat' (first | (with_reducible assumption) | (simp [*]; done) | refine foldl_mem_wf _ _ _ ?_ (fun t x ht => ?_) | split | simp [*])

@[simp] theorem State.putRuns_pending (s : State) (ws : List (ℕ × List Byte)) : (State.putRuns s ws).pending = s.pending := by
  simp only [State.putRuns]
  repeat' (first | (simp; done) | refine (foldl_pending _ _ _ (fun t x => ?_)).trans ?_ | split | simp)

@[simp] theorem State.putRuns_wf (s : State) (ws : List (ℕ × List Byte)) (h : s.mem.wf = true) : (State.putRuns s ws).mem.wf = true := by
  simp only [State.putRuns]
  repeat' (first | (with_reducible assumption) | (simp [*]; done) | refine foldl_mem_wf _ _ _ ?_ (fun t x ht => ?_) | split | simp [*])

@[simp] theorem State.poisonList_pending (s : State) (ls : List ℕ) : (State.poisonList s ls).pending = s.pending := by
  simp only [State.poisonList]
  repeat' (first | (simp; done) | refine (foldl_pending _ _ _ (fun t x => ?_)).trans ?_ | split | simp)

@[simp] theorem State.poisonList_wf (s : State) (ls : List Nat) (h : s.mem.wf = true) : (s.poisonList ls).mem.wf = true := by
  unfold State.poisonList; split
  · exact h
  · refine State.modMem_wf s _ h fun m hm => ?_
    rw [Mem.wf_iff] at hm ⊢
    exact ⟨hm.1, Sparse.wf_foldl _ (fun _ _ hp => Sparse.wf_set _ _ hp) _ hm.2.1, hm.2.2⟩

@[simp] theorem State.raiseAll_pending (s : State) (c : CombId) (cs : List (Fin 32 × ℤ)) : (State.raiseAll s c cs).pending = s.pending := by
  simp only [State.raiseAll]
  repeat' (first | (simp; done) | refine (foldl_pending _ _ _ (fun t x => ?_)).trans ?_ | split | simp)

@[simp] theorem State.raiseAll_mem (s : State) (c : CombId) (cs : List (Fin 32 × ℤ)) : (State.raiseAll s c cs).mem = s.mem := by
  simp only [State.raiseAll]
  repeat' (first | (simp; done) | refine (foldl_mem _ _ _ (fun t x => ?_)).trans ?_ | split | simp)

@[simp] theorem State.cut_pending (s : State) (ok : List Bool) : (s.cut ok).2.pending = s.pending := by
  unfold State.cut; split <;> rfl

@[simp] theorem State.cut_mem (s : State) (ok : List Bool) : (s.cut ok).2.mem = s.mem := by
  unfold State.cut; split <;> rfl

@[simp] theorem State.execFault_pending (s : State) (c : CombId) (e : QEntry) (k : Fin 4) (code : Nat) :
    (s.execFault c e k code).pending = s.pending := (State.fault_pending _ _ _ _ _).trans rfl

@[simp] theorem State.execFault_mem (s : State) (c : CombId) (e : QEntry) (k : Fin 4) (code : Nat) :
    (s.execFault c e k code).mem = s.mem := (State.fault_mem _ _ _ _ _).trans rfl

theorem State.execFault_wf (s : State) (c : CombId) (e : QEntry) (k : Fin 4) (code : Nat) (h : s.mem.wf = true) :
    (s.execFault c e k code).mem.wf = true := (congrArg Mem.wf (State.execFault_mem s c e k code)).trans h

@[simp] theorem State.complete_pending (s : State) (c : CombId) (k : Fin 4) (fl : Flight) : (State.complete s c k fl).pending = s.pending := by
  simp only [State.complete]
  repeat' (first | (simp; done) | refine (foldl_pending _ _ _ (fun t x => ?_)).trans ?_ | split | simp)

@[simp] theorem State.complete_wf (s : State) (c : CombId) (k : Fin 4) (fl : Flight) (h : s.mem.wf = true) : (State.complete s c k fl).mem.wf = true := by
  simp only [State.complete]
  repeat' (first | (with_reducible assumption) | (simp [*]; done) | refine foldl_mem_wf _ _ _ ?_ (fun t x ht => ?_) | split | simp [*])

@[simp] theorem State.consumeIf_pending (s : State) (b : Bool) : (State.consumeIf s b).pending = s.pending := by
  simp only [State.consumeIf]
  repeat' (first | (simp; done) | refine (foldl_pending _ _ _ (fun t x => ?_)).trans ?_ | split | simp)

@[simp] theorem State.consumeIf_mem (s : State) (b : Bool) : (State.consumeIf s b).mem = s.mem := by
  simp only [State.consumeIf]
  repeat' (first | (simp; done) | refine (foldl_mem _ _ _ (fun t x => ?_)).trans ?_ | split | simp)

/-! ### MatrixOps -/

@[simp] theorem State.startMmul_pending (s : State) (c : CombId) (e : QEntry) (a b : Desc) (slot : Fin 4) (ow seq : Bool) (g : BitVec 2) (auto : Bool) (win : Int) (kc : Nat) (ta tb : Bool) (mask : Option W64) :
    (s.startMmul c e a b slot ow seq g auto win kc ta tb mask).pending = s.pending := by
  unfold State.startMmul
  extract_lets
  split
  · exact State.execFault_pending _ _ _ _ _
  · exact ((State.consumeIf_pending _ _).trans (State.modComb_pending _ _ _)).trans (State.touchRuns_pending _ _)

@[simp] theorem State.startMmul_wf (s : State) (c : CombId) (e : QEntry) (a b : Desc) (slot : Fin 4) (ow seq : Bool) (g : BitVec 2) (auto : Bool) (win : Int) (kc : Nat) (ta tb : Bool) (mask : Option W64) (h : s.mem.wf = true) :
    (s.startMmul c e a b slot ow seq g auto win kc ta tb mask).mem.wf = true := by
  unfold State.startMmul
  extract_lets
  split
  · exact State.execFault_wf _ _ _ _ _ h
  · rw [State.consumeIf_mem, State.modComb_mem]; exact State.touchRuns_wf _ _ h

@[simp] theorem State.startMhold_pending (s : State) (c : CombId) (e : QEntry) (b : Desc) (k0 c0 : Nat) (tb p64 : Bool) :
    (s.startMhold c e b k0 c0 tb p64).pending = s.pending := by
  unfold State.startMhold
  extract_lets
  split
  · exact State.execFault_pending _ _ _ _ _
  · exact ((State.consumeIf_pending _ _).trans (State.modMat_pending _ _ _)).trans (State.touchRuns_pending _ _)

@[simp] theorem State.startMhold_wf (s : State) (c : CombId) (e : QEntry) (b : Desc) (k0 c0 : Nat) (tb p64 : Bool) (h : s.mem.wf = true) :
    (s.startMhold c e b k0 c0 tb p64).mem.wf = true := by
  unfold State.startMhold
  extract_lets
  split
  · exact State.execFault_wf _ _ _ _ _ h
  · rw [State.consumeIf_mem, State.modMat_mem]; exact State.touchRuns_wf _ _ h

@[simp] theorem State.startMx_pending (s : State) (c : CombId) (e : QEntry) (shape : BitVec 3) (dr : Fin 32) (d : Desc) (slot : Fin 4) (rm : BitVec 3)
    (cs : Fin 4) (sv bv : Option Desc) (lo hi : W32) (base pitch : W64) :
    (s.startMx c e shape dr d slot rm cs sv bv lo hi base pitch).pending = s.pending := by
  unfold State.startMx
  extract_lets
  split
  · exact State.execFault_pending _ _ _ _ _
  · have key : ∀ (t : State) (ok : List Bool) (f : Ext → Ext) (b : Bool), t.pending = s.pending →
        (((t.cut ok).2.modExt c f).consumeIf b).pending = s.pending :=
      fun t ok f b ht => (State.consumeIf_pending _ _).trans ((State.modExt_pending _ _ _).trans ((State.cut_pending _ _).trans ht))
    refine ite_pending _ _ _ _ ?_ ?_
    · exact (State.execFault_pending _ _ _ _ _).trans ((State.poisonList_pending _ _).trans ((State.putRuns_pending _ _).trans
        (key _ _ _ _ (State.touchRuns_pending _ _))))
    · exact (State.modExt_pending _ _ _).trans (key _ _ _ _ (State.touchRuns_pending _ _))

@[simp] theorem State.startMx_wf (s : State) (c : CombId) (e : QEntry) (shape : BitVec 3) (dr : Fin 32) (d : Desc) (slot : Fin 4) (rm : BitVec 3)
    (cs : Fin 4) (sv bv : Option Desc) (lo hi : W32) (base pitch : W64)
    (h : s.mem.wf = true) : (s.startMx c e shape dr d slot rm cs sv bv lo hi base pitch).mem.wf = true := by
  unfold State.startMx
  extract_lets
  split
  · exact State.execFault_wf _ _ _ _ _ h
  · have key : ∀ (t : State) (ok : List Bool) (f : Ext → Ext) (b : Bool), t.mem.wf = true →
        (((t.cut ok).2.modExt c f).consumeIf b).mem.wf = true := fun t ok f b ht =>
      (congrArg Mem.wf ((State.consumeIf_mem _ _).trans ((State.modExt_mem _ _ _).trans (State.cut_mem _ _)))).trans ht
    refine ite_mem_wf _ _ _ ?_ ?_
    · exact State.execFault_wf _ _ _ _ _ (State.poisonList_wf _ _ (State.putRuns_wf _ _ (key _ _ _ _ (State.touchRuns_wf _ _ h))))
    · exact (congrArg Mem.wf (State.modExt_mem _ _ _)).trans (key _ _ _ _ (State.touchRuns_wf _ _ h))

/-! ### RouteOps -/

@[simp] theorem State.inject_pending (s : State) (ds : List Drop) : (State.inject s ds).pending = s.pending := by
  simp only [State.inject]
  repeat' (first | (simp; done) | refine (foldl_pending _ _ _ (fun t x => ?_)).trans ?_ | split | simp)

@[simp] theorem State.inject_mem (s : State) (ds : List Drop) : (State.inject s ds).mem = s.mem := by
  simp only [State.inject]
  repeat' (first | (simp; done) | refine (foldl_mem _ _ _ (fun t x => ?_)).trans ?_ | split | simp)

@[simp] theorem State.answer_pending (s : State) (d : Drop) (ty : ℕ) (addr : ℕ) (bs : List Byte) : (State.answer s d ty addr bs).pending = s.pending := by
  simp only [State.answer]
  repeat' (first | (simp; done) | refine (foldl_pending _ _ _ (fun t x => ?_)).trans ?_ | split | simp)

@[simp] theorem State.answer_mem (s : State) (d : Drop) (ty : ℕ) (addr : ℕ) (bs : List Byte) : (State.answer s d ty addr bs).mem = s.mem := by
  simp only [State.answer]
  repeat' (first | (simp; done) | refine (foldl_mem _ _ _ (fun t x => ?_)).trans ?_ | split | simp)

@[simp] theorem State.taken_pending (s : State) (d : Drop) : (State.taken s d).pending = s.pending := by
  simp only [State.taken]
  repeat' (first | (simp; done) | refine (foldl_pending _ _ _ (fun t x => ?_)).trans ?_ | split | simp)

@[simp] theorem State.taken_mem (s : State) (d : Drop) : (State.taken s d).mem = s.mem := by
  simp only [State.taken]
  repeat' (first | (simp; done) | refine (foldl_mem _ _ _ (fun t x => ?_)).trans ?_ | split | simp)

@[simp] theorem State.disc0_pending (s : State) (lo : ℕ) : (State.disc0 s lo).pending = s.pending := by
  simp only [State.disc0]
  repeat' (first | (simp; done) | refine (foldl_pending _ _ _ (fun t x => ?_)).trans ?_ | split | simp)

@[simp] theorem State.disc0_mem (s : State) (lo : ℕ) : (State.disc0 s lo).mem = s.mem := by
  simp only [State.disc0]
  repeat' (first | (simp; done) | refine (foldl_mem _ _ _ (fun t x => ?_)).trans ?_ | split | simp)

@[simp] theorem State.disc1_pending (s : State) (lo : ℕ) : (State.disc1 s lo).pending = s.pending := by
  simp only [State.disc1]
  repeat' (first | (simp; done) | refine (foldl_pending _ _ _ (fun t x => ?_)).trans ?_ | split | simp)

@[simp] theorem State.disc1_mem (s : State) (lo : ℕ) : (State.disc1 s lo).mem = s.mem := by
  simp only [State.disc1]
  repeat' (first | (simp; done) | refine (foldl_mem _ _ _ (fun t x => ?_)).trans ?_ | split | simp)

@[simp] theorem State.discHdr_pending (s : State) : (State.discHdr s).pending = s.pending := by
  simp only [State.discHdr]
  repeat' (first | (simp; done) | refine (foldl_pending _ _ _ (fun t x => ?_)).trans ?_ | split | simp)

@[simp] theorem State.discHdr_mem (s : State) : (State.discHdr s).mem = s.mem := by
  simp only [State.discHdr]
  repeat' (first | (simp; done) | refine (foldl_mem _ _ _ (fun t x => ?_)).trans ?_ | split | simp)

@[simp] theorem State.discTag_pending (s : State) : (State.discTag s).pending = s.pending := by
  simp only [State.discTag]
  repeat' (first | (simp; done) | refine (foldl_pending _ _ _ (fun t x => ?_)).trans ?_ | split | simp)

@[simp] theorem State.discTag_mem (s : State) : (State.discTag s).mem = s.mem := by
  simp only [State.discTag]
  repeat' (first | (simp; done) | refine (foldl_mem _ _ _ (fun t x => ?_)).trans ?_ | split | simp)

@[simp] theorem State.discNoRoute_pending (s : State) : (State.discNoRoute s).pending = s.pending := by
  simp only [State.discNoRoute]
  repeat' (first | (simp; done) | refine (foldl_pending _ _ _ (fun t x => ?_)).trans ?_ | split | simp)

@[simp] theorem State.discNoRoute_mem (s : State) : (State.discNoRoute s).mem = s.mem := by
  simp only [State.discNoRoute]
  repeat' (first | (simp; done) | refine (foldl_mem _ _ _ (fun t x => ?_)).trans ?_ | split | simp)

@[simp] theorem State.discStale_pending (s : State) : (State.discStale s).pending = s.pending := by
  simp only [State.discStale]
  repeat' (first | (simp; done) | refine (foldl_pending _ _ _ (fun t x => ?_)).trans ?_ | split | simp)

@[simp] theorem State.discStale_mem (s : State) : (State.discStale s).mem = s.mem := by
  simp only [State.discStale]
  repeat' (first | (simp; done) | refine (foldl_mem _ _ _ (fun t x => ?_)).trans ?_ | split | simp)

@[simp] theorem State.discFull_pending (s : State) : (State.discFull s).pending = s.pending := by
  simp only [State.discFull]
  repeat' (first | (simp; done) | refine (foldl_pending _ _ _ (fun t x => ?_)).trans ?_ | split | simp)

@[simp] theorem State.discFull_mem (s : State) : (State.discFull s).mem = s.mem := by
  simp only [State.discFull]
  repeat' (first | (simp; done) | refine (foldl_mem _ _ _ (fun t x => ?_)).trans ?_ | split | simp)

@[simp] theorem State.discEarly_pending (s : State) : (State.discEarly s).pending = s.pending := by
  simp only [State.discEarly]
  repeat' (first | (simp; done) | refine (foldl_pending _ _ _ (fun t x => ?_)).trans ?_ | split | simp)

@[simp] theorem State.discEarly_mem (s : State) : (State.discEarly s).mem = s.mem := by
  simp only [State.discEarly]
  repeat' (first | (simp; done) | refine (foldl_mem _ _ _ (fun t x => ?_)).trans ?_ | split | simp)

@[simp] theorem State.discFenced_pending (s : State) : (State.discFenced s).pending = s.pending := by
  simp only [State.discFenced]
  repeat' (first | (simp; done) | refine (foldl_pending _ _ _ (fun t x => ?_)).trans ?_ | split | simp)

@[simp] theorem State.discFenced_mem (s : State) : (State.discFenced s).mem = s.mem := by
  simp only [State.discFenced]
  repeat' (first | (simp; done) | refine (foldl_mem _ _ _ (fun t x => ?_)).trans ?_ | split | simp)

@[simp] theorem State.discDup_pending (s : State) : (State.discDup s).pending = s.pending := by
  simp only [State.discDup]
  repeat' (first | (simp; done) | refine (foldl_pending _ _ _ (fun t x => ?_)).trans ?_ | split | simp)

@[simp] theorem State.discDup_mem (s : State) : (State.discDup s).mem = s.mem := by
  simp only [State.discDup]
  repeat' (first | (simp; done) | refine (foldl_mem _ _ _ (fun t x => ?_)).trans ?_ | split | simp)

/-! ### Regs -/

@[simp] theorem State.meter_pending (s : State) (a : Reg) : (State.meter s a).pending = s.pending := by
  simp only [State.meter]
  repeat' (first | (simp; done) | refine (foldl_pending _ _ _ (fun t x => ?_)).trans ?_ | split | simp)

@[simp] theorem State.meter_mem (s : State) (a : Reg) : (State.meter s a).mem = s.mem := by
  simp only [State.meter]
  repeat' (first | (simp; done) | refine (foldl_mem _ _ _ (fun t x => ?_)).trans ?_ | split | simp)

@[simp] theorem State.putReg_pending (s : State) (r : Reg) (w : W64) : (s.putReg r w).pending = s.pending := by
  cases r <;> rfl

@[simp] theorem State.putReg_wf (s : State) (r : Reg) (w : W64) (h : s.mem.wf = true) : (s.putReg r w).mem.wf = true := by
  cases r <;> exact h

@[simp] theorem State.sweepNote_pending (s : State) (r : Reg) (old : W64) (new : W64) : (State.sweepNote s r old new).pending = s.pending := by
  simp only [State.sweepNote]
  repeat' (first | (simp; done) | refine (foldl_pending _ _ _ (fun t x => ?_)).trans ?_ | split | simp)

@[simp] theorem State.sweepNote_mem (s : State) (r : Reg) (old : W64) (new : W64) : (State.sweepNote s r old new).mem = s.mem := by
  simp only [State.sweepNote]
  repeat' (first | (simp; done) | refine (foldl_mem _ _ _ (fun t x => ?_)).trans ?_ | split | simp)

@[simp] theorem State.writeReg_pending (s : State) (r : Reg) (v : W64) : (State.writeReg s r v).pending = s.pending := by
  simp only [State.writeReg]
  repeat' (first | (simp; done) | refine (foldl_pending _ _ _ (fun t x => ?_)).trans ?_ | split | simp)

@[simp] theorem State.writeReg_wf (s : State) (r : Reg) (v : W64) (h : s.mem.wf = true) : (State.writeReg s r v).mem.wf = true := by
  simp only [State.writeReg]
  repeat' (first | (with_reducible assumption) | (simp [*]; done) | refine foldl_mem_wf _ _ _ ?_ (fun t x ht => ?_) | split | simp [*])

/-! ### Seals -/

@[simp] theorem State.askSeal_pending (s : State) (r : SealReq) : (State.askSeal s r).pending = s.pending := by
  simp only [State.askSeal]
  repeat' (first | (simp; done) | refine (foldl_pending _ _ _ (fun t x => ?_)).trans ?_ | split | simp)

@[simp] theorem State.askSeal_mem (s : State) (r : SealReq) : (State.askSeal s r).mem = s.mem := by
  simp only [State.askSeal]
  repeat' (first | (simp; done) | refine (foldl_mem _ _ _ (fun t x => ?_)).trans ?_ | split | simp)

@[simp] theorem State.recordSeal_pending (s : State) (r : SealReq) : (State.recordSeal s r).pending = s.pending := by
  simp only [State.recordSeal]
  repeat' (first | (simp; done) | refine (foldl_pending _ _ _ (fun t x => ?_)).trans ?_ | split | simp)

@[simp] theorem State.recordSeal_mem (s : State) (r : SealReq) : (State.recordSeal s r).mem = s.mem := by
  simp only [State.recordSeal]
  repeat' (first | (simp; done) | refine (foldl_mem _ _ _ (fun t x => ?_)).trans ?_ | split | simp)

/-! ### CourierOps -/

@[simp] theorem State.nextId_pending (s : State) (c : CombId) : (s.nextId c).2.pending = s.pending := rfl

@[simp] theorem State.autoSeal_pending (s : State) (c : CombId) (id : Nat) (d : Desc) (ws : List (Nat × List Byte)) (pl : List Nat) (src : BitVec 3)
    (p : Bool) : (s.autoSeal c id d ws pl src p).2.pending = s.pending := by
  unfold State.autoSeal; split
  · exact State.askSeal_pending _ _
  · rfl

@[simp] theorem State.nextId_mem (s : State) (c : CombId) : (s.nextId c).2.mem = s.mem := rfl

@[simp] theorem State.autoSeal_mem (s : State) (c : CombId) (id : Nat) (d : Desc) (ws : List (Nat × List Byte)) (pl : List Nat) (src : BitVec 3)
    (p : Bool) : (s.autoSeal c id d ws pl src p).2.mem = s.mem := by
  unfold State.autoSeal; split
  · exact State.askSeal_mem _ _
  · rfl

@[simp] theorem State.startMove_pending (s : State) (c : CombId) (e : QEntry) (dr : Fin 32) (d a : Desc) (mv : List Move) (idx : List (Nat × Nat))
    (bad : Pos → Bool) (ate : Bool) (oob : Nat) :
    (s.startMove c e dr d a mv idx bad ate oob).pending = s.pending := by
  unfold State.startMove
  extract_lets runs
  split
  · exact State.execFault_pending _ _ _ _ _
  · have key : ∀ (t : State) (ok : List Bool) (b : Bool), t.pending = s.pending → ((t.cut ok).2.consumeIf b).pending = s.pending :=
      fun t ok b ht => (State.consumeIf_pending _ _).trans ((State.cut_pending _ _).trans ht)
    have h1 : ∀ f, (((s.touchRuns runs).touchRuns (d.restRuns mv)).modComb c f).pending = s.pending := fun f =>
      (State.modComb_pending _ _ _).trans ((State.touchRuns_pending _ _).trans (State.touchRuns_pending _ _))
    refine ite_pending _ _ _ _ ?_ ?_
    · exact (State.execFault_pending _ _ _ _ _).trans ((State.poisonList_pending _ _).trans ((State.putRuns_pending _ _).trans
        (key _ _ _ (h1 _))))
    · exact (State.modComb_pending _ _ _).trans ((State.autoSeal_pending _ _ _ _ _ _ _ _).trans ((State.nextId_pending _ _).trans
        (key _ _ _ (h1 _))))

@[simp] theorem State.startMove_wf (s : State) (c : CombId) (e : QEntry) (dr : Fin 32) (d a : Desc) (mv : List Move) (idx : List (Nat × Nat))
    (bad : Pos → Bool) (ate : Bool) (oob : Nat)
    (h : s.mem.wf = true) : (s.startMove c e dr d a mv idx bad ate oob).mem.wf = true := by
  unfold State.startMove
  extract_lets runs
  split
  · exact State.execFault_wf _ _ _ _ _ h
  · have key : ∀ (t : State) (ok : List Bool) (b : Bool), t.mem.wf = true → ((t.cut ok).2.consumeIf b).mem.wf = true :=
      fun t ok b ht => (congrArg Mem.wf ((State.consumeIf_mem _ _).trans (State.cut_mem _ _))).trans ht
    have h1 : ∀ f, (((s.touchRuns runs).touchRuns (d.restRuns mv)).modComb c f).mem.wf = true := fun f =>
      (congrArg Mem.wf (State.modComb_mem _ _ _)).trans (State.touchRuns_wf _ _ (State.touchRuns_wf _ _ h))
    refine ite_mem_wf _ _ _ ?_ ?_
    · exact State.execFault_wf _ _ _ _ _ (State.poisonList_wf _ _ (State.putRuns_wf _ _ (key _ _ _ (h1 _))))
    · exact (congrArg Mem.wf ((State.modComb_mem _ _ _).trans ((State.autoSeal_mem _ _ _ _ _ _ _ _).trans (State.nextId_mem _ _)))).trans
        (key _ _ _ (h1 _))

@[simp] theorem State.startCpy_pending (s : State) (c : CombId) (e : QEntry) (dr : Fin 32) (d a : Desc) (z : Bool) :
    (s.startCpy c e dr d a z).pending = s.pending := State.startMove_pending _ _ _ _ _ _ _ _ _ _ _

@[simp] theorem State.startCpy_wf (s : State) (c : CombId) (e : QEntry) (dr : Fin 32) (d a : Desc) (z : Bool) (h : s.mem.wf = true) :
    (s.startCpy c e dr d a z).mem.wf = true := State.startMove_wf _ _ _ _ _ _ _ _ _ _ _ h

@[simp] theorem State.startGather_pending (s : State) (c : CombId) (e : QEntry) (dr : Fin 32) (d a di : Desc) :
    (s.startGather c e dr d a di).pending = s.pending := by
  unfold State.startGather
  exact ite_pending _ _ _ _ (State.execFault_pending _ _ _ _ _) (State.startMove_pending _ _ _ _ _ _ _ _ _ _ _)

@[simp] theorem State.startGather_wf (s : State) (c : CombId) (e : QEntry) (dr : Fin 32) (d a di : Desc) (h : s.mem.wf = true) :
    (s.startGather c e dr d a di).mem.wf = true := by
  unfold State.startGather
  exact ite_mem_wf _ _ _ (State.execFault_wf _ _ _ _ _ h) (State.startMove_wf _ _ _ _ _ _ _ _ _ _ _ h)

@[simp] theorem State.startScatter_pending (s : State) (c : CombId) (e : QEntry) (dr : Fin 32) (d a di : Desc) :
    (s.startScatter c e dr d a di).pending = s.pending := by
  unfold State.startScatter
  exact ite_pending _ _ _ _ (State.execFault_pending _ _ _ _ _) (State.startMove_pending _ _ _ _ _ _ _ _ _ _ _)

@[simp] theorem State.startScatter_wf (s : State) (c : CombId) (e : QEntry) (dr : Fin 32) (d a di : Desc) (h : s.mem.wf = true) :
    (s.startScatter c e dr d a di).mem.wf = true := by
  unfold State.startScatter
  exact ite_mem_wf _ _ _ (State.execFault_wf _ _ _ _ _ h) (State.startMove_wf _ _ _ _ _ _ _ _ _ _ _ h)

@[simp] theorem State.startSeal_pending (s : State) (c : CombId) (e : QEntry) (a : Desc) (addr : W64) :
    (s.startSeal c e a addr).pending = s.pending := by
  unfold State.startSeal
  exact ite_pending _ _ _ _ (State.execFault_pending _ _ _ _ _)
    ((State.modComb_pending _ _ _).trans ((State.askSeal_pending _ _).trans ((State.nextId_pending _ _).trans (State.touchRuns_pending _ _))))

@[simp] theorem State.startSeal_wf (s : State) (c : CombId) (e : QEntry) (a : Desc) (addr : W64) (h : s.mem.wf = true) :
    (s.startSeal c e a addr).mem.wf = true := by
  unfold State.startSeal
  exact ite_mem_wf _ _ _ (State.execFault_wf _ _ _ _ _ h)
    ((congrArg Mem.wf ((State.modComb_mem _ _ _).trans ((State.askSeal_mem _ _).trans (State.nextId_mem _ _)))).trans
      (State.touchRuns_wf _ _ h))

@[simp] theorem State.startAmo_pending (s : State) (c : CombId) (e : QEntry) (op : BitVec 3) (d a : Desc) :
    (s.startAmo c e op d a).pending = s.pending := by
  unfold State.startAmo
  exact ite_pending _ _ _ _ ((State.execFault_pending _ _ _ _ _).trans ((State.modMem_pending _ _).trans (State.touchRuns_pending _ _)))
    ((State.modComb_pending _ _ _).trans ((State.modMem_pending _ _).trans ((State.nextId_pending _ _).trans (State.touchRuns_pending _ _))))

@[simp] theorem State.startAmo_wf (s : State) (c : CombId) (e : QEntry) (op : BitVec 3) (d a : Desc) (h : s.mem.wf = true) :
    (s.startAmo c e op d a).mem.wf = true := by
  unfold State.startAmo
  have key : ∀ (t : State) (l : List (Nat × AtomicReq)), t.mem.wf = true →
      (t.modMem fun m => { m with atomics := m.atomics ++ l }).mem.wf = true := fun t l ht => State.modMem_wf _ _ ht fun _ hm => hm
  refine ite_mem_wf _ _ _ (State.execFault_wf _ _ _ _ _ (key _ _ (State.touchRuns_wf _ _ h))) ((congrArg Mem.wf (State.modComb_mem _ _ _)).trans (key _ _ ?_))
  exact (congrArg Mem.wf (State.nextId_mem _ _)).trans (State.touchRuns_wf _ _ h)

@[simp] theorem State.unwait_pending (s : State) (owner : Option (CombId × ℕ)) : (State.unwait s owner).pending = s.pending := by
  simp only [State.unwait]
  repeat' (first | (simp; done) | refine (foldl_pending _ _ _ (fun t x => ?_)).trans ?_ | split | simp)

@[simp] theorem State.unwait_mem (s : State) (owner : Option (CombId × ℕ)) : (State.unwait s owner).mem = s.mem := by
  simp only [State.unwait]
  repeat' (first | (simp; done) | refine (foldl_mem _ _ _ (fun t x => ?_)).trans ?_ | split | simp)

/-! ### AtomicOps -/

@[simp] theorem State.poisonedAtomic_pending (s : State) (m : McId) (a : ℕ) : (State.poisonedAtomic s m a).pending = s.pending := by
  simp only [State.poisonedAtomic]
  repeat' (first | (simp; done) | refine (foldl_pending _ _ _ (fun t x => ?_)).trans ?_ | split | simp)

@[simp] theorem State.poisonedAtomic_mem (s : State) (m : McId) (a : ℕ) : (State.poisonedAtomic s m a).mem = s.mem := by
  simp only [State.poisonedAtomic]
  repeat' (first | (simp; done) | refine (foldl_mem _ _ _ (fun t x => ?_)).trans ?_ | split | simp)

@[simp] theorem State.atomicAt_pending (s : State) (op : BitVec 3) (a : ℕ) (xs : List Byte) (poison : Bool) : (State.atomicAt s op a xs poison).pending = s.pending := by
  simp only [State.atomicAt]
  repeat' (first | (simp; done) | refine (foldl_pending _ _ _ (fun t x => ?_)).trans ?_ | split | simp)

@[simp] theorem State.atomicAt_wf (s : State) (op : BitVec 3) (a : ℕ) (xs : List Byte) (poison : Bool) (h : s.mem.wf = true) : (State.atomicAt s op a xs poison).mem.wf = true := by
  simp only [State.atomicAt]
  repeat' (first | (with_reducible assumption) | (simp [*]; done) | refine foldl_mem_wf _ _ _ ?_ (fun t x ht => ?_) | split | simp [*])

end Sys2Proof.Machine
end

