-- ==== Sys2Proof/Laws/Issue.lean ====
section
/-!
SUPPORT. What the shared frames of issue and of orders can do, once each: the proofs of single words and orders cite these and unfold
neither `State.issueS` nor `State.order`.
-/
namespace Sys2Proof.Machine

/-! ### Issue of a sequencer word (R135, R143, R158) -/

/-- Everything that the issue of a sequencer word can do. -/
theorem State.issueS_cases (s : State) (c : CombId) (op : SOp) (f : SForm) (act : State) :
    (s.issueS c op f act = s ∧ ((s.comb c).seq.issuing = false ∨ (s.comb c).seq.held (sRegs op f) = true)) ∨
    (s.issueS c op f act = s.issueFault c 1 ∧ (s.comb c).seq.issuing = true ∧ f.illegal op = true) ∨
    (s.issueS c op f act = s.passed c ∧ (s.comb c).seq.issuing = true ∧ f.illegal op = false ∧ (s.comb c).seq.pred f.pred = false) ∨
    (s.issueS c op f act = act ∧ s.due c op f = true) := by
  cases h1 : (s.comb c).seq.issuing <;> cases h2 : f.illegal op <;> cases h3 : (s.comb c).seq.pred f.pred <;>
    cases h4 : (s.comb c).seq.held (sRegs op f) <;> simp [State.issueS, State.due, State.passed, h1, h2, h3, h4]

/-- A word that is due acts. -/
theorem State.issueS_due (s : State) (c : CombId) (op : SOp) (f : SForm) (act : State) (h : s.due c op f = true) :
    s.issueS c op f act = act := by
  simp only [State.due, Bool.and_eq_true, Bool.not_eq_true'] at h
  simp [State.issueS, h]

/-- A comb that does not issue keeps its state. -/
theorem State.issueS_quiet (s : State) (c : CombId) (op : SOp) (f : SForm) (act : State) (h : (s.comb c).seq.issuing = false) :
    s.issueS c op f act = s := by
  simp [State.issueS, h]

/-- An illegal word raises ILLEGAL. -/
theorem State.issueS_illegal (s : State) (c : CombId) (op : SOp) (f : SForm) (act : State) (h : (s.comb c).seq.issuing = true)
    (hi : f.illegal op = true) : s.issueS c op f act = s.issueFault c 1 := by
  simp [State.issueS, h, hi]

/-! ### Orders (R356 to R360) -/

/-- A piece of an order's life: what the judge does with one that is formed, signed and allowed. -/
theorem State.judge_runs (s : State) (h : OrderHdr) (u : OrderRule) (run : State → State) (hf : hdrFormed h u.len = true)
    (ha : s.wdn.authOk h u = true) (hs : s.dev.st ∈ u.states) : s.judge h u run = run (s.noted h) := by
  simp [State.judge, State.noted, hf, ha, hs]

/-- Taking the order at the front changes only what the hall keeps of the places of the orders that wait. -/
theorem State.seated_snd (s : State) : ∃ l, s.seated.2 = { s with eth := { s.eth with seats := l } } := by
  unfold State.seated
  split
  · exact ⟨s.eth.seats, rfl⟩
  · exact ⟨_, rfl⟩

/-- With at most 256 orders waiting behind it, and all of them held, nothing changes. -/
theorem State.seated_quiet (s : State) (h1 : s.eth.seats = []) (h2 : s.waiting ≤ 256) : s.seated = (true, s) := by
  simp [State.seated, h1, h2]

/-- An order that reaches its execution runs on the state in which its source is heard and its nonce taken. -/
theorem State.order_runs (s : State) (h : OrderHdr) (u : OrderRule) (run : State → State) (ht : s.takesUp h = true)
    (hn : s.newOrder h u = true) (hc : u.cached = true) (hf : hdrFormed h u.len = true) (ha : s.wdn.authOk h u = true)
    (hs : s.dev.st ∈ u.states) : s.order h u run = run (s.heard h) := by
  obtain ⟨l, hl⟩ := s.seated_snd
  simp only [State.takesUp, Bool.and_eq_true] at ht
  obtain ⟨⟨⟨⟨h1, hp⟩, hg⟩, h2⟩, h3⟩ := ht
  simp only [State.newOrder, hc, Bool.not_true, Bool.false_or, Bool.and_eq_true, List.isEmpty_iff, Bool.not_eq_true'] at hn
  simp only [beq_iff_eq] at hp
  have e1 : s.seated.2.receives = true := by rw [hl]; exact h1
  have e2 : ¬ (h.port.toNat ≠ getF s.seated.2.eth.cfg 0 16 ∨ s.seated.2.tagged h.tag = false ∨ s.seated.2.addressed h = false) := by
    rw [hl]
    simp only [hp, ne_eq, not_true_eq_false, false_or, not_or, Bool.not_eq_false]
    exact ⟨hg, h2⟩
  have e3 : s.seated.2.eth.old h = false := by rw [hl]; exact hn.2
  have e4 : s.seated.2.eth.held h = [] := by rw [hl]; exact hn.1
  have e5 := State.judge_runs (s.seated.2.hearing h) h u run hf (by rw [hl]; exact ha) (by rw [hl]; exact hs)
  simp only [State.order, e1, e2, h3, hc, e3, e4]
  simpa [State.heard, State.hearing] using e5

/-- The port receives nothing while it is down or the device is OFF. -/
theorem State.order_deaf (s : State) (h : OrderHdr) (u : OrderRule) (run : State → State) (hr : s.receives = false) :
    s.order h u run = s.seated.2 := by
  obtain ⟨l, hl⟩ := s.seated_snd
  have e1 : s.seated.2.receives = false := by rw [hl]; exact hr
  simp [State.order, e1]

end Sys2Proof.Machine
end

