-- ==== Sys2Proof/WellFormed.lean ====
section
/-!
DEFINITION. Which commands are well formed: operands that the spec's own tables bound (sizes of a drop's payload, of a seal
header, of an alloc list; lines and pages that exist; counts that a body format can carry). A meaning answers on every
command; these checks say which ones a sender can send.
-/
namespace Sys2Proof

/-- A drop carries 48 payload bytes (R227). -/
def Drop.wf (d : Drop) : Bool := d.payload.length == 48

/-- A piece carries a 32-byte canonical stream header (Table 17.6). -/
def BulkPiece.wf (b : BulkPiece) : Bool := b.shdr.length == 32

/-- A comb store has 983,040 lines (60 MiB), a square store 262,144 (16 MiB) (R36, R39). -/
def combLines : Nat := 983040
def squareLines : Nat := 262144

/-- Pages of HBM: 960 GiB in pages of 4 KiB (R336, R338). -/
def hbmPages : Nat := 0xF000000

/-- Atomic units: 24 controllers, then 16 squares (R32). -/
def atomicUnits : Nat := 40

/-- Strikes name sectors that exist. -/
def HbmStrike.wf (x : HbmStrike) : Bool := x.sectors.all fun s => decide (s.1 / 64 < hbmPages)

/-- Well-formed commands. -/
def Instr.wf : Instr → Bool
  | .data d | .manifest d | .mdata d | .mmanifest d | .getreq d | .rdata d | .ack d | .done d | .error d | .fenced d
  | .sign d | .grant d | .collData d | .abort d | .arrive d | .release d
  | .qvote d | .qdecide d | .vote d | .lodge d | .lodged d | .decide d => d.wf
  | .ident _ x => x.alloc.length == 12
  | .mergeSlotClose m page => Decidable.decide (page / 0xA00000 = m.val)
  | .hbmSweep _ x => x.wf
  | .combStoreSweep _ line _ => Decidable.decide (line < combLines)
  | .squareStoreSweep _ line _ => Decidable.decide (line < squareLines)
  | .atomicOperation u => Decidable.decide (u < atomicUnits)
  | .bulkWrite _ b => b.wf
  | .certify _ _ ins ws _ => Decidable.decide (ins.length ≤ 255) && Decidable.decide (ws.length ≤ 255)
  | _ => true

end Sys2Proof
end

