-- ==== Sys2Proof/Tests/Slice0.lean ====
section
/-!
SUPPORT. Small tests: ill-formed commands that the checks refuse, words and results written out from the spec's tables, and for each
statement a theorem witness_<its name> that shows concrete states and operands which meet the hypotheses of its clauses.
-/
namespace Sys2Proof.Machine

set_option maxRecDepth 4000

/-! ### Helpers -/

/-- The state that an outcome goes on in. -/
def wAfter (o : Host.Outcome State Fault Refusal) : State := match o with | .next t => t | _ => {}

/-- A running chip with its port up, comb 0's sequencer as given. -/
def wSeq (q : Seq) : State :=
  ({ dev := { st := .running }, eth := { linkUp := true, cfg := 0, notify := 0x8000000000000000 } } : State).modSeq 0 fun _ => q

/-- A running sequencer with s2 = 24, s31 = 16 and word 1 due. -/
def wQ : Seq :=
  { st := .running, s := ((Vector.replicate 32 (0 : W64)).set 2 24).set 31 16, pc := 8 }

/-- The same with a loop body of words 1 to 1 open, two passes left. -/
def wLooped : Seq := { wQ with loops := [⟨1, 1, 2⟩] }

/-- A queue entry of a dead operation. -/
def wE (op : TOp) : QEntry := { pc := 64, ce := true, cnt := 7, op := op }

/-! ### Ill-formed commands -/

/-- A drop of 47 payload bytes (R227). -/
theorem test_wf_drop : (Instr.data ⟨0, List.replicate 47 0⟩).wf = false ∧ (Instr.data ⟨0, List.replicate 48 0⟩).wf = true := by decide

/-- An alloc list of eleven channels (R217). -/
theorem test_wf_ident : (Instr.ident 0 ⟨0, 0, 0, List.replicate 11 0⟩).wf = false ∧
    (Instr.ident 0 ⟨0, 0, 0, List.replicate 12 0⟩).wf = true := by decide

/-- A page of another controller (R338). -/
theorem test_wf_merge_slot : (Instr.mergeSlotClose 0 0xA00000).wf = false ∧ (Instr.mergeSlotClose 1 0xA00000).wf = true := by decide

/-- A strike on a sector past the last of the stacks (R338). -/
theorem test_wf_strike : (Instr.hbmSweep 0 { sectors := [(64 * 0xF000000, 1, 0)] }).wf = false ∧
    (Instr.hbmSweep 0 { sectors := [(64 * 0xF000000 - 1, 1, 0)] }).wf = true := by decide

/-- Lines one past the last of a comb store and a square store (R36, R39). -/
theorem test_wf_lines : (Instr.combStoreSweep 0 983040 []).wf = false ∧ (Instr.combStoreSweep 0 983039 []).wf = true ∧
    (Instr.squareStoreSweep 0 262144 []).wf = false ∧ (Instr.squareStoreSweep 0 262143 []).wf = true := by decide

/-- Atomic unit 40 of 40 (R32). -/
theorem test_wf_atomic_unit : (Instr.atomicOperation 40).wf = false ∧ (Instr.atomicOperation 39).wf = true := by decide

/-- A stream header of 31 bytes (Table 17.6). -/
theorem test_wf_bulk : (Instr.bulkWrite {} ⟨0, 0, 64, 0, 0, 0, 0, 0, 0, List.replicate 31 0, []⟩).wf = false ∧
    (Instr.bulkWrite {} ⟨0, 0, 64, 0, 0, 0, 0, 0, 0, List.replicate 32 0, []⟩).wf = true := by decide

/-- 256 inputs (Table 14.9). -/
theorem test_wf_certify : (Instr.certify {} 0 (List.replicate 256 0) [] 0).wf = false ∧
    (Instr.certify {} 0 (List.replicate 255 0) [] 0).wf = true := by decide

/-! ### Words written out from Tables 8.1, 9.1 and 9.2 -/

/-- add s1, s2, 3: opcode 0x02, I at bit 11, SD at 12, SA at 17, IMM at 32. -/
theorem test_word_add : Word.ofBits (0x02 + 2 ^ 11 + 1 * 2 ^ 12 + 2 * 2 ^ 17 + 3 * 2 ^ 32) =
    some (.s .add { i := true, sd := 1, sa := 2, imm := 3 }) := by decide

/-- wait c37 under p2: opcode 0x10, P at bit 8, the counter at bits [29:22]. -/
theorem test_word_wait : Word.ofBits (0x10 + 2 * 2 ^ 8 + 2 ^ 11 + 37 * 2 ^ 22 + 5 * 2 ^ 32) =
    some (.s .wait { pred := 2, i := true, sb := 5, x := 1, imm := 5 }) ∧
    ({ pred := 2, i := true, sb := 5, x := 1, imm := 5 } : SForm).cnt = 37 := by decide

/-- mshape with shape 2 and mode 1, counter 9: opcode 0x40, CE at 11, CNT at 12, SHAPE at 20, MODE at 23. -/
theorem test_word_mshape : Word.ofBits (0x40 + 2 ^ 11 + 9 * 2 ^ 12 + 2 * 2 ^ 20 + 1 * 2 ^ 23) =
    some (.t .mshape { ce := true, cnt := 9, body := 10 }) := by decide

/-- vadd of d3, d4 into d5: opcode 0x52, DD at 20, DA at 25, DB at 30. -/
theorem test_word_vadd : Word.ofBits (0x52 + 5 * 2 ^ 20 + 3 * 2 ^ 25 + 4 * 2 ^ 30) =
    some (.t (.vec .vadd) { body := 5 + 3 * 2 ^ 5 + 4 * 2 ^ 10 }) ∧
    ({ body := 5 + 3 * 2 ^ 5 + 4 * 2 ^ 10 } : TForm).reg 30 = 4 := by decide

/-- The all-zero word and opcode 0x15 are reserved (R132, R184). -/
theorem test_word_reserved : Word.ofBits 0 = none ∧ Word.ofBits 0x15 = none ∧ Word.ofBits 0x65 = none := by decide

/-! ### Results -/

/-- 2^64 − 1 plus 1 wraps (R134). -/
theorem test_add_wraps : ((wAfter (exec (.add 0 { i := true, sd := 1, sa := 0, imm := 0xFFFFFFFF })
    (wSeq { wQ with s := (Vector.replicate 32 (0 : W64)).set 0 1 }))).comb 0).seq.s[(1 : Fin 32)] = 0 := by decide

/-- shr with X bit 0 set shifts the sign in: −16 by 2 is −4 (Table 9.3). -/
theorem test_shr_arithmetic : ((wAfter (exec (.shr 0 { i := true, sd := 2, sa := 2, x := 1, imm := 2 })
    (wSeq { wQ with s := (Vector.replicate 32 (0 : W64)).set 2 (-16) }))).comb 0).seq.s[(2 : Fin 32)] = -4 := by decide

/-- A taken call at word 1 leaves 16 in s31 (R134). -/
theorem test_call_links : ((wAfter (exec (.call 0 { sa := 2 }) (wSeq wQ))).comb 0).seq.s[(31 : Fin 32)] = 16 ∧
    ((wAfter (exec (.call 0 { sa := 2 }) (wSeq wQ))).comb 0).seq.pc = 24 := by decide

/-- A word that ends a body with passes left goes back to its start (R187). -/
theorem test_loop_repeats : wLooped.advance.pc = 8 ∧ wLooped.advance.loops = [⟨1, 1, 1⟩] := by decide


/-! ### Witnesses: sequencer words -/

/-- FP32 1.0 is 0x3F800000 (its significand carried with 24 bits), E4M3 0x7E is 448 and 0x7F NaN (Table 3.2). -/
theorem test_formats : Fmt.decode .fp32 none 0 0x3F800000 = .fin false 0x800000 (-23) ∧ Fmt.decode .e4m3 none 0 0x7E = .fin false 14 5 ∧
    Fmt.decode .e4m3 none 0 0x7F = .nan := by decide

theorem witness_ScalarArithmeticAndCalls : (wSeq wQ).due 0 .add { sd := 1, sa := 2, sb := 31 } = true ∧ (wSeq wQ).due 0 .sub { i := true, sd := 2, sa := 2, imm := 5 } = true ∧
    (wSeq wQ).due 0 .mul { sd := 2, sa := 2, sb := 2 } = true ∧
    ((wSeq wQ).due 0 .call { sa := 2 } = true ∧ (wQ.s[(2 : Fin 32)] + ({ sa := 2 } : SForm).sext).toNat = 24) ∧
    ((wSeq wQ).due 0 .call { imm := 262136 } = true ∧ (wQ.s[(0 : Fin 32)] + ({ imm := 262136 } : SForm).sext).toNat = 262136) ∧
    (wSeq wQ).due 0 .ret {} = true ∧ wQ.s[(31 : Fin 32)].toNat % 8 = 0 := by decide

theorem witness_LogicShiftCompareAndBranches :
    (∀ op ∈ [SOp.and, .or, .xor, .shl, .shr], (wSeq wQ).due 0 op { sd := 1, sa := 2, sb := 31 } = true ∧
      (wSeq wQ).due 0 op { i := true, sd := 1, sa := 2, imm := 0x80000000 } = true) ∧
    (wSeq wQ).due 0 .li { sd := 1, imm := 7 } = true ∧ (wSeq wQ).due 0 .li { sd := 1, x := 1, imm := 7 } = true ∧
    (wSeq wQ).due 0 .shr { sd := 1, sa := 2, sb := 31, x := 1 } = true ∧ (wSeq wQ).due 0 .cmp { sd := 7, sa := 2, sb := 31, x := 19 } = true ∧
    (wSeq wQ).due 0 .br { imm := 8 } = true ∧ (wSeq wQ).due 0 .br { imm := 1 } = true ∧ (wSeq wQ).due 0 .br { imm := -16 } = true ∧
    (wSeq wQ).due 0 .jmp { sa := 2 } = true ∧ (wSeq wQ).due 0 .jmp { imm := 262144 } = true ∧
    ((wSeq wQ).due 0 .call { imm := 262144 } = true ∧ 262144 ≤ (wQ.s[(0 : Fin 32)] + ({ imm := 262144 } : SForm).sext).toNat) ∧
    (let q := { wQ with s := wQ.s.set 31 3 }
     (wSeq q).due 0 .ret {} = true ∧ q.s[(31 : Fin 32)].toNat % 8 ≠ 0) := by decide

theorem witness_Loops :
    wQ.issuing = true ∧ (0x00000003 : W32).toNat / 2 ^ 20 = 0 ∧
    (let q := { wQ with loops := List.replicate 4 ⟨0, 9, 1⟩ }
     (wSeq q).due 0 .loop { i := true, imm := 0x00200003 } = true ∧ 4 ≤ q.loops.length ∧ (0x00200003 : W32).toNat % 2 ^ 20 ≠ 0 ∧
     -- with four entries and no pass the word is skipped
     (wSeq q).due 0 .loop { i := true, imm := 0x00200000 } = true ∧ q.pc.toNat / 8 + 2 < 32768) ∧
    (let q := { wQ with s := wQ.s.set 2 0x100000000 }
     (wSeq q).due 0 .loop { sa := 2, imm := 0x00200000 } = true ∧ 2 ^ 32 ≤ q.s[(2 : Fin 32)].toNat) ∧
    (let q := { wQ with pc := 262136 }
     (wSeq q).due 0 .loop { i := true, imm := 0x00100003 } = true ∧ q.pc.toNat / 8 + 1 = 32768) ∧
    ((wSeq wQ).due 0 .loop { i := true, imm := 0x00100003 } = true ∧ wQ.pc.toNat / 8 + 1 < 32768 ∧ wQ.loops.length < 4) ∧
    (wLooped.loops.dropWhile fun e => decide (e.last = 1) && decide (e.left = 0)) = [⟨1, 1, 2⟩] ∧
    (let q := { wQ with loops := [⟨1, 1, 0⟩, ⟨0, 5, 1⟩] }
     (q.loops.dropWhile fun e => decide (e.last = 1) && decide (e.left = 0)) = [⟨0, 5, 1⟩]) ∧
    -- a target outside the inner body: one entry goes
    loopLeave 4 [⟨1, 1, 2⟩, ⟨0, 5, 1⟩] = [⟨0, 5, 1⟩] := by decide

theorem witness_WordsWithoutEffect :
    wQ.issuing = true ∧ wQ.pred 1 = false ∧ ({ pred := 1, sd := 1 } : SForm).illegal .add = false ∧ ({ pred := 1, ce := true, cnt := 3 } : TForm).illegal .mshape = false ∧
    ({ x := 1 } : SForm).illegal .add = true ∧ ({ pred := 1, cnt := 3 } : TForm).illegal .mshape = true ∧ ({} : Seq).issuing = false ∧
    (let q := { wQ with vote := some (2, false, 0) }
     q.issuing = true ∧ q.pred 0 = true ∧ q.held (sRegs .add { sd := 2 }) = true ∧ ({ sd := 2 } : SForm).illegal .add = false ∧
     q.held (tRegs .mhold { body := 2 * 2 ^ 5 }) = true ∧ ({ body := 2 * 2 ^ 5 } : TForm).illegal .mhold = false) := by decide

theorem witness_StallsAndReleases :
    (wSeq wQ).due 0 .wait { i := true, sb := 5, x := 1, imm := 3 } = true ∧ (wSeq wQ).due 0 .wait { sa := 2, sb := 5 } = true ∧
    (wSeq wQ).due 0 .fence { x := 5 } = true ∧ (wSeq wQ).due 0 .fence {} = true ∧
    (wSeq wQ).due 0 .chimew { i := true, sd := 4, x := 1, imm := 36 } = true ∧
    (let q := { wQ with stall := .counter 37 3, st := .waiting }
     (wSeq q).comb 0 = { seq := q } ∧ q.stall = .counter 37 3 ∧ q.st = .waiting) ∧
    (let q := { wQ with stall := .fence 5, st := .waiting, busy := wQ.busy.set 1 1 }
     q.stall = .fence 5 ∧ q.st = .waiting ∧ ∀ k : Fin 4, (5 : BitVec 4).getLsbD k = true → q.busy[k] = 0) ∧
    (let q := { wQ with stall := .chimew 900, st := .chimeWait }
     let s := { wSeq q with chm := { running := true, tb := 36, nextAt := 36000 } }
     q.st = .chimeWait ∧ 900 < s.chm.nextAt ∧ q.stall = .chimew 900) := by decide

theorem witness_HaltAndDrain : (wSeq wQ).due 0 .halt {} = true ∧
    (let q := { wQ with stall := .halting, busy := wQ.busy.set 3 1 }
     q.stall = .halting ∧ q.st = .running ∧ ∃ k : Fin 4, q.busy[k] ≠ 0) ∧
    (let q := { wQ with stall := .halting, frame := 0x700000000 }
     q.stall = .halting ∧ q.st = .running ∧ (∀ k : Fin 4, q.busy[k] = 0) ∧ (wSeq q).eth.linkUp = true ∧ getF (wSeq q).eth.notify 63 1 = 1 ∧
     getF (wSeq q).eth.cfg 33 1 = 0) := by decide

/-! ### Witnesses: faults, fetch, control registers, descriptors -/

theorem witness_FaultRecordAndDrain :
    wQ.stall ≠ .faulting ∧ wQ.st ≠ .faulted ∧
    (let q := { wQ with stall := .faulting, fault := 0xFFFF000000000003, busy := wQ.busy.set 0 1 }
     q.stall = .faulting ∧ ∃ k : Fin 4, q.busy[k] ≠ 0) ∧
    (let q := { wQ with stall := .faulting }
     (∀ k : Fin 4, q.busy[k] = 0) ∧ (wSeq q).stp.round = none ∧
     ({ step := 1, openedAt := 2, cfg := 0, voters := [(0, none), (1, none)] } : Round).chipVote = none ∧
     ({ step := 1, openedAt := 2, cfg := 0, voters := [(0, some false)], chipVote := some false } : Round).chipVote ≠ none ∧
     (let r : Round := { step := 1, openedAt := 2, cfg := 0, voters := [(0, none), (1, none)] }
      let s : State := { wSeq q with stp := { step := 1, round := some r } }
      s.stp.round = some r ∧ r.step = s.stp.step ∧ s.stp.lodged = none)) := by decide

theorem witness_FetchAndLockstep :
    (let q := { wQ with istore := [(1, 2)] }
     q.issuing = true ∧ Sparse.get Upset.clean q.upsets 1 ≠ .double ∧ (Word.ofBits (Sparse.get 0 q.istore 1)).isSome = true) ∧
    (wQ.issuing = true ∧ Word.ofBits (Sparse.get 0 wQ.istore 1) = none) ∧
    Sparse.get Upset.clean [(1, Upset.double)] 1 = .double ∧
    wQ.st = .running ∧ wQ.stall ≠ .faulting ∧ ({ wQ with stall := .faulting } : Seq).stall = .faulting ∧ ((wSeq wQ).comb 0).seqFaults = [] := by decide

theorem witness_ControlRegisterAndDescriptorWords :
    ((wSeq wQ).due 0 .csrr { i := true, sd := 1, imm := 1 } = true ∧ regFor 0 0x010200000001 = none) ∧
    (wSeq wQ).due 0 .csrw { i := true, sb := 2, imm := 1 } = true ∧
    ((wSeq wQ).due 0 .csrr { i := true, sd := 1, imm := 0x1000 } = true ∧ regFor 0 0x010200001000 = some (.cmbMap 0) ∧ ownReg 0 (.cmbMap 0) = false ∧
      (wSeq wQ).due 0 .csrw { i := true, sb := 2, imm := 0x1000 } = true) ∧
    ((wSeq wQ).due 0 .csrw { i := true, sb := 2, imm := 0x11008 } = true ∧ regFor 0 0x010200011008 = some (.cnt 0 1) ∧ ownReg 0 (.cnt 0 1) = true) ∧
    -- a 4-bit field takes 15 and not 16, a signed 10-bit field takes -512 and not 512
    ((wSeq wQ).due 0 .dset { i := true, sd := 1, x := 9, imm := 15 } = true ∧ (wQ.d[(1 : Fin 32)].dset 9 15).isSome = true ∧ wQ.d[(1 : Fin 32)].dset 9 16 = none ∧
      (wQ.d[(1 : Fin 32)].dset 14 (-512)).isSome = true ∧ wQ.d[(1 : Fin 32)].dset 14 512 = none) ∧
    (∀ op ∈ [SOp.dld, .dst], (wSeq wQ).due 0 op { sd := 1, sa := 2 } = true ∧ (wSeq wQ).due 0 op { sd := 1, imm := 128 } = true ∧
      (wSeq wQ).due 0 op { sd := 1, imm := -64 } = true) ∧
    (24 : Nat) % 64 ≠ 0 ∧ (wSeq wQ).opened 128 64 = true ∧ (wSeq wQ).opened ((-64 : W64).toNat % 2 ^ 48) 64 = false := by decide

/-- A round of combs 0 and 1 on step 0. -/
def wRound : Round := { step := 0, openedAt := 2, cfg := 0x0000006400000100, voters := [(0, none), (1, none)] }

theorem witness_FrameTallyAndCommitWords :
    (wSeq wQ).due 0 .frame {} = true ∧
    ((wSeq wQ).due 0 .tally { sd := 5, sa := 2 } = true ∧ (wQ.s[(2 : Fin 32)] + ({ sd := 5, sa := 2 } : SForm).sext).toNat % 64 ≠ 0) ∧
    (let q := { wQ with s := wQ.s.set 2 (BitVec.ofNat 64 (combBase 0 + 0x03C00000 - 640)) }
     let a := q.s[(2 : Fin 32)].toNat
     (wSeq q).due 0 .tally { sd := 5, sa := 2, sb := 5, x := 9 } = true ∧ a % 64 = 0 ∧ combBase 0 ≤ a ∧ a + 640 ≤ combBase 0 + 0x03C00000 ∧
     ((wSeq q).comb 0).ext.tally = [] ∧ (wSeq q).due 0 .tally { sd := 5, sa := 2, imm := 64 } = true ∧ combBase 0 + 0x03C00000 < a + 64 + 640) ∧
    (let r : TallyReq := ⟨1, true, combBase 0, true, 37, some (List.replicate 640 0)⟩
     let s := (wSeq wQ).modExt 0 fun x => { x with tally := [r] }
     (s.comb 0).ext.tally = [r] ∧ r.image = some (List.replicate 640 0)) ∧
    (let s : State := { wSeq wQ with stp := { round := some wRound } }
     wQ.issuing = true ∧ ({ sd := 3, sa := 2, sb := 5, x := 9 } : SForm).illegal .commitPrep = false ∧ wQ.vote = none ∧ s.stp.round = some wRound ∧
     wRound.step = s.stp.step ∧ (wRound.voters.any fun v => v.1 == (0 : CombId)) = true ∧ (wSeq wQ).roundNow = none ∧
     ({ s with stp := { s.stp with step := 1 } } : State).roundNow = none) ∧
    (let q := { wQ with vote := some (7, false, 0) }
     let f : SForm := { sd := 3, sa := 2, sb := 5, x := 9 }
     q.issuing = true ∧ f.illegal .commitPrep = false ∧ q.held (if q.pred f.pred then [f.sd, f.sa] else [f.sd]) = false ∧ q.vote ≠ none ∧
     q.held (if q.pred f.pred then [(7 : Fin 32), f.sa] else [7]) = true) := by decide

/-! ### Witnesses: tensor words and their units -/

/-- A router of chip `me` on axis X of a machine of 4 by 1 by 1 chips, all in one slice with tag 3; group 5 has chips 0 and 1. -/
def wRte (me : Nat) : Rte :=
  let t : Table := { slice := pack [(0, 3), (10, 1), (34, 4), (41, 1), (48, 1)], group := [(5, 0x8000000000000002)], mem := [(10240, 0x100000000)] }
  { self := pack [(32, 1), (0, me)], machine := 0x010104, tab := Vector.replicate 2 t }

/-- A one-dimensional tensor of comb 0: format code, elements, byte offset in the window. -/
def wT (code n off : Nat) : Desc := #v[BitVec.ofNat 64 (combBase 0 + off + code * 2 ^ 48), 0, BitVec.ofNat 64 n, 0, 0, 0, 0, 0]

/-- Descriptors d1 to d6 and the group word in s6; d0 is an empty FP32 tensor. -/
def wQt : Seq :=
  { wQ with
    s := wQ.s.set 6 5
    d := (((((wQ.d.set 1 (wT 10 1 0)).set 2 (wT 8 0 0)).set 3 (wT 0 2 64)).set 4 (wT 0 4 128)).set 5 (wT 0 1 192)).set 6 (wT 10 0 0) }

/-- The chip 0 of that machine with those registers. -/
def wNet (q : Seq) : State := { wSeq q with rte := wRte 0 }

/-- A tensor word without fields. -/
def wF0 : TForm := {}

/-- Every tensor word but mhold, coll and bar, on tensors that its checks accept. -/
def wWords : List (TKind × TForm) :=
  [(.mshape, { body := 10 }), (.mmul, wF0), (.mx, wF0), (.vec .vargmax, { body := 3 + 4 * 32 }), (.vec .vargmin, { body := 3 + 4 * 32 }),
   (.vec .vsum, { body := 5 + 4 * 32 }), (.vec .vcmp, { body := 2 }), (.vec .vsel, { body := 2 * 2 ^ 15 }), (.gather, { body := 1 * 2 ^ 10 }),
   (.scatter, { body := 1 * 2 ^ 10 }), (.seal, wF0), (.cpy, wF0), (.amo, { body := 6 + 6 * 32 + 2 ^ 15 }), (.put, wF0), (.get, wF0),
   (.mcast, { body := 6 * 2 ^ 10 }), (.upd .m2, { body := 8 * 2 ^ 5 }), (.upd .m1, { body := 8 * 2 ^ 5 }), (.upd .plain, { body := 8 * 2 ^ 5 })] ++
  [VOp.vld, .vst, .vadd, .vsub, .vmul, .vfma, .vmax, .vmin, .vexp2, .vlog2, .vrcp, .vrsqrt, .vcvt].map fun op => (.vec op, { ce := true, cnt := 9 })

theorem witness_TensorWordsEnterTheirQueue :
    (∀ w ∈ wWords, w.1 ≠ .coll ∧ w.1 ≠ .bar) ∧ (∀ w ∈ wWords.take 10, (wNet wQt).dueT 0 w.1 w.2 = true) := by decide

theorem witness_TensorWordsEnterTheirQueue_rest : ∀ w ∈ wWords.drop 10, (wNet wQt).dueT 0 w.1 w.2 = true := by decide

theorem witness_TensorWordsEnterTheirQueue_mhold :
    ((wNet { wQt with d := wQt.d.set 7 (wT 2 0 0) }).modMat 0 fun m => { m with judged := { mode := 2 } }).dueT 0 .mhold { body := 7 } = true := by decide

theorem witness_FullQueuesAndIssueFaults :
    (let q := { wQt with busy := wQt.busy.set 1 32 }
     q.issuing = true ∧ ({} : TForm).illegal (.vec .vadd) = false ∧ q.pred 0 = true ∧ q.held (tRegs (.vec .vadd) {}) = false ∧ 32 ≤ q.busy[(TKind.vec .vadd).queue]) ∧
    (let q := { wQt with busy := wQt.busy.set 1 31, wait := some (.vec .vadd, {}) }
     q.wait = some (.vec .vadd, {}) ∧ q.st = .running ∧ q.busy[(TKind.vec .vadd).queue] < 32 ∧
     firstFault (((wNet q).modSeq 0 fun q => { q with wait := none }).tensorFaults 0 (.vec .vadd) {}) = none) ∧
    ([(2, true), (3, false), (9, true)] : List (Nat × Bool)).Pairwise (fun a b => a.1 < b.1) ∧ firstFault [(2, false), (3, true), (9, true)] = some 3 ∧
    -- a gather whose index tensor is FP32 breaks rule 9 only
    (wQt.issuing = true ∧ ({ body := 5 * 2 ^ 10 } : TForm).illegal .gather = false ∧ firstFault ((wNet wQt).tensorFaults 0 .gather { body := 5 * 2 ^ 10 }) = some 9) := by decide

/-- Comb 0 with one entry at the head of its matrix queue. -/
def wMatQ (op : TOp) : State := wSeq { wQ with qMat := [wE op], busy := wQ.busy.set 0 1 }

theorem witness_MatrixStarts :
    (∀ op ∈ [TOp.mshape 1 0, .mhold (wT 2 32 0) 0 0 false false, .mmul (wT 0 1 0) (wT 0 1 64) 0 true true 0 false 0 0 false false none,
        .mx 1 0 (wT 0 0 0) 1 0 0 none none 0xFF800000 0x7F800000 0 0],
      ((wMatQ op).comb 0).seq.qMat = [wE op] ∧ ((wMatQ op).comb 0).testing = false) ∧
    ((wMatQ (.mshape 1 0)).openRuns (((wMatQ (.mshape 1 0)).comb 0).mholdReads (wT 2 32 0) 0 0 false false) = true) ∧
    ((wMatQ (.mshape 1 0)).openRuns (((wMatQ (.mshape 1 0)).comb 0).mmulReads (wT 0 1 0) (wT 0 1 64) false false none) = true) ∧
    (let b : HeldBlock := { h := 32, k0 := 0, rate := 32, vals := [], poison := false, ceil := 0, ceilv := false }
     let s := (wMatQ (.mmul (wT 2 32 0) (wT 2 32 64) 0 true false 0 false 0 0 false false none)).modMat 0 fun m => { m with mode := 2, shadow := some b }
     (s.comb 0).mat.mode = 2 ∧ (s.comb 0).mat.shadow.isSome = true ∧ s.openRuns ((s.comb 0).mmulReads (wT 2 32 0) (wT 2 32 64) false false none) = true) ∧
    (let m : Mat := {}
     m.slotBusy 1 = false ∧ { m with run := [{ e := wE (.mmul (wT 0 1 0) (wT 0 1 64) 1 true true 0 false 0 0 false false none) }] }.slotBusy 1 = true ∧
     (wT 0 0 0).s0 = 0 ∧ (wT 0 1 0).s0 ≠ 0) ∧
    (let s := wMatQ (.mmul (wT 0 1 0) (wT 0 1 64) 0 true true 0 false 0 0 false false none)
     let k := s.comb 0
     k.mat.mode ≠ 2 ∧ Sparse.wf {} k.mat.slots = true ∧ (mmulKeys k k.mat.mode k.mat.shape (wT 0 1 0) (wT 0 1 64) 0 false false none).Nodup ∧
     activeList ((wT 0 1 0).extX false) ((wT 0 1 64).extX false) none = [(0, 0)]) ∧
    -- an mmul of another slot behind an mx whose slot is busy
    (let run : Flight := { e := wE (.mmul (wT 0 1 0) (wT 0 1 64) 1 true true 0 false 0 0 false false none) }
     let mx : TOp := .mx 1 0 (wT 0 0 0) 1 0 0 none none 0xFF800000 0x7F800000 0 0
     let s := (wSeq { wQ with qMat := [wE mx, wE (.mmul (wT 0 1 0) (wT 0 1 64) 0 true true 0 false 0 0 false false none)] }).modMat 0 fun m =>
       { m with run := [run] }
     (s.comb 0).seq.qMat ≠ [] ∧ (s.comb 0).mat.slotBusy 1 = true ∧ (0 : Fin 4) ≠ 1 ∧
     s.openRuns ((s.comb 0).mmulReads (wT 0 1 0) (wT 0 1 64) false false none) = true ∧
     s.openRuns ((s.comb 0).mxReads 1 (wT 0 1 0) none none) = true ∧ s.posOpen (wT 0 1 0) ⟨0, 0, 0, 0⟩ = true) := by decide

/-- A flight with one written byte, one raised ceiling and a counter. -/
def wFl (op : TOp) : Flight := { e := wE op, writes := [(combBase 0, [7])], ceils := [(1, -5)] }

theorem witness_UnitCompletions :
    (let s := (wSeq wQ).modMat 0 fun m => { m with run := [wFl (.mhold (wT 2 32 0) 0 0 false false)] }
     (s.comb 0).mat.run = [wFl (.mhold (wT 2 32 0) 0 0 false false)]) ∧
    (let fl := wFl (.mshape 1 0)
     let s := ((wSeq wQ).modMat 0 fun m => { m with run := [fl] }).modExt 0 fun x => { x with run := [fl] }
     let t := s.modComb 0 fun k => { k with vecRun := [fl], crrRun := [fl, { fl with waits := 1 }] }
     (t.comb 0).mat.run = [fl] ∧ (t.comb 0).ext.run = [fl] ∧ (t.comb 0).vecRun = [fl] ∧ (t.comb 0).crrRun[0]? = some fl ∧ fl.waits = 0 ∧
     (t.comb 0).crrRun[1]? = some { fl with waits := 1 } ∧ t.mem.wf = true ∧ t.mem.crc = [] ∧ fl.ceils = [(1, -5)] ∧ fl.writes = [(combBase 0, [7])]) := by decide

theorem witness_MatrixMismatch :
    (let fl : Flight := { e := wE (.mmul (wT 0 1 0) (wT 0 1 64) 1 true true 0 false 0 0 false false none), keys := [1024] }
     let s := (wSeq wQ).modMat 0 fun m => { m with run := [fl] }
     (s.comb 0).mat.run = [fl] ∧ fl.ceils = [] ∧ fl.writes = [] ∧ getF (s.comb 0).mat.fault 0 4 = 0 ∧
     getF ((s.modMat 0 fun m => { m with fault := 1 }).comb 0).mat.fault 0 4 ≠ 0) := by decide

theorem witness_VectorStarts :
    (let op : TOp := .vec .vadd 1 (wT 0 0 0) (wT 0 0 0) (wT 0 0 0) 0 none 0 0 0 0
     let s := wSeq { wQ with qVec := [wE op] }
     (s.comb 0).seq.qVec = [wE op] ∧ (wT 0 0 0).empty = true) ∧
    (let op : TOp := .vec .vadd 1 (wT 0 4 0) (wT 0 4 64) (wT 0 4 128) 0 none 0 0 0 0
     ((wSeq { wQ with qVec := [wE op] }).comb 0).seq.qVec = [wE op] ∧ (wT 0 4 0).empty = false) := by decide

theorem witness_ExactAccumulation :
    (let x := SlotElem.fresh false 0 (-20)
     let vs : List (Val × Bool) := [(.fin false 3 (-2), false), (.fin true 1 0, false)]
     vs.Perm vs.reverse ∧ (x.int + 32 * x.wrap.toNat - x.res.toNat) % 127 = 0 ∧ vs.length ≤ 2 ^ 31 ∧
     (vs.all fun v => (alignTo x.lo v.1).2.2 == false) = true ∧ (x.exact vs).1.int ≠ 0) := by
  refine ⟨(List.reverse_perm _).symm, ?_, ?_, ?_, ?_⟩ <;> decide

theorem witness_IndexedPairReduction :
    (Val.zero false ≠ .nan) ∧ pairWins false (.zero false) 3 .nan 2 = false ∧ pairWins false .nan 2 (.zero false) 3 = true ∧
    pairWins true (.fin true 1 0) 1 (.zero true) 0 = true ∧ pairWins true (.zero true) 0 (.fin false 1 0) 2 = true := by decide

/-- Comb 0 with one entry at the head of its courier queue. -/
def wCrrQ (op : TOp) : State := wSeq { wQ with qCrr := [wE op], busy := wQ.busy.set 2 1 }

theorem witness_CourierStarts :
    (∀ op ∈ [TOp.cpy 1 (wT 0 1 0) (wT 0 1 64) false, .gather 1 (wT 0 1 0) (wT 0 1 64) (wT 10 1 128), .scatter 1 (wT 0 1 0) (wT 0 1 64) (wT 10 1 128),
        .seal (wT 0 16 0) 64, .amo 1 (wT 10 0 0) (wT 10 0 0)],
      ((wCrrQ op).comb 0).seq.qCrr = [wE op] ∧ ((wCrrQ op).comb 0).crrRun.length < 8) ∧
    (let s := (wCrrQ (.cpy 1 (wT 0 1 0) (wT 0 1 64) false)).modComb 0 fun k => { k with crrRun := List.replicate 8 (wFl (.mshape 1 0)) }
     8 ≤ (s.comb 0).crrRun.length) ∧
    ((wCrrQ (.seal (wT 0 16 0) 64)).openRuns (wT 0 16 0).ranges = true ∧ (wCrrQ (.seal (wT 0 16 0) 64)).opened 64 64 = true) ∧
    (let d : Desc := #v[0x000A000000000000, 0, 8, 0, 0, 0, 0, 0]
     let a : Desc := #v[0x000A000000000040, 0, 8, 0, 0, 0, 0, 0]
     amoLines d a = [(0, 64)] ∧ (wCrrQ (.amo 1 d a)).opened 0 64 = true ∧ (wCrrQ (.amo 1 d a)).opened 64 64 = true) := by decide

/-- The index tensor of one element at byte 128 holds the code `b`: 0 names row 0, 2 a row that a tensor of one row lacks. -/
def wGather (b : Byte) : State :=
  let s := wCrrQ (.gather 1 (wT 0 1 0) (wT 0 1 64) (wT 10 1 128))
  { s with mem := { bytes := if b = 0 then [] else [(combBase 0 + 128, b)] } }

theorem witness_CourierStarts_gather : ∀ b ∈ [(0 : Byte), 2],
    (let d := wT 0 1 0
     let a := wT 0 1 64
     let di := wT 10 1 128
     let s := wGather b
     let rows := (s.touchRuns (di.runs di.positions)).indices di a.s1
     (s.comb 0).crrRun.length < 8 ∧ s.openRuns (di.runs di.positions) = true ∧
     s.openRuns (a.runs (rows.filterMap fun r => r.2.1.map fun n => (⟨0, n, 0, 0⟩ : Pos)) ++ di.runs di.positions) = true ∧
     (∀ r ∈ rows, s.posOpen d ⟨0, r.1, 0, 0⟩ = true) ∧ rows.map (·.2.1) = [if b = 0 then some 0 else none]) := by decide

theorem witness_SealEngineAndAtomicUnit :
    (let r : SealReq := { engine := 3, slot := 9, src := 0, header := List.replicate 32 0, body := [], poison := true, clash := true, owner := some (0, 4), addr := none }
     let s : State := { (wSeq wQ).modComb 0 fun k => { k with crrRun := [{ e := wE (.seal (wT 0 16 0) 64), id := 4, waits := 1 }] } with seals := { reqs := [r] } }
     (s.seals.reqs.find? (·.engine == (3 : Fin 26))) = some r ∧ r.bulk = none ∧ r.slot ≠ 0 ∧ r.poison = true ∧ r.clash = true ∧ r.addr = none ∧ r.owner = some (0, 4) ∧
     (s.comb 0).crrRun[0]? = some { e := wE (.seal (wT 0 16 0) 64), id := 4, waits := 1 }) ∧
    (let r : AtomicReq := { op := 1, addr := 0x40, data := List.replicate 64 1, src := none }
     let s : State := { wSeq wQ with mem := { atomics := [(0, r)] } }
     s.mem.wf = true ∧ s.mem.crc = [] ∧ (s.mem.atomics.find? (·.1 == 0)) = some (0, r) ∧ r.data.length = 64 ∧ s.retraining 0 = false ∧ s.region 0x40 = .hbm 0 ∧
     (s.modMc 0 fun c => { c with rt := true }).retraining 0 = true ∧ s.region (squareBase 2) = .square 2) := by decide

/-- Comb 0 with one entry alone in its fabric queue, on chip 0 of the small machine. -/
def wFabQ (op : TOp) : State := wNet { wQ with qFab := [wE op], busy := wQ.busy.set 3 1 }

theorem witness_ConsignmentStarts :
    (let op : TOp := .put (wT 0 1 0) (wT 0 1 64) 1 0
     let s := wFabQ op
     let dst := s.rte.physOf s.rte.inj (coordOf 1)
     (s.comb 0).seq.qFab = [wE op] ∧ dst = 1 ∧ s.rte.fenced dst = false ∧ s.mayStart (.chip dst) = true ∧ s.openRuns (wT 0 1 64).ranges = true ∧
     ({ s.rte with fence := [(0, 2)] } : Rte).fenced dst = true) ∧
    (let op : TOp := .get 1 (wT 0 1 0) (wT 0 1 64) 1
     ((wFabQ op).comb 0).seq.qFab = [wE op] ∧ (wT 0 1 0).dropCount ≠ 0) := by decide

theorem witness_ConsignmentStarts_limit :
    (let x : Cons := { key := .chip 1, cid := 0, kind := .get (wT 0 1 0) (wT 0 1 64), comb := none, e := none, n := 1, members := [], sent := 0 }
     ({ wNet wQ with fab := { open_ := List.replicate 256 x } } : State).mayStart (.chip 1) = false) := by decide

theorem witness_CollectiveIssue :
    (let f : TForm := { ce := true, cnt := 4, body := 6 * 2 ^ 10 + 3 * 2 ^ 15 }
     let s := wNet wQt
     s.dueT 0 .coll f = true ∧ wQt.qFab = [] ∧ s.col.staged = []) ∧
    (let f : TForm := { body := 6 * 2 ^ 10 }
     let s := wNet wQt
     s.dueT 0 .bar f = true ∧ s.col.noAdmit = false ∧ wQt.qFab = [] ∧ s.col.staged = [] ∧
     (((s.rte.tab[s.rte.inj]).members 5).map (s.rte.physOf s.rte.inj)).any s.rte.fenced = false ∧
     ({ s with col := { noAdmit := true } } : State).dueT 0 .bar f = true) := by decide

/-! ### Witnesses: router, consignments, links -/

theorem crc12_add : ∀ (m n w r : Nat), crc12 (m + n) w r = crc12 n (w / 2 ^ m) (crc12 m w r)
  | 0, n, w, r => by rw [Nat.zero_add, Nat.pow_zero, Nat.div_one]; rfl
  | m + 1, n, w, r => by
    rw [Nat.add_right_comm, crc12, crc12_add m n, crc12, Nat.div_div_eq_div_mul, Nat.pow_succ, Nat.mul_comm]

/-- A message of ten empty slots without a link symbol, with the CRC that Table 10.1's polynomial gives it. -/
def wMsg : BitVec 5140 := BitVec.ofNat 5140 (15 * 2 ^ 5120 + 3845 * 2 ^ 5128)

theorem test_crc : crc12 5128 (15 * 2 ^ 5120) 0xFFF = 3845 := by
  rw [show 5128 = 641 + (641 + (641 + (641 + (641 + (641 + (641 + 641)))))) from rfl]
  simp only [crc12_add]
  rw [show crc12 641 (15 * 2 ^ 5120) 0xFFF = 1487 by decide +kernel]
  rw [show crc12 641 (15 * 2 ^ 5120 / 2 ^ 641) 1487 = 3339 by decide +kernel]
  rw [show crc12 641 (15 * 2 ^ 5120 / 2 ^ 641 / 2 ^ 641) 3339 = 207 by decide +kernel]
  rw [show crc12 641 (15 * 2 ^ 5120 / 2 ^ 641 / 2 ^ 641 / 2 ^ 641) 207 = 201 by decide +kernel]
  rw [show crc12 641 (15 * 2 ^ 5120 / 2 ^ 641 / 2 ^ 641 / 2 ^ 641 / 2 ^ 641) 201 = 673 by decide +kernel]
  rw [show crc12 641 (15 * 2 ^ 5120 / 2 ^ 641 / 2 ^ 641 / 2 ^ 641 / 2 ^ 641 / 2 ^ 641) 673 = 898 by decide +kernel]
  rw [show crc12 641 (15 * 2 ^ 5120 / 2 ^ 641 / 2 ^ 641 / 2 ^ 641 / 2 ^ 641 / 2 ^ 641 / 2 ^ 641) 898 = 848 by decide +kernel]
  decide +kernel

/-- That message passes (R213). -/
theorem test_message : messageOk wMsg = true := by
  have h1 : crcOk wMsg = true := by
    unfold crcOk
    rw [show getF wMsg 5128 12 = 3845 by decide +kernel, show getF wMsg 0 5128 = 15 * 2 ^ 5120 by decide +kernel, test_crc]
    rfl
  unfold messageOk
  rw [h1, show decide (10 ≤ symIx wMsg) = true by decide +kernel]
  rfl

/-- A drop that a chip with router `r` sends. -/
def wMk (r : Rte) (ty cls : Nat) (dst : ChipId) (cid so addr : Nat) (bs : List Byte) : Drop :=
  ({ rte := r } : State).mkDrop ty cls dst (BitVec.ofNat 13 cid) so addr bs

/-- A drop from chip 1 to chip 0. -/
def wDrop (ty cls cid so addr : Nat) (bs : List Byte) : Drop := wMk (wRte 1) ty cls 0 cid so addr bs

/-- Chip 0 with a drop in its router. -/
def wHeld (d : Drop) : State := { wNet wQ with rte := { wRte 0 with drops := [⟨d, none, false⟩] } }

/-- Chip 0 with a drop delivered to it. -/
def wArr (d : Drop) : State := { wNet wQ with rte := { wRte 0 with arrived := [d] } }

/-- A drop that passes Table 11.1's checks. -/
def wFormed (d : Drop) : Prop := 1 ≤ d.type ∧ d.type ≤ 12 ∧ d.esc ≠ 3 ∧ d.parityOk = true

theorem witness_RouterDelivers :
    (¬ 1 ≤ (wDrop 0 2 0 0 0 []).type ∧ (wHeld (wDrop 0 2 0 0 0 [])).rte.drops[0]? = some ⟨wDrop 0 2 0 0 0 [], none, false⟩) ∧
    (let d := wDrop 2 2 0 0 0 []
     1 ≤ d.type ∧ d.type ≤ 12 ∧ d.esc ≠ 3 ∧ d.parityOk = true ∧ d.multi = false ∧ (wRte 0).fenced d.src = false ∧ (wRte 0).fenced d.dst = false ∧
     d.dst = (wRte 0).selfId ∧ d.serve (wRte 0) = some (false, 0) ∧ d.badKind = false ∧ ({ wRte 0 with fence := [(0, 2)] } : Rte).fenced d.src = true) ∧
    (let d := wMk (wRte 0) 2 2 1 0 0 0 []
     1 ≤ d.type ∧ d.type ≤ 12 ∧ d.esc ≠ 3 ∧ d.parityOk = true ∧ d.multi = false ∧
     ({ wRte 0 with fence := [(0, 2)] } : Rte).fenced d.src = false ∧ ({ wRte 0 with fence := [(0, 2)] } : Rte).fenced d.dst = true) ∧
    (let d := wMk {} 2 2 0 0 0 0 []
     1 ≤ d.type ∧ d.type ≤ 12 ∧ d.parityOk = true ∧ d.dst = (wRte 0).selfId ∧ d.serve (wRte 0) = none) ∧
    ((wDrop 2 0 0 0 0 []).cls = 0 ∧ (wDrop 2 1 0 0 0 []).cls ≠ 0) := by decide

/-- Chip 0 whose first link of port XP is ACTIVE toward a neighbour that accepts tag 3, with `n` credits on a channel. -/
def wOut (n : Nat) (d : Drop) : State :=
  let r := wRte 0
  let t := { r.tab[(0 : Fin 2)] with portacc := (Vector.replicate 6 0).set 0 (pack [(50, 1), (0, 3)]) }
  ({ wNet wQ with rte := { r with tab := r.tab.set 0 t, drops := [⟨d, none, false⟩] } } : State).modLink 0 fun _ =>
    { st := .active, credits := (Vector.replicate 12 0).set 6 n }

theorem witness_RouterForwards :
    (let d := wMk (wRte 0) 2 2 1 0 0 0 []
     1 ≤ d.type ∧ d.type ≤ 12 ∧ d.esc ≠ 3 ∧ d.parityOk = true ∧ d.multi = false ∧ (wRte 0).fenced d.src = false ∧ (wRte 0).fenced d.dst = false ∧
     d.dst ≠ (wRte 0).selfId ∧ d.serve (wRte 0) = some (false, 0) ∧ (wRte 0).productive 0 (wRte 0).selfId d.dst = [(0, false)] ∧
     (wHeld d).usable d.ep d.slice 0 false = [] ∧ (wHeld d).chr.queue.length ≤ 1018 ∧
     (wOut 1 d).usable d.ep d.slice 0 false = [0] ∧ 0 < (wOut 1 d).spare_ 0 (d.chan (wOut 1 d).rte 0) ∧
     (wOut 0 d).usable d.ep d.slice 0 false = [0] ∧
     (∀ e, e < 3 → (wOut 0 d).spare_ 0 (d.chan (wOut 0 d).rte e) = 0) ∧
     -- a credit of the escape channel before the dateline only
     (let s := (wOut 0 d).modLink 0 fun k => { k with credits := k.credits.set 7 1 }
      s.spare_ 0 (d.chan s.rte 0) = 0 ∧ 0 < s.spare_ 0 (d.chan s.rte 1))) := by decide

/-- A drop of an mcast from chip 0 to group 5. -/
def wMdata : Drop := wMk (wRte 0) 3 2 5 0 0 0 []

theorem witness_RouterForwards_multicast :
    (let s := wOut 1 wMdata
     wMdata.multi = true ∧ wMdata.esc ≠ 3 ∧ wMdata.parityOk = true ∧ s.rte.fenced wMdata.src = false ∧ wMdata.serve s.rte = some (false, 0) ∧
     (s.rte.tab[wMdata.ep]).groupValid wMdata.group = true ∧ ((s.rte.tab[wMdata.ep].members wMdata.group).map (s.rte.physOf wMdata.ep)) = [0, 1] ∧
     s.rte.fenced 1 = false ∧ s.rte.productive 0 s.rte.selfId 1 = [(0, false)] ∧ s.usable wMdata.ep wMdata.slice 0 false = [0]) := by decide

theorem witness_TransmitterSlot :
    (let d := wMk (wRte 0) 2 2 1 0 0 0 []
     let k : Link := { st := .active, credits := (Vector.replicate 12 0).set 6 1, txq := [d] }
     let chan := fun (d : Drop) => d.chan (wRte 0) d.esc
     k.talks = true ∧ ({ st := .down } : Link).talks = false ∧ k.cwSlots.length < 9 ∧ k.carry = none ∧ k.resend = [] ∧ k.carries = true ∧ k.buf.length < 4688 ∧
     k.startCw.slot.pick chan = some (2, 0) ∧ ({ k with txq := [] } : Link).startCw.slot.pick chan = none ∧
     ({ st := .aligned } : Link).talks = true ∧ ({ st := .aligned } : Link).carries = false ∧
     ({ k with carry := some (3, d) } : Link).carry = some (3, d) ∧ ({ k with resend := [(3, d)] } : Link).resend = [(3, d)] ∧
     (let f := { k with cwSlots := List.replicate 9 (some (3, d)), cwSym := some (.nak 5), carry := some (4, d) }
      f.cwSlots.length = 9 ∧ f.talks = true ∧ f.cwSym ≠ none ∧ (∀ x ∈ f.cwSlots, x ≠ none) ∧ f.carry = some (4, d)) ∧
     -- a C1 drop waits behind a C0 drop while the bucket holds
     (let c0 := wMk (wRte 0) 0xC 0 1 0 0 0 []
      { k with txq := [d, c0], credits := k.credits.set 0 1 }.startCw.slot.pick chan = some (0, 1))) := by decide

theorem witness_TransmitterSlot_full : 4688 ≤ (List.replicate 4688 ((0 : BitVec 16), wMk (wRte 0) 2 2 1 0 0 0 [])).length := by
  rw [List.length_replicate]

/-- Chip 0 with an open consignment of 24 FP32 elements from chip 1, base at `b`. -/
def wRx (ty b : Nat) (d : Drop) : State :=
  let m := wDrop ty 2 0 0 0 ((wT 0 24 0).manifest 0)
  let g := dropGroup d
  { wArr d with fab := { srcs := [⟨1, g, 0, []⟩], rx := [⟨1, g, 0, m, b, [], 0⟩] } }

theorem witness_DataAndManifestDrops_data :
    (let d := wDrop 1 2 0 1 (combBase 0 + 48) (List.replicate 48 5)
     let s := wRx 2 1 d
     d.type = 1 ∧ d ∈ s.rte.arrived ∧ s.heldByReset d = false ∧ (s.fab.rxOf d.src (dropGroup d) d.cid).isSome = true ∧ resolveIx 1 d.seqoff [] = some 1 ∧
     (wT 0 24 0).dropCount = 2 ∧ d.addr = (wT 0 24 0).dropAddr 1 ∧ ((wT 0 24 0).dropAddrs 1).length = 48) ∧
    (let d := wDrop 1 2 0 0 (combBase 0) []
     resolveIx 1 d.seqoff [] = none) ∧
    (let d := wDrop 1 2 0 2 (combBase 0 + 96) []
     resolveIx 1 d.seqoff [] = some 2 ∧ (wT 0 24 0).dropCount ≤ 2) ∧
    (let d := wDrop 3 2 0 0 (combBase 0) []
     d.type = 3 ∧ (wArr d).fab.rxOf d.src (dropGroup d) d.cid = none ∧ (wArr d).fab.entry d.src (dropGroup d) = none ∧ (wArr d).fab.early.length < 2048) := by decide

theorem witness_DataAndManifestDrops_opened :
    (((wT 0 24 0).dropAddrs 0).all fun a => (wNet wQ).opened a 1) = true ∧ ((wT 0 24 0).dropAddrs 0).Nodup ∧
    ( (slideBase 2 0 [0]).1 < 2 ∧ (manifestDesc (pad48 ((wT 0 24 0).manifest 0))).1.dropCount = 2 ∧
     (manifestDesc (pad48 ((wT 0 24 0).manifest 0))).2 = 0) := by decide

/-- A compute reset is under way. -/
def wHold (s : State) : State := { s with dev := { s.dev with st := .resetting, reset := some { kind := 2, back := .ready, hold := .none } } }

theorem witness_held_by_reset :
    (let d := wDrop 1 2 0 1 (combBase 0 + 48) (List.replicate 48 5)
     (wHold (wArr d)).heldByReset d = true) ∧
    (let d := wDrop 2 2 0 0 (3 + 64 + 9 * 256) ((wT 0 0 0).manifest 0)
     (wHold (wArr d)).manifestHeld d = true ∧ (wArr d).manifestHeld d = false) ∧
    (let d := wDrop 5 2 0 0 0 ((wT 0 24 0).manifest 0)
     (wHold (wArr d)).getreqHeld d = true ∧ (wArr d).getreqHeld d = false) := by decide

theorem witness_DataAndManifestDrops_manifest :
    (let d := wDrop 2 2 0 0 0 ((wT 0 24 0).manifest 0)
     let s : State := { wArr d with fab := { srcs := [⟨1, none, 0, []⟩] } }
     d.type = 2 ∧ d ∈ s.rte.arrived ∧ s.fab.entry d.src (dropGroup d) = some ⟨1, none, 0, []⟩ ∧ SrcEntry.dup ⟨1, none, 0, []⟩ d.cid = false ∧
     s.fab.rxOf d.src (dropGroup d) d.cid = none ∧ s.fab.rx.length < 8192 ∧ (manifestDesc d.payload).1.dropCount ≠ 0) ∧
    (SrcEntry.dup ⟨1, none, 0, []⟩ 255 = false ∧ SrcEntry.dup ⟨1, none, 0, []⟩ 256 = true) ∧
    (let d := wDrop 4 2 0 0 (3 + 64 + 9 * 256) ((wT 0 0 0).manifest 0)
     d.type = 4 ∧ (manifestDesc d.payload).1.dropCount = 0 ∧ d.addr / 64 % 2 = 1 ∧ d.addr % 64 = 3 ∧ d.addr / 256 % 256 = 9) := by decide

/-- A put of comb 0 to chip 1 that waits for its answers. -/
def wCons (timeouts : Nat) : Cons :=
  { key := .chip 1, cid := 0, kind := .put (wT 0 1 0) (wT 0 1 64) 0 1, comb := some 0, e := some (wE (.put (wT 0 1 0) (wT 0 1 64) 1 0)), n := 1
    members := [(1, 0)], sent := 1, timeouts := timeouts }

theorem witness_AnswersAndGets_sender :
    (∀ ty ∈ [7, 8, 9], (let d := wDrop ty 2 0 0 1 []
       let s : State := { wArr d with fab := { open_ := [wCons 0] } }
       d ∈ s.rte.arrived ∧ d.type = ty ∧ s.fab.consFor d.src d.cid = some (wCons 0) ∧ (wCons 0).members = [(d.src, 0)])) ∧
    -- two members are still to answer, and one that failed is among those that have
    (∀ ty ∈ [8, 9], (let d := wDrop ty 2 0 0 1 []
       let x : Cons := { wCons 0 with members := [(1, 0), (2, 0)], failed := true }
       let s : State := { wArr d with fab := { open_ := [x] } }
       s.fab.consFor d.src d.cid = some x ∧ x.failed = true ∧ ∃ r ∈ x.members, r.1 ≠ d.src)) ∧
    (let d := wDrop 10 2 0 0 1 []
     let s : State := { wArr d with fab := { open_ := [wCons 0] } }
     d.type = 0xA ∧ s.fab.consFor (BitVec.ofNat 18 d.addr) d.cid = some (wCons 0) ∧ (wCons 0).members = [(BitVec.ofNat 18 d.addr, 0)]) ∧
    (([wCons 14].find? fun y => y.key == (wCons 14).key && y.cid == (wCons 14).cid) = some (wCons 14) ∧ (wCons 14).timeouts < max 1 (getF (wRte 0).retx 20 4) ∧
      max 1 (getF (wRte 0).retx 20 4) ≤ (wCons 15).timeouts) := by decide

theorem witness_AnswersAndGets_get :
    (let d := wDrop 5 2 0 0 0 ((wT 0 24 0).manifest 0)
     d.type = 5 ∧ (((List.range 2).any fun j => ((manifestDesc d.payload).1.dropAddrs j).any fun a => !(wArr d).opened a 1) = false)) ∧
    ((wNet wQ).opened (combBase 0 + 0x04000000 - 1) 1 = false) ∧
    (let d := wDrop 6 2 0 0 0 (List.replicate 48 1)
     let x : Cons := { key := .chip 1, cid := 0, kind := .get (wT 0 1 0) (wT 0 1 64), comb := some 0, e := some (wE (.get 1 (wT 0 1 0) (wT 0 1 64) 1)), n := 1
                       members := [(1, 0)], sent := 0 }
     let s : State := { wArr d with fab := { open_ := [x] } }
     d.type = 6 ∧ s.fab.consFor d.src d.cid = some x ∧ x.base = d.addr ∧ d.addr + 1 = x.n ∧ x.got = [] ∧
     s.fab.wait = [] ∧ (∀ r ∈ (wT 0 1 0).freshRuns d.addr [] d.payload, s.opened r.1 r.2.length = true) ∧ s.mem.crc = []) := by decide

/-- The codeword that carries that message. -/
def wCode : CodewordIn :=
  { raw := BitVec.ofNat 5440 (wMsg.toNat +
      2 ^ 5140 * rsPack (rsParity 30 ((List.range 514).map fun j => wMsg.toNat / 1024 ^ j % 1024)).reverse), seq := 7 }

theorem witness_CodewordsAndReplay : cwMessage wCode = some (wMsg, []) ∧ messageOk wMsg = true ∧
    cwMessage ⟨0, 0, false⟩ = some (0, []) ∧ messageOk 0 = false := by
  refine ⟨by decide +kernel, test_message, by decide +kernel, ?_⟩
  unfold messageOk
  rw [show (decide (10 ≤ symIx 0) || symKnown (slotOf 0 (symIx 0))) = false by decide +kernel, Bool.and_false]

theorem witness_CodewordsAndReplay_link :
    (let k : Link := { st := .active, ctl := [5] }
     k.talks = true ∧ k.st.up = true ∧ k.st ≠ .aligned ∧ (5 : W64) ∈ k.ctl ∧ ({ st := .down } : Link).talks = false ∧
     (k.discAt.filter (recentMs 9)).length < 63 ∧ k.hunting = false ∧ wCode.seq + BitVec.ofNat 16 0 = ({ k with rxSeq := 7 } : Link).rxSeq) ∧
    63 ≤ ((List.replicate 63 9).filter (recentMs 9)).length := by
  refine ⟨by decide +kernel, by decide⟩

theorem witness_LinkFailuresAndSparing :
    (let k : Link := { st := .active, buf := [(0, wDrop 2 2 0 0 0 [])], cwCount := 15 }
     k.st.up = true ∧ k.buf ≠ [] ∧ k.st ≠ .down ∧ k.st ≠ .off ∧ k.st ≠ .failed ∧ k.rxSpare = none ∧ k.rxSwitch = none ∧ k.txSpare = none ∧ k.txSwitch = none ∧
     k.cwCount.toNat < 2 ^ 63) ∧
    (let k : Link := { st := .active, rxSpare := some 3, txSpare := some 4 }
     k.st.up = true ∧ k.rxSpare ≠ some 5 ∧ k.rxSwitch.map (·.1) ≠ some 5 ∧ k.rxSpare ≠ none ∧ k.txSpare ≠ some 5 ∧ k.txSwitch.map (·.1) ≠ some 5 ∧ k.txSpare ≠ none) ∧
    (let k : Link := { st := .active, rxSwitch := some (3, 80), txSwitch := some (4, 96), cwCount := 80, cwTx := 95 }
     k.rxSwitch = some (3, 80) ∧ (80 : W64).toNat ≤ k.cwCount.toNat ∧ k.txSwitch = some (4, 96) ∧ k.cwTx.toNat < (96 : W64).toNat ∧
     (80 : W64).toNat ≤ k.cwTx.toNat ∧ k.cwCount.toNat < (96 : W64).toNat) := by decide

theorem witness_LinkBringUp :
    (let s := ({ wNet wQ with dev := { st := .muster }, chm := { phase := 1, running := true } } : State).modLink 0 fun _ =>
       { st := .training, phase := .identity, far := some 1 }
     let k : Link := s.links[(0 : LinkId)]
     k.en = true ∧ s.trains = true ∧ k.st = .training ∧ k.phase = .identity ∧ k.far ≠ none ∧ s.chm.running = true ∧ (wNet wQ).chm.running = false) ∧
    (∀ p ∈ [LinkPhase.signal, .equalisation, .alignment], (let k : Link := { st := .down, phase := p }
      k.en = true ∧ k.st = .down ∧ k.phase = p)) ∧
    ((wNet wQ).rte.selfValid = true ∧ (wNet wQ).expectedFar 0 = 1 ∧ (facing 0).val = 4 ∧ (wNet wQ).unusedPort 0 = false ∧
      (wNet wQ).unusedPort 8 = true) ∧
    (let s := ({ wNet wQ with chm := { running := true } } : State).modLink 0 fun _ => { st := .failed }
     linkAt 0 0 = 0 ∧ linkAt 5 3 = 23 ∧ (s.links[(0 : LinkId)]).st = .failed ∧ (s.links[(0 : LinkId)]).en = true ∧ s.trains = true) := by decide

theorem witness_Roadworks :
    (let s := (List.range 4).foldl (fun (t : State) i => t.modLink ⟨i % 24, Nat.mod_lt _ (by decide)⟩ fun _ => { st := .active }) (wNet wQ)
     ownerEnd 0 = true ∧ ownerEnd 4 = false ∧ s.dev.st.working = true ∧ (∀ m : LinkId, m.val / 4 = 0 → (s.links[m]).st = .active) ∧ (s.links[(0 : LinkId)]).en = true ∧
     (s.links[(0 : LinkId)]).st ≠ .notice ∧ (s.links[(0 : LinkId)]).st ≠ .roadworks ∧ (∀ m : LinkId, (s.links[m]).rwWait = false) ∧
     max 1 (getF s.lnkCfg 16 8) ≤ 90 - 30 ∧ ¬ max 1 (getF s.lnkCfg 16 8) ≤ 30 - 30 ∧
     (let lnk := State.reset.lnkCfg
      0 < getF lnk 0 16 * 3600000000 ∧ ¬ getF lnk 0 16 * 3600000000 ≤ s.chm.tb)) ∧
    (let k : Link := { st := .active, calTemp := some 30 }
     k.en = true ∧ k.st = .active ∧ k.calTemp = some 30) ∧
    (let k : Link := { st := .notice, rwAt := some 3600 }
     k.st = .notice ∧ k.rwAt = some 3600) ∧
    (let k : Link := { st := .roadworks, closeAt := some 4 }
     k.st = .roadworks ∧ k.settled = false ∧ { k with settled := true }.settled = true ∧ k.closeAt = some 4 ∧ ({ k with rwCut := true } : Link).rwCut = true) ∧
    (let s := (wNet wQ).modLink 0 fun _ => { st := .aligned, phase := .delay }
     let t : State := { s with chm := { running := true } }
     (t.links[(0 : LinkId)]).st = .aligned ∧ (t.links[(0 : LinkId)]).phase = .delay ∧ t.chm.running = true ∧ (t.links[(0 : LinkId)]).badCable = false) := by decide

/-! ### Witnesses: memory -/

theorem witness_MemoryBackground :
    (let s := wNet wQ
     let head : Mc := s.mcs[stackHead 3]
     let tail : Mc := s.mcs[stackTail 3]
     s.dev.st = .running ∧ stackHead 3 = 2 ∧ stackTail 3 = 3 ∧ head.rt = false ∧ tail.rt = false ∧ head.rtFloor ≤ s.chm.local_ ∧ head.rtNext ≤ s.chm.local_ ∧
     head.turn.toNat < 32 ∧ ((s.modMc 3 fun c => { c with rt := true }).mcs[(3 : McId)]).rt = true ∧ s.chm.local_ < 9 ∧
     (((s.modMc 2 fun c => { c with rtNext := 9, rtTemps := [(7, 40)] }).mcs[stackHead 3]).rtTemps.find? (·.1 == 7)) = some (7, 40) ∧
     5 ≤ ((45 : Int) - 40).natAbs) ∧
    (((wNet wQ).modMc 0 fun c => { c with rt := true }).pageWaits 0 = true) ∧
    (let s := (wNet wQ).modMc 0 fun c => { c with slots := [⟨7, 1, 0, []⟩] }
     ((s.mcs[(0 : McId)]).slots.any fun x => x.page == 7) = true ∧ s.pageWaits 7 = false ∧ s.coreOn = true ∧ s.mem.wf = true ∧ s.mem.crc = []) ∧
    State.reset.coreOn = false := by decide

/-- HBM page 0 whose sector 0 holds `x` in its first byte, with the CRC difference of the bytes that it should hold. -/
def wBad (x : Byte) : State :=
  { wNet wQ with mem := { bytes := [(0, x)], crc := [(0, 1)] } }

theorem witness_HbmSweepAndRecode :
    (let s := wNet wQ
     let c : Mc := s.mcs[(0 : McId)]
     getF c.sweep 32 1 = 1 ∧ s.coreOn = true ∧ s.pageWaits 0 = false ∧ c.sweepAt < s.dataPages ∧ s.pageSlot 0 = none ∧ s.mem.wf = true ∧
     (∀ x ∈ s.paritySectors 0, Sparse.get 0 s.mem.crc x = 0) ∧ s.badSectors 0 = []) ∧
    (let s := (wNet wQ).modMc 0 fun c => { c with recode := pack [(63, 1), (48, 3), (0, 5)] }
     let c : Mc := s.mcs[(0 : McId)]
     getF c.recode 63 1 = 1 ∧ s.coreOn = true ∧ getF c.recode 0 21 < min 0x140000 (s.dataPages - 3 * 0x140000) ∧ s.pageWaits (3 * 0x140000 + 5) = false ∧
     s.mem.crc = [] ∧ getF ((wNet wQ).mcs[(0 : McId)] : Mc).recode 63 1 = 0 ∧ min 0x140000 (s.dataPages - 3 * 0x140000) ≤ 0x140000) := by decide

theorem witness_SramSweepers :
    (wNet wQ).mem.upsets = [] ∧ getF ((wNet wQ).comb 0).sweep 32 1 = 1 ∧ getF ((wNet wQ).squares[(3 : SqId)] : Square).sweep 32 1 = 1 ∧
    (983039 : Nat) < 983040 ∧ (262143 : Nat) < 262144 := by decide

/-! ### Witnesses: collectives and barriers -/

/-- A broadcast of 24 FP32 elements from member 1 to member 0 of group 5, as member 0 holds it. -/
def wBcast (admitted : Bool) : CollInst :=
  { comb := 0, e := wE (.coll 3 false 0 0 1 (wT 0 24 128) (wT 0 24 0) 0x105 0 0 0), key := ⟨5, 0, 0, false⟩, ver := 0, members := [0, 1], phys := [0, 1], me := 0
    ext := [], ring := [], admitted := admitted }

/-- A COLL drop from chip 1 for number 0 of group 5. -/
def wCd (cid kind phase : Nat) (dir gather : Bool) (seg so : Nat) (bs : List Byte) : Drop :=
  wDrop 0xB 1 cid so (collAddr ⟨5, 0, 0, false⟩ kind phase dir gather seg) bs

/-- Chip 0 with that drop delivered, a source entry of chip 1, and a broadcast. -/
def wCollAt (d : Drop) (ks : List CollInst) : State :=
  { wArr d with
    fab := { srcs := [⟨1, none, 0, []⟩] }
    col := { colls := ks, queue := ks.map (·.key), collNum := if ks.isEmpty then [] else [(5, 1)] } }

theorem witness_CollectiveMatching :
    (∀ kind ∈ [1, 2, 4, 5, 6], (let d := wCd 256 kind 0 false false 0 0 []
      d ∈ (wCollAt d []).rte.arrived ∧ d.type = 0xB ∧ collKind d = kind ∧ (wCollAt d []).fab.entry d.src none = some ⟨1, none, 0, []⟩ ∧
      SrcEntry.dup ⟨1, none, 0, []⟩ d.cid = true)) ∧
    (let d := wCd 0 1 3 false true 0 0 (State.signBytes (wBcast false))
     let s := wCollAt d []
     s.newColl d 1 = true ∧ s.col.colls.find? (fun k => k.key == dropKey d (signEra d)) = none ∧ s.col.issuedColl (dropKey d (signEra d)) = false ∧
     s.col.era.toNat ≤ (dropKey d (signEra d)).era.toNat) ∧
    (let d := wCd 0 1 3 false true 0 0 (State.signBytes (wBcast false))
     let s := wCollAt d [wBcast false]
     s.newColl d 1 = true ∧ s.col.colls.find? (fun k => k.key == dropKey d (signEra d)) = some (wBcast false) ∧ memberOf (wBcast false).phys d.src = some 1 ∧
     d.payload.take 14 = (State.signBytes (wBcast false)).take 14 ∧ (wBcast false).admitted = false) ∧
    (let d := wCd 0 1 3 false true 0 0 []
     d.payload.take 14 ≠ (State.signBytes (wBcast false)).take 14 ∧ (wBcast false).fin = none) ∧
    (let d := wCd 0 2 3 false true 0 0 [1, 0]
     let s := wCollAt d [wBcast false]
     s.newColl d 2 = true ∧ s.col.colls.find? (fun k => dropKey d k.key.era == k.key) = some (wBcast false) ∧ (wBcast false).grants = []) := by decide

theorem witness_CollectiveProgress :
    (let s := (wCollAt (wCd 0 1 0 false false 0 0 []) [wBcast false]).modSeq 0 fun q => { q with qFab := [(wBcast false).e] }
     let k := wBcast false
     s.col.queue.head? = some k.key ∧ s.col.colls.find? (fun x => x.key == k.key) = some k ∧ s.col.noAdmit = false ∧ (s.comb k.comb).seq.qFab = [k.e] ∧
     collBanks k.args.op k.args.a + s.col.used ≤ 16 * s.pool ∧ k.phys.any s.rte.fenced = false ∧
     s.openRuns (if k.args.op = 3 ∧ k.me ≠ k.rootIx then [] else k.args.a.ranges) = true ∧
     (∀ p ∈ k.writes.1, s.posOpen k.args.d (k.args.d.pos p.1) = true) ∧
     ((wCollAt (wCd 0 1 0 false false 0 0 []) [k]).comb k.comb).seq.qFab.head? ≠ some k.e) ∧
    -- a wide sum waits for a bank
    (let k := { wBcast false with e := wE (.coll 0 false 0 0 1 (wT 10 24 256) (wT 10 24 0) 5 0 0 0) }
     let s : State := { wNet wQ with col := { used := 96 } }
     16 * s.pool < collBanks k.args.op k.args.a + s.col.used ∧ 0 < collBanks k.args.op k.args.a ∧
     ¬ (collWide k.args.op k.args.rf = true ∧ getF s.col.cfg 16 1 = 1)) ∧
    (let d := wCd 0 4 0 false false 0 0 []
     let s := wCollAt d [wBcast true]
     s.newColl d 4 = true ∧ s.col.colls.find? (fun x => x.key == dropKey d (abortEra d)) = some (wBcast true) ∧ s.col.bars = [] ∧ (wBcast true).fin = none) := by decide

theorem witness_CollectiveProgress_data :
    (let k := wBcast true
     let d := wCd 0 3 3 false true 0 1 (List.replicate 48 1)
     let s := wCollAt d [k]
     d ∈ s.rte.arrived ∧ d.type = 0xB ∧ collKind d = 3 ∧ SrcEntry.dup ⟨1, none, 0, []⟩ d.cid = false ∧
     s.col.colls.find? (fun x => dropKey d x.key.era == x.key) = some k ∧ memberOf k.phys d.src = some 1 ∧ k.stageNow = some (3, .bcast) ∧
     stageKey (3, Pat.bcast) = dropStage d ∧ ((k.expected (3, .bcast) 1 (dropDir d)).map fun x => (x.1, x.2.1.length)) = [(0, 24)] ∧ dropSeg d = 0 ∧
     d.seqoff = 1 ∧ k.got = [] ∧ (wCd 0 3 3 false true 0 2 []).seqoff = 2) := by decide

theorem witness_CollectiveProgress_completion :
    (let k := { wBcast true with fin := some (wFl (.mshape 1 0)) }
     let s := wCollAt (wCd 0 3 0 false false 0 0 []) [k]
     (s.col.colls.find? fun k => k.key.group == 5 && (k.fin.map (·.waits)) == some 0 &&
        !(s.fab.open_.any fun x => x.coll == some k.key) && !s.fab.wait.any fun x => x.coll == some k.key) = some k ∧
     (s.comb k.comb).seq.qFab = []) := by decide

/-- The barrier of group 5, as chip 0 of two members holds it. -/
def wBar (trel : Option W64) : BarInst := { comb := 0, e := wE (.bar 5 0 0 0), key := ⟨5, 0, 0, true⟩, ver := 0, phys := [0, 1], me := 0, trel := trel }

theorem witness_BarrierTree :
    (let d := wDrop 0xB 0 0 0 (collAddr ⟨5, 0, 0, false⟩ 5 0 false false 0) []
     let s : State := { wArr d with fab := { srcs := [⟨1, none, 0, []⟩] }, col := { bars := [wBar none] } }
     s.newColl d 5 = true ∧ s.col.bars.find? (fun x => x.key == barKey d (arriveEra d)) = some (wBar none) ∧ memberOf (wBar none).phys d.src = some 1 ∧
     (wBar none).sentUp = false ∧ (barNear 0 2).filter (· > 0) = [1]) ∧
    (let d := wDrop 0xB 0 0 0 (collAddr ⟨5, 0, 0, false⟩ 6 0 false false 0) [100]
     let s : State := { wArr d with fab := { srcs := [⟨1, none, 0, []⟩] }, col := { bars := [wBar none] } }
     s.newColl d 6 = true ∧ s.col.bars.find? (fun x => barKey d x.key.era == x.key) = some (wBar none) ∧ s.chm.tb ≤ leNat (d.payload.take 8) ∧
     leNat (d.payload.take 8) < ({ running := true, tb := 101 } : Chm).tb ∧ (s.comb 0).seq.qFab = []) ∧
    (([wBar (some 64)].find? fun b => b.key.group == 5 && b.trel.isSome) = some (wBar (some 64))) := by decide

/-! ### Witnesses: the block -/

theorem witness_StepTakesTheFrontCommand : ({} : State).pending = [] ∧ ({ chm := { running := true, tb := 3 } } : State).chm.running = true := by decide

theorem witness_EveryStepKeepsMemoryCanonical : ({} : State).mem.wf = true ∧ ∃ t, step ({} : State) = .next t := ⟨by decide, _, rfl⟩

theorem test_reset_memory : State.reset.mem.wf = true := by decide

theorem witness_VurdoWordsRoundTrip : Word.ofBits 0x0000000300041802 = some (.s .add { i := true, sd := 1, sa := 2, imm := 3 }) := by decide

/-! ### Witnesses: orders

Signed orders are shown with the neutral point as key and the signature R = neutral point, S = 0, which verifies over every message. -/

theorem edZero_mul (k : Nat) : edZero.mul k = edZero := by
  have h : edZero.add edZero = edZero := by decide
  unfold EdPoint.mul
  induction (List.range 456).reverse with
  | nil => rfl
  | cons i l ih =>
    rw [List.foldl_cons, h, h, ite_self]
    exact ih

theorem edBase_mul_zero : edBase.mul 0 = edZero := by
  have h : edZero.add edZero = edZero := by decide
  unfold EdPoint.mul
  induction (List.range 456).reverse with
  | nil => rfl
  | cons i l ih =>
    rw [List.foldl_cons, Nat.zero_testBit, if_neg (by decide), h]
    exact ih

theorem edDecode_one : edDecode 1 = some edZero := by decide +kernel

theorem test_signature (c : SigContext) (m : List Byte) : ed448Verify 1 c m 1 = true := by
  have h1 : (1 : BitVec 912).setWidth 456 = 1 := by decide +kernel
  have h2 : (1 : BitVec 912).toNat / 2 ^ 456 = 0 := by decide +kernel
  unfold ed448Verify
  simp only [h1, h2, edDecode_one, Nat.mul_zero, edBase_mul_zero, edZero_mul]
  decide +kernel

/-- An order is accepted: what the hall checks before its signature, and its signature. -/
theorem accepts_signed (s : State) (c : Instr) (h : OrderHdr) (u : OrderRule) (t : Trailer) (hu : s.orderRule c = some (h, u)) (ht : h.trailer = some t)
    (hk : s.wdn.key t.key.toNat = some 1) (hs : t.sig = 1) (hx : (s.wdn.nonce t.key.toNat).toNat < t.nonce.toNat)
    (hr : (s.takesUp h && s.newOrder h u && hdrFormed h u.len && u.states.contains s.dev.st &&
      (match u.need with | some ks => ks.contains t.key.toNat | none => true)) = true) : s.accepts c = true := by
  simp only [Bool.and_eq_true] at hr
  obtain ⟨⟨⟨⟨h1, h2⟩, h3⟩, h4⟩, h5⟩ := hr
  have ha : s.wdn.authOk h u = true := by
    simp only [Wdn.authOk, ht, hk, hs, test_signature, hx, decide_true, Bool.and_true]
    exact h5
  simp only [State.accepts, hu, h1, h2, h3, ha, Bool.true_and]
  exact h4

/-- A device in a state, its port up and unprotected, with six keys. -/
def wDev (st : DevState) : State :=
  { dev := { st := st }, eth := { linkUp := true, cfg := 45390, notify := 0x8000000000000000 }
    wdn := { keyStore := Twin.new (Vector.replicate 6 (some 1), false), phase := 7 } }

/-- A header with `n` bytes of body. -/
def wHdr (n : Nat) : OrderHdr := { src := 9, seq := 70, length := BitVec.ofNat 32 n, body := n }

/-- A signed one under key `k`. -/
def wSig (k : BitVec 8) (n : Nat) : OrderHdr := { wHdr n with flags := 1, trailer := some ⟨1, k, 0, 1⟩ }

/-- An empty piece, and a piece of 64 bytes that is the whole of its consignment. -/
def wPiece (n : Nat) : BulkPiece := ⟨3, 0, 64, 0x40, 0, 2, 9, 1, 0, List.replicate 32 0, List.replicate n 7⟩

/-- Orders without a trailer that a READY or RUNNING device accepts. -/
def wPlain : List Instr :=
  let h := wHdr 0
  [.status h, .regRead h [], .regWrite h [], .colCfgWrite h false 0, .chmPendingWrite h 0, .chmRootWrite h 0, .chmCfgWrite h 0, .sealLevelPendWrite h 0,
   .sealLevelatWrite h 0, .stpRegisterWrite h .step 0, .memStrengthWrite h 0 0, .sweeperDisable h (.comb 0), .rwnow h 0, .linkEnWrite h 0 false,
   .txanWrite h true, .stepminWrite h 1, .prefWrite h true, .bulkWrite (wHdr 128) (wPiece 64), .bulkRead h 0 64 1, .load h 0 1, .certify h 0 [] [] 0,
   .attest (wHdr 64) 0 1 false, .chrRead (wHdr 8) 0 1, .nameRoot h 0 0 0, .quiesce h 5, .start h 1 5 (Vector.replicate 8 0),
   .ethernetFrame (.unknownCode h 0x7F)]

theorem witness_accepted_orders : ∀ c ∈ wPlain, (wDev .ready).accepts c = true := by decide

theorem witness_accepted_orders_elsewhere :
    (∀ c ∈ [Instr.muster (wHdr 0), .chmRootWrite (wHdr 0) 0, .chmCfgWrite (wHdr 0) 0], (wDev .coreUp).accepts c = true) ∧
    (∀ c ∈ [Instr.resume (wHdr 0) 5, .stpRegisterWrite (wHdr 0) (.stage 3) 0, .colCfgWrite (wHdr 0) true 0, .load (wHdr 0) 0 1], (wDev .quiesced).accepts c = true) ∧
    (∀ c ∈ [Instr.start (wHdr 0) 1 5 (Vector.replicate 8 0), .stpRegisterWrite (wHdr 0) .step 0, .colCfgWrite (wHdr 0) false 0], (wDev .running).accepts c = true) ∧
    (∀ c ∈ [Instr.chmRootWrite (wHdr 0) 0, .regWrite (wHdr 0) []], (wDev .wardenUp).accepts c = true) ∧
    (wDev .fenced).accepts (.bulkRead (wHdr 0) 0 64 1) = true := by decide

/-- Orders that need a signature, with their keys. -/
def wPriv : List (DevState × Instr) :=
  [(.ready, .tableWrite (wSig 4 0) []), (.wardenUp, .tableWrite (wSig 4 0) []), (.coreUp, .rteSelfWrite (wSig 4 0) 0), (.wardenUp, .rteSelfWrite (wSig 4 0) 0),
   (.ready, .rteSelfWrite (wSig 4 0) 0), (.ready, .rteFlipWrite (wSig 4 0) 9), (.ready, .rteEpochRelease (wSig 4 0) 256), (.ready, .rteFenceWrite (wSig 4 0) 0 2),
   (.ready, .colGroupWrite (wSig 4 0) 1 5 0), (.ready, .colMemWrite (wSig 4 0) 1 5 0 0), (.ready, .resetComb (wSig 0 24) 1 0),
   (.ready, .resetCompute (wSig 1 24) 0 0), (.ready, .resetCore (wSig 2 24)), (.ready, .resetFull ⟨wSig 3 24, 2⟩), (.quiesced, .profileSelect (wSig 0 0) 1),
   (.ready, .ethernetDefaults (wSig 0 56) true 1 ⟨0, 0, 0⟩), (.ready, .fwStageImage (wSig 0 24) ⟨0, 0, 0, 0, 1024, []⟩),
   (.ready, .fwStageProfile (wSig 0 24) ⟨1, 0, 0, 0, 1024, []⟩), (.ready, .fwStageKeySet (wSig 0 24) ⟨0, 0, 0, 0, 462, []⟩), (.quiesced, .fwSwitch (wSig 0 0)),
   (.ready, .chrClear (wSig 5 0)), (.ready, .protQuery (wSig 0 0))]

theorem witness_signed_orders : ∀ x ∈ wPriv, (wDev x.1).accepts x.2 = true := by
  simp only [wPriv, List.forall_mem_cons]
  refine ⟨?_, ?_, ?_, ?_, ?_, ?_, ?_, ?_, ?_, ?_, ?_, ?_, ?_, ?_, ?_, ?_, ?_, ?_, ?_, ?_, ?_, ?_, List.forall_mem_nil _⟩ <;>
    exact accepts_signed _ _ _ _ _ rfl rfl rfl rfl (by decide) (by decide)

theorem witness_bare_key_set :
    ({ wDev .coreUp with wdn := {} } : State).accepts (.fwStageKeySet (wHdr 24) ⟨0, 0, 0, 0, 462, []⟩) = true ∧
    ({} : Wdn).keySetOk (List.replicate 462 0) = true := by decide

theorem witness_OrderProtocol :
    (let s := wDev .ready
     let h := wHdr 0
     let crowd (n : Nat) : State := { s with pending := List.replicate n (.status h) }
     s.receives = true ∧ h.port.toNat = getF s.eth.cfg 0 16 ∧ s.tagged h.tag = true ∧ s.addressed h = true ∧ ({ h with port := 7 } : OrderHdr).port.toNat ≠ getF s.eth.cfg 0 16 ∧
     s.tagged (some 5) = false ∧ s.addressed { h with target := 5 } = false ∧ ({ s with dev := { st := .off } } : State).receives = false ∧
     256 < (crowd 257).waiting ∧ (crowd 256).waiting ≤ 256 ∧ (crowd 256).takesUp h = true ∧
     (let w : State := { crowd 1 with eth := { s.eth with seats := [false, true] } }
      w.seated.1 = false ∧ w.waiting = [true].length ∧ ({ w with pending := List.replicate 2 (.status h) } : State).waiting = [true].length + 1) ∧ s.takesUp h = true ∧ s.newOrder h { code := 1, states := [] } = true ∧
     hdrFormed { h with length := 1 } none = false ∧ hdrFormed { h with result := 1 } none = false ∧ hdrFormed { h with state := 4 } none = false ∧
     s.wdn.authOk h { code := 1, need := some [0], states := [] } = false ∧ s.wdn.authOk h { code := 1, states := [] } = true ∧
     DevState.ready ∉ [DevState.coreUp]) ∧
    (let s : State := { wDev .ready with eth := { linkUp := true, cfg := 45390, cache := [(9, 135, [⟨9, 1, 70, .ok, .ready, .none⟩])] } }
     s.takesUp (wHdr 0) = true ∧ s.eth.old (wHdr 0) = true ∧
     ({ s.eth with cache := [(9, 134, [⟨9, 1, 70, .ok, .ready, .none⟩])] } : Eth).held (wHdr 0) ≠ [] ∧
     ({ s.eth with cache := [(9, 134, [⟨9, 1, 70, .ok, .ready, .none⟩])] } : Eth).old (wHdr 0) = false ∧
     s.eth.held { wHdr 0 with seq := 71 } = [] ∧ s.eth.old { wHdr 0 with seq := 71 } = false ∧
     s.eth.held { wHdr 0 with seq := 69 } = [] ∧ s.eth.old { wHdr 0 with seq := 69 } = true) := by decide

theorem witness_QueryOrdersAndFrames :
    regAt 0x010204000000 = some .chmStatus ∧ regAt 0x010200000004 = none ∧ wardenReg .chmStatus = false ∧ wardenReg .wdnStatus = true ∧
    (wDev .wardenUp).accepts (.regRead (wHdr 0) [0x010204000000]) = true ∧ (16 : BitVec 8).toNat ≤ 16 ∧ (128 : BitVec 32).toNat ≤ 128 ∧
    (wDev .ready).receives = true ∧ getF ({ wDev .ready with eth := { linkUp := true, cfg := 0x200000000 } } : State).eth.cfg 33 1 = 1 ∧
    getF ({ wDev .ready with eth := { linkUp := true, cfg := 0x200000000 } } : State).eth.cfg 34 1 = 0 ∧ (wDev .ready).dev.st ≠ .off ∧
    (wDev .ready).tagged none = true ∧ (wDev .ready).tagged (some 5) = false ∧ (wDev .ready).accepts (.ethernetFrame (.badBody (wHdr 1) 0x09 [9])) = true := by decide

theorem witness_RegisterWriteOrders :
    ((wDev .ready).orderRule (.regWrite (wHdr 0) [(0x010204000000, 1)]) = some (wHdr 0, writeOrder false [0x010204000000, 1])) ∧
    (let s := wDev .ready
     s.writeOf (.regWrite (wHdr 0) [(0x010204000000, 1)]) = some (false, [(some .chmStatus, 1)]) ∧ s.accepts (.regWrite (wHdr 0) [(0x010204000000, 1)]) = true ∧
     tableOnly .rteSelf = true ∧ tableOnly .chmStatus = false ∧ colReg .chmStatus = false ∧ colReg .colCfg = true ∧ s.writeRule .chmStatus 1 = .ok ∧
     (wDev .coreUp).writeRule .rteSelf 1 = .ok ∧ (wDev .ready).writeRule .rteSelf 1 ≠ .ok) := ⟨rfl, by decide⟩

theorem witness_RegisterAccessCodes :
    (wDev .ready).writeRule (.memErr 2) 1 = .ok ∧ (wDev .muster).writeRule (.memErr 2) 1 = .state ∧ (wDev .muster).dev.st = .muster ∧
    (wDev .ready).writeRule (.memAgain 2) 0 = .ok ∧ (wDev .fenced).writeRule (.memAgain 2) 0 ≠ .ok ∧ regIsAgain (.memAgain 2) = true ∧
    regIsAgain (.cmbAgain 3) = true ∧ regIsAgain .chmNow = false ∧ regMasks .chmNow = (0, 0) ∧ ({} : State).chr.queue.length < 1024 ∧
    getF (({} : State).readReg (.cmbSweep 2)) 32 1 = 1 := by decide

theorem witness_TableRegisterWrites :
    (let s := wDev .ready
     s.past 9 = false ∧ s.rte.released = true ∧ ({ s with chm := { n := 9 } } : State).past 9 = true ∧ ({ s with chm := { n := 9 } } : State).past 10 = false ∧
     ({ s.rte with released := false } : Rte).released = false ∧ getF (256 : W64) 8 1 = 1 ∧ s.rte.run = true ∧ ({ s.rte with run := false } : Rte).run = false ∧
     s.rte.writable 1 = true ∧ s.rte.writable 0 = false ∧ (s.rte.tab[(1 : Fin 2)]).groupValid 5 = false) ∧
    (((wRte 0).tab[(1 : Fin 2)]).groupOk 5 0x8000000000000002 = true ∧ ((wRte 0).tab[(1 : Fin 2)]).groupOk 5 0x8000000000000000 = false ∧
      ((wRte 0).tab[(1 : Fin 2)]).groupValid 5 = true ∧ getF (0x8000000000000002 : W64) 63 1 = 1) := by decide

theorem witness_ChimeBoundRegisterWrites :
    (let s := wDev .ready
     (36000 : Nat) ≤ getF (36000 : W64) 0 26 ∧ getF (36000000 : W64) 0 26 ≤ 36000000 ∧ getF (35999 : W64) 0 26 < 36000 ∧ 36000000 < getF (36000001 : W64) 0 26 ∧
     s.chm.isRoot = false ∧ ({ s.chm with isRoot := true } : Chm).isRoot = true ∧ (getF (0 : W64) 18 1 == 1) = s.chm.prefV ∧ getF (0 : W64) 0 18 = s.chm.pref.toNat ∧
     getF (0x300 : W64) 8 2 = 3 ∧ getF (0x200 : W64) 8 2 ≠ 3 ∧ s.seals.at_ = 0 ∧ ({ s.seals with at_ := 4 } : Seals).at_ ≠ 0 ∧ s.past 7 = false ∧
     getF (1 : W64) 0 20 ≠ 0 ∧ getF (0x00010000000 : W64) 0 20 = 0 ∧
     getF (0x0001F000000000 : W64) 0 48 + getF (0x0001F000000000 : W64) 48 16 * 2 ^ 20 > 0xF000000000) := by decide

theorem witness_StepRegisterWrites :
    (wDev .ready).stp.round = none ∧ (wDev .ready).accepts (.stpRegisterWrite (wHdr 0) .masterBank 1) = true ∧
    (wDev .running).accepts (.stpRegisterWrite (wHdr 0) (.stage 9) 1) = true ∧ ({ round := some wRound, undecided := true } : Stp).undecided = true ∧
    ({ round := some wRound } : Stp).round ≠ none := by decide

theorem witness_UnitRegisterWrites :
    (let s := wDev .ready
     let c : Mc := s.mcs[(0 : McId)]
     getF s.mem.cfg 32 2 < zoneCode 1 0 ∧ getF c.recode 63 1 = 0 ∧
     (let t : State := { s with mem := { cfg := 0x300000000 } }
      getF t.mem.cfg 32 2 = 3 ∧ (∀ z, z < 8 → ¬ getF t.mem.cfg 32 2 < zoneCode 4 z) ∧ zoneCode c.strength 1 ≠ zoneCode 4 1 ∧
      (∀ y, y < 8 → y ≠ 1 → zoneCode c.strength y = zoneCode 4 y) ∧ zoneCode c.strength 0 ≠ zoneCode 5 0 ∧ zoneCode c.strength 1 ≠ zoneCode 5 1)) ∧
    ({ st := .active } : Link).en = true ∧ getF (wDev .ready).eth.cfg 33 1 = 0 ∧ (wDev .ready).dev.st ≠ .wardenUp := by decide

theorem witness_BulkConsignments :
    (let s := wDev .ready
     let b := wPiece 64
     badFields b = false ∧ badPiece b = false ∧ s.bulkOf 9 b.cid = none ∧ s.opened b.dest.toNat b.total.toNat = true ∧ s.eth.bulks.length < 64 ∧ b.offset = 0 ∧
     b.data.length = b.total.toNat ∧ b.slot = 0 ∧ s.mem.wf = true ∧ s.mem.crc = [] ∧ badFields { b with total := 0 } = true ∧ badPiece { b with dest := 1 } = true ∧
     s.opened 0x00F000000000 64 = false) ∧
    (let x : Bulk := { src := 9, piece := wPiece 64, got := [(0, 64)], told := 0 }
     let s : State := { wDev .ready with eth := { linkUp := true, cfg := 0, bulks := [x] } }
     s.bulkOf 9 3 = some x ∧ samePiece x.piece (wPiece 64) = true ∧ x.fresh (wPiece 64) = [] ∧ samePiece x.piece { wPiece 64 with dest := 0 } = false) ∧
    (let x : Bulk := { src := 9, piece := { wPiece 64 with total := 128 }, got := [(0, 64)], told := 0 }
     x.count < x.piece.total.toNat) ∧
    (1 : Nat) ≤ (64 : BitVec 32).toNat ∧ (64 : BitVec 32).toNat ≤ 2 ^ 30 ∧ (wDev .ready).opened 0 64 = true ∧ (wDev .ready).mem.upsets = [] := by decide

theorem witness_QueuedWorkProceeds_vec :
    (let d := wT 0 4 0
     let s := wSeq { wQ with qVec := [wE (.vec .vadd 1 d (wT 0 4 64) (wT 0 4 128) 0 none 0 0 0 0)] }
     (s.comb 0).seq.qVec ≠ [] ∧ s.openRuns (vecReads .vadd d (wT 0 4 64) (wT 0 4 128) 0 none) = true ∧ ∀ p ∈ d.positions, s.posOpen d p = true) := by decide

theorem witness_QueuedWorkProceeds_upd :
    (let ds : Vector Desc 7 := Vector.replicate 7 (wT 0 1 0)
     let s := wSeq { wQ with qVec := [wE (.upd .m1 0 ds (Vector.replicate 4 0) 1 0 0 0 0)] }
     (s.comb 0).seq.qVec ≠ [] ∧ (wT 0 1 0).empty = false ∧ s.openRuns ((wT 0 1 0).runs (wT 0 1 0).positions) = true ∧
     ∀ p ∈ (wT 0 1 0).positions, s.posOpen (wT 0 1 0) p = true) := by decide

theorem witness_QueuedWorkProceeds_moves :
    (let d := wT 0 1 0
     let di := wT 10 1 128
     let s := wCrrQ (.gather 1 d (wT 0 1 64) di)
     (s.comb 0).seq.qCrr ≠ [] ∧ (s.comb 0).crrRun.length < 8 ∧ s.openRuns ((wT 0 1 64).runs d.positions) = true ∧ (∀ p ∈ d.positions, s.posOpen d p = true) ∧
     s.openRuns (di.runs di.positions) = true ∧ (wT 0 1 64).s1 = 1 ∧ d.positions = [⟨0, 0, 0, 0⟩]) := by decide

theorem witness_QueuedWorkProceeds_indices :
    (let ix := (wSeq wQ).indices (wT 10 1 128) 1
     ix.filterMap (·.2.1) = [0] ∧ scatterRows ix = [(0, 0)]) := by decide

theorem witness_QueuedWorkProceeds :
    (let d := wDrop 6 2 0 0 0 (List.replicate 48 1)
     let x : Cons := { key := .chip 1, cid := 0, kind := .get (wT 0 24 0) (wT 0 24 128), comb := some 0, e := some (wE (.get 1 (wT 0 24 0) (wT 0 24 128) 1)), n := 2
                       members := [(1, 0)], sent := 0 }
     let s : State := { wArr d with fab := { open_ := [x] } }
     d ∈ s.rte.arrived ∧ d.type = 6 ∧ s.fab.consFor d.src d.cid = some x ∧ x.base ≤ d.addr ∧ d.addr < x.base + 1024 ∧ d.addr < x.n ∧ d.addr ∉ x.got ∧
     (∀ r ∈ (wT 0 24 0).freshRuns d.addr x.got d.payload, s.opened r.1 r.2.length = true) ∧ s.mem.crc = [] ∧ s.mem.wf = true ∧
     (slideBase x.n x.base (x.got ++ [d.addr])).1 ≠ x.n ∧ ((wT 0 24 0).dropAddrs d.addr).Nodup) ∧
    ((wDev .ready).dev.st ≠ .wardenUp ∧ regAt (0x010204000000 : BitVec 48).toNat = some .chmStatus ∧ tableOnly .chmStatus = false ∧
     (wDev .ready).accepts (.regWrite (wHdr 0) [(0x010204000000, 1)]) = true ∧ ((wDev .ready).heard (wHdr 0)).writeRule .chmStatus 1 = .ok ∧
     regAt (0x010202000020 : BitVec 48).toNat = some .rteFlip ∧ tableOnly .rteFlip = true ∧
     ((wDev .ready).heard (wSig 4 0)).writeRule .rteFlip 0 = .ok) := by decide

theorem witness_QueuedWorkProceeds_table : (wDev .ready).accepts (.tableWrite (wSig 4 0) [(0x010202000020, 0)]) = true :=
  accepts_signed _ _ _ _ _ rfl rfl rfl rfl (by decide) (by decide)

/-! ### Witnesses: time -/

/-- A running time base at chime 4. -/
def wChm : Chm := { running := true, tb := 36000, n := 4, nextAt := 72000, ival := 36000, isRoot := true }

/-- Comb 0 with sequencer `q` in a device that keeps that time. -/
def wTick (q : Seq) : State := ({ wDev .running with chm := wChm, rte := wRte 0 } : State).modSeq 0 fun _ => q

theorem witness_ChimeActions_calm :
    (let s := wTick { wQ with stall := .frame, st := .chimeWait }
     s.chm.running = true ∧ ({ wChm with pendV := true, pendAt := 5, pendC := 72000 } : Chm).pendAt = s.chm.n + 1 ∧
     s.rte.flip = 0 ∧ s.stp.round = none ∧ s.chm.resumeAt = none ∧ s.dev.jobs = [] ∧ (∀ c, (s.comb c).due = none) ∧
     s.chm.qGo = none ∧ s.chm.qReq = none ∧ s.chm.qVoted = none ∧ s.dev.st ≠ .quiesced ∧ s.dev.st = .running ∧ s.chm.isRoot = true ∧
     (s.comb 0).seq.st = .chimeWait ∧ (s.comb 0).seq.stall = .frame ∧ (∀ l : LinkId, (s.links[l]).matched = false ∧ (s.links[l]).rwWait = false)) := by decide

theorem witness_ChimeActions :
    (let q : Seq := { wQ with st := .armed, startAt := some 5 }
     q.st = .armed ∧ q.startAt = some 5 ∧ (5 : W64).toNat ≤ (wChm.n + 1).toNat ∧ ¬ (6 : W64).toNat ≤ (wChm.n + 1).toNat ∧ wQ.st = .running ∧ wQ.framed = false ∧
     ({ wQ with framed := true } : Seq).framed = true ∧ wQ.stall ≠ .faulting ∧ ({ wQ with stall := .faulting } : Seq).stall = .faulting ∧
     ({} : Seq).st ∈ [SeqState.empty, .loading, .loaded, .halted, .faulted, .hold]) ∧
    (let s : State := { wTick wQ with chm := { wChm with qGo := some 5 } }
     s.chm.qGo = some (s.chm.n + 1) ∧ s.chm.qVoted = none ∧ s.dev.st = .running) ∧
    (let s : State := ({ wTick wQ with chm := { wChm with resumeAt := some 5 }, dev := { st := .quiesced } } : State).modSeq 0 fun _ => { wQ with st := .hold }
     s.chm.resumeAt = some 5 ∧ s.dev.st = .quiesced ∧ s.wdn.fwSwitchAt = [] ∧ s.rte.flip = 0 ∧ s.stp.round = none ∧ s.dev.jobs = [] ∧ s.col.bars = [] ∧
     (∀ c, (s.comb c).due = none) ∧ s.chm.qGo = none ∧ (s.comb 0).seq.st = .hold) ∧
    (let r : Rte := { wRte 0 with flip := 5 }
     r.flip ≠ 0 ∧ r.flip = wChm.n + 1 ∧ ({ wRte 0 with flip := 6 } : Rte).flip ≠ wChm.n + 1) ∧
    (let x : Seals := { at_ := 5 }
     x.at_ ≠ 0 ∧ x.at_ = wChm.n + 1) ∧
    (let r : Round := { wRound with decision := some (true, 5) }
     ({ round := some r } : Stp).round = some r ∧ r.decision = some (true, 5)) ∧
    ((wTick wQ).chimeLinks = [] ∧
      (((wTick wQ).modLink 0 fun _ => { st := .active }).chimeLinks) = [0]) := by decide

theorem witness_ChimeActions_selftest :
    (let s := (wTick wQ).modComb 0 fun k => { k with testing := true }
     (s.comb 0).testing = true ∧ (((s.comb 0).cleanTests.filter fun x => decide ((s.chm.n - x).toNat < 10000)).length < 2) ∧
     Sparse.get 0 s.dev.phys (getF (s.comb 0).map 0 7) = 0 ∧ s.dev.failed (getF (s.comb 0).map 0 7) = false ∧
     2 ≤ ((({ s.comb 0 with cleanTests := [3, 4] } : Comb).cleanTests.filter fun x => decide ((s.chm.n - x).toNat < 10000)).length)) ∧
    (let s : State := { wTick wQ with dev := { st := .running, phys := [(0, 0x100000000), (65, 4)] } }
     s.dev.failed (getF (s.comb 0).map 0 7) = true ∧ s.spareFree (64 + fieldOf 0) = true ∧ Sparse.get 0 s.dev.phys 65 = BitVec.ofNat 64 (2 ^ 2)) ∧
    (let s : State := { wTick wQ with dev := { st := .running, phys := [(0, 0x100000000), (64, 0x100000000)] } }
     s.dev.failed (getF (s.comb 0).map 0 7) = true ∧ s.spareFree (64 + fieldOf 0) = false ∧ s.spareFree 65 = true ∧
     s.nextMap 0 = some (s.dev.mapWord 65)) ∧
    (let s : State := { wTick wQ with dev := { st := .running, phys := [(0, 0x100000000), (64, 0x100000000), (65, 0x100000000), (66, 0x100000000), (67, 0x100000000)] } }
     (∀ q ∈ [64, 65, 66, 67], s.spareFree q = false) ∧ s.nextMap 0 = none) ∧
    (let s := (wTick wQ).modComb 0 fun k => { k with due := some { cause := 3, reload := true, remap := true } }
     (s.comb 0).due = some { cause := 3, reload := true, remap := true } ∧ (∀ d, d ≠ 0 → (s.comb d).due = none) ∧ s.nextMap 0 = some 0) := by decide

/-- The CHIME copy of chime 4 from chip 1. -/
def wCopy (hops : BitVec 8) (base : W64) (n : W64) : ChimeSym := ⟨0, hops, 1, n, base, 36000, 0, 0, 0x3FFFF⟩

theorem witness_ChimeCopies :
    (let s := ({ wDev .running with chm := { wChm with isRoot := false }, rte := wRte 0 } : State).modLink 0 fun _ => { st := .active }
     s.chm.running = true ∧ (s.links[(0 : LinkId)]).st.up = true ∧ (s.links[(0 : LinkId)]).chimex = false ∧ (wCopy 1 7 4).base ≠ s.chm.base ∧
     (wCopy 1 0 4).base = s.chm.base ∧ (wCopy 1 0 4).n = s.chm.n ∧ (wCopy 1 0 3).n ≠ s.chm.n ∧ some (wCopy 1 0 4).root ≠ s.rte.named ∧ some (0 : ChipId) = s.rte.named ∧ s.chm.isRoot = false ∧
     (wCopy 1 0 4).n ∉ s.chm.fwd ∧ s.chm.since (wCopy 1 0 4).n < 64 ∧ ¬ 0 < s.chm.since (wCopy 1 0 4).n ∧ 0 < s.chm.since (wCopy 1 0 3).n ∧
     s.chm.syncloss = false ∧ s.chm.ival.toNat ≤ s.chm.nextAt ∧ 0 < s.chm.tb) ∧
    (let c : Chm := { wChm with isRoot := false, copies := [(wCopy 1 0 4, 130)] }
     (c.copies.find? fun y => y.1.n == c.n) = some (wCopy 1 0 4, 130) ∧ (c.copies.find? fun y => y.1.n == 5) = none ∧
     (wCopy 1 0 4).hops.toNat ≤ (wCopy 2 0 4).hops.toNat ∧ (wCopy 0 0 4).hops.toNat < (wCopy 1 0 4).hops.toNat ∧ 128 < (130 : Int).natAbs) ∧
    (candLt (({ wChm with prefV := true, pref := 1 } : Chm).prefOf 1, 1) (({ wChm with prefV := true, pref := 1 } : Chm).prefOf 0, 0) = true) ∧
    (wChm.isRoot = true ∧ candLt (wChm.prefOf (wCopy 1 0 4).root, (wCopy 1 0 4).root) (wChm.prefOf 0, 0) = false) ∧
    (let c : Chm := { wChm with isRoot := false, silent := 2, isDeputy := true }
     max 1 (getF c.cfg 0 4) ≤ c.silent ∧ c.isDeputy = true ∧ ¬ max 1 (getF c.cfg 0 4) ≤ 1 ∧ ({ c with isDeputy := false } : Chm).isDeputy = false) ∧
    (let c : Chm := { wChm with syncloss := true, lossRun := 16 }
     c.running = true ∧ c.syncloss = true ∧ 16 ≤ c.lossRun) := by decide

/-- Chip 0 in the muster at a phase, its first link up. -/
def wMus (phase : BitVec 3) (st : LinkState) : State :=
  ({ wDev .muster with chm := { phase := phase }, rte := wRte 0 } : State).modLink 0 fun _ => { st := st }

/-- An ELECT of chip 1, running or not. -/
def wElect (running : Bool) (base : W64) : ElectSym := ⟨1, 1, 0x3FFFF, 0xFF, running, base⟩

theorem witness_Muster :
    ((wDev .coreUp).accepts (.muster (wHdr 0)) = true ∧ (wDev .coreUp).dev.stuck = false) ∧
    ((wMus 1 .aligned).alignedLinks ≠ [] ∧ (wMus 1 .failed).alignedLinks = [] ∧ (wMus 1 .failed).rte.alone = false ∧ (wMus 1 .failed).dev.st = .muster) ∧
    (wMus 3 .aligned).chm.phase = 3 ∧ (wMus 5 .aligned).chm.phase = 5 ∧ (wMus 4 .aligned).chm.phase = 4 ∧ ((wMus 4 .aligned).links[(0 : LinkId)]).chimex = false ∧ ((wMus 1 .aligned).links[(0 : LinkId)]).st.up = true ∧ ((wMus 1 .failed).links[(0 : LinkId)]).st.up = false ∧
    (let k : Link := { st := .aligned, pings := 3 }
     k.st = .aligned ∧ k.pings ≠ 0 ∧ k.matched = false ∧ k.samples.length < 255 ∧ ({ k with samples := List.replicate 255 0 } : Link).samples.length = 255 ∧
     ({ st := .aligned } : Link).pings = 0) ∧
    ((2 * ([64] : List Int).sum + 512) / 1024).toNat ≤ 64 * 2160 ∧ 64 * 2160 < ((2 * ([256 * 64 * 5000] : List Int).sum + 512) / 1024).toNat ∧
    ((wMus 4 .aligned).chm.running = false ∧ (wElect true 3).running = true ∧ (wElect false 0).second = 0x3FFFF ∧ (wElect false 0).secondPref = 0xFF ∧
      ¬ ((wElect false 0).best = 0x3FFFF ∧ (wElect false 0).bestPref = 0xFF) ∧ (wMus 4 .aligned).chm.best = none) ∧
    (let c : Chm := { phase := 4, best := some (1, 2) }
     candLt ((wElect false 0).bestPref.toNat, (wElect false 0).best) (1, 2) = true ∧ candLt ((wElect false 0).bestPref.toNat, (wElect false 0).best) (0, 2) = false ∧
     c.best.map (·.2) ≠ some (wElect false 0).best) ∧
    (wChm.running = true ∧ (wElect true 3).base ≠ wChm.base ∧ (wElect true 0).base = wChm.base ∧ (wElect false 0).running = false) ∧
    (({ wMus 4 .aligned with chm := { phase := 4, best := some (1, 0) } } : State).chm.best = some (1, (wMus 4 .aligned).rte.selfId) ∧ (wMus 4 .aligned).rte.selfValid = true) ∧
    ((1 : ChipId) ≠ (wMus 4 .aligned).rte.selfId) := by decide

/-! ### Witnesses: rounds -/

/-- Chip 0 of the four, in step with the machine, with a SYNC drop of chip 1 delivered: kind, step or chime, value, chime, decider. -/
def wSyncDrop (kind : Nat) (k : Nat) (v : Nat) (c : Nat) : Drop := wDrop 0xC 0 0 0 kind (leBytes 8 k ++ leBytes 8 v ++ leBytes 8 c ++ leBytes 8 0)
def wSync (d : Drop) : State := { wDev .running with chm := wChm, rte := { wRte 0 with arrived := [d] } }

theorem witness_QuiesceAndCommitRounds :
    (∀ kind ∈ [1, 2, 8, 9, 10, 11], (wSync (wSyncDrop kind 0 1 9)).newSync (wSyncDrop kind 0 1 9) kind = true) ∧
    ((wSync (wSyncDrop 1 0 1 9)).rte.leader = some 0 ∧ (wSync (wSyncDrop 1 0 1 9)).rte.deputy = some 1 ∧ (wSync (wSyncDrop 1 0 1 9)).rte.selfId = 0 ∧ wChm.votesFor 0 = [] ∧
      syncValue (wSyncDrop 1 0 1 9) = true ∧ syncValue (wSyncDrop 1 0 0 9) = false ∧ ({ wRte 1 with arrived := [] } : Rte).selfId ≠ 0) ∧
    (let r : Rte := { wRte 0 with fence := [(0, 13)] }
     (r.liveBox.map (r.physOf r.inj)) = [1]) ∧
    (wRound.step = syncStep (wSyncDrop 8 0 1 9) ∧ wRound.decision = none ∧ (wSync (wSyncDrop 8 0 0 9)).stp.made = none ∧
      (wSync (wSyncDrop 8 0 0 9)).stp.lodged = none ∧ wRound.votes = [] ∧ (wSync (wSyncDrop 8 0 0 9)).roundNow = none ∧ (wSync (wSyncDrop 8 0 0 9)).rte.deputy ≠ none ∧
      (wSync (wSyncDrop 8 0 0 9)).inBox = true ∧ (1 : ChipId) ∈ (wSync (wSyncDrop 8 0 0 9)).rte.boxChips) ∧
    (let s : State := { wSync (wSyncDrop 10 0 1 9) with stp := { round := some wRound, made := some ⟨0, true, 9, 0⟩ } }
     s.stp.round = some wRound ∧ s.stp.made = some ⟨0, true, 9, 0⟩ ∧ s.mayStart (.chip 1) = true ∧ s.fab.wait = [] ∧ s.applied (wSyncDrop 11 0 1 9) = false ∧
     ({ s with stp := { s.stp with decideAt := 9 } } : State).applied (wSyncDrop 11 0 1 9) = true ∧ (wSync (wSyncDrop 10 0 1 9)).rte.deputy = some (wSyncDrop 10 0 1 9).src) ∧
    ((wSync (wSyncDrop 11 0 1 9)).stp.step = syncStep (wSyncDrop 11 0 1 9) ∧ syncStep (wSyncDrop 11 3 1 9) ≠ (wSync (wSyncDrop 11 0 1 9)).stp.step) ∧
    (let s : State := { wSync (wSyncDrop 11 0 1 9) with chm := { wChm with n := 258 }, stp := { round := some wRound } }
     max 1 (getF wRound.cfg 0 16) ≤ (s.chm.n - wRound.openedAt).toNat ∧ wRound.step = s.stp.step ∧ s.leads = true ∧
     (s.chm.n - wRound.openedAt).toNat < 2 * max 1 (getF wRound.cfg 0 16) ∧ 2 * max 1 (getF wRound.cfg 0 16) ≤ ((514 : W64) - wRound.openedAt).toNat ∧
     wRound.told = false) ∧
    (let s := wDev .ready
     s.accepts (.stpRegisterWrite (wHdr 0) .step 3) = true ∧ s.dev.st = .ready ∧ s.stp.round = none) := by decide

/-! ### Witnesses: programs, resets, the warden, power -/

/-- An image of one word at address 64: magic, version 1, one word, ENTRY 0. -/
def wImage : Mem := { bytes := [(64, 0x56), (65, 0x52), (66, 0x44), (67, 0x4F), (68, 1), (72, 1), (128, 0x12)] }

theorem witness_ProgramOrders :
    (let s : State := { wDev .ready with mem := wImage }
     s.mem.wf = true ∧ (s.imageAt 64).isSome = true ∧ s.imageAt 0 = none ∧ (∀ c ∈ maskCombs 1, (s.comb c).seq.st ∈ [SeqState.empty, .loaded, .halted, .faulted]) ∧
     maskCombs 1 = [0]) ∧
    (let s := (wDev .ready).modSeq 0 fun _ => wQ
     ∃ c ∈ maskCombs 1, (s.comb c).seq.st ∉ [SeqState.empty, .loaded, .halted, .faulted]) ∧
    (let j : LoadJob := ⟨70, 1, 64⟩
     let s := ({ wDev .ready with eth := { loads := [j] } } : State).modSeq 0 fun q => { q with st := .loading }
     (s.eth.loads.find? fun j => j.seq == 70) = some j ∧ (∀ c ∈ maskCombs j.combs, (s.comb c).seq.st = .loading) ∧ (s.eth.loads.find? fun j => j.seq == 71) = none) ∧
    (let s := (wDev .ready).modSeq 0 fun q => { q with st := .loaded }
     (∀ c ∈ maskCombs 1, (s.comb c).seq.st ∈ [SeqState.loaded, .halted, .faulted]) ∧ s.past 5 = false ∧ ({ s with chm := wChm } : State).past 4 = true) := by decide

theorem witness_ProgramOrders_certify :
    (let d : Digest := List.replicate 48 1
     let s : State := ({ wDev .ready with seals := { slots := [(7, { digest := d, valid := true })] } } : State).modSeq 0 fun q =>
       { q with st := .loaded, prog := some ⟨64, 0, 1, d⟩ }
     (s.comb 0).seq.progSeal = some d ∧ s.seals.named [7] = some [d] ∧ s.seals.named [] = some [] ∧ s.seals.named [8] = none) ∧
    (wDev .ready).chm.base = 0 ∧ (wDev .ready).chm.base ≠ 1 := by decide

theorem witness_Resets :
    (let s := wDev .ready
     s.dev.st ≠ .off ∧ s.dev.st ≠ .wardenUp ∧ s.dev.reset = none ∧ s.coreOn = true ∧ (wDev .off).coreOn = false ∧ (5 : W64) ≠ 0 ∧ s.past 5 = false ∧
     ({ s with chm := wChm } : State).past 4 = true ∧ vinOk 10000 = false ∧ vinOk 12000 = true ∧ s.dev.porstLow = false ∧ s.hallOn = true ∧ (wDev .off).hallOn = false ∧ (wDev .wardenUp).hallOn = true ∧
     getF s.eth.cfg 33 1 = 0 ∧ ({ s with dev := { st := .ready, porstLow := true } } : State).dev.porstLow = true) ∧
    (let r : ResetRun := { kind := 1, back := .ready, hold := .none }
     let s : State := { wDev .resetting with dev := { st := .resetting, reset := some r } }
     s.dev.reset = some r ∧ s.dev.st = .resetting ∧ (∀ c : CombId, (s.comb c).seq.st.active = false)) ∧
    (let d : Digest := List.replicate 48 1
     let q : Seq := { prog := some ⟨0, 0, 1, d⟩ }
     q.st = .empty ∧ (wDev .resetting).imageAt 0 = none) ∧
    (let r : ResetRun := { kind := 4, back := .wardenUp, hold := .porst }
     r.kind = 4 ∧ r.hold = .porst ∧ { r with hold := .none }.hold ≠ .porst ∧ ({ r with kind := 3 } : ResetRun).kind = 3 ∧ ({} : Wdn).phase = 1 ∧ (wDev .ready).wdn.phase ≠ 1 ∧
     ({ keySet := some (Vector.replicate 6 none, true) } : Wdn).keySet = some (Vector.replicate 6 none, true)) ∧
    (wDev .off).dev.st = .off ∧ (true || false) = true ∧ (wDev .ready).pwr.vaux = (true, true) ∧ (wDev .ready).chr.clearing = none := by decide

/-- A 48-byte digest has 48 bytes. -/
theorem leBytes_length : ∀ (n v : Nat), (leBytes n v).length = n
  | 0, _ => rfl
  | n + 1, v => by rw [leBytes, List.length_cons, leBytes_length n]

theorem flatMap_leBytes_length (l : List W64) : (l.flatMap fun w => leBytes 8 w.toNat).length = 8 * l.length := by
  induction l with
  | nil => rfl
  | cons w l ih => rw [List.flatMap_cons, List.length_append, leBytes_length, ih, List.length_cons]; omega

theorem shake256_length (bs : List Byte) (n : Nat) (h : n ≤ 200) : (shake256 bs n).length = n := by
  unfold shake256
  rw [List.length_take, flatMap_leBytes_length]
  simp only [Vector.length_toList]
  omega

/-- The first 0x3FFD0 bytes of a profile (Table 19.7). -/
def wProfHead (n : Nat) : List Byte := [0x50, 0x52, 0x4F, 0x46, 1, 0] ++ List.replicate n 0

theorem profileOk_of (n : Nat) (h : n + 6 = 0x3FFD0) : profileOk (wProfHead n ++ shake256 (wProfHead n) 48) = true := by
  have hl : (wProfHead n).length = 0x3FFD0 := by rw [wProfHead, List.length_append, List.length_replicate, ← h, List.length_cons]; simp; omega
  have h1 : (wProfHead n ++ shake256 (wProfHead n) 48).take 0x3FFD0 = wProfHead n := List.take_left' hl
  have h2 : (wProfHead n ++ shake256 (wProfHead n) 48).drop 0x3FFD0 = shake256 (wProfHead n) 48 := List.drop_left' hl
  have h3 : (wProfHead n ++ shake256 (wProfHead n) 48).length = 0x40000 := by rw [List.length_append, hl, shake256_length _ _ (by omega)]
  have h4 : hdrField (wProfHead n ++ shake256 (wProfHead n) 48) 0 4 = 0x464F5250 := by
    simp [hdrField, wProfHead, leNat]
  have h5 : hdrField (wProfHead n ++ shake256 (wProfHead n) 48) 4 2 = 1 := by
    simp [hdrField, wProfHead, leNat]
  unfold profileOk
  rw [h1, h2, h3, h4, h5, beq_self_eq_true, beq_self_eq_true, beq_self_eq_true, beq_self_eq_true]
  rfl

/-- A profile that passes its checks exists (R397). -/
theorem test_profile : ∃ bs, profileOk bs = true := ⟨_, profileOk_of (0x3FFD0 - 6) rfl⟩

/-- A staged item. -/
def wStaging (kind : Fin 3) (data : List Byte) (verifying : Bool) : Staging := ⟨kind, 0, false, 1024, data, some (wSig 0 0), verifying⟩

theorem witness_WardenOrders :
    (let w : Wdn := { profiles := (Vector.replicate 4 none).set 1 (some [1]) }
     w.profiles[(1 : Nat)] ≠ none ∧ w.profiles[(2 : Nat)] = none ∧ 4 ≤ (4 : BitVec 8).toNat) ∧
    ((1 : BitVec 8).toNat ≤ 1 ∧ (1 : BitVec 8).toNat ≠ getF (wDev .ready).eth.cfg 35 1) ∧
    (let b : StagePiece := ⟨0, 0, 0, 0, 1024, List.replicate 100 0⟩
     b.zeros = 0 ∧ b.data.length ≤ 8192 ∧ 1 ≤ b.total.toNat ∧ b.total.toNat ≤ 462 + 562 ∧ b.offset.toNat + b.data.length ≤ b.total.toNat ∧ b.slot = 0 ∧ b.arm = 0 ∧
     (wDev .ready).wdn.armedKind 0 = false ∧ (wDev .ready).wdn.staging = [] ∧ b.data.length ≠ b.total.toNat) ∧
    (let b : StagePiece := ⟨0, 0, 0, 100, 1024, List.replicate 924 0⟩
     let w : Wdn := { staging := [wStaging 0 (List.replicate 100 0) false] }
     b.offset ≠ 0 ∧ b.offset.toNat = (((w.stage 0 0).map (·.data)).getD []).length ∧ (w.stage 0 0).map (·.total) = some b.total ∧
     ({ b with total := 2048 } : StagePiece).total ≠ 1024 ∧ b.offset.toNat + b.data.length = b.total.toNat) ∧
    (∀ kind : Fin 3, ([wStaging kind [] true].find? fun x => x.kind == kind && x.verifying) = some (wStaging kind [] true)) ∧
    imagePasses [] 0 = false ∧ profileOk [] = false ∧ ({} : Wdn).keySetOk [] = false ∧ ({} : Wdn).keySetOk (List.replicate 462 0) = true ∧
    (let s : State := { wDev .ready with chr := { clearing := some (some (wSig 5 0), 3) } }
     s.chr.clearing = some (some (wSig 5 0), 3) ∧ ({ s with chr := { clearing := some (none, 3) } } : State).chr.clearing = some (none, 3)) ∧
    (let s : State := { wDev .quiesced with chm := wChm }
     let w : Wdn := { profiles := (Vector.replicate 4 none).set 1 (some [1]), profSwitch := [(1, wSig 0 8)], fwSwitchAt := [wSig 0 0], staged := true }
     s.chm.running = true ∧ s.dev.st = .quiesced ∧ s.chm.qGo = none ∧ s.chm.resumeAt = none ∧ s.eth.linkUp = true ∧ getF s.eth.cfg 33 1 = 0 ∧
     w.profSwitch = [(1, wSig 0 8)] ∧ w.profiles[(1 : Fin 4)] = some [1] ∧ w.fwSwitchAt = [wSig 0 0] ∧ w.staged = true) ∧
    (let r : Record := { chime := 0, tb := 0, boots := 0, event := .keySet }
     ({ queue := [r] } : Chr).queue = [r] ∧ ({ queue := [r] } : Chr).clearing = none) := by decide

theorem witness_PowerPinsAndBoot :
    (let p : Pwr := {}
     (let used := if p.onB then vinOk 12000 else vinOk 10000
      let other := if p.onB then vinOk 10000 else vinOk 12000
      used = false ∧ other = true) ∧
     ({ p with pref := true } : Pwr).pref ≠ p.onB ∧ 10800 ≤ 12000 ∧ p.pref = p.onB ∧ p.overArmed = true ∧ ({ p with overArmed := false } : Pwr).overArmed = false) ∧
    (let s : State := { wDev .ready with wdn := { prof := { deepest := 2 } } }
     s.dev.st ≠ .off ∧ s.pwr.thstep.toNat < s.wdn.prof.deepest.toNat ∧ s.coreOn = true ∧ s.wdn.closed = false ∧ s.chr.queue.length < 1023 ∧ s.dev.porstLow = false) ∧
    (let s : State := { wDev .ready with wdn := { closed := true } }
     s.wdn.closed = true ∧ s.wdn.protJtag = false ∧ s.dev.st ≠ .wardenUp ∧ s.dev.st ≠ .coreUp ∧ s.chr.queue.length < 1024) ∧
    (let x : TapIn := ⟨.extest, true, [true, false], [false, false]⟩
     x.trstN = true ∧ x.tdi.length = x.cells.length ∧ x.tdi.length ≠ 0 ∧ ({ x with tdi := List.replicate 32 true } : TapIn).tdi.length = 32 ∧
     ({ x with trstN := false } : TapIn).trstN = false) ∧
    (∀ ph ∈ [(1 : BitVec 3), 4], (let s : State := { wDev .wardenUp with wdn := { phase := ph } }
      s.booting = true ∧ s.wdn.nofw = false ∧ s.wdn.phase = ph ∧ imagePasses (s.wdn.banks[bankIx s.wdn.bank]).bytes s.wdn.svnMin.toNat = false)) ∧
    (∀ ph ∈ [(5 : BitVec 3), 6, 7], (let s : State := { wDev .wardenUp with wdn := { phase := ph } }
      s.booting = true ∧ s.wdn.phase = ph ∧ s.dev.thermtrip = false ∧ s.dev.stagedWrites = [])) ∧
    (⟨true, []⟩ : CombSelftest).refclkGood = true ∧ (⟨true, [⟨3, [], true⟩]⟩ : CombSelftest).findings = [⟨(3 : CombId).castLE (by decide), [], true⟩] := by decide

/-- Where a bank holds an image that passes (its signature is under a key that no file gives), the clauses on images that pass are met. -/
theorem witness_image_passes (bs : List Byte) (h : imagePasses bs 0 = true) :
    (let s : State := { wDev .wardenUp with wdn := { phase := 4, banks := Vector.replicate 2 { bytes := bs } } }
     s.booting = true ∧ s.wdn.nofw = false ∧ s.wdn.phase = 4 ∧ (s.wdn.banks[bankIx s.wdn.bank]).failed = false ∧
      imagePasses (s.wdn.banks[bankIx s.wdn.bank]).bytes s.wdn.svnMin.toNat = true) ∧
    ([wStaging 0 bs true].find? fun x => x.kind == 0 && x.verifying) = some (wStaging 0 bs true) := by
  exact ⟨⟨rfl, rfl, rfl, rfl, h⟩, rfl⟩

/-! ### More results -/

/-- SHAKE256 of the empty message begins 46 b9 dd 2b (FIPS 202). -/
theorem test_shake256 : (shake256 [] 48).take 4 = [0x46, 0xB9, 0xDD, 0x2B] := by decide +kernel

/-- A store is read back and leaves its neighbour alone. -/
theorem test_store : let s := (wSeq wQ).store 0x40 [1, 2, 3] false
    (s.byte 0x41, s.byte 0x43, s.mem.wf) = (2, 0, true) := by decide

/-- dst then dld brings a descriptor back (R189). -/
theorem test_descriptor : Desc.ofBytes (wT 10 7 64).toBytes = wT 10 7 64 := by decide

/-- 2^63 − 1 plus 1 in LF64 is an overflow to +∞ (R52). -/
theorem test_lf64_add : lf64Add 0x7FFFFFFFFFFFFFFE 1 = (0x7FFFFFFFFFFFFFFF, true) ∧ lf64Add 5 (2 ^ 64 - 7) = (2 ^ 64 - 2, false) := by decide

/-- A fault of a running comb is recorded with its address, and a second one is only counted (R149). -/
theorem test_fault : let s := ((wSeq wQ).fault 0 3 8 0).fault 0 9 16 0
    (getF (s.comb 0).seq.fault 0 8, getF (s.comb 0).seq.fault 8 18, getF (s.comb 0).seq.fault 48 16) = (3, 8, 2) := by decide

/-- STATUS answers with the chip's id, the base and the chime number (R360). -/
theorem test_status : (wAfter (exec (.status (wHdr 0)) (wDev .ready))).eth.replies =
    [⟨9, 1, 70, .ok, .ready, .status 0 0 0xFFFFFFFFFFFFFFFF⟩] := by decide

end Sys2Proof.Machine
end

section
/-!
O46: the access codes of control registers (R8 to R10, R37, R353, R394). Fields of a word, what a read of a register returns after a word is
put back, what a write under the access code alone changes, and the three commands W1C_CLEAR, AGAIN_RESET and REGISTER_WRITE.
-/
namespace Sys2Proof.Machine

/-! ### Fields of a word -/

section Fields
variable {w : Nat}

theorem getF_lt (r : BitVec w) (lo n : Nat) : getF r lo n < 2 ^ n := Nat.mod_lt _ (Nat.two_pow_pos n)

theorem testBit_getF (r : BitVec w) (lo n i : Nat) : (getF r lo n).testBit i = (decide (i < n) && r.getLsbD (lo + i)) := by
  simp [getF, Nat.testBit_mod_two_pow, Nat.testBit_div_two_pow, BitVec.getLsbD, Nat.add_comm]

/-- A field depends on its own bits alone. -/
theorem getF_congr {r r' : BitVec w} {lo n : Nat} (h : ∀ i, lo ≤ i → i < lo + n → r.getLsbD i = r'.getLsbD i) :
    getF r lo n = getF r' lo n := by
  refine Nat.eq_of_testBit_eq fun i => ?_
  rw [testBit_getF, testBit_getF]
  by_cases hi : i < n
  · rw [h (lo + i) (by omega) (by omega)]
  · simp [hi]

theorem getLsbD_setF (r : BitVec w) (lo n v i : Nat) (hi : i < w) :
    (setF r lo n v).getLsbD i = if lo ≤ i ∧ i < lo + n then v.testBit (i - lo) else r.getLsbD i := by
  simp only [setF, BitVec.getLsbD_or, BitVec.getLsbD_and, BitVec.getLsbD_not, BitVec.getLsbD_ofNat, Nat.testBit_mul_two_pow,
    Nat.testBit_two_pow_sub_one, Nat.testBit_mod_two_pow, hi, decide_true, Bool.true_and]
  by_cases hl : lo ≤ i
  · have hn : i - lo < n ↔ i < lo + n := by omega
    by_cases hu : i < lo + n <;> simp [hl, hn, hu]
  · simp [hl]

theorem getF_setF_same (r : BitVec w) {lo n : Nat} (v : Nat) (h : lo + n ≤ w) : getF (setF r lo n v) lo n = v % 2 ^ n := by
  refine Nat.eq_of_testBit_eq fun i => ?_
  rw [testBit_getF, Nat.testBit_mod_two_pow]
  by_cases hi : i < n
  · simp [getLsbD_setF r lo n v (lo + i) (by omega), hi]
  · simp [hi]

theorem getF_setF_of_disjoint (r : BitVec w) {lo n lo' n' : Nat} (v : Nat) (hw : lo' + n' ≤ w) (h : lo' + n' ≤ lo ∨ lo + n ≤ lo') :
    getF (setF r lo n v) lo' n' = getF r lo' n' :=
  getF_congr fun i hl hu => by rw [getLsbD_setF r lo n v i (by omega), if_neg (by omega)]

/-- A saturating count holds the sum, or its highest value. -/
theorem getF_satF (r : BitVec w) {lo n : Nat} (k : Nat) (h : lo + n ≤ w) :
    getF (satF r lo n k) lo n = min (getF r lo n + k) (2 ^ n - 1) := by
  have := Nat.two_pow_pos n
  rw [satF, getF_setF_same r _ h, Nat.mod_eq_of_lt (by omega)]

end Fields

/-! ### What a read returns after a word is put back -/

/-- Registers whose word stands in the state as one field of 64 bits. -/
def regWhole : Reg → Bool
  | .cmbEcc _ | .cmbSweep _ | .cmbAgain _ | .matFault _ | .matAgain _ | .extSeed _ | .extCtrl _ | .vecStatus _ | .vecAgain _ | .seqExc _
  | .seqAgain _ | .crrStatus _ | .crrAgain _ | .sqrEcc _ | .sqrSweep _ | .sqrAgain _ | .lnkErr _ | .lnkAgain _ | .rteAgain | .colAgain
  | .chmAgain | .sealAgain | .stpAgain | .memErr _ | .memSweep _ | .memAgain _ | .ethAgain | .wdnAgain | .pwrAgain => true
  | _ => false

theorem readReg_putReg_same {r : Reg} (h : regWhole r = true) (s : State) (w : W64) : (s.putReg r w).readReg r = w := by
  unfold regWhole at h
  split at h
  case h_30 => cases h
  all_goals
    unfold State.putReg
    simp [State.readReg, State.modMat, State.modExt, State.modSeq, State.modSquare, State.modLink, State.modMc]

theorem regWhole_of_regIsAgain {r : Reg} (h : regIsAgain r = true) : regWhole r = true := by
  unfold regIsAgain at h
  split at h
  case h_17 => cases h
  all_goals rfl

section Again
variable {r a : Reg} (h : againOf r = some a)
include h

theorem regIsAgain_of_againOf : regIsAgain a = true := by
  unfold againOf at h
  split at h <;> cases h <;> rfl

theorem regIsAgain_eq_false_of_againOf : regIsAgain r = false := by
  unfold againOf at h
  split at h <;> cases h <;> rfl

/-- The registers whose block counts in an AGAIN counter have no RW bit. -/
theorem regMasks_fst_of_againOf : (regMasks r).1 = 0 := by
  unfold againOf at h
  split at h <;> cases h <;> rfl

/-- A register and its block's AGAIN counter are stored apart. -/
theorem readReg_again_putReg (s : State) (w : W64) : (s.putReg r w).readReg a = s.readReg a := by
  unfold againOf at h
  split at h <;> cases h <;> unfold State.putReg <;>
    simp [State.readReg, State.modMat, State.modSeq, State.modSquare, State.modLink, State.modMc]

theorem readReg_putReg_again (s : State) (w : W64) : (s.putReg a w).readReg r = s.readReg r := by
  unfold againOf at h
  split at h <;> cases h <;> unfold State.putReg <;>
    simp [State.readReg, State.modMat, State.modSeq, State.modSquare, State.modLink, State.modMc] <;> rfl

end Again

/-! ### Writes under the access code alone -/

/-- An AGAIN counter is zeroed whatever is written (R9). -/
theorem writeReg_again {r : Reg} (h : regIsAgain r = true) (s : State) (v : W64) : s.writeReg r v = s.putReg r 0 := by
  simp [State.writeReg, h]

theorem sweepNote_of_not_sweep {r : Reg} (h : ∀ u, r ≠ sweepReg u) (s : State) (old new : W64) : s.sweepNote r old new = s := by
  unfold State.sweepNote
  split
  · split
    · exact absurd rfl (h (.comb _))
    · exact absurd rfl (h (.square _))
    · exact absurd rfl (h (.hbm _))
    · rfl
  · rfl

/-- Of the registers under the access code alone, only SEAL_STATUS and WDN_PROT do more than take the merged word. -/
theorem writeReg_eq {r : Reg} (hA : regIsAgain r = false) (hs : r ≠ .sealStatus) (hp : r ≠ .wdnProt) (s : State) (v : W64) :
    s.writeReg r v =
      (s.putReg r (regMerge r (s.readReg r) v)).sweepNote r (s.readReg r) (regMerge r (s.readReg r) v) := by
  simp only [State.writeReg, hA, Bool.false_eq_true, if_false]

/-- R8, R394: a write of WDN_PROT changes nothing, and is recorded once boot has closed the protection setup. -/
theorem writeReg_wdnProt (s : State) (v : W64) : s.writeReg .wdnProt v = if s.wdn.closed then s.record .rwlWrite else s := rfl

/-- A register without RW bits loses the W1C bits that are written 1 (R8). -/
theorem regMerge_of_no_rw {r : Reg} (h : (regMasks r).1 = 0) (old v : W64) : regMerge r old v = old &&& ~~~(v &&& (regMasks r).2) := by
  unfold regMerge
  split
  case h_10 =>
    have keep : (old &&& ~~~0#64) ||| (v &&& 0#64) = old := by
      rw [BitVec.not_zero, BitVec.and_allOnes, BitVec.and_zero, BitVec.or_zero]
    simp only [h]
    exact congrArg (· &&& ~~~(v &&& (regMasks r).2)) keep
  all_goals
    unfold regMasks at h
    simp at h

/-- Where a write of `r` reaches no bit and `r` is no AGAIN counter, nothing is put back. -/
theorem putReg_of_no_masks {r : Reg} (h : regMasks r = (0, 0)) (hA : regIsAgain r = false) (s : State) (w : W64) : s.putReg r w = s := by
  cases r
  any_goals rfl -- read-only: no arm of `putReg`
  any_goals exact absurd (hA : true = false) Bool.noConfusion
  all_goals
    unfold regMasks at h
    simp at h

/-! ### The three commands -/

theorem exec_w1cClear (r : Reg) (v now : W64) (s : State) : exec (.w1cClear r v now) s = execW1cClear r v now s := rfl
theorem exec_againReset (r : Reg) (s : State) : exec (.againReset r) s = execAgainReset r s := rfl
theorem exec_registerWrite (r : Reg) (v : W64) (s : State) : exec (.registerWrite r v) s = execRegisterWrite r v s := rfl

/-- A write that the register's own rule refuses has no effect. -/
theorem exec_registerWrite_refused {r : Reg} {v : W64} {s : State} (h : s.writeRule r v ≠ .ok) :
    exec (.registerWrite r v) s = .next s := by
  rw [exec_registerWrite, execRegisterWrite, if_neg h]

theorem exec_registerWrite_ok {r : Reg} {v : W64} {s : State} (h : s.writeRule r v = .ok) :
    exec (.registerWrite r v) s = .next (s.orderWrite r v) := by
  rw [exec_registerWrite, execRegisterWrite, if_pos h]

/-- A write that leaves the state as it is, has no effect whether or not it is refused. -/
theorem exec_registerWrite_noop {r : Reg} {v : W64} {s : State} (h : s.orderWrite r v = s) :
    exec (.registerWrite r v) s = .next s := by
  rw [exec_registerWrite, execRegisterWrite, h, ite_self]

/-! ### W1C bits and the AGAIN counters (R9) -/

/-- The bits after W1C_CLEAR: those written 1 are cleared, and those of them that hardware sets in the same cycle are set. -/
theorem w1c_bits (old v now m : W64) :
    (old &&& ~~~((v &&& m &&& ~~~(v &&& now &&& m)) &&& m)) ||| (v &&& now &&& m) = (old &&& ~~~(v &&& m)) ||| (v &&& now &&& m) := by
  ext i hi
  simp only [BitVec.getElem_or, BitVec.getElem_and, BitVec.getElem_not]
  cases v[i] <;> cases now[i] <;> cases m[i] <;> simp

/-- A write that the register's own rule refuses clears nothing (R353). -/
theorem exec_w1cClear_refused {r : Reg} {v : W64} {s : State} (now : W64) (h : s.writeRule r v ≠ .ok) :
    exec (.w1cClear r v now) s = .next s := by
  cases ha : againOf r with
  | none => simp only [exec_w1cClear, execW1cClear, ha]
  | some a => simp only [exec_w1cClear, execW1cClear, ha, if_pos h]

section W1c
variable {r a : Reg} (ha : againOf r = some a)
include ha

/-- A write of a register that has an AGAIN counter and is not SEAL_STATUS clears the W1C bits written 1, and does no more. -/
theorem writeReg_w1c (hs : r ≠ .sealStatus) (s : State) (x : W64) :
    s.writeReg r x = s.putReg r (s.readReg r &&& ~~~(x &&& (regMasks r).2)) := by
  have hp : r ≠ .wdnProt := by rintro rfl; cases ha
  have hu : ∀ u, r ≠ sweepReg u := by rintro (_ | _ | _) rfl <;> cases ha
  rw [writeReg_eq (regIsAgain_eq_false_of_againOf ha) hs hp, sweepNote_of_not_sweep hu,
    regMerge_of_no_rw (regMasks_fst_of_againOf ha)]

/-- Such a register has no RW bits for W1C_CLEAR to write as they stand. -/
theorem writeReg_w1c_keeping_rw (hs : r ≠ .sealStatus) (s : State) (x : W64) :
    s.writeReg r (x ||| (s.readReg r &&& (regMasks r).1)) = s.putReg r (s.readReg r &&& ~~~(x &&& (regMasks r).2)) := by
  have hx : x ||| (s.readReg r &&& 0#64) = x := by rw [BitVec.and_zero, BitVec.or_zero]
  rw [regMasks_fst_of_againOf ha]
  exact (congrArg (s.writeReg r) hx).trans (writeReg_w1c ha hs s x)

/-- R9: W1C bits written 1 are cleared but for those set in the same cycle, and the block's AGAIN counter counts these. -/
theorem exec_w1cClear_ok (hw : regWhole r = true) (hs : r ≠ .sealStatus) {s : State} {v : W64} (now : W64) (h : s.writeRule r v = .ok) :
    ∃ t, exec (.w1cClear r v now) s = .next t ∧
      t.readReg r = (s.readReg r &&& ~~~(v &&& (regMasks r).2)) ||| (v &&& now &&& (regMasks r).2) ∧
      getF (t.readReg a) 0 32 =
        min (getF (s.readReg a) 0 32 + popCount 64 (v &&& now &&& (regMasks r).2).toNat) (2 ^ 32 - 1) := by
  have ht := exec_w1cClear r v now s
  simp only [execW1cClear, ha, h, ne_eq, not_true_eq_false, if_false, writeReg_w1c_keeping_rw ha hs] at ht
  rw [← w1c_bits]
  generalize v &&& now &&& (regMasks r).2 = hit at ht ⊢
  generalize s.readReg r &&& _ = cleared at ht ⊢
  by_cases h0 : hit = 0
  · rw [if_pos h0] at ht
    refine ⟨_, ht, ?_, ?_⟩
    · rw [readReg_putReg_same hw, h0]
      exact BitVec.or_zero.symm
    · have := getF_lt (s.readReg a) 0 32
      have hpop : popCount 64 hit.toNat = 0 := by rw [h0]; rfl
      rw [readReg_again_putReg ha, hpop]
      omega
  · rw [if_neg h0] at ht
    have hAgain := regWhole_of_regIsAgain (regIsAgain_of_againOf ha)
    refine ⟨_, ht, ?_, ?_⟩
    · rw [readReg_putReg_again ha, readReg_putReg_same hw, readReg_putReg_same hw]
    · rw [readReg_putReg_same hAgain, getF_satF _ _ (by decide), readReg_again_putReg ha, readReg_again_putReg ha]

end W1c

/-- R353: a write of MEM_ERR is refused with STATE in WARDEN-UP, MUSTER, FENCED and RESETTING. -/
theorem writeRule_memErr_state {s : State} (h : s.dev.st ∈ [DevState.wardenUp, .muster, .fenced, .resetting]) (m : McId) (v : W64) :
    s.writeRule (.memErr m) v = .state := by
  have hr : s.writeRule (.memErr m) v =
      stateIf !(s.dev.st == .wardenUp || s.dev.st == .muster || s.dev.st == .fenced || s.dev.st == .resetting) := rfl
  simp only [List.mem_cons, List.not_mem_nil, or_false] at h
  rcases h with h | h | h | h <;> rw [hr, h] <;> rfl

theorem exec_againReset_ok {r : Reg} {s : State} (hA : regIsAgain r = true) (h : s.writeRule r 0 = .ok) :
    exec (.againReset r) s = .next (s.putReg r 0) := by
  simp only [exec_againReset, execAgainReset, hA, h, Bool.true_and, BEq.rfl, if_true, writeReg_again hA]

theorem exec_againReset_refused {r : Reg} {s : State} (h : s.writeRule r 0 ≠ .ok) : exec (.againReset r) s = .next s := by
  simp only [exec_againReset, execAgainReset, beq_eq_false_iff_ne.mpr h, Bool.and_false, Bool.false_eq_true, if_false]

theorem exec_againReset_other {r : Reg} (hA : regIsAgain r = false) (s : State) : exec (.againReset r) s = .next s := by
  simp [exec_againReset, execAgainReset, hA]

/-! ### Registers without writable bits, and WDN_PROT -/

/-- Registers of which a write by order does more or less than the access code says. -/
def regActs : Reg → Bool
  | .rteEpoch | .rteFence _ | .colCfg | .colSpill | .chmPending | .chmRoot | .stpStep | .memStrength _ | .lnkCtrl _ | .ethNotify => true
  | _ => false

theorem orderWrite_of_not_acts {r : Reg} (h : regActs r = false) (s : State) (v : W64) : s.orderWrite r v = s.writeReg r v := by
  cases r
  case rteEpoch | rteFence | colCfg | colSpill | chmPending | chmRoot | stpStep | memStrength | lnkCtrl | ethNotify => cases h
  all_goals rfl

theorem regActs_of_no_masks {r : Reg} (h : regMasks r = (0, 0)) (he : r ≠ .rteEpoch) : regActs r = false := by
  cases r
  case rteEpoch => exact absurd rfl he
  case rteFence | colCfg | colSpill | chmPending | chmRoot | stpStep | memStrength | lnkCtrl | ethNotify => cases h
  all_goals rfl

theorem orderWrite_of_no_masks {r : Reg} (h : regMasks r = (0, 0)) (hA : regIsAgain r = false) (he : r ≠ .rteEpoch) (s : State) (v : W64) :
    s.orderWrite r v = s := by
  have hs : r ≠ .sealStatus := by rintro rfl; cases h
  have hp : r ≠ .wdnProt := by rintro rfl; cases h
  have hu : ∀ u, r ≠ sweepReg u := by rintro (_ | _ | _) rfl <;> cases h
  rw [orderWrite_of_not_acts (regActs_of_no_masks h he), writeReg_eq hA hs hp, sweepNote_of_not_sweep hu, putReg_of_no_masks h hA]

theorem orderWrite_rteEpoch_noop {v : W64} (h : getF v 8 1 = 0) (s : State) : s.orderWrite .rteEpoch v = s :=
  if_neg (by rw [h]; decide)

theorem exec_registerWrite_wdnProt (s : State) (v : W64) :
    exec (.registerWrite .wdnProt v) s = .next (if s.wdn.closed then s.record .rwlWrite else s) :=
  (exec_registerWrite_ok rfl).trans (congrArg _ (writeReg_wdnProt s v))

/-! ### The sweepers of the combs (R37) and EXT_CTRL -/

@[simp] theorem State.record_comb (s : State) (ev : Event) (c : CombId) : (s.record ev).comb c = s.comb c := by
  unfold State.record
  split <;> rfl

/-- An event enters a queue that has room behind those that wait (R399). -/
theorem State.record_events {s : State} (h : s.chr.queue.length < 1024) (ev : Event) :
    (s.record ev).chr.queue.map (·.event) = s.chr.queue.map (·.event) ++ [ev] := by
  simp [State.record, h]

theorem sweepNote_cmbSweep (s : State) (c : CombId) (old new : W64) :
    s.sweepNote (.cmbSweep c) old new =
      if getF old 32 1 = 1 ∧ getF new 32 1 = 0 then s.record (.sweepOff (.comb c)) else s := rfl

@[simp] theorem State.sweepNote_cmbSweep_comb (s : State) (c k : CombId) (old new : W64) :
    (s.sweepNote (.cmbSweep c) old new).comb k = s.comb k := by
  rw [sweepNote_cmbSweep]
  split <;> simp

theorem readReg_cmbSweep (s : State) (c : CombId) : s.readReg (.cmbSweep c) = (s.comb c).sweep := rfl

/-- A field that RW bits cover is taken from the word written. -/
theorem getF_merged {w : Nat} {m : BitVec w} {lo n : Nat} (hm : ∀ i, lo ≤ i → i < lo + n → m.getLsbD i = true) (old v : BitVec w) :
    getF ((old &&& ~~~m) ||| (v &&& m)) lo n = getF v lo n :=
  getF_congr fun i hl hu => by simp [hm i hl hu]

/-- Without W1C bits a write clears none. -/
theorem clear_none (v x : W64) : x &&& ~~~(v &&& 0#64) = x := by
  rw [BitVec.and_zero, BitVec.not_zero, BitVec.and_allOnes]

/-- The bits of CMB_SWEEP that a write reaches: PERIOD_S and EN (R37). -/
def sweepBits : W64 := 0x10000FFFF

theorem getLsbD_sweepBits {i : Nat} (h : i < 16 ∨ i = 32) : sweepBits.getLsbD i = true := by
  rcases h with h | rfl
  · exact (by decide : ∀ j < 16, sweepBits.getLsbD j = true) i h
  · rfl

/-- CMB_SWEEP after a write of `v` over `old`: the period is taken at the nearer of its bounds (R37). -/
theorem regMerge_cmbSweep (c : CombId) (old v : W64) :
    regMerge (.cmbSweep c) old v =
      setF ((old &&& ~~~sweepBits) ||| (v &&& sweepBits)) 0 16 (clamp 600 60000 (getF v 0 16)) := by
  have hp := getF_merged (m := sweepBits) (lo := 0) (n := 16) (fun i _ hu => getLsbD_sweepBits (.inl (by omega))) old v
  rw [← hp]
  exact congrArg (fun x : W64 => setF x 0 16 (clamp 600 60000 (getF x 0 16))) (clear_none v ((old &&& ~~~sweepBits) ||| (v &&& sweepBits)))

theorem getF_regMerge_cmbSweep_period (c : CombId) (old v : W64) :
    getF (regMerge (.cmbSweep c) old v) 0 16 = max 600 (min 60000 (getF v 0 16)) := by
  rw [regMerge_cmbSweep, getF_setF_same _ _ (by decide), clamp]
  exact Nat.mod_eq_of_lt (by omega)

theorem getF_regMerge_cmbSweep_enable (c : CombId) (old v : W64) : getF (regMerge (.cmbSweep c) old v) 32 1 = getF v 32 1 := by
  rw [regMerge_cmbSweep, getF_setF_of_disjoint _ _ (by decide) (by decide)]
  exact getF_merged (fun i hl hu => getLsbD_sweepBits (.inr (by omega))) old v

/-- R37: a write of CMB_SWEEP takes PERIOD_S at its bounds and EN as written, and records a sweeper switched off. -/
theorem exec_registerWrite_cmbSweep (c : CombId) (v : W64) (s : State) :
    ∃ t, exec (.registerWrite (.cmbSweep c) v) s = .next t ∧
      getF (t.readReg (.cmbSweep c)) 0 16 = max 600 (min 60000 (getF v 0 16)) ∧
      getF (t.readReg (.cmbSweep c)) 32 1 = getF v 32 1 ∧
      (s.chr.queue.length < 1024 → t.chr.queue.map (·.event) = s.chr.queue.map (·.event) ++
        if getF (s.readReg (.cmbSweep c)) 32 1 = 1 ∧ getF v 32 1 = 0 then [Event.sweepOff (.comb c)] else []) := by
  let old := s.readReg (.cmbSweep c)
  let new := regMerge (.cmbSweep c) old v
  have hread : ((s.putReg (.cmbSweep c) new).sweepNote (.cmbSweep c) old new).readReg (.cmbSweep c) = new := by
    rw [readReg_cmbSweep, State.sweepNote_cmbSweep_comb, ← readReg_cmbSweep, readReg_putReg_same rfl]
  refine ⟨_, exec_registerWrite_ok rfl, ?_, ?_, fun hroom => ?_⟩
  · exact (congrArg (getF · 0 16) hread).trans (getF_regMerge_cmbSweep_period c old v)
  · exact (congrArg (getF · 32 1) hread).trans (getF_regMerge_cmbSweep_enable c old v)
  · change ((s.putReg (.cmbSweep c) new).sweepNote (.cmbSweep c) old new).chr.queue.map (·.event) = _
    rw [sweepNote_cmbSweep, getF_regMerge_cmbSweep_enable]
    split
    · exact State.record_events (s := s.putReg (.cmbSweep c) new) hroom _
    · exact (List.append_nil _).symm

/-- EXT_CTRL takes the bits that a write reaches from the word written (R8). -/
theorem exec_registerWrite_extCtrl (c : CombId) (v : W64) (s : State) :
    ∃ t, exec (.registerWrite (.extCtrl c) v) s = .next t ∧
      t.readReg (.extCtrl c) = (s.readReg (.extCtrl c) &&& ~~~(0xFFFFFFFFFFFF : W64)) ||| (v &&& 0xFFFFFFFFFFFF) := by
  have hu : ∀ u, Reg.extCtrl c ≠ sweepReg u := by rintro (_ | _ | _) <;> exact Reg.noConfusion
  refine ⟨_, exec_registerWrite_ok rfl, ?_⟩
  rw [orderWrite_of_not_acts rfl, writeReg_eq rfl Reg.noConfusion Reg.noConfusion, sweepNote_of_not_sweep hu, readReg_putReg_same rfl]
  exact clear_none v _

/-! ### O46 -/

/-- The W1C registers of O46 each have an AGAIN counter in their block and stand whole in the state. -/
theorem againOf_of_w1c {r : Reg}
    (h : (∃ n, r = .cmbEcc n ∨ r = .matFault n ∨ r = .vecStatus n ∨ r = .seqExc n ∨ r = .crrStatus n) ∨ (∃ q, r = .sqrEcc q) ∨
      (∃ l, r = .lnkErr l) ∨ (∃ m, r = .memErr m)) :
    (∃ a, againOf r = some a) ∧ regWhole r = true ∧ r ≠ .sealStatus := by
  rcases h with ⟨_, rfl | rfl | rfl | rfl | rfl⟩ | ⟨_, rfl⟩ | ⟨_, rfl⟩ | ⟨_, rfl⟩ <;> exact ⟨⟨_, rfl⟩, rfl, nofun⟩

/-- Settles O46: each clause is the rule of its command for the class of registers that it names. -/
theorem registerAccessCodes : Obligations.RegisterAccessCodes := by
  intro s r v now
  refine ⟨fun hr hok => ?_, exec_w1cClear_refused now, ?_, fun hA hok => ?_, fun _ => exec_againReset_refused,
    fun hA => exec_againReset_other hA s, fun hm hA he _ => exec_registerWrite_noop (orderWrite_of_no_masks hm hA he s v), ?_,
    exec_registerWrite_refused, ?_, ?_, ?_⟩
  · obtain ⟨⟨a, ha⟩, hw, hs⟩ := againOf_of_w1c hr
    obtain ⟨t, ht, hclear, hcount⟩ := exec_w1cClear_ok ha hw hs now hok
    exact ⟨t, a, ha, ht, hclear, hcount⟩
  · rintro m rfl hst
    exact writeRule_memErr_state hst m v
  · exact ⟨_, exec_againReset_ok hA hok, readReg_putReg_same (regWhole_of_regIsAgain hA) s 0⟩
  · rintro rfl hv
    exact exec_registerWrite_noop (orderWrite_rteEpoch_noop hv s)
  · rintro rfl
    exact exec_registerWrite_wdnProt s v
  · rintro c rfl
    exact exec_registerWrite_cmbSweep c v s
  · rintro c rfl
    exact exec_registerWrite_extCtrl c v s

end Sys2Proof.Machine
end

section
/-!
SUPPORT for O30 and O47. What operations leave alone of the device state, the links, the router and the fabric. Memory, chronicle and port
leave all of it (`State.net`); sending drops leaves what a fence is about (`Net.peers`). Where an equation holds by unfolding, its proof is
`(rfl)` with brackets: simp then rewrites with it, and the kernel does not unfold whole states to check the step again.
-/
namespace Sys2Proof.Machine

/-- Device state, links, router and fabric. -/
structure Net where
  st : DevState
  links : Vector Link 24
  rte : Rte
  fab : Fab

def State.net (s : State) : Net := ⟨s.dev.st, s.links, s.rte, s.fab⟩

/-- Device state and what a fence is about: links with their queues, fence map, source entries, open receptions (R251). -/
structure Peers where
  st : DevState
  links : Vector Link 24
  fence : List (Nat × W64)
  srcs : List SrcEntry
  rx : List RxCons

def Net.peers (n : Net) : Peers := ⟨n.st, n.links, n.rte.fence, n.fab.srcs, n.fab.rx⟩

/-! ### Updates of a state -/

@[simp] theorem State.net_mk (pending : List Instr) (dev : Dev) (combs : Vector Comb 64) (squares : Vector Square 16) (mem : Mem)
    (mcs : Vector Mc 24) (links : Vector Link 24) (lnkCfg lnkUse : W64) (rte : Rte) (fab : Fab) (col : Col) (chm : Chm) (seals : Seals)
    (stp : Stp) (eth : Eth) (wdn : Wdn) (chr : Chr) (pwr : Pwr) (free : Nat) :
    (State.mk pending dev combs squares mem mcs links lnkCfg lnkUse rte fab col chm seals stp eth wdn chr pwr free).net =
      ⟨dev.st, links, rte, fab⟩ := rfl

@[simp] theorem State.net_eta (s : State) : Net.mk s.dev.st s.links s.rte s.fab = s.net := rfl

variable (s : State)

@[simp] theorem State.modComb_net (c : CombId) (f : Comb → Comb) : (s.modComb c f).net = s.net := (rfl)
@[simp] theorem State.modSeq_net (c : CombId) (f : Seq → Seq) : (s.modSeq c f).net = s.net := (rfl)
@[simp] theorem State.modSquare_net (q : SqId) (f : Square → Square) : (s.modSquare q f).net = s.net := (rfl)
@[simp] theorem State.modMc_net (m : McId) (f : Mc → Mc) : (s.modMc m f).net = s.net := (rfl)
@[simp] theorem State.modMem_net (f : Mem → Mem) : (s.modMem f).net = s.net := (rfl)
@[simp] theorem State.draw_net : s.draw.2.net = s.net := (rfl)

/-- A fold keeps what each of its steps keeps. -/
theorem foldl_keeps {α β γ : Type} (view : α → γ) (f : α → β → α) (hf : ∀ t x, view (f t x) = view t) (l : List β) (a : α) :
    view (l.foldl f a) = view a := by
  induction l generalizing a with
  | nil => rfl
  | cons x t ih => exact (ih (f a x)).trans (hf a x)

@[simp] theorem foldl_net {β : Type} (f : State → β → State) (l : List β) (hf : ∀ t x, (f t x).net = t.net) :
    (l.foldl f s).net = s.net :=
  foldl_keeps State.net f hf l s

@[simp] theorem foldl_snd_net {α β : Type} (f : α × State → β → α × State) (l : List β) (x : α × State)
    (hf : ∀ t y, (f t y).2.net = t.2.net) : (l.foldl f x).2.net = x.2.net :=
  foldl_keeps (·.2.net) f hf l x

@[simp] theorem foldl_peers {β : Type} (f : State → β → State) (l : List β) (hf : ∀ t x, (f t x).net.peers = t.net.peers) :
    (l.foldl f s).net.peers = s.net.peers :=
  foldl_keeps (·.net.peers) f hf l s

/-! ### Chronicle, notices and replies -/

@[simp] theorem State.record_net (ev : Event) : (s.record ev).net = s.net := by
  unfold State.record
  split <;> rfl

@[simp] theorem State.frameOut_net : s.frameOut.2.net = s.net := by
  simp only [State.frameOut]
  repeat' split
  all_goals simp

@[simp] theorem State.notice_net (b : NoticeBody) : (s.notice b).net = s.net := by
  simp only [State.notice]
  repeat' split
  all_goals simp

@[simp] theorem State.sendReply_net (r : Reply) : (s.sendReply r).net = s.net := by
  simp only [State.sendReply]
  split <;> simp

@[simp] theorem State.reply_net (h : OrderHdr) (code : BitVec 8) (res : Result) (b : ReplyBody) : (s.reply h code res b).net = s.net := by
  simp [State.reply]

@[simp] theorem State.bulkFinal_net (b : Bulk) (res : Result) (n : Nat) : (s.bulkFinal b res n).net = s.net := by
  simp [State.bulkFinal, State.replyBare]

/-! ### Memory -/

@[simp] theorem State.endRetrain_net (m : McId) (b : Bool) : (s.endRetrain m b).net = s.net := (rfl)

@[simp] theorem State.waitRetrain_net (page : Nat) : (s.waitRetrain page).net = s.net := by
  unfold State.waitRetrain
  split <;> simp

@[simp] theorem State.waitParity_net (page : Nat) : (s.waitParity page).net = s.net := by
  unfold State.waitParity
  split <;> simp

@[simp] theorem State.setCrc_net (sector : Nat) (d : BitVec 32) : (s.setCrc sector d).net = s.net := (rfl)
@[simp] theorem State.putParity_net (page code n : Nat) : (s.putParity page code n).net = s.net := (rfl)
@[simp] theorem State.rewriteParity_net (page : Nat) : (s.rewriteParity page).net = s.net := (rfl)

@[simp] theorem State.setStack_net (sector : Nat) (f : List Byte × Bool → List Byte × Bool) : (s.setStack sector f).net = s.net := by
  simp only [State.setStack]
  split <;> simp

@[simp] theorem State.uncorrectable_net (page : Nat) : (s.uncorrectable page).net = s.net := by
  simp [State.uncorrectable]

@[simp] theorem State.corrected_net (block n : Nat) : (s.corrected block n).net = s.net := by
  simp only [State.corrected]
  repeat' split
  all_goals simp

@[simp] theorem State.lostParity_net (sector : Nat) : (s.lostParity sector).net = s.net := by
  rw [State.lostParity, State.setCrc_net, foldl_net, State.modMc_net]
  intro t p
  dsimp only
  split <;> simp

@[simp] theorem State.mendParity_net (page : Nat) : (s.mendParity page).net = s.net := by
  simp [State.mendParity]

@[simp] theorem State.mendPage_net (page : Nat) : (s.mendPage page).net = s.net := by
  simp only [State.mendPage]
  split <;> simp

@[simp] theorem State.checkPage_net (page : Nat) : (s.checkPage page).net = s.net := by
  simp only [State.checkPage]
  repeat' split
  all_goals simp

@[simp] theorem State.closeSlot_net (m : McId) (page : Nat) (cut : Bool) : (s.closeSlot m page cut).net = s.net := by
  unfold State.closeSlot
  lift_lets
  extract_lets s0 held s1 s2 s3 s4
  have h1 : s1.net = s.net := by
    simp only [s1, apply_ite State.net, State.checkPage_net, ite_self, s0, State.waitRetrain_net]
  have h3 : s3.net = s.net := by simp [s3, s2, h1]
  split
  · exact h3
  · simp [s4, h3]

@[simp] theorem State.slotDone_net (page : Nat) : (s.slotDone page).net = s.net := by
  unfold State.slotDone
  repeat' split
  all_goals simp

@[simp] theorem State.slotOpen_net (page : Nat) (valid : BitVec 64) : (s.slotOpen page valid).net = s.net := by
  simp only [State.slotOpen]
  repeat' split
  all_goals simp

@[simp] theorem State.poisonRange_net (a n : Nat) : (s.poisonRange a n).net = s.net := (rfl)

@[simp] theorem State.putMarked_net (a : Nat) (bs : List Byte) (poison : Bool) : (s.putMarked a bs poison).net = s.net := by
  simp only [State.putMarked]
  split <;> simp

@[simp] theorem State.touchHbm_net (a n : Nat) : (s.touchHbm a n).net = s.net := by
  simp only [State.touchHbm]
  split <;> simp

@[simp] theorem State.freshHbm_net (a n : Nat) : (s.freshHbm a n).net = s.net := by
  simp only [State.freshHbm]
  repeat' split
  all_goals simp

@[simp] theorem State.eccNote_net (u : SweepUnit) (n d line : Nat) : (s.eccNote u n d line).net = s.net := by
  unfold State.eccNote
  repeat' split
  all_goals simp

@[simp] theorem State.freshSram_net (u : SweepUnit) (a n : Nat) : (s.freshSram u a n).net = s.net := by
  simp only [State.freshSram]
  split <;> simp

@[simp] theorem State.store_net (a : Nat) (bs : List Byte) (poison : Bool) : (s.store a bs poison).net = s.net := by
  unfold State.store
  repeat' split
  all_goals simp [State.storePage]

@[simp] theorem State.putRuns_net (ws : List (Nat × List Byte)) : (s.putRuns ws).net = s.net := by
  simp [State.putRuns]

/-! ### Collectives and barriers -/

@[simp] theorem State.mixColl_net (k : CollInst) : (s.mixColl k).net = s.net := by
  simp only [State.mixColl, State.putRuns_net]
  rw [foldl_snd_net, foldl_snd_net]
  all_goals
    intro x p
    rfl

@[simp] theorem State.bumpE_net (c : CombId) (e : QEntry) : (s.bumpE c e).net = s.net := by
  unfold State.bumpE
  split <;> rfl

@[simp] theorem State.doneFenced_net (c : CombId) (e : QEntry) : (s.doneFenced c e).net = s.net := by
  simp [State.doneFenced, State.fabDone, State.busySub, State.crrFenced, State.colBit]

@[simp] theorem State.dropColl_net (k : CollInst) : (s.dropColl k).net = s.net := (rfl)
@[simp] theorem State.dropBar_net (b : BarInst) : (s.dropBar b).net = s.net := (rfl)
@[simp] theorem State.putBar_net (b : BarInst) : (s.putBar b).net = s.net := (rfl)
@[simp] theorem State.popFab_net (c : CombId) : (s.popFab c).net = s.net := (rfl)
@[simp] theorem State.collCount_net : s.collCount.net = s.net := (rfl)

@[simp] theorem State.fencedColl_net (k : CollInst) : (s.fencedColl k).net = s.net := by
  simp [State.fencedColl]

/-! ### Drops sent -/

@[simp] theorem State.inject_peers (ds : List Drop) : (s.inject ds).net.peers = s.net.peers := (rfl)
@[simp] theorem State.handBack_peers (l : LinkId) (ds : List Drop) : (s.handBack l ds).net.peers = s.net.peers := (rfl)
@[simp] theorem State.startWait_peers (w : ConsWait) : (s.startWait w).net.peers = s.net.peers := (rfl)

@[simp] theorem State.startOrWait_peers (w : ConsWait) : (s.startOrWait w).net.peers = s.net.peers := by
  unfold State.startOrWait
  split
  · exact s.startWait_peers w
  · rfl

@[simp] theorem State.sendSingle_peers (ty cls : Nat) (ver : Fin 2) (dst : ChipId) (addr : Nat) (bs : List Byte) (coll : Option CollKey)
    (deputy : Bool) : (s.sendSingle ty cls ver dst addr bs coll deputy).net.peers = s.net.peers :=
  s.startOrWait_peers _

@[simp] theorem State.sendColl_peers (key : CollKey) (ver : Fin 2) (dst : ChipId) (kind phase : Nat) (dir gather : Bool) (seg : Nat)
    (bs : List Byte) : (s.sendColl key ver dst kind phase dir gather seg bs).net.peers = s.net.peers :=
  s.startOrWait_peers _

@[simp] theorem State.sendRound_peers (kind : Nat) (dst : ChipId) (step : W64) (v : Bool) (c : W64) (decider : ChipId) (deputy : Bool) :
    (s.sendRound kind dst step v c decider deputy).net.peers = s.net.peers :=
  s.startOrWait_peers _

@[simp] theorem State.sendQuiesce_peers (kind : Nat) (dst : ChipId) (v : W64) (x : Bool) :
    (s.sendQuiesce kind dst v x).net.peers = s.net.peers :=
  s.startOrWait_peers _

@[simp] theorem State.sendRelease_peers (b : BarInst) (t : W64) : (s.sendRelease b t).net.peers = s.net.peers := by
  simp [State.sendRelease]

@[simp] theorem State.barAdvance_peers (b : BarInst) : (s.barAdvance b).net.peers = s.net.peers := by
  simp only [State.barAdvance]
  repeat' split
  all_goals simp

@[simp] theorem State.startBar_peers (b : BarInst) : (s.startBar b).net.peers = s.net.peers := by
  simp only [State.startBar]
  split <;> simp

@[simp] theorem State.pumpBars_peers (c : CombId) (fuel : Nat) : (s.pumpBars c fuel).net.peers = s.net.peers := by
  induction fuel generalizing s with
  | zero => rfl
  | succ n ih =>
    unfold State.pumpBars
    repeat' split
    all_goals simp [ih]

@[simp] theorem State.pumpAllBars_peers : s.pumpAllBars.net.peers = s.net.peers := by
  simp [State.pumpAllBars]

/-- Ending the collectives and barriers of a fenced chip sends drops at most. -/
@[simp] theorem State.fenceColls_peers (f : ChipId) : (s.fenceColls f).net.peers = s.net.peers := by
  simp [State.fenceColls]

@[simp] theorem State.abortNeighbours_peers (k : CollInst) (code : Nat) : (s.abortNeighbours k code).net.peers = s.net.peers := by
  simp [State.abortNeighbours]

@[simp] theorem State.abortBar_peers (b : BarInst) (code : Nat) : (s.abortBar b code).net.peers = s.net.peers := by
  simp [State.abortBar]

/-! ### The commit round and the quiescence -/

@[simp] theorem State.modRound_net (f : Round → Round) : (s.modRound f).net = s.net := (rfl)

@[simp] theorem State.needRound_net : s.needRound.net = s.net := by
  unfold State.needRound
  split <;> rfl

@[simp] theorem State.holdDecision_net (v : Bool) (c : W64) : (s.holdDecision v c).net = s.net := by
  simp [State.holdDecision]

@[simp] theorem State.announce_peers (w : Verdict) : (s.announce w).net.peers = s.net.peers := by
  simp [State.announce]

@[simp] theorem State.lodgeOut_peers (w : Verdict) : (s.lodgeOut w).net.peers = s.net.peers := by
  simp only [State.lodgeOut]
  split <;> simp

@[simp] theorem State.makeDecision_peers (v : Bool) : (s.makeDecision v).net.peers = s.net.peers := by
  unfold State.makeDecision
  split <;> simp

@[simp] theorem State.decideRound_peers : s.decideRound.net.peers = s.net.peers := by
  simp only [State.decideRound]
  repeat' split
  all_goals simp

@[simp] theorem State.roundFenced_peers : s.roundFenced.net.peers = s.net.peers := by
  unfold State.roundFenced
  repeat' split
  all_goals simp

@[simp] theorem State.sendVote_peers (r : Round) (v : Bool) (m : ChipId) (deputy : Bool) :
    (s.sendVote r v m deputy).net.peers = s.net.peers := by
  unfold State.sendVote
  split <;> simp

@[simp] theorem State.formVote_peers : s.formVote.net.peers = s.net.peers := by
  simp only [State.formVote]
  repeat' split
  all_goals simp

@[simp] theorem State.quiesceDecided_peers (v : W64) (go : Bool) : (s.quiesceDecided v go).net.peers = s.net.peers := by
  unfold State.quiesceDecided
  repeat' split
  all_goals simp [State.admitAgain]

@[simp] theorem State.tellQuiesce_peers (v : W64) (go : Bool) : (s.tellQuiesce v go).net.peers = s.net.peers := by
  simp [State.tellQuiesce]

@[simp] theorem State.quiesceTry_peers (v : W64) : (s.quiesceTry v).net.peers = s.net.peers := by
  unfold State.quiesceTry
  repeat' split
  all_goals simp

@[simp] theorem State.quiesceFenced_peers : s.quiesceFenced.net.peers = s.net.peers := by
  simp [State.quiesceFenced]

/-! ### A reset of the compute complex, and FENCED -/

@[simp] theorem State.takeMap_net (c : CombId) : (s.takeMap c).net = s.net := by
  unfold State.takeMap
  split <;> simp

@[simp] theorem State.takeMaps_net : s.takeMaps.net = s.net := by
  simp [State.takeMaps]

@[simp] theorem State.cutComb_peers (c : CombId) : (s.cutComb c).net.peers = s.net.peers := by
  unfold State.cutComb
  lift_lets
  extract_lets s1 s2 own
  have h1 : s1.net.peers = s.net.peers := foldl_peers s _ _ fun t k => by simp
  have h2 : s2.net.peers = s1.net.peers := foldl_peers s1 _ _ fun t b => by simp
  exact h2.trans h1

@[simp] theorem State.resetOne_peers (c : CombId) (keepProg : Bool) : (s.resetOne c keepProg).net.peers = s.net.peers :=
  s.cutComb_peers c

@[simp] theorem State.abortStep_net : s.abortStep.net = s.net := (rfl)
@[simp] theorem State.noteReset_net (kind cause n : Nat) : (s.noteReset kind cause n).net = s.net := (rfl)

@[simp] theorem State.closeBulks_net (p : Bulk → Bool) : (s.closeBulks p).net = s.net := by
  simp [State.closeBulks]

@[simp] theorem State.freePins_net : s.freePins.net = s.net := by
  unfold State.freePins
  split <;> simp

@[simp] theorem State.setDev_net (d : DevState) : (s.setDev d).net = { s.net with st := d } := by
  unfold State.setDev
  split
  case isTrue h => rw [← h]; rfl
  case isFalse => rw [State.notice_net]; rfl

@[simp] theorem State.answerJobs_net (r : Result) : (s.answerJobs r).net = s.net := by
  simp [State.answerJobs]

@[simp] theorem State.answerSwitches_net (r : Result) : (s.answerSwitches r).net = s.net := by
  simp [State.answerSwitches]

theorem State.enterReset_fenced {s : State} (h : s.dev.st = .fenced) (kind : BitVec 3) (jobs : List ResetJob) :
    s.enterReset kind jobs = s := if_pos h

/-- A chip in FENCED stays there while its compute complex is reset. -/
theorem State.computeReset_fenced {s : State} (h : s.dev.st = .fenced) (cause : Nat) (jobs : List ResetJob) :
    (s.computeReset cause jobs).net.peers = s.net.peers := by
  unfold State.computeReset
  extract_lets s1
  have h1 : s1.net.peers = s.net.peers := by
    simp only [s1, State.abortStep_net, State.resetOne_peers, foldl_peers, State.takeMaps_net, implies_true]
  have hr : ((s1.formVote.closeBulks Bulk.toComb).noteReset 2 cause 1).net.peers = s.net.peers := by
    rw [State.noteReset_net, State.closeBulks_net, State.formVote_peers, h1]
  generalize (s1.formVote.closeBulks Bulk.toComb).noteReset 2 cause 1 = r at hr ⊢
  have hst : r.dev.st = .fenced := (congrArg Peers.st hr).trans h
  rw [State.enterReset_fenced hst, hr]

/-- Of what a fence is about, entering FENCED changes the device state alone. -/
theorem State.enterFenced_peers : s.enterFenced.net.peers = { s.net.peers with st := .fenced } := by
  unfold State.enterFenced
  split
  case isTrue h => rw [← h]; rfl
  case isFalse =>
    lift_lets
    extract_lets s1 s2 s3 s4 s5 dev eth wdn chr s6
    have h1 : s1.net = { s.net with st := .fenced } := by
      refine (foldl_net _ _ _ fun t b => t.bulkFinal_net b .fenced b.count).trans ?_
      rw [State.setDev_net, State.freePins_net]
    have h2 : s2.net = s1.net := by simp [s2]
    have h3 : s3.net = s2.net := by
      refine foldl_net _ _ _ fun t x => ?_
      repeat' split
      all_goals simp
    have h4 : s4.net = s3.net := by
      simp only [s4]
      split <;> simp
    have h6 : s6.net = { s.net with st := .fenced } := by
      rw [← h1, ← h2, ← h3, ← h4]
      exact s4.answerSwitches_net .fenced
    clear_value s6
    have hst : s6.dev.st = .fenced := congrArg Net.st h6
    exact (State.computeReset_fenced hst 4 []).trans (congrArg Net.peers h6)

end Sys2Proof.Machine
end

section
/-!
O30: bring-up of a link (R219, R224, R414), the exchange of identities (R217) and its check against R12 (R14). What a change of one link
leaves alone, then each of the three commands by its cases.
-/
namespace Sys2Proof.Machine

/-! ### One link of the state -/

@[simp] theorem State.modLink_link (s : State) (l : LinkId) (f : Link → Link) : (s.modLink l f).links[l] = f s.links[l] := by
  simp [State.modLink]

theorem State.modLink_link_ne (s : State) {l m : LinkId} (f : Link → Link) (h : m ≠ l) : (s.modLink l f).links[m] = s.links[m] := by
  have hv : l.val ≠ m.val := fun e => h (Fin.ext e.symm)
  simp [State.modLink, hv]

theorem State.modLink_onlyLink (s : State) (l : LinkId) (f : Link → Link) : s.onlyLink l (s.modLink l f) := by
  simp [State.onlyLink, State.modLink]

theorem getLsbD_setB {w : Nat} (r : BitVec w) {i : Nat} (b : Bool) (h : i < w) : (setB r i b).getLsbD i = b := by
  rw [setB, getLsbD_setF r i 1 _ i h, if_pos ⟨Nat.le_refl i, Nat.lt_succ_self i⟩, Nat.sub_self]
  cases b <;> rfl

/-! ### LINK_PHASE_DONE (R219) -/

theorem exec_linkPhaseDone (l : LinkId) (ok : Bool) (rx tx : Option (Fin 8)) (s : State) :
    exec (.linkPhaseDone l ⟨ok, rx, tx⟩) s = .next (s.linkPhase l ok rx tx) := rfl

/-- Link `l` may go on with its bring-up: it is enabled, the chip trains its links, and the link is DOWN or TRAINING (R219, R224). -/
def State.bringsUp (s : State) (l : LinkId) : Bool :=
  (s.links[l]).en && s.trains && ((s.links[l]).st == .down || (s.links[l]).st == .training)

theorem State.bringsUp_of {s : State} {l : LinkId} (hen : (s.links[l]).en = true) (htr : s.trains = true)
    (hst : (s.links[l]).st = .down ∨ (s.links[l]).st = .training) : s.bringsUp l = true := by
  rcases hst with hst | hst <;> simp only [State.bringsUp, hen, htr, hst] <;> rfl

section Phases
variable {s : State} {l : LinkId} (hup : s.bringsUp l = true) (rx tx : Option (Fin 8))
include hup

theorem State.linkPhase_not_ok :
    s.linkPhase l false rx tx = if (s.links[l]).phase = .signal ∧ s.unusedPort l = true then s else s.linkFail l := by
  unfold State.bringsUp at hup
  simp only [State.linkPhase, hup, Bool.not_true, Bool.false_eq_true, if_false, Bool.not_false, if_true]

theorem State.linkPhase_signal (hp : (s.links[l]).phase = .signal) :
    s.linkPhase l true rx tx = s.modLink l fun k => { k with st := .training, phase := .equalisation } := by
  unfold State.bringsUp at hup
  simp only [State.linkPhase, hup, hp, Bool.not_true, Bool.false_eq_true, if_false]

theorem State.linkPhase_equalisation (hp : (s.links[l]).phase = .equalisation) :
    s.linkPhase l true rx tx = s.modLink l fun k => { k with phase := .alignment } := by
  unfold State.bringsUp at hup
  simp only [State.linkPhase, hup, hp, Bool.not_true, Bool.false_eq_true, if_false]

theorem State.linkPhase_alignment (hp : (s.links[l]).phase = .alignment) : s.linkPhase l true rx tx = s.toIdentity l rx tx := by
  unfold State.bringsUp at hup
  simp only [State.linkPhase, hup, hp, Bool.not_true, Bool.false_eq_true, if_false]

/-- Once the far end's IDENT is known, the link is ALIGNED (R217, R219). -/
theorem State.linkPhase_identity (hp : (s.links[l]).phase = .identity) (hfar : (s.links[l]).far ≠ none) :
    s.linkPhase l true rx tx =
      s.modLink l fun k => { k with st := .aligned, phase := .delay, calAt := s.chm.local_, calTemp := none } := by
  unfold State.bringsUp at hup
  simp only [State.linkPhase, hup, hp, Bool.not_true, Bool.false_eq_true, if_false, Option.isSome_iff_ne_none.mpr hfar, if_true]

end Phases

/-! ### IDENT (R217, R14) -/

theorem exec_ident (l : LinkId) (x : IdentSym) (s : State) : exec (.ident l x) s = .next (s.onIdent l x) := rfl

/-- The identity is not the one that R12 predicts, and RTE_SELF is valid to predict one (R14). -/
def State.identBad (s : State) (l : LinkId) (x : IdentSym) : Bool :=
  s.rte.selfValid && !(x.chip == s.expectedFar l && x.link.toNat == (facing l).val)

/-- The link after IDENT: the far end's identity and its division of the buffer, and whether the check fails. -/
def Link.identified (k : Link) (x : IdentSym) (bad : Bool) : Link :=
  { k with far := some x.chip, farIface := x.iface, alloc := x.alloc, credits := creditsOf x.alloc, badCable := bad }

/-- The cable fault of link `l` is set and recorded (R14). -/
def State.cableFaulted (s : State) (l : LinkId) : State :=
  ({ s with rte := { s.rte with cableFault := setB s.rte.cableFault l.val true } } : State).record (.cableFault l)

@[simp] theorem State.cableFaulted_links (s : State) (l : LinkId) : (s.cableFaulted l).links = s.links :=
  congrArg Net.links (State.record_net _ (.cableFault l))

theorem State.cableFaulted_bit (s : State) (l : LinkId) : (s.cableFaulted l).rte.cableFault.getLsbD l.val = true := by
  have hrte : (s.cableFaulted l).rte = { s.rte with cableFault := setB s.rte.cableFault l.val true } :=
    congrArg Net.rte (State.record_net _ (.cableFault l))
  rw [hrte]
  exact getLsbD_setB _ true (by omega)

theorem State.onIdent_eq {s : State} {l : LinkId} (hst : (s.links[l]).st = .training) (hp : (s.links[l]).phase = .identity) (x : IdentSym) :
    s.onIdent l x =
      let t := s.modLink l fun k => k.identified x (s.identBad l x)
      if s.identBad l x then t.cableFaulted l else t := by
  simp only [State.onIdent, hst, hp, BEq.rfl, Bool.and_true, Bool.not_true, Bool.false_eq_true, if_false]
  rfl

section Identified
variable {s : State} {l : LinkId} (hst : (s.links[l]).st = .training) (hp : (s.links[l]).phase = .identity) (x : IdentSym)
include hst hp

theorem State.onIdent_of_bad (h : s.identBad l x = true) :
    s.onIdent l x = (s.modLink l fun k => k.identified x true).cableFaulted l := by
  rw [State.onIdent_eq hst hp, h]
  rfl

theorem State.onIdent_of_good (h : s.identBad l x = false) : s.onIdent l x = s.modLink l fun k => k.identified x false := by
  rw [State.onIdent_eq hst hp, h]
  rfl

theorem State.onIdent_links : (s.onIdent l x).links = (s.modLink l fun k => k.identified x (s.identBad l x)).links := by
  cases h : s.identBad l x with
  | true => rw [State.onIdent_of_bad hst hp x h, State.cableFaulted_links]
  | false => rw [State.onIdent_of_good hst hp x h]

theorem State.onIdent_link : (s.onIdent l x).links[l] = (s.links[l]).identified x (s.identBad l x) := by
  rw [State.onIdent_links hst hp, State.modLink_link]

theorem State.onIdent_link_ne {m : LinkId} (hm : m ≠ l) : (s.onIdent l x).links[m] = s.links[m] := by
  rw [State.onIdent_links hst hp, State.modLink_link_ne s _ hm]

end Identified

theorem State.identBad_of_mismatch {s : State} {l : LinkId} {x : IdentSym} (hv : s.rte.selfValid = true)
    (h : x.chip ≠ s.expectedFar l ∨ x.link.toNat ≠ (facing l).val) : s.identBad l x = true := by
  rcases h with h | h <;> simp [State.identBad, hv, h]

theorem State.identBad_of_match {s : State} {l : LinkId} {x : IdentSym} (hc : x.chip = s.expectedFar l)
    (hl : x.link.toNat = (facing l).val) : s.identBad l x = false := by
  simp [State.identBad, hc, hl]

/-! ### LINK_RETRY (R224) -/

theorem exec_linkRetry (port : Fin 6) (n : Fin 4) (s : State) : exec (.linkRetry port n) s = .next (s.linkRetry (linkAt port n)) := rfl

theorem State.linkRetry_failed {s : State} {l : LinkId} (hst : (s.links[l]).st = .failed) (hen : (s.links[l]).en = true)
    (htr : s.trains = true) : s.linkRetry l = s.modLink l Link.restart :=
  if_pos ⟨hst, hen, htr⟩

theorem State.linkRetry_other {s : State} {l : LinkId} (h : (s.links[l]).st ≠ .failed ∨ (s.links[l]).en = false ∨ s.trains = false) :
    s.linkRetry l = s := by
  refine if_neg fun ⟨hst, hen, htr⟩ => ?_
  rcases h with h | h | h
  · exact h hst
  · exact Bool.false_ne_true (h.symm.trans hen)
  · exact Bool.false_ne_true (h.symm.trans htr)

/-! ### O30 -/

/-- Settles O30: each clause is the case of LINK_PHASE_DONE, IDENT or LINK_RETRY that its hypotheses name. -/
theorem linkBringUp : Obligations.LinkBringUp := by
  intro s l
  refine ⟨fun rx tx hen htr hst => ?_, fun x hst hp => ?_, ?_⟩
  · have hup := State.bringsUp_of hen htr hst
    simp only [exec_linkPhaseDone]
    refine ⟨fun hp => ?_, fun hp => ?_, fun hp => ?_, fun hp hfar => ?_, ?_⟩
    · rw [State.linkPhase_signal hup rx tx hp]
    · rw [State.linkPhase_equalisation hup rx tx hp]
    · rw [State.linkPhase_alignment hup rx tx hp, State.toIdentity]
      refine ⟨_, rfl, State.modLink_onlyLink s l _, ?_⟩
      rw [State.modLink_link]
      exact ⟨rfl, rfl⟩
    · rw [State.linkPhase_identity hup rx tx hp hfar]
      refine ⟨_, rfl, ?_, fun m hm => s.modLink_link_ne _ hm⟩
      rw [State.modLink_link]
    · rw [State.linkPhase_not_ok hup rx tx]
  · have hlink := State.onIdent_link hst hp x
    refine ⟨_, exec_ident l x s, ⟨congrArg Link.far hlink, fun j => ?_, fun hv hne => ?_, fun hc hl => ?_⟩,
      fun m hm => State.onIdent_link_ne hst hp x hm⟩
    · exact (congrArg (·.credits[j]) hlink).trans (Vector.getElem_ofFn j.isLt)
    · have hbad := State.identBad_of_mismatch hv hne
      refine ⟨?_, (congrArg Link.badCable hlink).trans hbad⟩
      rw [State.onIdent_of_bad hst hp x hbad]
      exact State.cableFaulted_bit _ l
    · have hgood := State.identBad_of_match hc hl
      refine ⟨?_, (congrArg Link.badCable hlink).trans hgood⟩
      rw [State.onIdent_of_good hst hp x hgood, State.modLink_rte]
  · rintro port n rfl
    refine ⟨fun hst hen htr => ?_, fun h => ?_⟩ <;> rw [exec_linkRetry]
    · rw [State.linkRetry_failed hst hen htr]
      refine ⟨_, rfl, s.modLink_onlyLink _ _, ?_⟩
      rw [State.modLink_link]
      rfl
    · rw [State.linkRetry_other h]

end Sys2Proof.Machine
end

section
/-!
R251: what leaves the chip when another is fenced or its fence ends. Source entries, open receptions and queued drops only leave
(`State.Sheds`), so what one step of a write of RTE_FENCE takes away stays away.
-/
namespace Sys2Proof.Machine

variable (s : State)

/-! ### Shedding -/

/-- From `s` to `t` source entries, open receptions and queued drops only leave, and the fence map stays. -/
structure State.Sheds (s t : State) : Prop where
  fence : t.rte.fence = s.rte.fence
  srcs : ∀ x ∈ t.fab.srcs, x ∈ s.fab.srcs
  rx : ∀ x ∈ t.fab.rx, x ∈ s.fab.rx
  txq : ∀ l : LinkId, ∀ d ∈ (t.links[l]).txq, d ∈ (s.links[l]).txq

/-- No source entry and no open reception names chip `f`. -/
def State.forgets (s : State) (f : ChipId) : Prop := (∀ x ∈ s.fab.srcs, x.src ≠ f) ∧ ∀ x ∈ s.fab.rx, x.src ≠ f

/-- Link `l` queues no drop from chip `f`. -/
def State.unqueued (s : State) (f : ChipId) (l : LinkId) : Prop := ∀ d ∈ (s.links[l]).txq, d.src ≠ f

namespace State.Sheds

variable {s t u : State}

theorem refl (s : State) : s.Sheds s := ⟨rfl, fun _ => id, fun _ => id, fun _ _ => id⟩

theorem trans (h : s.Sheds t) (h' : t.Sheds u) : s.Sheds u :=
  ⟨h'.fence.trans h.fence, fun x hx => h.srcs x (h'.srcs x hx), fun x hx => h.rx x (h'.rx x hx),
    fun l d hd => h.txq l d (h'.txq l d hd)⟩

/-- What leaves all of `Peers` but the device state sheds nothing. -/
theorem of_peers {st : DevState} (h : t.net.peers = { s.net.peers with st := st }) : s.Sheds t := by
  have hl : t.links = s.links := congrArg Peers.links h
  have hs : t.fab.srcs = s.fab.srcs := congrArg Peers.srcs h
  have hr : t.fab.rx = s.fab.rx := congrArg Peers.rx h
  refine ⟨congrArg Peers.fence h, ?_, ?_, ?_⟩ <;> simp [hl, hs, hr]

theorem of_peers_eq (h : t.net.peers = s.net.peers) : s.Sheds t := of_peers (st := s.dev.st) h

theorem foldl {β : Type} {op : State → β → State} (h : ∀ (t : State) x, t.Sheds (op t x)) (l : List β) (s : State) :
    s.Sheds (l.foldl op s) := by
  induction l generalizing s with
  | nil => exact refl s
  | cons x l ih => exact (h s x).trans (ih (op s x))

theorem forgets (h : s.Sheds t) {f : ChipId} (hf : s.forgets f) : t.forgets f :=
  ⟨fun x hx => hf.1 x (h.srcs x hx), fun x hx => hf.2 x (h.rx x hx)⟩

theorem unqueued (h : s.Sheds t) {f : ChipId} {l : LinkId} (hf : s.unqueued f l) : t.unqueued f l :=
  fun d hd => hf d (h.txq l d hd)

/-- What one step of a fold brings about and shedding keeps holds after the fold. -/
theorem foldl_brings {β : Type} {op : State → β → State} {P : β → State → Prop} (hop : ∀ (t : State) x, t.Sheds (op t x))
    (hP : ∀ t x, P x (op t x)) (hkeep : ∀ {t u : State} {x : β}, t.Sheds u → P x t → P x u) {l : List β} {x : β} (hx : x ∈ l)
    (s : State) : P x (l.foldl op s) := by
  induction l generalizing s with
  | nil => cases hx
  | cons y l ih =>
    rcases List.mem_cons.mp hx with rfl | hx
    · exact hkeep (foldl hop l _) (hP s x)
    · exact ih hx (op s y)

end State.Sheds

/-! ### The parts of a fence -/

theorem State.renumber_sheds (f : ChipId) : s.Sheds (s.renumber f) :=
  ⟨rfl, fun _ hx => (List.mem_filter.mp hx).1, fun _ hx => (List.mem_filter.mp hx).1, fun _ _ => id⟩

theorem State.renumber_forgets (f : ChipId) : (s.renumber f).forgets f :=
  ⟨fun _ hx => bne_iff_ne.mp (List.mem_filter.mp hx).2, fun _ hx => bne_iff_ne.mp (List.mem_filter.mp hx).2⟩

/-- The link without the queued drops that `p` names. -/
def Link.unqueue (k : Link) (p : Drop → Bool) : Link := { k with txq := k.txq.filter fun d => !p d }

/-- The drops that link `l` queues and that meet the fence of chip `f` come back to the router. -/
def State.cutQueue (f : ChipId) (s : State) (l : LinkId) : State :=
  (s.modLink l fun k => k.unqueue (s.meetsFence f l)).handBack l ((s.links[l]).txq.filter fun d => s.meetsFence f l d)

theorem State.cutQueue_links (f : ChipId) (l : LinkId) :
    (State.cutQueue f s l).links = (s.modLink l fun k => k.unqueue (s.meetsFence f l)).links := rfl

theorem State.cutQueue_link (f : ChipId) (l : LinkId) : (State.cutQueue f s l).links[l] = (s.links[l]).unqueue (s.meetsFence f l) := by
  rw [State.cutQueue_links, State.modLink_link]

theorem State.cutQueue_link_ne (f : ChipId) {l m : LinkId} (h : m ≠ l) : (State.cutQueue f s l).links[m] = s.links[m] := by
  rw [State.cutQueue_links, s.modLink_link_ne _ h]

theorem State.cutQueue_sheds (f : ChipId) (l : LinkId) : s.Sheds (State.cutQueue f s l) := by
  refine ⟨rfl, fun _ => id, fun _ => id, fun m d hd => ?_⟩
  by_cases hm : m = l
  · subst hm
    rw [State.cutQueue_link] at hd
    exact (List.mem_filter.mp hd).1
  · rwa [State.cutQueue_link_ne s f hm] at hd

theorem State.cutQueue_unqueued (f : ChipId) (l : LinkId) : (State.cutQueue f s l).unqueued f l := by
  intro d hd hsrc
  rw [State.cutQueue_link] at hd
  have hmeets : s.meetsFence f l d = true := by simp [State.meetsFence, hsrc]
  have hkept := (List.mem_filter.mp hd).2
  rw [hmeets] at hkept
  exact Bool.false_ne_true hkept

@[simp] theorem State.dropFrom_peers (f : ChipId) : (s.dropFrom f).net.peers = s.net.peers := by
  unfold State.dropFrom
  extract_lets n rte fab s1
  exact foldl_peers s1 _ _ fun t _ => rfl

theorem State.fenceOne_eq (f : ChipId) :
    s.fenceOne f = ((((List.finRange 24).foldl (State.cutQueue f) s).dropFrom f).renumber f).fenceColls f := rfl

theorem State.cutQueues_sheds (f : ChipId) : s.Sheds (((List.finRange 24).foldl (State.cutQueue f) s).dropFrom f) :=
  (State.Sheds.foldl (fun t l => t.cutQueue_sheds f l) _ s).trans (.of_peers_eq (State.dropFrom_peers _ f))

theorem State.fenceOne_sheds (f : ChipId) : s.Sheds (s.fenceOne f) := by
  rw [State.fenceOne_eq]
  exact ((s.cutQueues_sheds f).trans (State.renumber_sheds _ f)).trans (.of_peers_eq (State.fenceColls_peers _ f))

theorem State.fenceOne_forgets (f : ChipId) : (s.fenceOne f).forgets f := by
  rw [State.fenceOne_eq]
  exact (State.Sheds.of_peers_eq (State.fenceColls_peers _ f)).forgets (State.renumber_forgets _ f)

theorem State.fenceOne_unqueued (f : ChipId) (l : LinkId) : (s.fenceOne f).unqueued f l := by
  have hcut : ((List.finRange 24).foldl (State.cutQueue f) s).unqueued f l :=
    State.Sheds.foldl_brings (P := fun m t => t.unqueued f m) (fun t m => t.cutQueue_sheds f m)
      (fun t m => t.cutQueue_unqueued f m) (fun h => h.unqueued) (List.mem_finRange l) s
  rw [State.fenceOne_eq]
  refine State.Sheds.unqueued ?_ hcut
  exact ((State.Sheds.of_peers_eq (State.dropFrom_peers _ f)).trans (State.renumber_sheds _ f)).trans
    (.of_peers_eq (State.fenceColls_peers _ f))

/-! ### A write of RTE_FENCE (R251) -/

/-- The chips that are fenced and those whose fence ends, one after the other. -/
def State.refence (s : State) (put cleared : List ChipId) : State := cleared.foldl State.renumber (put.foldl State.fenceOne s)

section Refence
variable (put cleared : List ChipId)

theorem State.renumbers_sheds : (put.foldl State.fenceOne s).Sheds (s.refence put cleared) :=
  State.Sheds.foldl State.renumber_sheds _ _

theorem State.refence_sheds : s.Sheds (s.refence put cleared) :=
  (State.Sheds.foldl State.fenceOne_sheds put s).trans (s.renumbers_sheds put cleared)

theorem State.refence_forgets {f : ChipId} (h : f ∈ put ∨ f ∈ cleared) : (s.refence put cleared).forgets f := by
  rcases h with h | h
  · refine (s.renumbers_sheds put cleared).forgets ?_
    exact State.Sheds.foldl_brings (P := fun f t => t.forgets f) State.fenceOne_sheds State.fenceOne_forgets (fun h => h.forgets) h s
  · exact State.Sheds.foldl_brings (P := fun f t => t.forgets f) State.renumber_sheds State.renumber_forgets (fun h => h.forgets) h _

theorem State.refence_unqueued {f : ChipId} (h : f ∈ put) (l : LinkId) : (s.refence put cleared).unqueued f l := by
  refine (s.renumbers_sheds put cleared).unqueued ?_
  exact State.Sheds.foldl_brings (P := fun f t => t.unqueued f l) State.fenceOne_sheds (fun t f => t.fenceOne_unqueued f l)
    (fun h => h.unqueued) h s

end Refence

end Sys2Proof.Machine
end

section
/-!
O47: writes of the routing registers and group tables by order (R14, R248, R249, R251, R255). An order with one write (R362), the rule and the
effect of each register, and what a write of RTE_FENCE brings about.
-/
namespace Sys2Proof.Machine

/-! ### The state in which an order is executed (R357 to R359) -/

theorem State.heard_eq (s : State) (h : OrderHdr) : ∃ e w, s.heard h = { s with eth := e, wdn := w } := by
  obtain ⟨l, hl⟩ := s.seated_snd
  rw [State.heard, hl]
  exact ⟨_, _, rfl⟩

@[simp] theorem State.heard_dev (s : State) (h : OrderHdr) : (s.heard h).dev = s.dev := by
  obtain ⟨e, w, he⟩ := s.heard_eq h
  rw [he]

@[simp] theorem State.heard_rte (s : State) (h : OrderHdr) : (s.heard h).rte = s.rte := by
  obtain ⟨e, w, he⟩ := s.heard_eq h
  rw [he]

/-- A register's own rule does not look at port or warden. -/
@[simp] theorem State.heard_writeRule (s : State) (h : OrderHdr) (r : Reg) (v : W64) : (s.heard h).writeRule r v = s.writeRule r v := by
  obtain ⟨e, w, he⟩ := s.heard_eq h
  rw [he]
  rfl

/-! ### What a reply leaves alone -/

@[simp] theorem State.record_dev (s : State) (ev : Event) : (s.record ev).dev = s.dev := by
  unfold State.record
  split <;> rfl

@[simp] theorem State.frameOut_dev (s : State) : s.frameOut.2.dev = s.dev := by
  simp only [State.frameOut]
  repeat' split
  all_goals simp

@[simp] theorem State.reply_dev (s : State) (h : OrderHdr) (code : BitVec 8) (res : Result) (b : ReplyBody) :
    (s.reply h code res b).dev = s.dev := by
  simp only [State.reply, State.sendReply]
  split <;> simp

@[simp] theorem State.reply_rte (s : State) (h : OrderHdr) (code : BitVec 8) (res : Result) (b : ReplyBody) :
    (s.reply h code res b).rte = s.rte :=
  congrArg Net.rte (s.reply_net h code res b)

/-! ### An order with one write (R362) -/

section OneWrite
variable {s : State} {c : Instr} {h : OrderHdr} {table : Bool} {r : Reg} {v : W64} (hacc : s.accepts c = true)
  (horder : s.orderRule c = some (oneWrite h table r v))
include hacc horder

/-- An order with one write that is executed makes it, or is refused at index 0 with what refuses it. -/
theorem State.writeOne_accepted :
    s.writeOne h table r v =
      let x := (s.heard h).hallWrite table (some r) v
      if x.2 = .ok then x.1.reply h (writeOrder table [writeAddr r, v.toNat]).code (doneResult s.dev.st x.1.dev.st) .none
      else (s.heard h).refuse h (writeOrder table [writeAddr r, v.toNat]).code true x.2 (.index 0) := by
  have hcached : (writeOrder table [writeAddr r, v.toNat]).cached = true := by cases table <;> rfl
  simp only [State.accepts, horder, oneWrite, Bool.and_eq_true] at hacc
  obtain ⟨⟨⟨⟨htaken, hnew⟩, hformed⟩, hauth⟩, hstate⟩ := hacc
  rw [State.writeOne, State.writeRegs,
    State.order_runs s h _ _ htaken hnew hcached hformed hauth (List.contains_iff_mem.mp hstate), State.heard_dev]
  rfl

theorem State.writeOne_made {t : State} (hw : (s.heard h).hallWrite table (some r) v = (t, .ok)) :
    ∃ code res, s.writeOne h table r v = t.reply h code res .none := by
  rw [State.writeOne_accepted hacc horder, hw]
  exact ⟨_, _, rfl⟩

theorem State.writeOne_refused {t : State} {x : Result} (hw : (s.heard h).hallWrite table (some r) v = (t, x)) (hx : x ≠ .ok) :
    s.writeOne h table r v = (s.heard h).refuse h (writeOrder table [writeAddr r, v.toNat]).code true x (.index 0) := by
  rw [State.writeOne_accepted hacc horder, hw]
  exact if_neg hx

end OneWrite

/-! ### TABLE_WRITE of a register that it alone writes -/

section TableWrite
variable {s : State} {r : Reg} (hr : tableOnly r = true) (v : W64)
include hr

theorem State.reachRule_table (hst : s.dev.st ≠ .wardenUp) : s.reachRule true r = .ok := by
  simp [State.reachRule, hst, hr]

/-- Outside WARDEN-UP the register's own rule decides. -/
theorem State.hallWrite_table_ok (hst : s.dev.st ≠ .wardenUp) (hok : s.writeRule r v = .ok) :
    s.hallWrite true (some r) v = (s.orderWrite r v, .ok) := by
  simp only [State.hallWrite, State.reachRule_table hr hst, hst, hok, if_false]

theorem State.hallWrite_table_refused (hst : s.dev.st ≠ .wardenUp) (hno : s.writeRule r v ≠ .ok) :
    s.hallWrite true (some r) v = (s, s.writeRule r v) := by
  simp only [State.hallWrite, State.reachRule_table hr hst, hst, if_false]

end TableWrite

/-- In WARDEN-UP a write of RTE_SELF is staged. -/
theorem State.hallWrite_wardenUp_rteSelf (s : State) (v : W64) (hst : s.dev.st = .wardenUp) :
    s.hallWrite true (some .rteSelf) v =
      ({ s with dev := { s.dev with stagedWrites := s.dev.stagedWrites ++ [(.rteSelf, v)] } }, .ok) := by
  have hreach : s.reachRule true .rteSelf = .ok := by rw [State.reachRule, if_pos hst]; rfl
  simp only [State.hallWrite, hreach, hst, if_true]

section TableOrder
variable {s : State} {c : Instr} {h : OrderHdr} {r : Reg} {v : W64} (hacc : s.accepts c = true)
  (horder : s.orderRule c = some (oneWrite h true r v)) (hexec : exec c s = .next (s.writeOne h true r v))
  (hst : s.dev.st ≠ .wardenUp) (hr : tableOnly r = true)
include hacc horder hexec hst hr

theorem exec_tableWrite_made (hok : s.writeRule r v = .ok) :
    ∃ code res, exec c s = .next (((s.heard h).orderWrite r v).reply h code res .none) := by
  have hw := State.hallWrite_table_ok (s := s.heard h) hr v (by rwa [State.heard_dev]) (by rwa [State.heard_writeRule])
  obtain ⟨code, res, ht⟩ := State.writeOne_made hacc horder hw
  exact ⟨code, res, by rw [hexec, ht]⟩

theorem exec_tableWrite_refused {x : Result} (hno : s.writeRule r v = x) (hx : x ≠ .ok) :
    exec c s = .next ((s.heard h).refuse h 0x20 true x (.index 0)) := by
  subst hno
  have hw := State.hallWrite_table_refused (s := s.heard h) hr v (by rwa [State.heard_dev]) (by rwa [State.heard_writeRule])
  rw [State.heard_writeRule] at hw
  rw [hexec, State.writeOne_refused hacc horder hw hx]
  rfl

/-- A write that is made leaves the routing state that its effect leaves: the reply does not touch it. -/
theorem exec_tableWrite_rte (hok : s.writeRule r v = .ok) {rte : Rte} (heffect : ((s.heard h).orderWrite r v).rte = rte) :
    ∃ t, exec c s = .next t ∧ t.rte = rte := by
  obtain ⟨code, res, ht⟩ := exec_tableWrite_made hacc horder hexec hst hr hok
  exact ⟨_, ht, (State.reply_rte _ h code res .none).trans heffect⟩

end TableOrder

/-! ### When a write is refused (R14, R248, R249, R255) -/

theorem stateIf_true : stateIf true = .ok := rfl
theorem stateIf_false : stateIf false = .state := rfl

section Rules
variable {s : State} {v : W64}

theorem State.writeRule_rteSelf : s.writeRule .rteSelf v = stateIf (s.dev.st == .wardenUp || s.dev.st == .coreUp) := rfl
theorem State.writeRule_rteFlip : s.writeRule .rteFlip v = stateIf (v == 0 || (!s.past v && s.rte.released)) := rfl
theorem State.writeRule_rteEpoch : s.writeRule .rteEpoch v = stateIf (getF v 8 1 == 0 || s.rte.run) := rfl

theorem State.writeRule_rteSelf_coreUp (h : s.dev.st = .coreUp) : s.writeRule .rteSelf v = .ok := by
  rw [State.writeRule_rteSelf, h]
  rfl

theorem State.writeRule_rteSelf_late (hcore : s.dev.st ≠ .coreUp) (hwdn : s.dev.st ≠ .wardenUp) : s.writeRule .rteSelf v = .state := by
  rw [State.writeRule_rteSelf, beq_eq_false_iff_ne.mpr hcore, beq_eq_false_iff_ne.mpr hwdn]
  rfl

/-- A flip is disarmed at any time, and armed for a chime to come once the other version is released (R249). -/
theorem State.writeRule_rteFlip_ok (h : v = 0 ∨ s.past v = false ∧ s.rte.released = true) : s.writeRule .rteFlip v = .ok := by
  rw [State.writeRule_rteFlip]
  rcases h with rfl | ⟨hpast, hrel⟩
  · rfl
  · rw [hpast, hrel, Bool.not_false, Bool.and_true, Bool.or_true, stateIf_true]

theorem State.writeRule_rteFlip_state (hv : v ≠ 0) (h : s.past v = true ∨ s.rte.released = false) : s.writeRule .rteFlip v = .state := by
  rw [State.writeRule_rteFlip, beq_eq_false_iff_ne.mpr hv]
  rcases h with hpast | hrel
  · rw [hpast, Bool.not_true, Bool.false_and, Bool.or_false, stateIf_false]
  · rw [hrel, Bool.and_false, Bool.or_false, stateIf_false]

/-- A release is accepted only while RTE_DRAIN.RUN is 1 (R249). -/
theorem State.writeRule_rteEpoch_release (hv : getF v 8 1 = 1) : s.writeRule .rteEpoch v = stateIf s.rte.run := by
  rw [State.writeRule_rteEpoch, hv]
  rfl

section Group
variable {ver : Fin 2} {g : Fin 256}

theorem State.writeRule_colGroup :
    s.writeRule (.colGroup ver g) v =
      if !s.rte.writable ver then .state
      else if getF v 63 1 = 1 ∧ (s.rte.tab[ver]).groupOk (BitVec.ofNat 8 g.val) v = false then .range else .ok := rfl

/-- A locked group header is refused whatever its value (R248). -/
theorem State.writeRule_colGroup_locked (hw : s.rte.writable ver = false) : s.writeRule (.colGroup ver g) v = .state := by
  rw [State.writeRule_colGroup, hw]
  rfl

theorem State.writeRule_colGroup_range (hw : s.rte.writable ver = true) (hvalid : getF v 63 1 = 1)
    (hbad : (s.rte.tab[ver]).groupOk (BitVec.ofNat 8 g.val) v = false) : s.writeRule (.colGroup ver g) v = .range := by
  rw [State.writeRule_colGroup, hw, Bool.not_true, if_neg Bool.false_ne_true]
  exact if_pos ⟨hvalid, hbad⟩

/-- A group word that is not valid, or whose list is sound, is taken (R255). -/
theorem State.writeRule_colGroup_ok (hw : s.rte.writable ver = true)
    (h : getF v 63 1 = 0 ∨ (s.rte.tab[ver]).groupOk (BitVec.ofNat 8 g.val) v = true) : s.writeRule (.colGroup ver g) v = .ok := by
  rw [State.writeRule_colGroup, hw, Bool.not_true, if_neg Bool.false_ne_true]
  refine if_neg fun ⟨hvalid, hbad⟩ => ?_
  rcases h with hinvalid | hgood
  · exact absurd (hinvalid.symm.trans hvalid) Nat.zero_ne_one
  · exact Bool.false_ne_true (hbad.symm.trans hgood)

theorem State.writeRule_colMem {w : Fin 2048} :
    s.writeRule (.colMem ver g w) v = stateIf (s.rte.writable ver && !(s.rte.tab[ver]).groupValid (BitVec.ofNat 8 g.val)) := rfl

theorem State.writeRule_colMem_ok {w : Fin 2048} (hw : s.rte.writable ver = true)
    (hvalid : (s.rte.tab[ver]).groupValid (BitVec.ofNat 8 g.val) = false) : s.writeRule (.colMem ver g w) v = .ok := by
  rw [State.writeRule_colMem, hw, hvalid]
  rfl

/-- The members of a valid group, and those of a locked version, stay (R248, R255). -/
theorem State.writeRule_colMem_state {w : Fin 2048}
    (h : s.rte.writable ver = false ∨ (s.rte.tab[ver]).groupValid (BitVec.ofNat 8 g.val) = true) :
    s.writeRule (.colMem ver g w) v = .state := by
  rw [State.writeRule_colMem]
  rcases h with hw | hvalid
  · rw [hw, Bool.false_and, stateIf_false]
  · rw [hvalid, Bool.not_true, Bool.and_false, stateIf_false]

end Group

end Rules

/-! ### The effects -/

section Effects
variable (s : State) (v : W64)

/-- A register of the tables whose write has no effect of its own takes the merged word, and nothing is noted. -/
theorem State.orderWrite_table {r : Reg} (hr : tableOnly r = true) (ha : regActs r = false) (hA : regIsAgain r = false) :
    s.orderWrite r v = s.putReg r (regMerge r (s.readReg r) v) := by
  have hs : r ≠ .sealStatus := by rintro rfl; cases hr
  have hp : r ≠ .wdnProt := by rintro rfl; cases hr
  have hu : ∀ u, r ≠ sweepReg u := by rintro (_ | _ | _) rfl <;> cases hr
  rw [orderWrite_of_not_acts ha, writeReg_eq hA hs hp, sweepNote_of_not_sweep hu]

theorem State.orderWrite_rteSelf :
    (s.orderWrite .rteSelf v).rte = { s.rte with self := (s.rte.self &&& ~~~(0x1003F3F3F : W64)) ||| (v &&& 0x1003F3F3F) } := by
  rw [State.orderWrite_table s v rfl rfl rfl]
  exact congrArg (fun x => ({ s.rte with self := x } : Rte)) (clear_none v _)

/-- RTE_FLIP is written whole. -/
theorem regMerge_rteFlip (old v : W64) : regMerge .rteFlip old v = v := by
  refine (clear_none v ((old &&& ~~~BitVec.allOnes 64) ||| (v &&& BitVec.allOnes 64))).trans ?_
  rw [BitVec.not_allOnes, BitVec.and_zero, BitVec.and_allOnes, BitVec.zero_or]

theorem State.orderWrite_rteFlip : (s.orderWrite .rteFlip v).rte = { s.rte with flip := v } := by
  rw [State.orderWrite_table s v rfl rfl rfl, regMerge_rteFlip]
  rfl

theorem State.orderWrite_rteEpoch (hv : getF v 8 1 = 1) : (s.orderWrite .rteEpoch v).rte = { s.rte with released := true } :=
  congrArg State.rte (if_pos hv)

theorem State.readReg_colGroup (ver : Fin 2) (g : Fin 256) :
    s.readReg (.colGroup ver g) = Sparse.get 0 (s.rte.tab[ver]).group g.val := rfl

theorem State.readReg_colMem (ver : Fin 2) (g : Fin 256) (w : Fin 2048) :
    s.readReg (.colMem ver g w) = Sparse.get 0 (s.rte.tab[ver]).mem (2048 * g.val + w.val) := rfl

theorem State.orderWrite_colGroup (ver : Fin 2) (g : Fin 256) :
    (s.orderWrite (.colGroup ver g) v).rte = { s.rte with tab := s.rte.tab.set ver { s.rte.tab[ver] with
      group := Sparse.set 0 (s.rte.tab[ver]).group g.val
        ((s.readReg (.colGroup ver g) &&& ~~~(0x8000001FFFFF3FFF : W64)) ||| (v &&& 0x8000001FFFFF3FFF)) } } := by
  rw [State.orderWrite_table s v rfl rfl rfl]
  exact congrArg (fun x => ((s.putReg (.colGroup ver g) x).rte)) (clear_none v _)

theorem State.orderWrite_colMem (ver : Fin 2) (g : Fin 256) (w : Fin 2048) :
    (s.orderWrite (.colMem ver g w) v).rte = { s.rte with tab := s.rte.tab.set ver { s.rte.tab[ver] with
      mem := Sparse.set 0 (s.rte.tab[ver]).mem (2048 * g.val + w.val)
        ((s.readReg (.colMem ver g w) &&& ~~~(0x3FFFF0003FFFF : W64)) ||| (v &&& 0x3FFFF0003FFFF)) } } := by
  rw [State.orderWrite_table s v rfl rfl rfl]
  exact congrArg (fun x => ((s.putReg (.colMem ver g w) x).rte)) (clear_none v _)

/-- The chips whose fence bit a write changes are those that it fences and those whose fence ends. -/
theorem mem_fenceChips_xor {w : Fin 4096} {f : ChipId} {old new : W64} (h : f ∈ fenceChips w (old ^^^ new)) :
    f ∈ fenceChips w (new &&& ~~~old) ∨ f ∈ fenceChips w (old &&& ~~~new) := by
  simp only [fenceChips, bitsOf, List.mem_map, List.mem_filter, List.mem_range, BitVec.testBit_toNat, BitVec.getLsbD_xor,
    BitVec.getLsbD_and, BitVec.getLsbD_not] at h ⊢
  obtain ⟨i, ⟨hi, hbit⟩, hf⟩ := h
  cases ho : old.getLsbD i with
  | false =>
    rw [ho, Bool.false_xor] at hbit
    exact .inl ⟨i, ⟨hi, by rw [hbit, ho, decide_eq_true hi]; rfl⟩, hf⟩
  | true =>
    rw [ho, Bool.true_xor, Bool.not_eq_true'] at hbit
    exact .inr ⟨i, ⟨hi, by rw [hbit, ho, decide_eq_true hi]; rfl⟩, hf⟩

/-- The chips that a write of fence word `w` fences. -/
def State.fencesPut (s : State) (w : Fin 4096) (v : W64) : List ChipId := fenceChips w (v &&& ~~~(Sparse.get 0 s.rte.fence w.val))

/-- The state with the new fence word, the chips that it changes fenced or no longer so (R251). -/
def State.refenced (s : State) (w : Fin 4096) (v : W64) : State :=
  ({ s with rte := { s.rte with fence := Sparse.set 0 s.rte.fence w.val v } } : State).refence (s.fencesPut w v)
    (fenceChips w (Sparse.get 0 s.rte.fence w.val &&& ~~~v))

theorem State.writeFence_eq (w : Fin 4096) :
    s.writeFence w v =
      if (s.fencesPut w v).contains s.rte.selfId then (s.refenced w v).roundFenced.quiesceFenced.enterFenced
      else (s.refenced w v).roundFenced.quiesceFenced := rfl

theorem State.writeFence_sheds (w : Fin 4096) : (s.refenced w v).Sheds (s.writeFence w v) := by
  have hround : (s.refenced w v).Sheds (s.refenced w v).roundFenced.quiesceFenced := .of_peers_eq (by simp)
  rw [State.writeFence_eq]
  split
  · exact hround.trans (.of_peers (State.enterFenced_peers _))
  · exact hround

theorem State.writeFence_fence (w : Fin 4096) : (s.writeFence w v).rte.fence = Sparse.set 0 s.rte.fence w.val v :=
  (s.writeFence_sheds v w).fence.trans (State.refence_sheds _ _ _).fence

theorem State.writeFence_forgets (w : Fin 4096) {f : ChipId} (h : f ∈ fenceChips w (Sparse.get 0 s.rte.fence w.val ^^^ v)) :
    (s.writeFence w v).forgets f :=
  (s.writeFence_sheds v w).forgets (State.refence_forgets _ _ _ (mem_fenceChips_xor h))

theorem State.writeFence_unqueued (w : Fin 4096) {f : ChipId} (h : f ∈ s.fencesPut w v) (l : LinkId) :
    (s.writeFence w v).unqueued f l :=
  (s.writeFence_sheds v w).unqueued (State.refence_unqueued _ _ _ h l)

/-- A chip that fences itself enters FENCED (R251). -/
theorem State.writeFence_self (w : Fin 4096) (h : s.rte.selfId ∈ s.fencesPut w v) : (s.writeFence w v).dev.st = .fenced := by
  rw [State.writeFence_eq, if_pos (List.contains_iff_mem.mpr h)]
  exact congrArg Peers.st (State.enterFenced_peers _)

end Effects

/-! ### The writes of RTE_SELF in WARDEN-UP and of RTE_FENCE -/

section Commands
variable {s : State} {h : OrderHdr} {v : W64}

theorem exec_rteSelfWrite_wardenUp (hacc : s.accepts (.rteSelfWrite h v) = true) (hst : s.dev.st = .wardenUp) :
    ∃ t, exec (.rteSelfWrite h v) s = .next t ∧ t.rte = s.rte ∧ t.dev.stagedWrites = s.dev.stagedWrites ++ [(.rteSelf, v)] := by
  have hw := (s.heard h).hallWrite_wardenUp_rteSelf v (by rwa [State.heard_dev])
  obtain ⟨code, res, ht⟩ := State.writeOne_made hacc rfl hw
  exact ⟨_, congrArg Host.Outcome.next ht, by simp, by simp⟩

theorem exec_rteFenceWrite {w : Fin 4096} (hacc : s.accepts (.rteFenceWrite h w v) = true) (hst : s.dev.st ≠ .wardenUp) :
    let old := Sparse.get 0 s.rte.fence w.val
    ∃ t, exec (.rteFenceWrite h w v) s = .next t ∧ t.rte.fence = Sparse.set 0 s.rte.fence w.val v ∧
      (∀ f ∈ fenceChips w (old ^^^ v), t.forgets f) ∧
      (∀ f ∈ fenceChips w (v &&& ~~~old), ∀ l, t.unqueued f l) ∧
      (s.rte.selfId ∈ fenceChips w (v &&& ~~~old) → t.dev.st = .fenced) := by
  intro old
  obtain ⟨code, res, ht⟩ := exec_tableWrite_made hacc rfl rfl hst rfl rfl
  have hreply : ((s.heard h).writeFence w v).Sheds (((s.heard h).writeFence w v).reply h code res .none) :=
    .of_peers_eq (congrArg Net.peers (State.reply_net _ h code res .none))
  have hput : (s.heard h).fencesPut w v = fenceChips w (v &&& ~~~old) := by rw [State.fencesPut, State.heard_rte]
  refine ⟨_, ht, ?_, fun f hf => hreply.forgets (State.writeFence_forgets _ v w ?_),
    fun f hf l => hreply.unqueued (State.writeFence_unqueued _ v w (hput ▸ hf) l), fun hself => ?_⟩
  · exact (hreply.fence.trans (State.writeFence_fence _ v w)).trans (by rw [State.heard_rte])
  · rwa [State.heard_rte]
  · rw [State.reply_dev]
    exact State.writeFence_self _ v w (by rwa [hput, State.heard_rte])

end Commands

/-! ### O47 -/

/-- Settles O47: the register's own rule decides whether an accepted write is made, and the reply leaves what the write did. -/
theorem tableRegisterWrites : Obligations.TableRegisterWrites := by
  intro s h v
  refine ⟨fun hacc => ⟨fun hst => ?_, exec_rteSelfWrite_wardenUp hacc, fun hcore hwdn => ?_⟩,
    fun hacc hst => ⟨fun hv => ?_, fun hv hno => ?_⟩,
    fun hacc hst hv => ⟨fun hrun => ?_, fun hrun => ?_⟩,
    fun w hacc hst => exec_rteFenceWrite hacc hst,
    fun ver g hacc hst => ⟨fun hw => ?_, fun hw hvalid hbad => ?_, fun hw hgood => ?_⟩,
    fun ver g w hacc hst => ⟨fun hw hvalid => ?_, fun hno => ?_⟩⟩
  · refine exec_tableWrite_rte hacc rfl rfl (by rw [hst]; nofun) rfl (State.writeRule_rteSelf_coreUp hst) ?_
    rw [State.orderWrite_rteSelf, State.heard_rte]
  · exact exec_tableWrite_refused hacc rfl rfl hwdn rfl (State.writeRule_rteSelf_late hcore hwdn) nofun
  · refine exec_tableWrite_rte hacc rfl rfl hst rfl (State.writeRule_rteFlip_ok hv) ?_
    rw [State.orderWrite_rteFlip, State.heard_rte]
  · exact exec_tableWrite_refused hacc rfl rfl hst rfl (State.writeRule_rteFlip_state hv hno) nofun
  · refine exec_tableWrite_rte hacc rfl rfl hst rfl (by rw [State.writeRule_rteEpoch_release hv, hrun, stateIf_true]) ?_
    rw [State.orderWrite_rteEpoch _ _ hv, State.heard_rte]
  · exact exec_tableWrite_refused hacc rfl rfl hst rfl (by rw [State.writeRule_rteEpoch_release hv, hrun, stateIf_false]) nofun
  · exact exec_tableWrite_refused hacc rfl rfl hst rfl (State.writeRule_colGroup_locked hw) nofun
  · exact exec_tableWrite_refused hacc rfl rfl hst rfl (State.writeRule_colGroup_range hw hvalid hbad) nofun
  · refine exec_tableWrite_rte hacc rfl rfl hst rfl (State.writeRule_colGroup_ok hw hgood) ?_
    simp only [State.orderWrite_colGroup, State.readReg_colGroup, State.heard_rte]
  · refine exec_tableWrite_rte hacc rfl rfl hst rfl (State.writeRule_colMem_ok hw hvalid) ?_
    simp only [State.orderWrite_colMem, State.readReg_colMem, State.heard_rte]
  · exact exec_tableWrite_refused hacc rfl rfl hst rfl (State.writeRule_colMem_state hno) nofun

end Sys2Proof.Machine
end

section
/-!
SUPPORT for O34, O50, O57 and O59. What records, notices and counts of corrected events leave: everything but the chronicle's queue, the
notices and packet numbers of the port and the window of corrected events; and the queue only grows.
-/
namespace Sys2Proof.Machine

/-- The state without the chronicle's queue, the port's notices and packet numbers and the window of corrected events. -/
def State.quiet (s : State) : State :=
  { s with
    dev := { s.dev with corr := [] }
    eth := { s.eth with pn := Vector.replicate 2 0, pnexh := false, noticeNo := 0, notices := [] }
    chr := { s.chr with queue := [], qfull := 0 } }

/-- From `s` to `t` only events and notices have come. -/
structure State.Tells (s t : State) : Prop where
  quiet : t.quiet = s.quiet
  queue : s.chr.queue <+: t.chr.queue

namespace State.Tells

variable {s t u : State}

theorem refl (s : State) : s.Tells s := ⟨rfl, List.prefix_rfl⟩

theorem trans (h : s.Tells t) (h' : t.Tells u) : s.Tells u := ⟨h'.quiet.trans h.quiet, h.queue.trans h'.queue⟩

theorem combs (h : s.Tells t) : t.combs = s.combs := (congrArg State.combs h.quiet :)
theorem squares (h : s.Tells t) : t.squares = s.squares := (congrArg State.squares h.quiet :)
theorem mem (h : s.Tells t) : t.mem = s.mem := (congrArg State.mem h.quiet :)
theorem mcs (h : s.Tells t) : t.mcs = s.mcs := (congrArg State.mcs h.quiet :)
theorem links (h : s.Tells t) : t.links = s.links := (congrArg State.links h.quiet :)
theorem wdn (h : s.Tells t) : t.wdn = s.wdn := (congrArg State.wdn h.quiet :)
theorem pwr (h : s.Tells t) : t.pwr = s.pwr := (congrArg State.pwr h.quiet :)

theorem comb (h : s.Tells t) (c : CombId) : t.comb c = s.comb c := congrArg (·[c]) h.combs

end State.Tells

variable (s : State)

theorem State.record_tells (ev : Event) : s.Tells (s.record ev) := by
  unfold State.record
  split
  · exact ⟨rfl, List.prefix_append ..⟩
  · exact ⟨rfl, List.prefix_rfl⟩

theorem State.frameOut_tells : s.Tells s.frameOut.2 := by
  unfold State.frameOut
  dsimp only
  split
  · exact .refl s
  split
  · exact .refl s
  split
  · exact .refl s
  split
  · change s.Tells (State.record _ _)
    refine State.Tells.trans ?_ (State.record_tells _ _)
    exact ⟨rfl, List.prefix_rfl⟩
  · exact ⟨rfl, List.prefix_rfl⟩

theorem State.notice_tells (b : NoticeBody) : s.Tells (s.notice b) := by
  unfold State.notice
  split
  · have hsent := (show s.Tells { s with eth := { s.eth with noticeNo := s.eth.noticeNo + 1 } } from ⟨rfl, List.prefix_rfl⟩).trans
      (State.frameOut_tells _)
    dsimp only
    split
    · exact hsent.trans ⟨rfl, List.prefix_rfl⟩
    · exact hsent
  · exact .refl s

theorem State.corrected_tells (block n : Nat) : s.Tells (s.corrected block n) := by
  unfold State.corrected
  extract_lets now old
  clear_value old
  split
  · exact .refl s
  have hcount : s.Tells { s with dev := { s.dev with corr := (s.dev.corr.filter (·.1 != block)) ++ [(block, old.1, old.2 + n)] } } :=
    ⟨rfl, List.prefix_rfl⟩
  split
  · split
    · exact (hcount.trans (State.record_tells _ _)).trans (State.notice_tells _ _)
    · exact hcount
  · exact hcount

end Sys2Proof.Machine
end

section
/-!
O34: the sweepers of comb and square stores (R37, R39). A line with one word upset, what a finding leaves in the store's registers (R36), and the
two commands on a store that was clean.
-/
namespace Sys2Proof.Machine

/-! ### Upsets of one line -/

/-- The state with one upset word. -/
def State.upset (s : State) (k : Nat) (x : Upset) : State := s.modMem fun m => { m with upsets := [(k, x)] }

variable {s : State}

theorem State.strikeSram_nil (base line : Nat) : s.strikeSram base line [] = s := rfl

theorem State.strikeSram_one (hclean : s.mem.upsets = []) (base line : Nat) {w : Nat} (hw : w < 8) {x : Upset} (hx : x ≠ .clean) :
    s.strikeSram base line [(w, x)] = s.upset (base / 8 + 8 * line + w) x := by
  have hset : (if x = .double then Upset.double else x) = x := by split <;> simp_all
  simp [State.strikeSram, State.upset, State.modMem, hclean, Sparse.get, Sparse.set, Nat.mod_eq_of_lt hw, hset, hx]

theorem State.touchSram_clean (hclean : s.mem.upsets = []) (u : SweepUnit) (a n : Nat) : s.touchSram u a n = s := by
  simp [State.touchSram, hclean]

theorem State.modMem_upsets_nil (hclean : s.mem.upsets = []) : (s.modMem fun m => { m with upsets := [] }) = s := by
  simp only [State.modMem, ← hclean]

section Line
variable (u : SweepUnit) {a n k : Nat} (hlo : a / 8 ≤ k) (hhi : k ≤ (a + n - 1) / 8)
include hlo hhi

theorem State.touchSram_single (hclean : s.mem.upsets = []) : (s.upset k .single).touchSram u a n = s.eccNote u 1 0 0 := by
  have hmend : (s.upset k .single).modMem (fun m => { m with upsets := [] }) = s := State.modMem_upsets_nil hclean
  have h : (s.upset k .single).touchSram u a n = ((s.upset k .single).modMem fun m => { m with upsets := [] }).eccNote u 1 0 0 := by
    simp [State.touchSram, State.upset, State.modMem, hlo, hhi, Sparse.set]
  rw [h, hmend]

theorem State.touchSram_double : (s.upset k .double).touchSram u a n = (s.upset k .double).eccNote u 0 1 (storeLine u (8 * k)) := by
  simp [State.touchSram, State.upset, State.modMem, hlo, hhi]

end Line

/-! ### What a finding leaves in a store's registers (R36) -/

/-- CMB_ECC or SQR_ECC after `n` corrections and `d` double-bit errors. -/
def eccAfter (r : W64) (n d : Nat) : W64 :=
  let r1 := if n = 0 then r else setB (satF r 32 32 n) 0 true
  if d = 0 then r1 else setB (satF r1 16 16 d) 1 true

theorem eccAfter_correction (r : W64) :
    (eccAfter r 1 0).getLsbD 0 = true ∧ getF (eccAfter r 1 0) 32 32 = min (getF r 32 32 + 1) (2 ^ 32 - 1) := by
  refine ⟨getLsbD_setB _ _ (by decide), ?_⟩
  exact (getF_setF_of_disjoint _ _ (by decide) (by decide)).trans (getF_satF r 1 (by decide))

theorem eccAfter_double (r : W64) :
    (eccAfter r 0 1).getLsbD 1 = true ∧ getF (eccAfter r 0 1) 16 16 = min (getF r 16 16 + 1) 0xFFFF := by
  refine ⟨getLsbD_setB _ _ (by decide), ?_⟩
  exact (getF_setF_of_disjoint _ _ (by decide) (by decide)).trans (getF_satF r 1 (by decide))

/-- A comb's registers after a finding in its store. -/
def Comb.eccNoted (k : Comb) (n d line : Nat) : Comb :=
  { k with ecc := eccAfter k.ecc n d, eccAddr := if d = 0 then k.eccAddr else BitVec.ofNat 64 (line * 64) }

def Square.eccNoted (k : Square) (n d line : Nat) : Square :=
  { k with ecc := eccAfter k.ecc n d, eccAddr := if d = 0 then k.eccAddr else BitVec.ofNat 64 (line * 64) }

theorem State.eccNote_comb_eq (s : State) (c : CombId) (n d line : Nat) :
    s.eccNote (.comb c) n d line =
      (let s1 := s.modComb c fun k => k.eccNoted n d line
      if d = 0 then s1 else (s1.record (.doubleBit (.comb c) line)).notice (.fault 2 1 (combBase c + 64 * line))).corrected 2 n := rfl

theorem State.eccNote_square_eq (s : State) (q : SqId) (n d line : Nat) :
    s.eccNote (.square q) n d line =
      (let s1 := s.modSquare q fun k => k.eccNoted n d line
      if d = 0 then s1 else (s1.record (.doubleBit (.square q) line)).notice (.fault 12 1 (squareBase q + 64 * line))).corrected 12 n := rfl

theorem State.eccNote_comb_tells (s : State) (c : CombId) (n d line : Nat) :
    (s.modComb c fun k => k.eccNoted n d line).Tells (s.eccNote (.comb c) n d line) := by
  rw [State.eccNote_comb_eq]
  refine .trans ?_ (State.corrected_tells _ _ _)
  dsimp only
  split
  · exact .refl _
  · exact (State.record_tells _ _).trans (State.notice_tells _ _)

theorem State.eccNote_square_tells (s : State) (q : SqId) (n d line : Nat) :
    (s.modSquare q fun k => k.eccNoted n d line).Tells (s.eccNote (.square q) n d line) := by
  rw [State.eccNote_square_eq]
  refine .trans ?_ (State.corrected_tells _ _ _)
  dsimp only
  split
  · exact .refl _
  · exact (State.record_tells _ _).trans (State.notice_tells _ _)

@[simp] theorem State.modSquare_square (s : State) (q : SqId) (f : Square → Square) : (s.modSquare q f).squares[q] = f s.squares[q] := by
  simp [State.modSquare]

/-! ### A sweeper over one line (R37, R39) -/

section Sweep
variable {s : State} (hclean : s.mem.upsets = []) (u : SweepUnit) {base line w : Nat} (hw : w < 8) (hbase : base % 64 = 0)
include hclean hw hbase

theorem State.sweepLine_single :
    (s.strikeSram base line [(w, .single)]).sweepLine u (base + 64 * line) = s.eccNote u 1 0 0 := by
  rw [State.strikeSram_one hclean base line hw (by decide), State.sweepLine, State.touchSram_single u (by omega) (by omega) hclean]
  simp [State.doubled, hclean]

theorem State.sweepLine_double :
    (s.strikeSram base line [(w, .double)]).sweepLine u (base + 64 * line) =
      ((s.upset (base / 8 + 8 * line + w) .double).eccNote u 0 1 (storeLine u (base + 64 * line + 8 * w))).poisonRange
        (base + 64 * line) 64 := by
  have hk : 8 * (base / 8 + 8 * line + w) = base + 64 * line + 8 * w := by omega
  have hlo : (base + 64 * line) / 8 ≤ base / 8 + 8 * line + w := by omega
  have hhi : base / 8 + 8 * line + w ≤ (base + 64 * line + 64 - 1) / 8 := by omega
  rw [State.strikeSram_one hclean base line hw (by decide), State.sweepLine, State.touchSram_double u hlo hhi, hk, if_pos]
  simp only [State.doubled, State.eccNote_mem]
  simp [State.upset, State.modMem, hlo]
  omega

end Sweep

theorem State.sweepLine_clean {s : State} (hclean : s.mem.upsets = []) (u : SweepUnit) (a : Nat) : s.sweepLine u a = s := by
  rw [State.sweepLine, State.touchSram_clean hclean]
  simp [State.doubled, hclean]

theorem State.poisonAt_poisonRange_line (s : State) {a : Nat} (ha : a % 64 = 0) : (s.poisonRange a 64).poisonAt a = true := by
  have hone : (a + 64 - 1) / 64 + 1 - a / 64 = 1 := by omega
  rw [State.poisonRange, hone]
  exact Sparse.get_set_self_ne s.mem.poison (a / 64) (by decide)

theorem storeLine_comb (c : CombId) (line : Nat) {w : Nat} (hw : w < 8) : storeLine (.comb c) (combBase c + 64 * line + 8 * w) = line := by
  simp only [storeLine]
  omega

theorem storeLine_square (q : SqId) (line : Nat) {w : Nat} (hw : w < 8) :
    storeLine (.square q) (squareBase q + 64 * line + 8 * w) = line := by
  simp only [storeLine]
  omega

theorem combBase_line (c : CombId) : combBase c % 64 = 0 := by
  unfold combBase
  omega

theorem squareBase_line (q : SqId) : squareBase q % 64 = 0 := by
  unfold squareBase
  omega

/-! ### A store with a double-bit word found and marked

The word and the line are any numbers here: with those of a store the kernel would compute on device addresses. -/

/-- Comb `c` has word `k` upset, its finding noted for `line`, the line at `a` poisoned, and its sweeper moved on by `f`. -/
def State.combMarked (s : State) (c : CombId) (line k a : Nat) (f : Comb → Comb) : State :=
  (((s.upset k .double).eccNote (.comb c) 0 1 line).poisonRange a 64).modComb c f

def State.squareMarked (s : State) (q : SqId) (line k a : Nat) (f : Square → Square) : State :=
  (((s.upset k .double).eccNote (.square q) 0 1 line).poisonRange a 64).modSquare q f

section Marked
variable (s : State) (c : CombId) (q : SqId) (line k : Nat) {a : Nat} (f : Comb → Comb) (g : Square → Square)

theorem State.combMarked_poisonAt (ha : a % 64 = 0) : (s.combMarked c line k a f).poisonAt a = true :=
  State.poisonAt_poisonRange_line _ ha

theorem State.squareMarked_poisonAt (ha : a % 64 = 0) : (s.squareMarked q line k a g).poisonAt a = true :=
  State.poisonAt_poisonRange_line _ ha

theorem State.combMarked_bytes : (s.combMarked c line k a f).mem.bytes = s.mem.bytes :=
  (congrArg Mem.bytes ((s.upset k .double).eccNote_mem (.comb c) 0 1 line) :)

theorem State.squareMarked_bytes : (s.squareMarked q line k a g).mem.bytes = s.mem.bytes :=
  (congrArg Mem.bytes ((s.upset k .double).eccNote_mem (.square q) 0 1 line) :)

theorem State.combMarked_comb : (s.combMarked c line k a f).comb c = f ((s.comb c).eccNoted 0 1 line) := by
  have htells := (s.upset k .double).eccNote_comb_tells c 0 1 line
  rw [State.combMarked, State.modComb_comb]
  exact congrArg f ((htells.comb c).trans (State.modComb_comb _ _ _))

theorem State.squareMarked_square : (s.squareMarked q line k a g).squares[q] = g ((s.squares[q] : Square).eccNoted 0 1 line) := by
  have htells := (s.upset k .double).eccNote_square_tells q 0 1 line
  rw [State.squareMarked, State.modSquare_square]
  exact congrArg g ((congrArg (·[q]) htells.squares).trans (State.modSquare_square _ _ _))

end Marked

/-! ### COMB_STORE_SWEEP and SQUARE_STORE_SWEEP -/

/-- A comb after its sweeper has moved on to the next line. -/
def Comb.sweptOn (k : Comb) : Comb :=
  { k with sweepAt := (sweepNext 983040 k.sweepAt k.sweep).1, sweep := (sweepNext 983040 k.sweepAt k.sweep).2 }

def Square.sweptOn (k : Square) : Square :=
  { k with sweepAt := (sweepNext 262144 k.sweepAt k.sweep).1, sweep := (sweepNext 262144 k.sweepAt k.sweep).2 }

theorem exec_combStoreSweep {s : State} {c : CombId} {line : Nat} (hline : line < 983040) (hon : getF (s.comb c).sweep 32 1 = 1)
    (struck : List (Nat × Upset)) :
    exec (.combStoreSweep c line struck) s =
      .next (((s.strikeSram (combBase c) line struck).sweepLine (.comb c) (combBase c + 64 * line)).modComb c Comb.sweptOn) := by
  have hon' : getF ((s.strikeSram (combBase c) line struck).comb c).sweep 32 1 ≠ 0 := by
    change getF (s.comb c).sweep 32 1 ≠ 0
    omega
  change execCombStoreSweep c line struck s = _
  rw [execCombStoreSweep, if_neg (Nat.not_le.mpr hline)]
  exact congrArg Host.Outcome.next (if_neg hon')

theorem exec_squareStoreSweep {s : State} {q : SqId} {line : Nat} (hline : line < 262144) (hon : getF (s.squares[q] : Square).sweep 32 1 = 1)
    (struck : List (Nat × Upset)) :
    exec (.squareStoreSweep q line struck) s =
      .next (((s.strikeSram (squareBase q) line struck).sweepLine (.square q) (squareBase q + 64 * line)).modSquare q Square.sweptOn) := by
  have hon' : getF ((s.strikeSram (squareBase q) line struck).squares[q] : Square).sweep 32 1 ≠ 0 := by
    change getF (s.squares[q] : Square).sweep 32 1 ≠ 0
    omega
  change execSquareStoreSweep q line struck s = _
  rw [execSquareStoreSweep, if_neg (Nat.not_le.mpr hline)]
  exact congrArg Host.Outcome.next (if_neg hon')

theorem State.modComb_onlyComb (s : State) (c : CombId) (f : Comb → Comb) : s.onlyComb c (s.modComb c f) := by
  simp [State.onlyComb, State.comb, State.modComb]

section Comb
variable {s : State} (hclean : s.mem.upsets = []) {c : CombId} {line w : Nat} (hw : w < 8) (hline : line < 983040)
  (hon : getF (s.comb c).sweep 32 1 = 1)
include hclean hline hon

theorem exec_combStoreSweep_clean : exec (.combStoreSweep c line []) s = .next (s.modComb c Comb.sweptOn) := by
  rw [exec_combStoreSweep hline hon, State.strikeSram_nil, State.sweepLine_clean hclean]

include hw

theorem exec_combStoreSweep_single :
    ∃ t, exec (.combStoreSweep c line [(w, .single)]) s = .next t ∧ t.mem = s.mem ∧
      t.comb c = ((s.comb c).eccNoted 1 0 0).sweptOn := by
  have htells := s.eccNote_comb_tells c 1 0 0
  refine ⟨_, exec_combStoreSweep hline hon _, ?_, ?_⟩
  · rw [State.sweepLine_single hclean _ hw (combBase_line c), State.modComb_mem, htells.mem, State.modComb_mem]
  · rw [State.sweepLine_single hclean _ hw (combBase_line c), State.modComb_comb, htells.comb, State.modComb_comb]

theorem exec_combStoreSweep_double :
    ∃ t, exec (.combStoreSweep c line [(w, .double)]) s = .next t ∧ t.poisonAt (combBase c + 64 * line) = true ∧
      t.mem.bytes = s.mem.bytes ∧ t.comb c = ((s.comb c).eccNoted 0 1 line).sweptOn := by
  have hbase := combBase_line c
  refine ⟨s.combMarked c line (combBase c / 8 + 8 * line + w) (combBase c + 64 * line) Comb.sweptOn, ?_,
    State.combMarked_poisonAt _ _ _ _ _ (by omega), State.combMarked_bytes _ _ _ _ _, State.combMarked_comb _ _ _ _ _⟩
  rw [exec_combStoreSweep hline hon, State.sweepLine_double hclean _ hw hbase, storeLine_comb c line hw, State.combMarked]

end Comb

section Square
variable {s : State} (hclean : s.mem.upsets = []) {q : SqId} {line w : Nat} (hw : w < 8) (hline : line < 262144)
  (hon : getF (s.squares[q] : Square).sweep 32 1 = 1)
include hclean hline hon hw

theorem exec_squareStoreSweep_single :
    ∃ t, exec (.squareStoreSweep q line [(w, .single)]) s = .next t ∧ t.mem = s.mem ∧ t.combs = s.combs ∧
      t.squares[q] = ((s.squares[q] : Square).eccNoted 1 0 0).sweptOn := by
  have htells := s.eccNote_square_tells q 1 0 0
  refine ⟨_, exec_squareStoreSweep hline hon _, ?_⟩
  rw [State.sweepLine_single hclean _ hw (squareBase_line q), State.modSquare_mem, State.modSquare_combs, State.modSquare_square,
    htells.mem, htells.combs, htells.squares, State.modSquare_square]
  exact ⟨rfl, rfl, rfl⟩

theorem exec_squareStoreSweep_double :
    ∃ t, exec (.squareStoreSweep q line [(w, .double)]) s = .next t ∧ t.poisonAt (squareBase q + 64 * line) = true ∧
      t.mem.bytes = s.mem.bytes ∧ t.squares[q] = ((s.squares[q] : Square).eccNoted 0 1 line).sweptOn := by
  have hbase := squareBase_line q
  refine ⟨s.squareMarked q line (squareBase q / 8 + 8 * line + w) (squareBase q + 64 * line) Square.sweptOn, ?_,
    State.squareMarked_poisonAt _ _ _ _ _ (by omega), State.squareMarked_bytes _ _ _ _ _, State.squareMarked_square _ _ _ _ _⟩
  rw [exec_squareStoreSweep hline hon, State.sweepLine_double hclean _ hw hbase, storeLine_square q line hw, State.squareMarked]

end Square

/-! ### O34 -/

/-- Settles O34: the sweeper finds nothing, a word that it corrects, or one that it cannot correct. -/
theorem sramSweepers : Obligations.SramSweepers := by
  intro s line w hw hclean
  refine ⟨fun c hline hon => ⟨?_, ?_, ?_⟩, fun q hline hon => ⟨?_, ?_⟩⟩
  · refine ⟨_, exec_combStoreSweep_clean hclean hline hon, State.modComb_onlyComb s c _, ?_, ?_⟩ <;> rw [State.modComb_comb]
    · rfl
    · exact apply_ite Prod.fst _ _ _
  · obtain ⟨t, ht, hmem, hcomb⟩ := exec_combStoreSweep_single hclean hw hline hon
    obtain ⟨hbit, hcount⟩ := eccAfter_correction (s.comb c).ecc
    exact ⟨t, ht, hmem, hcomb ▸ hbit, hcomb ▸ hcount, hcomb ▸ rfl⟩
  · obtain ⟨t, ht, hpoison, hbytes, hcomb⟩ := exec_combStoreSweep_double hclean hw hline hon
    obtain ⟨hbit, hcount⟩ := eccAfter_double (s.comb c).ecc
    exact ⟨t, ht, hpoison, hbytes, hcomb ▸ hbit, hcomb ▸ hcount, hcomb ▸ rfl⟩
  · obtain ⟨t, ht, hmem, hcombs, hsquare⟩ := exec_squareStoreSweep_single hclean hw hline hon
    obtain ⟨hbit, hcount⟩ := eccAfter_correction (s.squares[q] : Square).ecc
    exact ⟨t, ht, hmem, hsquare ▸ hbit, hsquare ▸ hcount, hcombs⟩
  · obtain ⟨t, ht, hpoison, hbytes, hsquare⟩ := exec_squareStoreSweep_double hclean hw hline hon
    obtain ⟨hbit, -⟩ := eccAfter_double (s.squares[q] : Square).ecc
    exact ⟨t, ht, hpoison, hbytes, hsquare ▸ hbit, hsquare ▸ rfl⟩

end Sys2Proof.Machine
end

section
/-!
SUPPORT for O50 and O57. What replies leave besides events and notices; the state in which an order is executed; and an order with one write
of a register that a REG_WRITE reaches (R362).
-/
namespace Sys2Proof.Machine

/-! ### Replies -/

/-- The state without what leaves by the port and what the reply cache holds. -/
def State.mute (s : State) : State := { s.quiet with eth := { s.quiet.eth with replies := [], cache := [] } }

/-- From `s` to `t` only events, notices and replies have come. -/
structure State.Answers (s t : State) : Prop where
  mute : t.mute = s.mute
  queue : s.chr.queue <+: t.chr.queue

namespace State.Answers

variable {s t u : State}

theorem of_tells (h : s.Tells t) : s.Answers t :=
  ⟨congrArg (fun x : State => { x with eth := { x.eth with replies := [], cache := [] } }) h.quiet, h.queue⟩

theorem refl (s : State) : s.Answers s := .of_tells (.refl s)

theorem trans (h : s.Answers t) (h' : t.Answers u) : s.Answers u := ⟨h'.mute.trans h.mute, h.queue.trans h'.queue⟩

theorem combs (h : s.Answers t) : t.combs = s.combs := (congrArg State.combs h.mute :)
theorem squares (h : s.Answers t) : t.squares = s.squares := (congrArg State.squares h.mute :)
theorem mem (h : s.Answers t) : t.mem = s.mem := (congrArg State.mem h.mute :)
theorem mcs (h : s.Answers t) : t.mcs = s.mcs := (congrArg State.mcs h.mute :)
theorem wdn (h : s.Answers t) : t.wdn = s.wdn := (congrArg State.wdn h.mute :)
theorem pwr (h : s.Answers t) : t.pwr = s.pwr := (congrArg State.pwr h.mute :)
theorem cfg (h : s.Answers t) : t.eth.cfg = s.eth.cfg := (congrArg (·.eth.cfg) h.mute :)
theorem linkUp (h : s.Answers t) : t.eth.linkUp = s.eth.linkUp := (congrArg (·.eth.linkUp) h.mute :)

theorem comb (h : s.Answers t) (c : CombId) : t.comb c = s.comb c := congrArg (·[c]) h.combs

end State.Answers

variable (s : State)

theorem State.sendReply_answers (r : Reply) : s.Answers (s.sendReply r) := by
  have hsent := State.Answers.of_tells s.frameOut_tells
  unfold State.sendReply
  dsimp only
  split
  · exact hsent.trans ⟨rfl, List.prefix_rfl⟩
  · exact hsent

/-- A reply is what goes out, once the reply cache holds it. -/
theorem State.reply_eq (h : OrderHdr) (code : BitVec 8) (res : Result) (b : ReplyBody) : ∃ cache, s.reply h code res b =
    ({ s with eth := { s.eth with cache := cache } } : State).sendReply ⟨h.src, code, h.seq, res, s.dev.st, b⟩ := ⟨_, rfl⟩

theorem State.reply_answers (h : OrderHdr) (code : BitVec 8) (res : Result) (b : ReplyBody) : s.Answers (s.reply h code res b) := by
  obtain ⟨cache, hsent⟩ := s.reply_eq h code res b
  rw [hsent]
  refine State.Answers.trans ?_ (State.sendReply_answers _ _)
  exact ⟨rfl, List.prefix_rfl⟩

/-- Without MACsec a reply takes no packet number, and goes out where the port is up. -/
theorem State.sendReply_bare (hbare : getF s.eth.cfg 33 1 = 0) (r : Reply) :
    s.sendReply r = if s.eth.linkUp then { s with eth := { s.eth with replies := s.eth.replies ++ [r] } } else s := by
  have hout : s.frameOut = (s.eth.linkUp, s) := by
    unfold State.frameOut
    cases s.eth.linkUp <;> simp [hbare]
  rw [State.sendReply, hout]

/-- Without MACsec a reply records nothing. -/
theorem State.reply_chr (hbare : getF s.eth.cfg 33 1 = 0) (h : OrderHdr) (code : BitVec 8) (res : Result) (b : ReplyBody) :
    (s.reply h code res b).chr = s.chr := by
  obtain ⟨cache, hsent⟩ := s.reply_eq h code res b
  rw [hsent, State.sendReply_bare]
  · split <;> rfl
  · exact hbare

/-! ### The state in which an order is executed (R357 to R359) -/

/-- Taking an order up changes the places of the orders that wait, the reply cache and the nonces. -/
theorem State.heard_parts (h : OrderHdr) : ∃ seats cache nonces, s.heard h =
    { s with eth := { s.eth with seats := seats, cache := cache }, wdn := { s.wdn with nonceStore := nonces } } := by
  obtain ⟨l, hl⟩ := s.seated_snd
  rw [State.heard, hl]
  unfold State.noted Wdn.takeNonce
  split
  · exact ⟨_, _, _, rfl⟩
  · exact ⟨_, _, _, rfl⟩

@[simp] theorem State.heard_mem (h : OrderHdr) : (s.heard h).mem = s.mem := by
  obtain ⟨e, w, he⟩ := s.heard_eq h
  rw [he]

@[simp] theorem State.heard_mcs (h : OrderHdr) : (s.heard h).mcs = s.mcs := by
  obtain ⟨e, w, he⟩ := s.heard_eq h
  rw [he]

@[simp] theorem State.heard_links (h : OrderHdr) : (s.heard h).links = s.links := by
  obtain ⟨e, w, he⟩ := s.heard_eq h
  rw [he]

@[simp] theorem State.heard_chr (h : OrderHdr) : (s.heard h).chr = s.chr := by
  obtain ⟨e, w, he⟩ := s.heard_eq h
  rw [he]

@[simp] theorem State.heard_chm (h : OrderHdr) : (s.heard h).chm = s.chm := by
  obtain ⟨e, w, he⟩ := s.heard_eq h
  rw [he]

@[simp] theorem State.heard_pwr (h : OrderHdr) : (s.heard h).pwr = s.pwr := by
  obtain ⟨e, w, he⟩ := s.heard_eq h
  rw [he]

@[simp] theorem State.heard_cfg (h : OrderHdr) : (s.heard h).eth.cfg = s.eth.cfg := by
  obtain ⟨l, c, n, he⟩ := s.heard_parts h
  rw [he]

@[simp] theorem State.heard_prof (h : OrderHdr) : (s.heard h).wdn.prof = s.wdn.prof := by
  obtain ⟨l, c, n, he⟩ := s.heard_parts h
  rw [he]

/-- An order that is executed is allowed in the device's state (R360). -/
theorem State.accepts_state {s : State} {c : Instr} {h : OrderHdr} {u : OrderRule} (hacc : s.accepts c = true)
    (horder : s.orderRule c = some (h, u)) : s.dev.st ∈ u.states := by
  simp only [State.accepts, horder, Bool.and_eq_true] at hacc
  exact List.contains_iff_mem.mp hacc.2

/-! ### REG_WRITE with one write -/

section RegOrder
variable {s : State} {c : Instr} {h : OrderHdr} {r : Reg} {v : W64} (hacc : s.accepts c = true)
  (horder : s.orderRule c = some (oneWrite h false r v)) (hexec : exec c s = .next (s.writeOne h false r v))
  (hst : s.dev.st ≠ .wardenUp) (hr : tableOnly r = false)
include hacc horder hexec hst hr

theorem exec_regWrite_made (hok : s.writeRule r v = .ok) :
    exec c s = .next (((s.heard h).orderWrite r v).reply h 0x03 (doneResult s.dev.st ((s.heard h).orderWrite r v).dev.st) .none) := by
  have hreach : (s.heard h).reachRule false r = .ok := by simp [State.reachRule, hst, hr]
  have hw : (s.heard h).hallWrite false (some r) v = ((s.heard h).orderWrite r v, .ok) := by
    simp only [State.hallWrite, hreach, State.heard_dev, hst, State.heard_writeRule, hok, if_false]
  rw [hexec, State.writeOne_accepted hacc horder, hw]
  rfl

theorem exec_regWrite_refused {x : Result} (hno : s.writeRule r v = x) (hx : x ≠ .ok) :
    exec c s = .next ((s.heard h).refuse h 0x03 true x (.index 0)) := by
  have hreach : (s.heard h).reachRule false r = .ok := by simp [State.reachRule, hst, hr]
  have hw : (s.heard h).hallWrite false (some r) v = (s.heard h, x) := by
    subst hno
    simp only [State.hallWrite, hreach, State.heard_dev, hst, State.heard_writeRule, if_false]
  rw [hexec, State.writeOne_refused hacc horder hw hx]
  rfl

/-- Where a write leaves the device's state alone its order is answered OK. -/
theorem exec_regWrite_answered (hok : s.writeRule r v = .ok) (hdev : ((s.heard h).orderWrite r v).dev = s.dev) :
    exec c s = .next (((s.heard h).orderWrite r v).reply h 0x03 .ok .none) := by
  rw [exec_regWrite_made hacc horder hexec hst hr hok, hdev, doneResult, if_neg (fun hne => hne.1 hne.2)]

end RegOrder

end Sys2Proof.Machine
end

section
/-!
O50: register writes by order that act on a unit (R37, R220, R224, R346, R368, R406, R409), each by its register's own rule and effect.
-/
namespace Sys2Proof.Machine

/-! ### MEM_STRENGTH (R346) -/

theorem mem_zonesChanged {old new : W64} {z : Nat} : z ∈ zonesChanged old new ↔ z < 8 ∧ zoneCode old z ≠ zoneCode new z := by
  simp [zonesChanged]

/-- One zone differs. -/
theorem zonesChanged_one {old new : W64} {z : Nat} (hz : z < 8) (hdiff : zoneCode old z ≠ zoneCode new z)
    (hsame : ∀ y, y < 8 → y ≠ z → zoneCode old y = zoneCode new y) : zonesChanged old new = [z] := by
  refine List.perm_singleton.mp ((List.perm_ext_iff_of_nodup (List.nodup_range.filter _) (List.nodup_singleton z)).mpr fun y => ?_)
  rw [← zonesChanged, mem_zonesChanged, List.mem_singleton]
  refine ⟨fun ⟨hy, hne⟩ => ?_, fun hyz => hyz ▸ ⟨hz, hdiff⟩⟩
  by_contra hyz
  exact hne (hsame y hy hyz)

/-- Two zones differ. -/
theorem zonesChanged_two {old new : W64} {y z : Nat} (hy : y < 8) (hz : z < 8) (hyz : y ≠ z) (hydiff : zoneCode old y ≠ zoneCode new y)
    (hzdiff : zoneCode old z ≠ zoneCode new z) : ¬ (zonesChanged old new).length ≤ 1 := by
  intro hlen
  have hmy := mem_zonesChanged.mpr ⟨hy, hydiff⟩
  have hmz := mem_zonesChanged.mpr ⟨hz, hzdiff⟩
  match hl : zonesChanged old new with
  | [] => simp [hl] at hmy
  | [x] => simp only [hl, List.mem_singleton] at hmy hmz; omega
  | _ :: _ :: _ => simp [hl] at hlen

theorem zoneCode_lt (v : W64) (z : Nat) : zoneCode v z < 4 := getF_lt v (2 * z) 2

/-- The fields of a recode of zone `z` at its start. -/
theorem recode_fields : ∀ z < 8, ∀ a < 4, ∀ b < 4,
    let r := pack [(63, 1), (48, z), (44, a), (40, b)]
    getF r 63 1 = 1 ∧ getF r 48 3 = z ∧ getF r 0 21 = 0 ∧ getF r 44 2 = a ∧ getF r 40 2 = b := by decide

section Strength
variable {s : State} {m : McId} {v : W64}

theorem State.writeRule_memStrength_high (hhigh : ∃ z, z < 8 ∧ getF s.mem.cfg 32 2 < zoneCode v z) :
    s.writeRule (.memStrength m) v = .range := by
  obtain ⟨z, hz, hlt⟩ := hhigh
  exact if_pos (List.any_eq_true.mpr ⟨z, List.mem_range.mpr hz, decide_eq_true hlt⟩)

theorem State.writeRule_memStrength (hhigh : ¬ ∃ z, z < 8 ∧ getF s.mem.cfg 32 2 < zoneCode v z) :
    s.writeRule (.memStrength m) v =
      stateIf (!(s.dev.st == .wardenUp || s.dev.st == .muster || s.dev.st == .fenced || s.dev.st == .resetting) &&
        getF (s.mcs[m] : Mc).recode 63 1 == 0 && decide ((zonesChanged (s.mcs[m] : Mc).strength v).length ≤ 1)) := by
  refine if_neg fun hany => hhigh ?_
  obtain ⟨z, hz, hlt⟩ := List.any_eq_true.mp hany
  exact ⟨z, List.mem_range.mp hz, of_decide_eq_true hlt⟩

theorem State.orderWrite_memStrength (s : State) (m : McId) (v : W64) {z : Nat} (hone : zonesChanged (s.mcs[m] : Mc).strength v = [z]) :
    s.orderWrite (.memStrength m) v = s.modMc m fun k => { k with
      strength := v &&& 0xFFFF, recode := pack [(63, 1), (48, z), (44, zoneCode (s.mcs[m] : Mc).strength z), (40, zoneCode v z)] } := by
  change s.startRecode m v = _
  rw [State.startRecode, hone]

end Strength

@[simp] theorem State.modMc_mc (s : State) (m : McId) (f : Mc → Mc) : (s.modMc m f).mcs[m] = f s.mcs[m] := by
  simp [State.modMc]

section StrengthOrder
variable {s : State} {h : OrderHdr} {m : McId} {v : W64} (hacc : s.accepts (.memStrengthWrite h m v) = true) (hst : s.dev.st ≠ .wardenUp)
include hacc hst

theorem exec_memStrengthWrite_high (hhigh : ∃ z, z < 8 ∧ getF s.mem.cfg 32 2 < zoneCode v z) :
    exec (.memStrengthWrite h m v) s = .next ((s.heard h).refuse h 0x03 true .range (.index 0)) :=
  exec_regWrite_refused hacc rfl rfl hst rfl (State.writeRule_memStrength_high hhigh) nofun

theorem exec_memStrengthWrite_two (hhigh : ¬ ∃ z, z < 8 ∧ getF s.mem.cfg 32 2 < zoneCode v z)
    (htwo : ∃ y z, y < 8 ∧ z < 8 ∧ y ≠ z ∧ zoneCode (s.mcs[m] : Mc).strength y ≠ zoneCode v y ∧
      zoneCode (s.mcs[m] : Mc).strength z ≠ zoneCode v z) :
    exec (.memStrengthWrite h m v) s = .next ((s.heard h).refuse h 0x03 true .state (.index 0)) := by
  obtain ⟨y, z, hy, hz, hyz, hydiff, hzdiff⟩ := htwo
  refine exec_regWrite_refused hacc rfl rfl hst rfl ?_ nofun
  rw [State.writeRule_memStrength hhigh, decide_eq_false (zonesChanged_two hy hz hyz hydiff hzdiff), Bool.and_false, stateIf_false]

theorem exec_memStrengthWrite_busy (hhigh : ¬ ∃ z, z < 8 ∧ getF s.mem.cfg 32 2 < zoneCode v z)
    (hmay : ¬ ((s.dev.st = .coreUp ∨ s.dev.st = .ready ∨ s.dev.st = .running ∨ s.dev.st = .quiesced) ∧
      getF (s.mcs[m] : Mc).recode 63 1 = 0)) :
    exec (.memStrengthWrite h m v) s = .next ((s.heard h).refuse h 0x03 true .state (.index 0)) := by
  have hallowed : s.dev.st ∈ allButX := State.accepts_state hacc rfl
  refine exec_regWrite_refused hacc rfl rfl hst rfl ?_ nofun
  rw [State.writeRule_memStrength hhigh]
  suffices hno : (!(s.dev.st == .wardenUp || s.dev.st == .muster || s.dev.st == .fenced || s.dev.st == .resetting) &&
      getF (s.mcs[m] : Mc).recode 63 1 == 0) = false by rw [hno, Bool.false_and, stateIf_false]
  revert hallowed hmay
  cases s.dev.st <;> simp [allButX]

theorem exec_memStrengthWrite_one (hhigh : ¬ ∃ z, z < 8 ∧ getF s.mem.cfg 32 2 < zoneCode v z)
    (hmay : (s.dev.st = .coreUp ∨ s.dev.st = .ready ∨ s.dev.st = .running ∨ s.dev.st = .quiesced) ∧
      getF (s.mcs[m] : Mc).recode 63 1 = 0) {z : Nat} (hone : zonesChanged (s.mcs[m] : Mc).strength v = [z]) :
    ∃ t, exec (.memStrengthWrite h m v) s = .next t ∧ t.mem = s.mem ∧ t.mcs[m] = { (s.mcs[m] : Mc) with
      strength := v &&& 0xFFFF, recode := pack [(63, 1), (48, z), (44, zoneCode (s.mcs[m] : Mc).strength z), (40, zoneCode v z)] } := by
  obtain ⟨hup, hidle⟩ := hmay
  have hok : s.writeRule (.memStrength m) v = .ok := by
    rw [State.writeRule_memStrength hhigh, hone, hidle]
    rcases hup with h | h | h | h <;> rw [h] <;> rfl
  have heffect := (s.heard h).orderWrite_memStrength m v (z := z) (by rwa [State.heard_mcs])
  have hanswer := exec_regWrite_answered hacc rfl rfl hst rfl hok (by rw [heffect, State.modMc_dev, State.heard_dev])
  rw [heffect] at hanswer
  refine ⟨_, hanswer, ?_, ?_⟩
  · rw [(State.reply_answers _ _ _ _ _).mem, State.modMc_mem, State.heard_mem]
  · rw [(State.reply_answers _ _ _ _ _).mcs, State.modMc_mc, State.heard_mcs]

end StrengthOrder

/-! ### Sweepers (R37, R39, R349) -/

/-- A write of a sweeper's register: the period is taken at the nearer of its bounds. -/
theorem regMerge_sweepReg (u : SweepUnit) (old v : W64) :
    ∃ p, regMerge (sweepReg u) old v = setF ((old &&& ~~~sweepBits) ||| (v &&& sweepBits)) 0 16 p := by
  cases u with
  | comb c => exact ⟨_, congrArg (fun x : W64 => setF x 0 16 (clamp 600 60000 (getF x 0 16))) (clear_none v _)⟩
  | square q => exact ⟨_, congrArg (fun x : W64 => setF x 0 16 (clamp 600 60000 (getF x 0 16))) (clear_none v _)⟩
  | hbm m => exact ⟨_, congrArg (fun x : W64 => setF x 0 16 (clamp 12 3600 (getF x 0 16))) (clear_none v _)⟩

theorem getF_regMerge_sweepReg_enable (u : SweepUnit) (old v : W64) : getF (regMerge (sweepReg u) old v) 32 1 = getF v 32 1 := by
  obtain ⟨p, hp⟩ := regMerge_sweepReg u old v
  rw [hp, getF_setF_of_disjoint _ _ (by decide) (by decide)]
  exact getF_merged (fun i hl hu => getLsbD_sweepBits (.inr (by omega))) old v

theorem sweepNote_sweepReg (s : State) (u : SweepUnit) (old new : W64) :
    s.sweepNote (sweepReg u) old new = if getF old 32 1 = 1 ∧ getF new 32 1 = 0 then s.record (.sweepOff u) else s := by
  cases u <;> rfl

theorem regWhole_sweepReg (u : SweepUnit) : regWhole (sweepReg u) = true := by
  cases u <;> rfl

/-- The sweepers' registers stand in combs, squares and controllers. -/
theorem State.Answers.readReg_sweepReg {s t : State} (h : s.Answers t) (u : SweepUnit) : t.readReg (sweepReg u) = s.readReg (sweepReg u) := by
  cases u with
  | comb c => exact congrArg Comb.sweep (h.comb c)
  | square q => exact congrArg (fun x : Vector Square 16 => (x[q] : Square).sweep) h.squares
  | hbm m => exact congrArg (fun x : Vector Mc 24 => (x[m] : Mc).sweep) h.mcs

@[simp] theorem State.heard_readReg_sweepReg (s : State) (h : OrderHdr) (u : SweepUnit) :
    (s.heard h).readReg (sweepReg u) = s.readReg (sweepReg u) := by
  obtain ⟨e, w, he⟩ := s.heard_eq h
  rw [he]
  cases u <;> rfl

section PutSweep
variable (s : State) (u : SweepUnit) (w : W64)

@[simp] theorem State.putReg_sweepReg_mem : (s.putReg (sweepReg u) w).mem = s.mem := by cases u <;> rfl
@[simp] theorem State.putReg_sweepReg_chr : (s.putReg (sweepReg u) w).chr = s.chr := by cases u <;> rfl
@[simp] theorem State.putReg_sweepReg_eth : (s.putReg (sweepReg u) w).eth = s.eth := by cases u <;> rfl

end PutSweep

/-- A write of a sweeper's register puts the merged word there, and records a sweeper switched off. -/
theorem State.orderWrite_sweepReg (s : State) (u : SweepUnit) (v : W64) :
    let old := s.readReg (sweepReg u)
    let put := s.putReg (sweepReg u) (regMerge (sweepReg u) old v)
    s.orderWrite (sweepReg u) v = if getF old 32 1 = 1 ∧ getF v 32 1 = 0 then put.record (.sweepOff u) else put := by
  intro old put
  rw [← getF_regMerge_sweepReg_enable u old v, ← sweepNote_sweepReg]
  cases u <;> rfl

theorem State.orderWrite_sweepReg_tells (s : State) (u : SweepUnit) (v : W64) :
    (s.putReg (sweepReg u) (regMerge (sweepReg u) (s.readReg (sweepReg u)) v)).Tells (s.orderWrite (sweepReg u) v) := by
  rw [State.orderWrite_sweepReg]
  split
  · exact State.record_tells _ _
  · exact .refl _

theorem State.writeRule_sweepReg {s : State} (hst : s.dev.st ∈ [DevState.coreUp, .ready, .running, .quiesced]) (u : SweepUnit) (v : W64) :
    s.writeRule (sweepReg u) v = .ok := by
  cases u with
  | comb c => rfl
  | square q => rfl
  | hbm m =>
    change stateIf _ = .ok
    simp only [List.mem_cons, List.not_mem_nil, or_false] at hst
    rcases hst with h | h | h | h <;> rw [h] <;> rfl

theorem exec_sweeperDisable {s : State} {h : OrderHdr} {u : SweepUnit} (hacc : s.accepts (.sweeperDisable h u) = true)
    (hst : s.dev.st ∈ [DevState.coreUp, .ready, .running, .quiesced]) (hbare : getF s.eth.cfg 33 1 = 0) :
    ∃ t, exec (.sweeperDisable h u) s = .next t ∧ getF (t.readReg (sweepReg u)) 32 1 = 0 ∧ t.mem = s.mem ∧
      (s.chr.queue.length < 1024 → t.chr.queue.map (·.event) = s.chr.queue.map (·.event) ++
        if getF (s.readReg (sweepReg u)) 32 1 = 1 then [Event.sweepOff u] else []) := by
  let v := setB (s.readReg (sweepReg u)) 32 false
  let put := (s.heard h).putReg (sweepReg u) (regMerge (sweepReg u) ((s.heard h).readReg (sweepReg u)) v)
  have hoff : getF v 32 1 = 0 := getF_setF_same _ _ (by decide)
  have hwdn : s.dev.st ≠ .wardenUp := by
    intro hw
    rw [hw] at hst
    exact absurd hst (by decide)
  have htable : tableOnly (sweepReg u) = false := by cases u <;> rfl
  have htells : put.Tells ((s.heard h).orderWrite (sweepReg u) v) := State.orderWrite_sweepReg_tells _ u v
  have hbare' : getF ((s.heard h).orderWrite (sweepReg u) v).eth.cfg 33 1 = 0 := by
    rw [(State.Answers.of_tells htells).cfg, State.putReg_sweepReg_eth, State.heard_cfg, hbare]
  refine ⟨_, exec_regWrite_made hacc rfl rfl hwdn htable (State.writeRule_sweepReg hst u v), ?_, ?_, fun hroom => ?_⟩
  · rw [(State.reply_answers _ _ _ _ _).readReg_sweepReg, (State.Answers.of_tells htells).readReg_sweepReg,
      readReg_putReg_same (regWhole_sweepReg u), getF_regMerge_sweepReg_enable, hoff]
  · rw [(State.reply_answers _ _ _ _ _).mem, htells.mem, State.putReg_sweepReg_mem, State.heard_mem]
  · rw [State.reply_chr _ hbare', State.orderWrite_sweepReg, State.heard_readReg_sweepReg]
    simp only [hoff, and_true]
    split
    · rw [State.record_events (by simpa using hroom), State.putReg_sweepReg_chr, State.heard_chr]
    · rw [State.putReg_sweepReg_chr, State.heard_chr, List.append_nil]

/-! ### LNK_CTRL (R220, R224) -/

/-- A link that is closing has left ACTIVE. -/
theorem Link.not_active_of_closing {k : Link} (h : k.st = .notice ∨ k.st = .roadworks ∧ k.settled = false) : k.st ≠ .active := by
  rcases h with h | ⟨h, -⟩ <;> rw [h] <;> nofun

section Links
variable (s : State) (l : LinkId)

@[simp] theorem State.rwTry_dev : (s.rwTry l).dev = s.dev := by
  unfold State.rwTry
  split <;> rfl

@[simp] theorem State.linkEnable_dev (en : Bool) : (s.linkEnable l en).dev = s.dev := by
  unfold State.linkEnable
  dsimp only
  repeat' split
  all_goals rfl

/-- RWNOW with EN as it stands. -/
theorem State.writeLnkCtrl_rwnow : s.writeLnkCtrl l (setB (s.readReg (.lnkCtrl l)) 1 true) = if ownerEnd l then s.rwTry l else s := by
  have hen : (getF (setB (s.readReg (.lnkCtrl l)) 1 true) 0 1 == 1) = (s.links[l] : Link).en := by
    change (getF (setB (pack [(0, (s.links[l] : Link).en.toNat)]) 1 true) 0 1 == 1) = (s.links[l] : Link).en
    cases (s.links[l] : Link).en <;> rfl
  have hnow : getF (setB (s.readReg (.lnkCtrl l)) 1 true) 1 1 = 1 := getF_setF_same _ _ (by decide)
  simp only [State.writeLnkCtrl, hen, hnow, if_true, true_and]

/-- EN alone. -/
theorem State.writeLnkCtrl_en (en : Bool) :
    s.writeLnkCtrl l (pack [(0, en.toNat)]) = if (s.links[l] : Link).en = en then s else s.linkEnable l en := by
  have hen : (getF (pack [(0, en.toNat)]) 0 1 == 1) = en := by cases en <;> rfl
  have hnow : ¬ getF (pack [(0, en.toNat)]) 1 1 = 1 := by cases en <;> decide
  simp only [State.writeLnkCtrl, hen, hnow, false_and, if_false]

/-- EN = 0 closes an ACTIVE link through its notice, lets one that is closing go on, and closes another at once. -/
theorem State.linkEnable_off_active (hst : (s.links[l] : Link).st = .active) :
    (s.linkEnable l false).links[l] = { (s.links[l] : Link) with
      en := false, st := .notice, rwAt := some (BitVec.ofNat 64 (s.chm.tb + 3600)), rwWait := false
      symOut := (s.links[l] : Link).symOut ++ [.rwNotice (BitVec.ofNat 64 (s.chm.tb + 3600))] } := by
  have hk : (s.modLink l fun k => { k with en := false }).links[l] = { (s.links[l] : Link) with en := false } := State.modLink_link ..
  simp only [State.linkEnable, hk, hst, Bool.false_eq_true, if_false, if_true, State.rwStart, State.modLink_link]
  rfl

theorem State.linkEnable_off_closing
    (hst : (s.links[l] : Link).st = .notice ∨ (s.links[l] : Link).st = .roadworks ∧ (s.links[l] : Link).settled = false) :
    (s.linkEnable l false).links[l] = { (s.links[l] : Link) with en := false } := by
  have hk : (s.modLink l fun k => { k with en := false }).links[l] = { (s.links[l] : Link) with en := false } := State.modLink_link ..
  have hactive := Link.not_active_of_closing hst
  simp only [State.linkEnable, hk, hactive, hst, Bool.false_eq_true, if_false, if_true]

theorem State.linkEnable_off_other (hactive : (s.links[l] : Link).st ≠ .active)
    (hst : ¬ ((s.links[l] : Link).st = .notice ∨ (s.links[l] : Link).st = .roadworks ∧ (s.links[l] : Link).settled = false)) :
    ((s.linkEnable l false).links[l] : Link).en = false ∧ ((s.linkEnable l false).links[l] : Link).st = .off := by
  have hk : (s.modLink l fun k => { k with en := false }).links[l] = { (s.links[l] : Link) with en := false } := State.modLink_link ..
  simp only [State.linkEnable, hk, hactive, hst, Bool.false_eq_true, if_false, State.handBack, State.modLink_link]
  exact ⟨rfl, trivial⟩

end Links

section LinkOrders
variable {s : State} {h : OrderHdr} {l : LinkId} (hst : s.dev.st ≠ .wardenUp)
include hst

theorem exec_rwnow (hacc : s.accepts (.rwnow h l) = true) :
    exec (.rwnow h l) s = .next ((if ownerEnd l then (s.heard h).rwTry l else s.heard h).reply h 0x03 .ok .none) := by
  have hread : s.readReg (.lnkCtrl l) = (s.heard h).readReg (.lnkCtrl l) := by
    obtain ⟨e, w, he⟩ := s.heard_eq h
    rw [he]
    rfl
  have heffect : (s.heard h).orderWrite (.lnkCtrl l) (setB (s.readReg (.lnkCtrl l)) 1 true) =
      if ownerEnd l then (s.heard h).rwTry l else s.heard h := by
    rw [hread]
    exact (s.heard h).writeLnkCtrl_rwnow l
  rw [exec_regWrite_answered hacc rfl rfl hst rfl rfl (by rw [heffect]; split <;> simp), heffect]

theorem exec_linkEnWrite {en : Bool} (hacc : s.accepts (.linkEnWrite h l en) = true) :
    exec (.linkEnWrite h l en) s =
      .next ((if (s.links[l] : Link).en = en then s.heard h else (s.heard h).linkEnable l en).reply h 0x03 .ok .none) := by
  have heffect : (s.heard h).orderWrite (.lnkCtrl l) (pack [(0, en.toNat)]) =
      if (s.links[l] : Link).en = en then s.heard h else (s.heard h).linkEnable l en := by
    rw [← State.heard_links s h]
    exact (s.heard h).writeLnkCtrl_en l en
  rw [exec_regWrite_answered hacc rfl rfl hst rfl rfl (by rw [heffect]; split <;> simp), heffect]

end LinkOrders

/-! ### ETH_CFG.TXAN (R368) -/

/-- A merged word has the RW bits of the word written. -/
theorem getLsbD_merged {w : Nat} (m old v : BitVec w) (i : Nat) :
    ((old &&& ~~~m) ||| (v &&& m)).getLsbD i = if m.getLsbD i then v.getLsbD i else old.getLsbD i := by
  by_cases hi : i < w
  · simp only [BitVec.getLsbD_or, BitVec.getLsbD_and, BitVec.getLsbD_not, hi, decide_true, Bool.true_and]
    cases m.getLsbD i <;> simp
  · simp [BitVec.getLsbD_of_ge _ i (Nat.not_lt.mp hi)]

/-- The bits of ETH_CFG that a write reaches. -/
def ethBits : W64 := 0xE0FFFFFFF

theorem State.orderWrite_ethCfg (s : State) (v : W64) :
    (s.orderWrite .ethCfg v).eth.cfg = (s.eth.cfg &&& ~~~ethBits) ||| (v &&& ethBits) := by
  have hu : ∀ u, Reg.ethCfg ≠ sweepReg u := by rintro (_ | _ | _) <;> exact Reg.noConfusion
  rw [orderWrite_of_not_acts rfl, writeReg_eq rfl Reg.noConfusion Reg.noConfusion, sweepNote_of_not_sweep hu]
  exact clear_none _ _

theorem exec_txanWrite {s : State} {h : OrderHdr} {an : Bool} (hst : s.dev.st ≠ .wardenUp) (hacc : s.accepts (.txanWrite h an) = true) :
    ∃ t, exec (.txanWrite h an) s = .next t ∧ getF t.eth.cfg 35 1 = an.toNat ∧ ∀ i, i ≠ 35 → t.eth.cfg.getLsbD i = s.eth.cfg.getLsbD i := by
  refine ⟨_, exec_regWrite_made hacc rfl rfl hst rfl rfl, ?_⟩
  rw [(State.reply_answers _ _ _ _ _).cfg, State.orderWrite_ethCfg, State.heard_cfg]
  constructor
  · have hbit : ∀ i, 35 ≤ i → i < 35 + 1 → ethBits.getLsbD i = true := fun i hl hu => by
      obtain rfl : i = 35 := by omega
      decide
    rw [getF_merged hbit, setB, getF_setF_same _ _ (by decide)]
    cases an <;> rfl
  · intro i hi
    have hsame : (setB s.eth.cfg 35 an).getLsbD i = s.eth.cfg.getLsbD i := by
      by_cases hw : i < 64
      · rw [setB, getLsbD_setF _ _ _ _ _ hw, if_neg (by omega)]
      · rw [BitVec.getLsbD_of_ge _ i (Nat.not_lt.mp hw), BitVec.getLsbD_of_ge _ i (Nat.not_lt.mp hw)]
    rw [getLsbD_merged, hsame, ite_self]

/-! ### PWR_CTRL (R406, R409) -/

/-- The bits of PWR_CTRL that a write reaches: PREF and STEPMIN. -/
theorem getF_regMerge_pwrCtrl (old v : W64) :
    getF (regMerge .pwrCtrl old v) 8 1 = getF v 8 1 ∧ getF (regMerge .pwrCtrl old v) 0 3 = getF v 0 3 := by
  have hmerge : regMerge .pwrCtrl old v = (old &&& ~~~(0x107 : W64)) ||| (v &&& 0x107) := clear_none _ _
  rw [hmerge]
  exact ⟨getF_merged (fun i hl hu => by obtain rfl : i = 8 := by omega
                                        rfl) old v,
    getF_merged (fun i _ hu => (by decide : ∀ j < 3, (0x107 : W64).getLsbD j = true) i (by omega)) old v⟩

/-- A write of PWR_CTRL takes both fields, the step no deeper than DEEPEST (R409). -/
theorem State.orderWrite_pwrCtrl (s : State) (v : W64) :
    (s.orderWrite .pwrCtrl v).pwr = { s.pwr with
      pref := getF v 8 1 == 1, stepmin := BitVec.ofNat 3 (min (getF v 0 3) s.wdn.prof.deepest.toNat) } := by
  have hu : ∀ u, Reg.pwrCtrl ≠ sweepReg u := by rintro (_ | _ | _) <;> exact Reg.noConfusion
  obtain ⟨hpref, hstep⟩ := getF_regMerge_pwrCtrl (s.readReg .pwrCtrl) v
  rw [orderWrite_of_not_acts rfl, writeReg_eq rfl Reg.noConfusion Reg.noConfusion, sweepNote_of_not_sweep hu, ← hpref, ← hstep]
  rfl

theorem toNat_beq_one (b : Bool) : (b.toNat == 1) = b := by cases b <;> rfl

/-- PWR_CTRL as it reads. -/
theorem readReg_pwrCtrl (s : State) :
    getF (s.readReg .pwrCtrl) 8 1 = s.pwr.pref.toNat ∧ getF (s.readReg .pwrCtrl) 0 3 = s.pwr.stepmin.toNat := by
  change getF (pack [(8, s.pwr.pref.toNat), (0, s.pwr.stepmin.toNat)]) 8 1 = _ ∧ getF (pack [(8, s.pwr.pref.toNat), (0, s.pwr.stepmin.toNat)]) 0 3 = _
  have hstep : s.pwr.stepmin.toNat < 8 := s.pwr.stepmin.isLt
  exact (by decide : ∀ b < 2, ∀ k < 8, getF (pack [(8, b), (0, k)]) 8 1 = b ∧ getF (pack [(8, b), (0, k)]) 0 3 = k) _ s.pwr.pref.toNat_lt _ hstep

section Power
variable {s : State} {h : OrderHdr} (hst : s.dev.st ≠ .wardenUp)
include hst

theorem exec_stepminWrite {v : BitVec 3} (hacc : s.accepts (.stepminWrite h v) = true) :
    ∃ t, exec (.stepminWrite h v) s = .next t ∧
      t.pwr = { s.pwr with stepmin := BitVec.ofNat 3 (min v.toNat s.wdn.prof.deepest.toNat) } := by
  obtain ⟨hpref, -⟩ := readReg_pwrCtrl s
  refine ⟨_, exec_regWrite_made hacc rfl rfl hst rfl rfl, ?_⟩
  rw [(State.reply_answers _ _ _ _ _).pwr, State.orderWrite_pwrCtrl, State.heard_pwr, State.heard_prof,
    getF_setF_of_disjoint _ _ (by decide) (by decide), getF_setF_same _ _ (by decide), hpref, Nat.mod_eq_of_lt v.isLt, toNat_beq_one]

theorem exec_prefWrite {b : Bool} (hacc : s.accepts (.prefWrite h b) = true) :
    ∃ t, exec (.prefWrite h b) s = .next t ∧
      t.pwr = { s.pwr with pref := b, stepmin := BitVec.ofNat 3 (min s.pwr.stepmin.toNat s.wdn.prof.deepest.toNat) } := by
  obtain ⟨-, hstep⟩ := readReg_pwrCtrl s
  refine ⟨_, exec_regWrite_made hacc rfl rfl hst rfl rfl, ?_⟩
  rw [(State.reply_answers _ _ _ _ _).pwr, State.orderWrite_pwrCtrl, State.heard_pwr, State.heard_prof, setB,
    getF_setF_same _ _ (by decide), getF_setF_of_disjoint _ _ (by decide) (by decide), hstep]
  cases b <;> rfl

end Power

/-! ### O50 -/

/-- Settles O50: each write is made or refused by its register's rule, and a link that EN = 0 closes goes by its state. -/
theorem unitRegisterWrites : Obligations.UnitRegisterWrites := by
  intro s h hst u
  refine ⟨fun m v hacc => ⟨exec_memStrengthWrite_high hacc hst, fun hhigh _ => exec_memStrengthWrite_two hacc hst hhigh,
      exec_memStrengthWrite_busy hacc hst, fun z hhigh hmay hz hdiff hsame => ?_⟩,
    fun x hacc hup hbare => exec_sweeperDisable hacc hup hbare, fun l => exec_rwnow hst,
    fun l en hacc => ⟨exec_linkEnWrite hst hacc, fun hon hoff => ?_⟩,
    fun an => exec_txanWrite hst, fun v => exec_stepminWrite hst, fun b => exec_prefWrite hst⟩
  · obtain ⟨t, ht, hmem, hmc⟩ := exec_memStrengthWrite_one hacc hst hhigh hmay (zonesChanged_one hz hdiff hsame)
    refine ⟨t, ht, hmem, ?_⟩
    rw [hmc]
    exact ⟨rfl, recode_fields z hz _ (zoneCode_lt _ _) _ (zoneCode_lt _ _)⟩
  · subst hoff
    rw [show s.links[l] = u.links[l] from (congrArg (·[l]) (s.heard_links h)).symm, show s.chm = u.chm from (s.heard_chm h).symm]
    by_cases hactive : (u.links[l] : Link).st = .active
    · rw [u.linkEnable_off_active l hactive]
      exact ⟨rfl, fun _ => ⟨rfl, rfl⟩, fun hc => absurd hactive (Link.not_active_of_closing hc), fun hna => absurd hactive hna⟩
    · by_cases hclosing : (u.links[l] : Link).st = .notice ∨ (u.links[l] : Link).st = .roadworks ∧ (u.links[l] : Link).settled = false
      · rw [u.linkEnable_off_closing l hclosing]
        exact ⟨rfl, fun ha => absurd ha hactive, fun _ => rfl, fun _ hnn hnr => absurd hclosing (not_or.mpr ⟨hnn, hnr⟩)⟩
      · obtain ⟨hen, hoff⟩ := u.linkEnable_off_other l hactive hclosing
        exact ⟨hen, fun ha => absurd ha hactive, fun hc => absurd hc hclosing, fun _ _ _ => hoff⟩

end Sys2Proof.Machine
end

section
/-!
O59, first part: the supplies and their transfer (R406, R407), ALIVE (R383), throttling and heat (R409, R411), and the latent-fault tests (R376).
-/
namespace Sys2Proof.Machine

@[simp] theorem State.notice_dev (s : State) (b : NoticeBody) : (s.notice b).dev = s.dev := by
  unfold State.notice
  dsimp only
  repeat' split
  all_goals simp

/-! ### The supplies (R406) -/

/-- The load has moved to the other input: everything but PWR_ and the chronicle's queue stays. -/
def State.hasMoved (s : State) (va vb : Nat) (t : State) : Prop :=
  t.pwr.onB = !s.pwr.onB ∧ t.pwr.xfers.toNat = min 0xFFFF (s.pwr.xfers.toNat + 1) ∧ (t.combs, t.mem, t.dev) = (s.combs, s.mem, s.dev) ∧
    (s.chr.queue.length < 1024 → t.chr.queue.map (·.event) = s.chr.queue.map (·.event) ++ [.vinTransfer va vb])

theorem toNat_xfers_counted (x : BitVec 16) : (if x = 0xFFFF then 0xFFFF else x + 1 : BitVec 16).toNat = min 0xFFFF (x.toNat + 1) := by
  split <;> bv_omega

/-- The supplies after the load has moved. -/
def Pwr.switched (p : Pwr) : Pwr := { p with onB := !p.onB, xfers := if p.xfers = 0xFFFF then 0xFFFF else p.xfers + 1 }

theorem State.transfer_eq (s : State) (va vb : Nat) :
    s.transfer va vb = ({ s with pwr := s.pwr.switched } : State).record (.vinTransfer va vb) := rfl

theorem State.transfer_hasMoved (s : State) (va vb : Nat) : s.hasMoved va vb ((s.measure va vb).transfer va vb) := by
  rw [State.transfer_eq]
  have htells := State.record_tells { s.measure va vb with pwr := (s.measure va vb).pwr.switched } (.vinTransfer va vb)
  refine ⟨by rw [htells.pwr]; rfl, by rw [htells.pwr]; exact toNat_xfers_counted s.pwr.xfers, ?_,
    fun hroom => State.record_events (by exact hroom) _⟩
  rw [htells.combs, htells.mem, State.record_dev]
  rfl

section Supply
variable {s : State} (hon : s.dev.st ≠ .off) (va vb : Nat)
include hon

theorem exec_vinTransfer :
    exec (.vinTransfer va vb) s = .next (
      if (if s.pwr.onB then vinOk vb else vinOk va) = false ∧ (if s.pwr.onB then vinOk va else vinOk vb) = true then
        (s.measure va vb).transfer va vb
      else s.measure va vb) := by
  change execVinTransfer va vb s = _
  rw [execVinTransfer, if_neg hon]
  simp only [Bool.and_eq_true, Bool.not_eq_true']

theorem exec_vinTransferBack :
    exec (.vinTransferBack va vb) s = .next (
      if s.pwr.pref ≠ s.pwr.onB ∧ 10800 ≤ (if s.pwr.pref then vb else va) ∧ (if s.pwr.pref then vb else va) ≤ 13200 then
        (s.measure va vb).transfer va vb
      else s.measure va vb) := by
  change execVinTransferBack va vb s = _
  rw [execVinTransferBack, if_neg hon]
  simp only [Bool.and_eq_true, decide_eq_true_eq, bne_iff_ne, and_assoc]

end Supply

theorem exec_aliveToggle {s : State} (hon : s.dev.st ≠ .off) (hporst : s.dev.porstLow = false) :
    exec .aliveToggle s = .next { s with dev := { s.dev with alive := !s.dev.alive } } := by
  change execAliveToggle s = _
  rw [execAliveToggle, if_neg (by simp [hon, hporst])]

/-! ### Throttle steps (R409) -/

/-- A request for a deeper step, or for a shallower one, of three bits. -/
def deeperStep (k : BitVec 3) (ask : Prop) [Decidable ask] (deepest : BitVec 3) : BitVec 3 := if ask ∧ k.toNat < deepest.toNat then k + 1 else k
def shallowerStep (k : BitVec 3) (ask : Prop) [Decidable ask] : BitVec 3 := if ask ∧ k ≠ 0 then k - 1 else k

theorem toNat_deeperStep (k : BitVec 3) (ask : Prop) [Decidable ask] (deepest : BitVec 3) :
    (deeperStep k ask deepest).toNat = if ask ∧ k.toNat < deepest.toNat then k.toNat + 1 else k.toNat := by
  unfold deeperStep
  split
  · bv_omega
  · rfl

theorem toNat_shallowerStep (k : BitVec 3) (ask : Prop) [Decidable ask] :
    (shallowerStep k ask).toNat = if ask then k.toNat - 1 else k.toNat := by
  unfold shallowerStep
  by_cases hask : ask
  · by_cases hk : k = 0
    · simp [hk]
    · rw [if_pos ⟨hask, hk⟩, if_pos hask]
      bv_omega
  · simp [hask]

section Throttle
variable {s : State} (hon : s.dev.st ≠ .off)
include hon

theorem exec_thermalRequest (x : Nat) (deeper : Bool) :
    exec (.thermalRequest x deeper) s = .next { s.heat x with pwr := { (s.heat x).pwr with
      thstep := if deeper then deeperStep s.pwr.thstep (95 ≤ x) s.wdn.prof.deepest else shallowerStep s.pwr.thstep (x < 92) } } := by
  change execThermalRequest x deeper s = _
  rw [execThermalRequest, if_neg hon]
  rfl

/-- Asked for less current, or not above the limit: the step is ILIM's business only where no deeper one is left. -/
theorem exec_currentRequest_deeper (ia ib : Nat) :
    ∃ t, exec (.currentRequest ia ib true) s = .next t ∧ (t.combs, t.mem, t.dev, t.wdn) = (s.combs, s.mem, s.dev, s.wdn) ∧
      t.pwr.curstep = deeperStep s.pwr.curstep (2000 < ia + ib) s.wdn.prof.deepest ∧
      t.pwr.ilim = (s.pwr.ilim || decide (2000 < ia + ib ∧ s.wdn.prof.deepest.toNat ≤ s.pwr.curstep.toNat)) := by
  refine ⟨_, congrArg Host.Outcome.next (if_neg hon), ?_⟩
  dsimp only
  rw [if_pos rfl]
  by_cases hlimit : ia + ib ≤ 2000
  · rw [if_pos hlimit]
    have hno : ¬ 2000 < ia + ib := by omega
    exact ⟨rfl, by simp [deeperStep, hno], by simp [hno]⟩
  · rw [if_neg hlimit]
    have hover : 2000 < ia + ib := by omega
    by_cases hroom : s.pwr.curstep.toNat < s.wdn.prof.deepest.toNat
    · rw [if_pos hroom]
      exact ⟨rfl, by simp [deeperStep, hover, hroom], by simp [hover, hroom]⟩
    · rw [if_neg hroom]
      have htells := State.notice_tells ({ s with pwr := { s.pwr with
        ia := BitVec.ofNat 16 ia, ib := BitVec.ofNat 16 ib, ilim := true } } : State) (.fault 11 2 (ia + ib))
      refine ⟨?_, ?_, ?_⟩
      · rw [htells.combs, htells.mem, htells.wdn, State.notice_dev]
      · rw [htells.pwr]; simp [deeperStep, hroom]
      · rw [htells.pwr]; simp [hover, Nat.not_lt.mp hroom]

theorem exec_currentRequest_shallower (ia ib : Nat) :
    exec (.currentRequest ia ib false) s = .next { s with pwr := { s.pwr with
      ia := BitVec.ofNat 16 ia, ib := BitVec.ofNat 16 ib, curstep := shallowerStep s.pwr.curstep (ia + ib < 1800) } } := by
  change execCurrentRequest ia ib false s = _
  rw [execCurrentRequest, if_neg hon]
  rfl

end Throttle

/-! ### The hottest sensor (R411) -/

theorem exec_junctionOver_below {s : State} {x : Nat} (hon : s.dev.st ≠ .off) (hno : x < 105 ∨ s.pwr.overArmed = false) :
    exec (.junctionOver x) s = .next (s.heat x) := by
  refine congrArg Host.Outcome.next ((if_neg hon).trans (if_neg ?_))
  rintro ⟨hx, harmed⟩
  rcases hno with h | h
  · omega
  · simp only [State.heat, h, Bool.false_or, decide_eq_true_eq] at harmed
    omega

/-- The crossing is shown and no longer armed. -/
def State.crossed (s : State) (x : Nat) : State :=
  { s.heat x with pwr := { (s.heat x).pwr with overT := true, overArmed := false } }

theorem exec_junctionOver_crossed {s : State} {x : Nat} (hon : s.dev.st ≠ .off) (hx : 105 ≤ x) (harmed : s.pwr.overArmed = true) :
    ∃ t, exec (.junctionOver x) s = .next t ∧ t.pwr.overT = true ∧ t.pwr.overArmed = false ∧ t.combs = s.combs ∧
      (s.chr.queue.length < 1023 → .junctionOver ∈ t.chr.queue.map (·.event)) := by
  have hcross : 105 ≤ x ∧ (s.heat x).pwr.overArmed = true := ⟨hx, by simp [State.heat, harmed]⟩
  have hrecord := (s.crossed x).record_tells .junctionOver
  have hnotice := ((s.crossed x).record .junctionOver).notice_tells (.fault 11 1 x)
  have htells := hrecord.trans hnotice
  refine ⟨_, congrArg Host.Outcome.next ((if_neg hon).trans (if_pos hcross)), congrArg Pwr.overT htells.pwr,
    congrArg Pwr.overArmed htells.pwr, htells.combs, fun hroom => (hnotice.queue.map _).subset ?_⟩
  rw [State.record_events (by exact Nat.lt_succ_of_lt hroom)]
  exact List.mem_append_right _ (List.mem_singleton_self _)

/-! ### Latent-fault tests (R376) -/

theorem exec_latentFaultTest_off {s : State} {x : LatentTest} (hno : s.dev.st = .off ∨ x ≠ .monitors ∧ s.coreOn = false) (failed : Bool) :
    exec (.latentFaultTest x failed) s = .next s :=
  congrArg Host.Outcome.next (if_pos (by simpa using hno))

/-- A test run is counted. -/
def State.tested (s : State) : State := { s with wdn := { s.wdn with latent := wrapF s.wdn.latent 32 32 1 } }

/-- A failed one sets its row's bit. -/
def State.testBit (s : State) (x : LatentTest) : State :=
  { s with wdn := { s.wdn with latent := setB (wrapF s.wdn.latent 32 32 1) (LatentTest.row x) true } }

section Latent
variable {s : State} {x : LatentTest} (hon : s.dev.st ≠ .off) (hruns : x = .monitors ∨ s.coreOn = true)
include hon hruns

theorem exec_latentFaultTest (failed : Bool) :
    exec (.latentFaultTest x failed) s = .next (if failed then (s.testBit x).latentFailed x else s.tested) := by
  have hrun : ¬ (s.dev.st = .off ∨ x ≠ .monitors ∧ (!s.coreOn) = true) := by
    rintro (h | ⟨hx, hcore⟩)
    · exact hon h
    · rcases hruns with h | h
      · exact hx h
      · simp [h] at hcore
  exact congrArg Host.Outcome.next (if_neg hrun)

end Latent

theorem LatentTest.row_lt (x : LatentTest) : LatentTest.row x < 64 := by
  cases x <;> simp [LatentTest.row]

theorem State.testBit_latent (s : State) (x : LatentTest) : (s.testBit x).wdn.latent.getLsbD (LatentTest.row x) = true :=
  getLsbD_setB _ _ (LatentTest.row_lt x)

/-- Tests that a unit's failure is recorded for (log entry 70). -/
theorem State.latentFailed_recorded (s : State) {x : LatentTest}
    (hx : x = .hallComparator ∨ (∃ q, x = .squareSecded q) ∨ (∃ m, x = .pageDecoder m) ∨ x = .monitors) :
    s.latentFailed x = (s.faultBit 5).record (.latent (LatentTest.row x)) := by
  rcases hx with rfl | ⟨q, rfl⟩ | ⟨m, rfl⟩ | rfl <;> rfl

/-- Tests whose failure retires a comb. -/
theorem State.latentFailed_retires (s : State) {x : LatentTest} {c : CombId}
    (hx : x = .arrayChecker c ∨ x = .seqComparator c ∨ x = .combSecded c) : s.latentFailed x = s.retire c 3 := by
  rcases hx with rfl | rfl | rfl <;> rfl

theorem getF_bit {w : Nat} (r : BitVec w) (i : Nat) : getF r i 1 = (r.getLsbD i).toNat := by
  have hbit : r.getLsbD i = decide (r.toNat / 2 ^ i % 2 = 1) := Nat.testBit_eq_decide_div_mod_eq
  rw [hbit, getF]
  rcases Nat.mod_two_eq_zero_or_one (r.toNat / 2 ^ i) with h | h <;> simp [h]

/-- Bit 32 of a finding: the comb failed. -/
theorem getLsbD_pack_high (cols : BitVec 32) : (pack [(32, true.toNat), (0, cols.toNat)]).getLsbD 32 = true := by
  have hcols := cols.isLt
  have hword : (pack [(32, true.toNat), (0, cols.toNat)]).toNat = 2 ^ 32 + cols.toNat := by
    simp only [pack, List.foldl, BitVec.toNat_ofNat, Bool.toNat_true]
    omega
  rw [BitVec.getLsbD, hword, Nat.testBit_two_pow_add_eq, Nat.testBit_lt_two_pow hcols]
  rfl

/-- A physical comb found failed stands as failed. -/
theorem State.findCols_failed (s : State) (p : Nat) (cols : BitVec 32) : (s.findCols p cols true).dev.failed p = true := by
  have hbit : (Sparse.get 0 s.dev.phys p ||| pack [(32, true.toNat), (0, cols.toNat)]).getLsbD 32 = true := by
    rw [BitVec.getLsbD_or, getLsbD_pack_high cols, Bool.or_true]
  have hne : Sparse.get 0 s.dev.phys p ||| pack [(32, true.toNat), (0, cols.toNat)] ≠ 0 := fun h0 => by
    rw [h0] at hbit
    exact absurd hbit (by decide)
  rw [Dev.failed, State.findCols, Sparse.get_set_self_ne _ _ hne, getF_bit, hbit]
  rfl

/-- R376: a failed test of a comb retires it at the next chime. -/
theorem State.retire_frame (s : State) (c : CombId) (cause : BitVec 8) :
    ((s.retire c cause).comb c).due = some { cause := cause, reload := true, remap := true } ∧
      (s.retire c cause).dev.failed (getF (s.comb c).map 0 7) = true ∧ (s.retire c cause).dev.st = s.dev.st ∧
      (s.retire c cause).wdn = s.wdn :=
  ⟨by simp [State.retire, State.remapAt], s.findCols_failed _ _, rfl, rfl⟩

/-- What the links of a failed one's port do leaves the failed one alone. -/
theorem State.foldl_modLink_other (f : LinkId → Link → Link) {l : LinkId} (ms : List LinkId) (hl : l ∉ ms) (s : State) :
    (ms.foldl (fun (t : State) m => t.modLink m (f m)) s).links[l] = s.links[l] := by
  induction ms generalizing s with
  | nil => rfl
  | cons m ms ih =>
    obtain ⟨hm, hms⟩ := not_or.mp (mt List.mem_cons.mpr hl)
    exact (ih hms _).trans (s.modLink_link_ne _ hm)

@[simp] theorem State.handBack_links (s : State) (l : LinkId) (ds : List Drop) : (s.handBack l ds).links = s.links := rfl

theorem not_mem_portMates (l : LinkId) : l ∉ portMates l := by
  simp [portMates]

/-- A link that fails goes to FAILED (R223), and the warden's records stay. -/
theorem State.linkFail_frame (s : State) (l : LinkId) (hst : (s.links[l] : Link).st ≠ .off) :
    ((s.linkFail l).links[l] : Link).st = .failed ∧ (s.linkFail l).wdn = s.wdn := by
  unfold State.linkFail
  dsimp only
  by_cases hfailed : (s.links[l] : Link).st = .failed
  · rw [if_pos (.inr hfailed)]
    exact ⟨hfailed, rfl⟩
  · rw [if_neg (not_or.mpr ⟨hst, hfailed⟩)]
    have htells := fun t : State => (t.record_tells (.linkFailed l)).trans (State.notice_tells _ (.fault 5 1 l.val))
    refine ⟨?_, ?_⟩
    · rw [(htells _).links, State.foldl_modLink_other _ _ (not_mem_portMates l)]
      rw [State.handBack_links, State.modLink_link]
    · rw [(htells _).wdn, foldl_keeps State.wdn]
      · rfl
      · exact fun _ _ => rfl

end Sys2Proof.Machine
end

section
/-!
O59, second part: the TAP (R416 to R418).
-/
namespace Sys2Proof.Machine

/-- The instructions that drive the pins. -/
theorem decide_mem_pins (i : TapInstr) : decide (i ∈ [TapInstr.extest, .extestPulse, .extestTrain]) = TapInstr.drives i := by
  cases i <;> rfl

theorem drives_eq_true {i : TapInstr} : TapInstr.drives i = true ↔ i ∈ [TapInstr.extest, .extestPulse, .extestTrain] := by
  rw [← decide_mem_pins, decide_eq_true_eq]

/-- Four fields written one above the other, as one number. -/
theorem toNat_four_fields (v : BitVec 4) (p : BitVec 16) (m : BitVec 11) (l : BitVec 1) :
    (v ++ p ++ m ++ l : BitVec 32).toNat = 0 + l.toNat * 2 ^ 0 + m.toNat * 2 ^ 1 + p.toNat * 2 ^ 12 + v.toNat * 2 ^ 28 := by
  rw [BitVec.toNat_append, BitVec.toNat_append, BitVec.toNat_append, ← Nat.shiftLeft_add_eq_or_of_lt p.isLt,
    ← Nat.shiftLeft_add_eq_or_of_lt m.isLt, ← Nat.shiftLeft_add_eq_or_of_lt l.isLt]
  simp only [Nat.shiftLeft_eq]
  ring

theorem pack_four (a b c d : Nat) (i j k l : Nat) :
    pack [(i, a), (j, b), (k, c), (l, d)] = BitVec.ofNat 64 (0 + a * 2 ^ i + b * 2 ^ j + c * 2 ^ k + d * 2 ^ l) := rfl

/-- The word that `pack` makes of four fields that do not overlap. -/
theorem pack_four_fields (v : BitVec 4) (p : BitVec 16) (m : BitVec 11) (l : BitVec 1) :
    BitVec.setWidth 32 (pack [(0, l.toNat), (1, m.toNat), (12, p.toNat), (28, v.toNat)]) = (v ++ p ++ m ++ l : BitVec 32) := by
  rw [pack_four, ← toNat_four_fields, BitVec.setWidth_ofNat_of_le (by decide), BitVec.ofNat_toNat, BitVec.setWidth_eq]

/-- The IDCODE word is version, part, maker and a one (R417). -/
theorem idcodeBits_eq : idcodeBits =
    (List.range 32).map (1#4 ++ 0x6424#16 ++ (Config.manufacturer : BitVec 11) ++ 1#1 : BitVec 32).getLsbD :=
  congrArg (fun w : BitVec 32 => (List.range 32).map w.getLsbD) (pack_four_fields 1 0x6424 Config.manufacturer 1)

/-! ### A scan of the data register -/

section Load
variable (tap : Tap) (x : TapIn)

theorem Tap.load_bypass : (tap.load x .bypass).cells = tap.cells ∧ (tap.load x .bypass).tdo = tap.tdo ++ (false :: x.tdi).take x.tdi.length :=
  ⟨if_pos (.inr (.inl rfl)), rfl⟩

theorem Tap.load_idcode : (tap.load x .idcode).cells = tap.cells ∧ (x.tdi.length = 32 → (tap.load x .idcode).tdo = tap.tdo ++ idcodeBits) := by
  refine ⟨if_pos (.inr (.inr rfl)), fun hn => ?_⟩
  have hlen : idcodeBits.length = 32 := by rw [idcodeBits_eq, List.length_map, List.length_range]
  change tap.tdo ++ (idcodeBits ++ x.tdi).take x.tdi.length = _
  rw [hn, ← hlen, List.take_left]

theorem Tap.load_cells {i : TapInstr} (hi : i ≠ .bypass ∧ i ≠ .idcode) (hn : x.tdi.length = x.cells.length) (h0 : x.tdi.length ≠ 0) :
    (tap.load x i).cells = x.tdi ∧ (tap.load x i).tdo = tap.tdo ++ x.cells := by
  obtain ⟨hbypass, hidcode⟩ := hi
  have hcapture : TapIn.capture x i = x.cells := by
    cases i with
    | bypass => exact (hbypass rfl).elim
    | idcode => exact (hidcode rfl).elim
    | samplePreload | extest | extestPulse | extestTrain => rfl
  have hno : ¬ (x.tdi.length = 0 ∨ i = .bypass ∨ i = .idcode) := by simp [h0, hbypass, hidcode]
  rw [Tap.load, if_neg hno, hcapture, hn, List.take_left, List.drop_left]
  exact ⟨rfl, rfl⟩

end Load

/-! ### TAP_INSTRUCTION -/

/-- The instruction that takes effect: outside WARDEN-UP and CORE-UP one that drives the pins is a BYPASS (R418). -/
def State.tapTakes (s : State) (i : TapInstr) : TapInstr :=
  if i ∈ [TapInstr.extest, .extestPulse, .extestTrain] ∧ ¬ (s.dev.st = .wardenUp ∨ s.dev.st = .coreUp) then .bypass else i

/-- The TAP has taken an instruction and scanned its data register. -/
def State.tapLoaded (s : State) (x : TapIn) : State :=
  { s with dev := { s.dev with tap := s.dev.tap.load x (s.tapTakes x.instr) } }

theorem exec_tapInstruction_off {s : State} (x : TapIn) (hoff : s.dev.st = .off) : exec (.tapInstruction x) s = .next s :=
  congrArg Host.Outcome.next (if_pos hoff)

section Tap
variable {s : State} {x : TapIn} (hon : s.dev.st ≠ .off)
include hon

/-- TRST_N, or mode 0 once boot has closed, holds it in Test-Logic-Reset. -/
theorem exec_tapInstruction_held (hheld : x.trstN = false ∨ s.wdn.closed = true ∧ s.wdn.protJtag = false) :
    exec (.tapInstruction x) s =
      .next { s with dev := { s.dev with tap := { s.dev.tap with instr := .idcode, drive := false, trstN := x.trstN } } } :=
  congrArg Host.Outcome.next ((if_neg hon).trans (if_pos (by simpa using hheld)))

theorem exec_tapInstruction_taken (htrst : x.trstN = true) (hopen : s.wdn.closed = false ∨ s.wdn.protJtag = true) :
    exec (.tapInstruction x) s = .next (
      if x.instr ∈ [TapInstr.extest, .extestPulse, .extestTrain] ∧ ¬ (s.dev.st = .wardenUp ∨ s.dev.st = .coreUp) then
        (s.tapLoaded x).record .tapBypass
      else s.tapLoaded x) := by
  have hfree : ¬ (!x.trstN || (s.wdn.closed && !s.wdn.protJtag)) = true := by
    rw [htrst]
    rcases hopen with h | h <;> simp [h]
  have hpins : (TapInstr.drives x.instr && !(s.dev.st == .wardenUp || s.dev.st == .coreUp)) = true ↔
      x.instr ∈ [TapInstr.extest, .extestPulse, .extestTrain] ∧ ¬ (s.dev.st = .wardenUp ∨ s.dev.st = .coreUp) := by
    rw [Bool.and_eq_true, drives_eq_true]
    simp
  refine congrArg Host.Outcome.next ((if_neg hon).trans ((if_neg hfree).trans ?_))
  rw [State.tapLoaded, State.tapTakes]
  by_cases hb : x.instr ∈ [TapInstr.extest, .extestPulse, .extestTrain] ∧ ¬ (s.dev.st = .wardenUp ∨ s.dev.st = .coreUp)
  · rw [if_pos (hpins.mpr hb), if_pos hb, if_pos hb]
  · rw [if_neg (mt hpins.mp hb), if_neg hb, if_neg hb]

end Tap

theorem State.record_eq_chr (s : State) (ev : Event) : s.record ev = { s with chr := (s.record ev).chr } := by
  unfold State.record
  split <;> rfl

/-- An instruction taken: what the TAP holds, and one record where the pins are kept from it. -/
theorem exec_tapInstruction_free {s : State} {x : TapIn} (hon : s.dev.st ≠ .off) (htrst : x.trstN = true)
    (hopen : s.wdn.closed = false ∨ s.wdn.protJtag = true) :
    ∃ t, exec (.tapInstruction x) s = .next t ∧ t = { s with chr := t.chr, dev := { s.dev with tap := t.dev.tap } } ∧
      t.dev.tap = s.dev.tap.load x (s.tapTakes x.instr) ∧
      (s.chr.queue.length < 1024 → t.chr.queue.map (·.event) = s.chr.queue.map (·.event) ++
        if x.instr ∈ [TapInstr.extest, .extestPulse, .extestTrain] ∧ ¬ (s.dev.st = .wardenUp ∨ s.dev.st = .coreUp) then [Event.tapBypass]
        else []) := by
  refine ⟨_, exec_tapInstruction_taken hon htrst hopen, ?_⟩
  split
  · refine ⟨?_, ?_, fun hroom => State.record_events (by exact hroom) _⟩
    · rw [State.record_eq_chr]
      rfl
    · rw [State.record_dev]
      rfl
  · exact ⟨rfl, rfl, fun _ => (List.append_nil _).symm⟩

end Sys2Proof.Machine
end

section
/-!
O59, third part: the boot phases 4 to 7 (R387, R388, R394, R407, R24 to R27).
-/
namespace Sys2Proof.Machine

/-! ### The device state -/

@[simp] theorem State.setDev_dev (s : State) (d : DevState) : (s.setDev d).dev = { s.dev with st := d } := by
  unfold State.setDev
  split
  next h => rw [← h]
  next => rw [State.notice_dev]

/-- A change of the device state tells nothing else than its notice. -/
theorem State.setDev_tells (s : State) (d : DevState) : State.Tells { s with dev := { s.dev with st := d } } (s.setDev d) := by
  unfold State.setDev
  split
  next h =>
    subst h
    exact .refl s
  next => exact State.notice_tells _ _

/-! ### Phases 2 and 3 (R387, R395, R396) -/

/-- What a record that is written reads as afterwards (R386). -/
theorem Twin.read_write {α : Type} (t : Twin α) (v : α) : (t.write v).read = v := by
  unfold Twin.write
  split <;> simp [Twin.read, Twin.first]

/-- The warden's registers once a staged key set has come into the key store. -/
def Wdn.keyed (w : Wdn) : Wdn :=
  match w.keySet with
  | none => w
  | some (ks, j) => { w with
      keySet := none, keyStore := w.keyStore.write (ks, j)
      nonceStore := w.nonceStore.write (Vector.ofFn fun k => if ks[k] = w.keys[k] then w.nonces[k] else 0) }

/-- A key set that comes into the store is recorded, and changes nothing else. -/
theorem State.applyKeys_tells (s : State) : State.Tells { s with wdn := s.wdn.keyed } s.applyKeys := by
  unfold State.applyKeys Wdn.keyed
  cases s.wdn.keySet with
  | none => exact .refl s
  | some set => exact State.record_tells _ _

@[simp] theorem State.applyKeys_dev (s : State) : s.applyKeys.dev = s.dev := by
  unfold State.applyKeys
  split
  · rfl
  · exact State.record_dev _ _

@[simp] theorem Wdn.keyed_pins (w : Wdn) : w.keyed.pins = w.pins := by
  unfold Wdn.keyed
  split <;> rfl

@[simp] theorem State.midBoot_dev (s : State) : s.midBoot.dev = s.dev := by
  unfold State.midBoot
  split
  · exact State.applyKeys_dev _
  · rfl

theorem State.midBoot_later {s : State} (hphase : s.wdn.phase ≠ 1) : s.midBoot = s := if_neg hphase

/-- After phases 2 and 3 the phase is 4; the warden has what the profile and the key set brought. -/
theorem State.midBoot_wdn {s : State} (hphase : s.wdn.phase = 1) :
    s.midBoot.wdn = { s.selectProfile.wdn.keyed with phase := 4 } := by
  rw [State.midBoot, if_pos hphase]
  change ({ s.selectProfile.applyKeys.wdn with phase := 4 } : Wdn) = _
  rw [(State.applyKeys_tells s.selectProfile).wdn]

theorem State.midBoot_pins {s : State} (hphase : s.wdn.phase = 1) : s.midBoot.wdn.pins = s.dev.pins := by
  rw [State.midBoot_wdn hphase]
  exact Wdn.keyed_pins _

@[simp] theorem State.midBoot_booting (s : State) : s.midBoot.booting = s.booting := by
  rw [State.booting, State.midBoot_dev, ← State.booting]

/-! ### Phase 4 (R388) -/

/-- The state in which phase 4 looks at the banks. -/
def State.atVerify (s : State) : State := if s.booting then s.midBoot else s

@[simp] theorem State.atVerify_booting (s : State) : s.atVerify.booting = s.booting := by
  unfold State.atVerify
  split
  · exact s.midBoot_booting
  · rfl

/-- A bank's image is fit to run. -/
def Wdn.passes (w : Wdn) (b : Bool) : Prop :=
  (w.banks[bankIx b]).failed = false ∧ imagePasses (w.banks[bankIx b]).bytes w.svnMin.toNat = true


theorem Wdn.passes_iff (w : Wdn) (b : Bool) :
    (!(w.banks[bankIx b]).failed && imagePasses (w.banks[bankIx b]).bytes w.svnMin.toNat) = true ↔ w.passes b := by
  rw [Bool.and_eq_true, Bool.not_eq_true', Wdn.passes]

/-- The warden section that runs from phase 4 on: the one that runs already, else a bank's. -/
def Wdn.runs (w : Wdn) (b : Bool) : Digest := if w.wdnFw = [] then fwMeas (w.banks[bankIx b]).bytes else w.wdnFw

theorem Wdn.runs_eq (w : Wdn) (b : Bool) :
    (if w.wdnFw.isEmpty then fwMeas (w.banks[bankIx b]).bytes else w.wdnFw) = w.runs b := by
  simp only [Wdn.runs, List.isEmpty_iff]

theorem exec_bootVerify_not_due {s : State} (hno : ¬ (s.booting = true ∧ s.atVerify.wdn.nofw = false ∧ s.atVerify.wdn.phase = 4)) :
    exec .bootVerify s = .next s.atVerify := by
  refine congrArg Host.Outcome.next (if_pos ?_)
  change (!s.atVerify.booting || s.atVerify.wdn.nofw || s.atVerify.wdn.phase != 4) = true
  rw [s.atVerify_booting]
  by_contra hdue
  simp_all

section Verify
variable {s : State} (hdue : s.booting = true ∧ s.atVerify.wdn.nofw = false ∧ s.atVerify.wdn.phase = 4)
include hdue

theorem exec_bootVerify_due : exec .bootVerify s = .next (
    let v := s.atVerify
    let w := v.wdn
    if (!(w.banks[bankIx w.bank]).failed && imagePasses (w.banks[bankIx w.bank]).bytes w.svnMin.toNat) = true then
      { v with wdn := { w with phase := 5, wdnFw := if w.wdnFw.isEmpty then fwMeas (w.banks[bankIx w.bank]).bytes else w.wdnFw } }
    else if (!(w.banks[bankIx (!w.bank)]).failed && imagePasses (w.banks[bankIx (!w.bank)]).bytes w.svnMin.toNat) = true then
      ({ v with wdn := { w with
        phase := 5, bootRec := w.bootRec.write (!w.bank, w.svnMin), fallback := true, staged := false
        wdnFw := if w.wdnFw.isEmpty then fwMeas (w.banks[bankIx (!w.bank)]).bytes else w.wdnFw } } : State).record .fallback
    else ({ v with wdn := { w with phase := 4, nofw := true }, dev := { v.dev with reset := none } } : State).setDev .wardenUp) := by
  obtain ⟨hboot, hfw, hphase⟩ := hdue
  refine congrArg Host.Outcome.next (if_neg ?_)
  change ¬ (!s.atVerify.booting || s.atVerify.wdn.nofw || s.atVerify.wdn.phase != 4) = true
  rw [s.atVerify_booting, hboot, hfw, hphase]
  simp

/-- The bank in force passes. -/
theorem exec_bootVerify_own (hown : s.atVerify.wdn.passes s.atVerify.wdn.bank) :
    exec .bootVerify s = .next { s.atVerify with wdn := { s.atVerify.wdn with phase := 5, wdnFw := s.atVerify.wdn.runs s.atVerify.wdn.bank } } := by
  rw [exec_bootVerify_due hdue]
  dsimp only
  rw [if_pos ((Wdn.passes_iff _ _).mpr hown), Wdn.runs_eq]

/-- Only the other bank passes. -/
theorem exec_bootVerify_spare (hown : ¬ s.atVerify.wdn.passes s.atVerify.wdn.bank) (hspare : s.atVerify.wdn.passes (!s.atVerify.wdn.bank)) :
    exec .bootVerify s = .next (({ s.atVerify with wdn := { s.atVerify.wdn with
      phase := 5, bootRec := s.atVerify.wdn.bootRec.write (!s.atVerify.wdn.bank, s.atVerify.wdn.svnMin), fallback := true, staged := false
      wdnFw := s.atVerify.wdn.runs (!s.atVerify.wdn.bank) } } : State).record .fallback) := by
  rw [exec_bootVerify_due hdue]
  dsimp only
  rw [if_neg (mt (Wdn.passes_iff _ _).mp hown), if_pos ((Wdn.passes_iff _ _).mpr hspare), Wdn.runs_eq]

/-- Neither bank passes: the chip stays in WARDEN-UP. -/
theorem exec_bootVerify_neither (hown : ¬ s.atVerify.wdn.passes s.atVerify.wdn.bank) (hspare : ¬ s.atVerify.wdn.passes (!s.atVerify.wdn.bank)) :
    exec .bootVerify s = .next (({ s.atVerify with
      wdn := { s.atVerify.wdn with phase := 4, nofw := true }, dev := { s.atVerify.dev with reset := none } } : State).setDev .wardenUp) := by
  rw [exec_bootVerify_due hdue]
  dsimp only
  rw [if_neg (mt (Wdn.passes_iff _ _).mp hown), if_neg (mt (Wdn.passes_iff _ _).mp hspare)]

end Verify

/-! ### Phase 5 (R407) -/

theorem exec_bootSupply (s : State) (vin : Nat) : exec (.bootSupply vin) s = .next (
    if s.booting = true ∧ s.wdn.phase = 5 ∧ s.dev.thermtrip = false ∧ 10800 ≤ vin ∧ vin ≤ 13200 then
      { s with wdn := { s.wdn with phase := 6 } }
    else s) := by
  refine congrArg Host.Outcome.next ?_
  simp only [State.supplyUp, Bool.and_eq_true, beq_iff_eq, Bool.not_eq_true', decide_eq_true_eq, and_assoc]

/-! ### Phase 7 (R394, R418) -/

theorem exec_bootClose_not_due {s : State} (hno : s.booting = false ∨ s.wdn.phase ≠ 7) : exec .bootClose s = .next s :=
  congrArg Host.Outcome.next (if_pos (by simpa using hno))

/-- The state once the protection setup is written and closed. -/
def State.protClosed (s : State) : State :=
  { s with
    dev := { s.dev with reset := none, tap := if s.wdn.jtag then s.dev.tap else s.dev.tap.reset }
    wdn := { s.wdn with closed := true, protKeys := s.wdn.keys, protJtag := s.wdn.jtag, protMap := s.combs.toList.map (·.map) } }

theorem exec_bootClose {s : State} (hboot : s.booting = true) (hphase : s.wdn.phase = 7) :
    exec .bootClose s = .next (s.protClosed.setDev .coreUp) :=
  congrArg Host.Outcome.next (if_neg (by simp [hboot, hphase]))

/-! ### Phase 6 (R24 to R27) -/

theorem Dev.mapWord_whole {d : Dev} {p : Nat} (hcols : d.cols p = []) : d.mapWord p = BitVec.ofNat 64 p := by
  rw [Dev.mapWord, hcols]
  simp [pack]

/-- One comb's entry, as `Dev.mapAll` adds it. -/
def Dev.mapOne (d : Dev) (acc : List W64 × List Nat × Bool) (n : CombId) : List W64 × List Nat × Bool :=
  if !d.failed n.val then (acc.1 ++ [d.mapWord n.val], acc.2.1, acc.2.2)
  else match pickSpare n fun p => !d.failed p && !acc.2.1.contains p with
    | some p => (acc.1 ++ [d.mapWord p], acc.2.1 ++ [p], acc.2.2)
    | none => (acc.1 ++ [State.identityMap n], acc.2.1, true)

theorem Dev.mapAll_eq (d : Dev) : d.mapAll = (List.finRange 64).foldl d.mapOne ([], [], false) := rfl

/-- The physical comb of a logical one where each takes its own or, failed, its field's spare. -/
def Dev.place (d : Dev) (c : CombId) : Nat := if d.failed c.val then 64 + fieldOf c else c.val

theorem Dev.mapOne_passed {d : Dev} {n : CombId} (hpassed : d.failed n.val = false) (acc : List W64 × List Nat × Bool) :
    d.mapOne acc n = (acc.1 ++ [d.mapWord (d.place n)], acc.2) := by
  simp [Dev.mapOne, Dev.place, hpassed]

theorem Dev.mapOne_failed {d : Dev} {n : CombId} (hfailed : d.failed n.val = true) (hspare : d.failed (64 + fieldOf n) = false)
    (acc : List W64 × List Nat × Bool) (hnone : acc.2.1 = []) :
    d.mapOne acc n = (acc.1 ++ [d.mapWord (d.place n)], [64 + fieldOf n], acc.2.2) := by
  simp [Dev.mapOne, Dev.place, pickSpare, hfailed, hspare, hnone]

/-- Where only the comb `n` can have failed, and its field's spare has not, every comb is placed. -/
theorem Dev.foldl_mapOne {d : Dev} (n : CombId) (hothers : ∀ c : CombId, c ≠ n → d.failed c.val = false)
    (hspare : d.failed (64 + fieldOf n) = false) (ms : List CombId) (hms : ms.Nodup) (acc : List W64 × List Nat × Bool)
    (hnone : n ∈ ms → acc.2.1 = []) :
    (ms.foldl d.mapOne acc).1 = acc.1 ++ ms.map (fun c => d.mapWord (d.place c)) ∧ (ms.foldl d.mapOne acc).2.2 = acc.2.2 := by
  induction ms generalizing acc with
  | nil => simp
  | cons m ms ih =>
    obtain ⟨hm, hms⟩ := List.nodup_cons.mp hms
    rw [List.foldl_cons, List.map_cons]
    by_cases hfailed : d.failed m.val = true
    · have hmn : m = n := by
        by_contra hne
        exact absurd (hothers m hne) (by simp [hfailed])
      subst hmn
      rw [Dev.mapOne_failed hfailed hspare acc (hnone List.mem_cons_self)]
      obtain ⟨hmap, hshort⟩ := ih hms (acc.1 ++ [d.mapWord (d.place m)], [64 + fieldOf m], acc.2.2) fun h => absurd h hm
      exact ⟨by simpa using hmap, hshort⟩
    · rw [Dev.mapOne_passed (Bool.not_eq_true _ ▸ hfailed) acc]
      obtain ⟨hmap, hshort⟩ := ih hms (acc.1 ++ [d.mapWord (d.place m)], acc.2) fun h => hnone (List.mem_cons_of_mem _ h)
      exact ⟨by simpa using hmap, hshort⟩

/-- The map at boot (R24, R26). -/
theorem Dev.mapAll_one {d : Dev} (n : CombId) (hothers : ∀ c : CombId, c ≠ n → d.failed c.val = false)
    (hspare : d.failed (64 + fieldOf n) = false) :
    d.mapAll.1 = (List.finRange 64).map (fun c => d.mapWord (d.place c)) ∧ d.mapAll.2.2 = false := by
  rw [Dev.mapAll_eq]
  exact Dev.foldl_mapOne n hothers hspare _ (List.nodup_finRange 64) _ fun _ => rfl

theorem getD_map_finRange {α : Type} (f : CombId → α) (c : CombId) (x : α) : ((List.finRange 64).map f).getD c.val x = f c := by
  simp

/-- A physical comb of which nothing was found has its columns and has not failed. -/
theorem Dev.failed_of_unfound {d : Dev} {q : Nat} (hunfound : Sparse.get 0 d.phys q = 0) : d.cols q = [] ∧ d.failed q = false := by
  have hcols : d.cols q = [] := by
    rw [Dev.cols, hunfound]
    decide
  refine ⟨hcols, ?_⟩
  rw [Dev.failed, hcols, hunfound]
  decide

section Found
variable {d : Dev} {p : Fin 68} (hphys : d.phys = findingsOf [⟨p, [], true⟩])
include hphys

theorem Dev.failed_found : d.failed p.val = true := by
  have hbit : (0 ||| pack [(32, true.toNat), (0, (0 : BitVec 32).toNat)]).getLsbD 32 = true := by
    rw [BitVec.getLsbD_or, getLsbD_pack_high, Bool.or_true]
  have hget : Sparse.get 0 d.phys p.val = 0 ||| pack [(32, true.toNat), (0, (0 : BitVec 32).toNat)] := by
    rw [hphys]
    refine Sparse.get_set_self_ne _ _ fun h0 => ?_
    rw [show (0 : W64) ||| pack [(32, true.toNat), (0, (0 : BitVec 32).toNat)] = 0 from h0] at hbit
    exact absurd hbit (by decide)
  rw [Dev.failed, hget, getF_bit, hbit]
  rfl

theorem Dev.failed_unfound {q : Nat} (hq : q ≠ p.val) : d.cols q = [] ∧ d.failed q = false :=
  Dev.failed_of_unfound (by rw [hphys]; exact Sparse.get_set_ne _ _ hq)

end Found

/-! #### What the release of the core does -/

/-- The device's own state and the phase of boot. -/
def State.bootPart (s : State) : Dev × BitVec 3 := (s.dev, s.wdn.phase)

@[simp] theorem State.record_bootPart (s : State) (ev : Event) : (s.record ev).bootPart = s.bootPart := by
  rw [State.bootPart, State.record_dev, (s.record_tells ev).wdn, State.bootPart]

theorem State.putReg_bootPart (s : State) (r : Reg) (w : W64) : (s.putReg r w).bootPart = s.bootPart := by
  cases r <;> rfl

@[simp] theorem State.sweepNote_bootPart (s : State) (r : Reg) (old new : W64) : (s.sweepNote r old new).bootPart = s.bootPart := by
  unfold State.sweepNote
  repeat' split
  all_goals simp

theorem State.writeReg_bootPart (s : State) (r : Reg) (v : W64) : (s.writeReg r v).bootPart = s.bootPart := by
  have hput := fun w old new => (State.sweepNote_bootPart (s.putReg r w) r old new).trans (s.putReg_bootPart r w)
  unfold State.writeReg
  dsimp only
  split
  · exact s.putReg_bootPart r 0
  split
  · exact hput _ _ _
  · split <;> simp
  · exact hput _ _ _

/-- A write made before the core is released leaves them. -/
theorem State.earlyWrite_bootPart (s : State) (r : Reg) (v : W64) : (s.earlyWrite r v).bootPart = s.bootPart := by
  unfold State.earlyWrite
  split
  · rfl
  · exact s.writeReg_bootPart _ v

theorem State.applyStaged_bootPart (s : State) :
    s.applyStaged.bootPart = ({ s.dev with stagedWrites := [] }, s.wdn.phase) :=
  foldl_keeps State.bootPart (fun (t : State) (x : Reg × W64) => t.earlyWrite x.1 x.2) (fun t x => t.earlyWrite_bootPart x.1 x.2) _ _

theorem State.applyStaged_none {s : State} (hnone : s.dev.stagedWrites = []) : s.applyStaged = s := by
  rw [State.applyStaged, hnone, List.foldl_nil, ← hnone]

/-! #### Phase 6 itself -/

/-- The device once the self-test's findings stand. -/
def State.tried (s : State) (x : CombSelftest) : Dev := { s.dev with phys := findingsOf x.findings }

/-- The state as the core is released, before the record and the staged writes. -/
def State.released (s : State) (x : CombSelftest) : State :=
  ({ s with
    dev := { s.tried x with
      stuck := (s.tried x).mapAll.2.2 || getF s.wdn.fault 1 1 == 1, faultLow := (s.tried x).mapAll.2.2, refclkOk := true }
    wdn := { s.wdn with phase := 7, fault := setB s.wdn.fault 0 (s.tried x).mapAll.2.2 } } : State).modCombs
      fun c k => { k with map := (s.tried x).mapAll.1.getD c.val k.map }

theorem exec_bootCore_not_due {s : State} {x : CombSelftest} (hno : ¬ (s.booting = true ∧ s.wdn.phase = 6 ∧ x.refclkGood = true)) :
    exec (.bootCore x) s = .next s :=
  congrArg Host.Outcome.next (if_pos (by simpa [imp_iff_not_or, or_assoc] using hno))

theorem exec_bootCore {s : State} {x : CombSelftest} (hdue : s.booting = true ∧ s.wdn.phase = 6 ∧ x.refclkGood = true) :
    exec (.bootCore x) s = .next (if (s.tried x).mapAll.2.2 then (s.released x).record (.combsShort (s.tried x).failedMask)
      else s.released x).applyStaged := by
  obtain ⟨hboot, hphase, hclock⟩ := hdue
  exact congrArg Host.Outcome.next (if_neg (by simp [hboot, hphase, hclock]))

theorem State.comb_modCombs (s : State) (f : CombId → Comb → Comb) (c : CombId) : (s.modCombs f).comb c = f c (s.comb c) := by
  simp [State.comb, State.modCombs]

/-- Where every comb found a place, and nothing was staged: what the release leaves. -/
theorem exec_bootCore_placed {s : State} {x : CombSelftest} (hdue : s.booting = true ∧ s.wdn.phase = 6 ∧ x.refclkGood = true)
    (hnone : s.dev.stagedWrites = []) (hlong : (s.tried x).mapAll.2.2 = false) : exec (.bootCore x) s = .next (s.released x) := by
  rw [exec_bootCore hdue, hlong, if_neg Bool.false_ne_true, State.applyStaged_none (by exact hnone)]

/-- After phase 6 boot is in phase 7, and no staged write is left. -/
theorem exec_bootCore_phase {s : State} {x : CombSelftest} (hdue : s.booting = true ∧ s.wdn.phase = 6 ∧ x.refclkGood = true) {t : State}
    (ht : exec (.bootCore x) s = .next t) : t.wdn.phase = 7 ∧ t.dev.stagedWrites = [] := by
  obtain rfl := Host.Outcome.next.inj ((exec_bootCore hdue).symm.trans ht)
  have hpart := State.applyStaged_bootPart (if (s.tried x).mapAll.2.2 then (s.released x).record (.combsShort (s.tried x).failedMask)
    else s.released x)
  refine ⟨(congrArg Prod.snd hpart).trans ?_, congrArg (fun p => p.1.stagedWrites) hpart⟩
  split
  · rw [(State.record_tells _ _).wdn]
    rfl
  · rfl

theorem spare_ne_own (n : CombId) : 64 + fieldOf n ≠ n.val := by
  have := n.isLt
  omega


/-! ### O59 -/

theorem Dev.place_one {d : Dev} {n : CombId} (hphys : d.phys = findingsOf [⟨n.castLE (by decide), [], true⟩]) :
    d.mapAll.2.2 = false ∧ d.mapAll.1 = (List.finRange 64).map fun c : CombId => BitVec.ofNat 64 (if c = n then 64 + fieldOf n else c.val) := by
  have hunfound : ∀ q, q ≠ n.val → d.cols q = [] ∧ d.failed q = false := fun q hq => Dev.failed_unfound hphys hq
  have hothers : ∀ c : CombId, c ≠ n → d.failed c.val = false := fun c hc => (hunfound c.val (Fin.val_ne_of_ne hc)).2
  obtain ⟨hmap, hshort⟩ := Dev.mapAll_one n hothers (hunfound _ (spare_ne_own n)).2
  refine ⟨hshort, hmap.trans (List.map_congr_left fun c _ => ?_)⟩
  have hplace : d.place c = if c = n then 64 + fieldOf n else c.val := by
    by_cases hc : c = n
    · have hfailed : d.failed n.val = true := Dev.failed_found hphys
      rw [if_pos hc, hc, Dev.place, hfailed, if_pos rfl]
    · rw [if_neg hc, Dev.place, hothers c hc, if_neg Bool.false_ne_true]
  rw [hplace]
  refine Dev.mapWord_whole (hunfound _ ?_).1
  split
  · exact spare_ne_own n
  next hc => exact Fin.val_ne_of_ne hc

theorem Dev.place_own {d : Dev} (hphys : d.phys = findingsOf []) :
    d.mapAll.2.2 = false ∧ d.mapAll.1 = (List.finRange 64).map fun c : CombId => BitVec.ofNat 64 c.val := by
  have hunfound : ∀ q, d.cols q = [] ∧ d.failed q = false := fun q => Dev.failed_of_unfound (by rw [hphys]; rfl)
  obtain ⟨hmap, hshort⟩ := Dev.mapAll_one 0 (fun c _ => (hunfound c.val).2) (hunfound _).2
  refine ⟨hshort, hmap.trans (List.map_congr_left fun c _ => ?_)⟩
  rw [Dev.place, (hunfound c.val).2, if_neg Bool.false_ne_true, Dev.mapWord_whole (hunfound c.val).1]

theorem State.released_comb (s : State) (x : CombSelftest) (f : CombId → W64) (hmap : (s.tried x).mapAll.1 = (List.finRange 64).map f) (c : CombId) :
    ((s.released x).comb c).map = f c := by
  rw [State.released, State.comb_modCombs, hmap]
  exact getD_map_finRange f c _

end Sys2Proof.Machine
end

section
/-!
O59: the statement.
-/
namespace Sys2Proof.Machine

/-! ### What becomes of the input in use (R406) -/

section Supply
variable {s : State} (hon : s.dev.st ≠ .off) (va vb : Nat)
include hon

theorem exec_vinTransfer_stays (h : (if s.pwr.onB then vinOk vb else vinOk va) = true ∨ (if s.pwr.onB then vinOk va else vinOk vb) = false) :
    exec (.vinTransfer va vb) s = .next (s.measure va vb) := by
  refine (exec_vinTransfer hon va vb).trans (congrArg _ (if_neg ?_))
  rintro ⟨hused, hother⟩
  rcases h with h | h
  · exact Bool.false_ne_true (hused.symm.trans h)
  · exact Bool.false_ne_true (h.symm.trans hother)

theorem exec_vinTransferBack_stays
    (h : s.pwr.pref = s.pwr.onB ∨ (if s.pwr.pref then vb else va) < 10800 ∨ 13200 < (if s.pwr.pref then vb else va)) :
    exec (.vinTransferBack va vb) s = .next (s.measure va vb) := by
  refine (exec_vinTransferBack hon va vb).trans (congrArg _ (if_neg ?_))
  rintro ⟨hpref, hlow, hhigh⟩
  rcases h with h | h | h
  · exact hpref h
  · exact absurd hlow (Nat.not_le.mpr h)
  · exact absurd hhigh (Nat.not_le.mpr h)

end Supply

/-! ### What a failed latent-fault test leaves (R376) -/

section Failed
variable {s : State} {x : LatentTest}

/-- A unit's failure is recorded, with WDN_FAULT.LATENT. -/
theorem State.testBit_recorded (hx : x = .hallComparator ∨ (∃ q, x = .squareSecded q) ∨ (∃ m, x = .pageDecoder m) ∨ x = .monitors) :
    ((s.testBit x).latentFailed x).wdn.latent = setB (wrapF s.wdn.latent 32 32 1) (LatentTest.row x) true ∧
      ((s.testBit x).latentFailed x).wdn.fault.getLsbD 5 = true ∧ ((s.testBit x).latentFailed x).combs = s.combs := by
  have htells := ((s.testBit x).faultBit 5).record_tells (.latent (LatentTest.row x))
  rw [State.latentFailed_recorded _ hx, htells.wdn, htells.combs]
  exact ⟨rfl, getLsbD_setB _ _ (by decide), rfl⟩

/-- A link fails. -/
theorem State.testBit_link {l : LinkId} (hx : x = .linkCrc l) (hst : (s.links[l]).st ≠ .off) :
    ((((s.testBit x).latentFailed x).links[l]).st = .failed) ∧ ((s.testBit x).latentFailed x).wdn.latent.getLsbD 4 = true := by
  subst hx
  obtain ⟨hfailed, hwdn⟩ := (s.testBit (.linkCrc l)).linkFail_frame l hst
  exact ⟨hfailed, (congrArg (fun w : Wdn => w.latent.getLsbD 4) hwdn).trans (s.testBit_latent (.linkCrc l))⟩

/-- A comb is retired. -/
theorem State.testBit_comb {c : CombId} (hx : x = .arrayChecker c ∨ x = .seqComparator c ∨ x = .combSecded c) :
    (((s.testBit x).latentFailed x).comb c).due = some { cause := 3, reload := true, remap := true } ∧
      ((s.testBit x).latentFailed x).dev.failed (getF (s.comb c).map 0 7) = true ∧ ((s.testBit x).latentFailed x).dev.st = s.dev.st ∧
      ((s.testBit x).latentFailed x).wdn.latent.getLsbD (LatentTest.row x) = true := by
  obtain ⟨hdue, hfailed, hst, hwdn⟩ := (s.testBit x).retire_frame c 3
  rw [State.latentFailed_retires _ hx]
  exact ⟨hdue, hfailed, hst, (congrArg (fun w : Wdn => w.latent.getLsbD (LatentTest.row x)) hwdn).trans (s.testBit_latent x)⟩

end Failed

/-! ### What the TAP holds after an instruction -/

theorem Tap.load_frame (tap : Tap) (x : TapIn) (i : TapInstr) :
    ((tap.load x i).instr, (tap.load x i).trstN, (tap.load x i).drive) =
      (i, x.trstN, decide (i ∈ [TapInstr.extest, .extestPulse, .extestTrain])) := by
  rw [decide_mem_pins]
  rfl

theorem not_bypass_of_sampled {i : TapInstr} (hi : i = .samplePreload ∨ i ∈ [TapInstr.extest, .extestPulse, .extestTrain]) :
    i ≠ .bypass ∧ i ≠ .idcode := by
  constructor
  · rintro rfl
    exact absurd hi (by decide)
  · rintro rfl
    exact absurd hi (by decide)

/-! ### What phase 4 leaves (R388) -/

section Verify
variable {s : State} (hdue : s.booting = true ∧ s.atVerify.wdn.nofw = false ∧ s.atVerify.wdn.phase = 4)
include hdue

/-- The other bank runs: the boot record names it, and its copy reads so. -/
theorem exec_bootVerify_fallback (hown : ¬ s.atVerify.wdn.passes s.atVerify.wdn.bank) (hspare : s.atVerify.wdn.passes (!s.atVerify.wdn.bank)) :
    ∃ t, exec .bootVerify s = .next t ∧ (t.wdn.bank, t.wdn.svnMin) = (!s.atVerify.wdn.bank, s.atVerify.wdn.svnMin) ∧
      t.wdn = { s.atVerify.wdn with
        phase := 5, bootRec := t.wdn.bootRec, fallback := true, staged := false, wdnFw := s.atVerify.wdn.runs (!s.atVerify.wdn.bank) } := by
  refine ⟨_, exec_bootVerify_spare hdue hown hspare, ?_⟩
  rw [(State.record_tells _ _).wdn]
  exact ⟨Twin.read_write _ _, rfl⟩

/-- No firmware. -/
theorem exec_bootVerify_nofw (hown : ¬ s.atVerify.wdn.passes s.atVerify.wdn.bank) (hspare : ¬ s.atVerify.wdn.passes (!s.atVerify.wdn.bank)) :
    ∃ t, exec .bootVerify s = .next t ∧ t.dev.st = .wardenUp ∧ t.dev.reset = none ∧ t.wdn = { s.atVerify.wdn with phase := 4, nofw := true } := by
  refine ⟨_, exec_bootVerify_neither hdue hown hspare, ?_⟩
  rw [State.setDev_dev, (State.setDev_tells _ _).wdn]
  exact ⟨rfl, rfl, rfl⟩

end Verify

theorem State.atVerify_later {s : State} (hphase : s.wdn.phase ≠ 1) : s.atVerify = s := by
  rw [State.atVerify, State.midBoot_later hphase, ite_self]

theorem State.atVerify_fresh {s : State} (hboot : s.booting = true) (hphase : s.wdn.phase = 1) :
    s.atVerify.wdn.phase = 4 ∧ s.atVerify.wdn.pins = s.dev.pins := by
  rw [State.atVerify, if_pos hboot]
  exact ⟨by rw [State.midBoot_wdn hphase], State.midBoot_pins hphase⟩

/-! ### What phases 6 and 7 leave (R24 to R27, R394) -/

theorem exec_bootCore_found_none {s : State} {x : CombSelftest} (hdue : s.booting = true ∧ s.wdn.phase = 6 ∧ x.refclkGood = true)
    (hnone : s.dev.stagedWrites = []) (hx : x.findings = []) {t : State} (ht : exec (.bootCore x) s = .next t) :
    t.dev.stuck = s.wdn.fault.getLsbD 1 ∧ ∀ c : CombId, (t.comb c).map = BitVec.ofNat 64 c.val := by
  obtain ⟨hlong, hmap⟩ := Dev.place_own (d := s.tried x) (congrArg findingsOf hx)
  obtain rfl := Host.Outcome.next.inj ((exec_bootCore_placed hdue hnone hlong).symm.trans ht)
  refine ⟨?_, State.released_comb s x _ hmap⟩
  change ((s.tried x).mapAll.2.2 || getF s.wdn.fault 1 1 == 1) = _
  rw [hlong, Bool.false_or, getF_bit]
  cases s.wdn.fault.getLsbD 1 <;> rfl

theorem exec_bootCore_found_one {s : State} {x : CombSelftest} (hdue : s.booting = true ∧ s.wdn.phase = 6 ∧ x.refclkGood = true)
    {n : CombId} (hnone : s.dev.stagedWrites = []) (hx : x.findings = [⟨n.castLE (by decide), [], true⟩]) {t : State}
    (ht : exec (.bootCore x) s = .next t) :
    t.wdn.fault.getLsbD 0 = false ∧ ∀ c : CombId, (t.comb c).map = BitVec.ofNat 64 (if c = n then 64 + fieldOf n else c.val) := by
  obtain ⟨hlong, hmap⟩ := Dev.place_one (d := s.tried x) (congrArg findingsOf hx)
  obtain rfl := Host.Outcome.next.inj ((exec_bootCore_placed hdue hnone hlong).symm.trans ht)
  refine ⟨?_, State.released_comb s x _ hmap⟩
  change (setB s.wdn.fault 0 (s.tried x).mapAll.2.2).getLsbD 0 = false
  rw [getLsbD_setB _ _ (by decide), hlong]

theorem State.protClosed_setDev (s : State) :
    (s.protClosed.setDev .coreUp).dev.st = .coreUp ∧ (s.protClosed.setDev .coreUp).dev.reset = none ∧
      (s.protClosed.setDev .coreUp).wdn = s.protClosed.wdn ∧ (s.protClosed.setDev .coreUp).dev.tap = s.protClosed.dev.tap := by
  rw [State.setDev_dev, (State.setDev_tells _ _).wdn]
  exact ⟨rfl, rfl, rfl, rfl⟩

/-! ### The obligation -/

/-- Settles O59: each instruction's own equation, and for the boot the equation of each phase. -/
theorem powerPinsAndBoot : Obligations.PowerPinsAndBoot := by
  intro s p w on moved steps
  refine ⟨fun va vb hon => ?_, exec_aliveToggle, fun x hon => ⟨?_, ?_⟩, fun ia ib hon => ⟨?_, ?_⟩,
    fun x hon => ⟨exec_junctionOver_below hon, exec_junctionOver_crossed hon⟩, fun x failed hno => exec_latentFaultTest_off hno failed,
    fun x hon hruns => ?_, fun x => ?_, ?_, fun vin => ?_, fun x => ?_, exec_bootClose_not_due, fun hboot hphase => ?_⟩
  · intro used other v
    exact ⟨fun h => ⟨_, (exec_vinTransfer hon va vb).trans (congrArg _ (if_pos h)), s.transfer_hasMoved va vb⟩,
      exec_vinTransfer_stays hon va vb,
      fun h => ⟨_, (exec_vinTransferBack hon va vb).trans (congrArg _ (if_pos h)), s.transfer_hasMoved va vb⟩,
      exec_vinTransferBack_stays hon va vb⟩
  · refine ⟨_, exec_thermalRequest hon x true, rfl, ?_, toNat_deeperStep _ _ _⟩
    change (BitVec.ofNat 8 (min 255 x)).toNat = _
    rw [BitVec.toNat_ofNat]
    omega
  · exact ⟨_, exec_thermalRequest hon x false, rfl, toNat_shallowerStep _ _⟩
  · obtain ⟨t, ht, hkeeps, hstep, hilim⟩ := exec_currentRequest_deeper hon ia ib
    exact ⟨t, ht, hkeeps, by rw [hstep, toNat_deeperStep], hilim⟩
  · exact ⟨_, exec_currentRequest_shallower hon ia ib, rfl, rfl, toNat_shallowerStep _ _⟩
  · exact ⟨exec_latentFaultTest hon hruns false, (s.testBit x).latentFailed x, exec_latentFaultTest hon hruns true,
      State.testBit_recorded, fun l => State.testBit_link, fun c => State.testBit_comb⟩
  · intro tap early pins i n
    refine ⟨exec_tapInstruction_off x, exec_tapInstruction_held, fun hon htrst hopen => ?_⟩
    obtain ⟨t, ht, hframe, htap, hqueue⟩ := exec_tapInstruction_free hon htrst hopen
    refine ⟨t, ht, hframe, ?_, ?_, ?_, ?_, hqueue⟩
    · rw [htap, Tap.load_frame, htrst]
      rfl
    · intro hi
      rw [htap, show s.tapTakes x.instr = .bypass from hi]
      exact Tap.load_bypass tap x
    · intro hi
      rw [htap, show s.tapTakes x.instr = .idcode from hi]
      obtain ⟨hcells, htdo⟩ := Tap.load_idcode tap x
      exact ⟨hcells, fun hn => ⟨Config.manufacturer, (htdo hn).trans (congrArg _ idcodeBits_eq)⟩⟩
    · intro hi hn h0
      rw [htap]
      exact Tap.load_cells tap x (not_bypass_of_sampled hi) hn h0
  · intro v y own spare pass due runs
    exact ⟨State.atVerify_later, State.atVerify_fresh, exec_bootVerify_not_due, exec_bootVerify_own, exec_bootVerify_fallback, exec_bootVerify_nofw⟩
  · have hexec := exec_bootSupply s vin
    exact ⟨fun h => hexec.trans (congrArg _ (if_pos h)), fun h => hexec.trans (congrArg _ (if_neg h))⟩
  · refine ⟨exec_bootCore_not_due, fun hdue => ⟨_, exec_bootCore hdue, ?_⟩⟩
    obtain ⟨hphase, hstaged⟩ := exec_bootCore_phase hdue (exec_bootCore hdue)
    exact ⟨hphase, hstaged, fun hnone hx => exec_bootCore_found_none hdue hnone hx (exec_bootCore hdue),
      fun n hnone hx => exec_bootCore_found_one hdue hnone hx (exec_bootCore hdue)⟩
  · exact ⟨_, exec_bootClose hboot hphase, s.protClosed_setDev⟩

end Sys2Proof.Machine
end

section
/-!
SUPPORT for O57. What the reading of stored data and the closing of merge slots leave: everything but memory, its controllers, the SECDED
counts, the cause bit MEMUNC, the free values drawn, and what events and notices change.
-/
namespace Sys2Proof.Machine

/-- A comb without its SECDED counts. -/
def Comb.bareEcc (k : Comb) : Comb := { k with ecc := 0, eccAddr := 0 }

/-- The state without memory, its controllers, the squares and the SECDED counts, the cause bit MEMUNC and the free values drawn. -/
def State.hull (s : State) : State :=
  { s.quiet with
    mem := {}, mcs := Vector.replicate 24 {}, squares := Vector.replicate 16 {}, combs := s.combs.map Comb.bareEcc, free := 0
    wdn := { s.wdn with fault := setB s.wdn.fault 7 true } }

/-- From `s` to `t` stored data has been read, checked or moved at most. -/
structure State.Keeps (s t : State) : Prop where
  hull : t.hull = s.hull
  queue : s.chr.queue <+: t.chr.queue

namespace State.Keeps

variable {s t u : State}

theorem of_tells (h : s.Tells t) : s.Keeps t := by
  refine ⟨?_, h.queue⟩
  unfold State.hull
  rw [h.quiet, h.combs, h.wdn]

theorem refl (s : State) : s.Keeps s := .of_tells (.refl s)

theorem trans (h : s.Keeps t) (h' : t.Keeps u) : s.Keeps u := ⟨h'.hull.trans h.hull, h.queue.trans h'.queue⟩

theorem foldl {α : Type} (f : State → α → State) (hf : ∀ (t : State) (x : α), t.Keeps (f t x)) (l : List α) : s.Keeps (l.foldl f s) := by
  induction l generalizing s with
  | nil => exact .refl s
  | cons x l ih => exact (hf s x).trans ih

end State.Keeps

variable (s : State)

theorem State.modMem_keeps (f : Mem → Mem) : s.Keeps (s.modMem f) := ⟨rfl, List.prefix_rfl⟩
theorem State.modMc_keeps (m : McId) (f : Mc → Mc) : s.Keeps (s.modMc m f) := ⟨rfl, List.prefix_rfl⟩
theorem State.modSquare_keeps (q : SqId) (f : Square → Square) : s.Keeps (s.modSquare q f) := ⟨rfl, List.prefix_rfl⟩
theorem State.draw_keeps : s.Keeps s.draw.2 := ⟨rfl, List.prefix_rfl⟩
theorem State.setCrc_keeps (sector : Nat) (d : BitVec 32) : s.Keeps (s.setCrc sector d) := s.modMem_keeps _
theorem State.putParity_keeps (page code n : Nat) : s.Keeps (s.putParity page code n) := ⟨rfl, List.prefix_rfl⟩

theorem State.rewriteParity_keeps (page : Nat) : s.Keeps (s.rewriteParity page) := (s.putParity_keeps ..).trans (State.modMc_keeps _ _ _)

theorem State.endRetrain_keeps (m : McId) (finished : Bool) : s.Keeps (s.endRetrain m finished) :=
  ⟨rfl, List.prefix_rfl⟩

theorem State.waitRetrain_keeps (page : Nat) : s.Keeps (s.waitRetrain page) := by
  unfold State.waitRetrain
  split
  · exact s.draw_keeps.trans (State.endRetrain_keeps _ _ _)
  · exact .refl s

theorem State.waitParity_keeps (page : Nat) : s.Keeps (s.waitParity page) := by
  unfold State.waitParity
  split
  · exact .refl s
  · exact .foldl _ (fun t p => t.waitRetrain_keeps p) _

theorem State.setStack_keeps (sector : Nat) (f : List Byte × Bool → List Byte × Bool) : s.Keeps (s.setStack sector f) := by
  unfold State.setStack
  dsimp only
  split
  · exact s.modMc_keeps _ _
  · exact s.modMem_keeps _

/-- The cause bit MEMUNC, once set, hides whether it was set. -/
theorem setB_setB_self {w : Nat} (r : BitVec w) (i : Nat) (b b' : Bool) : setB (setB r i b) i b' = setB r i b' := by
  refine BitVec.eq_of_getLsbD_eq fun j hj => ?_
  rw [setB, setB, setB, getLsbD_setF _ _ _ _ _ hj, getLsbD_setF _ _ _ _ _ hj, getLsbD_setF _ _ _ _ _ hj]
  split <;> rfl

theorem State.memUnc_keeps : s.Keeps (s.faultBit 7) := by
  refine ⟨?_, List.prefix_rfl⟩
  change { s.hull with wdn := { s.wdn with fault := setB (setB s.wdn.fault 7 true) 7 true } } = s.hull
  rw [setB_setB_self]
  rfl

theorem State.uncorrectable_keeps (page : Nat) : s.Keeps (s.uncorrectable page) := by
  unfold State.uncorrectable
  extract_lets m bad first s1 s2 _ s3
  have h1 : s.Keeps s1 := .foldl _ (fun t k => (t.setStack_keeps _ _).trans (State.setCrc_keeps _ _ _)) _
  have h2 : s1.Keeps s2 := s1.modMc_keeps _ _
  have h3 : s2.Keeps s3 := s2.memUnc_keeps
  exact ((h1.trans h2).trans h3).trans (.of_tells ((s3.record_tells _).trans (State.notice_tells _ _)))

theorem State.lostParity_keeps (sector : Nat) : s.Keeps (s.lostParity sector) := by
  refine ((s.modMc_keeps _ _).trans (.foldl _ (fun t p => ?_) _)).trans (State.setCrc_keeps _ _ _)
  dsimp only
  split
  · exact (t.waitRetrain_keeps p).trans (State.rewriteParity_keeps _ _)
  · exact (t.waitRetrain_keeps p).trans (State.uncorrectable_keeps _ _)

theorem State.mendParity_keeps (page : Nat) : s.Keeps (s.mendParity page) := .foldl _ (fun t x => t.lostParity_keeps x) _

theorem State.mendPage_keeps (page : Nat) : s.Keeps (s.mendPage page) := by
  unfold State.mendPage
  dsimp only
  split
  · exact s.uncorrectable_keeps page
  · have hwritten := fun (t : State) (k : Nat) (f : List Byte × Bool → List Byte × Bool) =>
      (t.setStack_keeps (64 * page + k) f).trans (State.setCrc_keeps _ (64 * page + k) 0)
    exact ((State.Keeps.foldl _ (fun t k => hwritten t k _) _).trans (State.modMc_keeps _ _ _)).trans
      (.of_tells (State.corrected_tells _ _ _))

theorem State.checkPage_keeps (page : Nat) : s.Keeps (s.checkPage page) := by
  have h1 : s.Keeps ((s.waitParity page).mendParity page) := (s.waitParity_keeps page).trans (State.mendParity_keeps _ _)
  unfold State.checkPage
  dsimp only
  split
  · split
    · exact h1
    · exact h1.trans (State.rewriteParity_keeps _ _)
  · exact h1.trans (State.mendPage_keeps _ _)

theorem State.touchHbm_keeps (a n : Nat) : s.Keeps (s.touchHbm a n) := by
  refine State.Keeps.trans ?_ (.foldl _ (fun t p => t.checkPage_keeps p) _)
  split
  · exact .refl s
  · exact .foldl _ (fun t p => t.waitRetrain_keeps p) _

theorem State.closeSlot_keeps (m : McId) (page : Nat) (cut : Bool) : s.Keeps (s.closeSlot m page cut) := by
  unfold State.closeSlot
  lift_lets
  extract_lets s0 held s1 s2 s3 s4
  have h0 : s.Keeps s0 := s.waitRetrain_keeps page
  have h1 : s0.Keeps s1 := by
    simp only [s1]
    split
    · exact .refl s0
    · exact s0.checkPage_keeps page
  have h2 : s1.Keeps s2 := s1.modMc_keeps _ _
  have h3 : s2.Keeps s3 := .foldl _ (fun t k => t.setCrc_keeps _ _) _
  have h4 : s3.Keeps s4 := (s3.waitParity_keeps page).trans (State.mendParity_keeps _ _)
  have hclosed := ((h0.trans h1).trans h2).trans h3
  split
  · exact hclosed
  · exact (hclosed.trans h4).trans (s4.putParity_keeps _ _ _)

theorem State.closeSlots_keeps (lost : Bool) : s.Keeps (s.closeSlots lost) := by
  refine .foldl _ (fun t m => .foldl _ (fun u p => ?_) _) _
  split
  · exact u.draw_keeps.trans (State.closeSlot_keeps _ _ _ _)
  · exact u.closeSlot_keeps _ _ _

end Sys2Proof.Machine
end

section
/-!
SUPPORT for O57, second part: where no stored sector fails its CRC, the closing of merge slots and the reading of an image leave the stored
bytes as they are; and the reload of a comb (R28, R151).
-/
namespace Sys2Proof.Machine

/-! ### Memory in which no stored sector fails -/

section Whole
variable {s : State} (hcrc : s.mem.crc = [])

theorem State.waitRetrain_stored (s : State) (page : Nat) : (s.waitRetrain page).mem = s.mem := by
  unfold State.waitRetrain
  split <;> rfl

theorem State.waitParity_stored (s : State) (page : Nat) : (s.waitParity page).mem = s.mem := by
  unfold State.waitParity
  split
  · rfl
  · exact foldl_keeps State.mem _ State.waitRetrain_stored _ _

include hcrc

theorem State.mendParity_whole (page : Nat) : s.mendParity page = s := by
  rw [State.mendParity, hcrc]
  simp [Sparse.get]

theorem State.badSectors_whole (page : Nat) : s.badSectors page = [] := by
  rw [State.badSectors, hcrc]
  rfl

theorem State.setCrc_whole (sector : Nat) : s.setCrc sector 0 = s := by
  have hset : Sparse.set 0 s.mem.crc sector 0 = s.mem.crc := by
    rw [hcrc]
    rfl
  rw [State.setCrc, State.modMem, hset]

end Whole

/-- The stored bytes of whole memory are as they were, and none fails. -/
def State.sameBytes (s t : State) : Prop := s.mem.crc = [] → t.mem.bytes = s.mem.bytes ∧ t.mem.crc = []

namespace State.sameBytes

variable {s t u : State}

theorem of_mem (h : t.mem = s.mem) : s.sameBytes t := fun hcrc => ⟨congrArg Mem.bytes h, (congrArg Mem.crc h).trans hcrc⟩

theorem trans (h : s.sameBytes t) (h' : t.sameBytes u) : s.sameBytes u := fun hcrc =>
  have ⟨hbytes, hwhole⟩ := h hcrc
  have ⟨hbytes', hwhole'⟩ := h' hwhole
  ⟨hbytes'.trans hbytes, hwhole'⟩

theorem foldl {α : Type} (f : State → α → State) (hf : ∀ (t : State) (x : α), t.sameBytes (f t x)) (l : List α) : s.sameBytes (l.foldl f s) := by
  induction l generalizing s with
  | nil => exact .of_mem rfl
  | cons x l ih => exact (hf s x).trans ih

end State.sameBytes

theorem State.modMc_sameBytes (s : State) (m : McId) (f : Mc → Mc) : s.sameBytes (s.modMc m f) := .of_mem rfl

theorem State.putParity_sameBytes (s : State) (page code n : Nat) : s.sameBytes (s.putParity page code n) := fun hcrc => ⟨rfl, hcrc⟩

theorem State.setCrc_sameBytes (s : State) (sector : Nat) : s.sameBytes (s.setCrc sector 0) :=
  fun hcrc => State.sameBytes.of_mem (congrArg State.mem (State.setCrc_whole hcrc sector)) hcrc

theorem State.mendParity_sameBytes (s : State) (page : Nat) : s.sameBytes (s.mendParity page) :=
  fun hcrc => State.sameBytes.of_mem (congrArg State.mem (State.mendParity_whole hcrc page)) hcrc

/-- A slot that closes writes parity only. -/
theorem State.closeSlot_sameBytes (s : State) (m : McId) (page : Nat) (cut : Bool) : s.sameBytes (s.closeSlot m page cut) := by
  unfold State.closeSlot
  lift_lets
  extract_lets s0 held s1 s2 s3 s4
  have h0 : s.sameBytes s0 := .of_mem (s.waitRetrain_stored page)
  have h1 : s0.sameBytes s1 := fun hcrc => by
    have hsame : s1 = s0 := if_pos (by rw [State.badSectors_whole hcrc, List.all_nil])
    rw [hsame]
    exact ⟨rfl, hcrc⟩
  have h2 : s1.sameBytes s2 := s1.modMc_sameBytes _ _
  have h3 : s2.sameBytes s3 := .foldl _ (fun t k => t.setCrc_sameBytes _) _
  have h4 : s3.sameBytes s4 := (State.sameBytes.of_mem (s3.waitParity_stored page)).trans (State.mendParity_sameBytes _ _)
  have hclosed := ((h0.trans h1).trans h2).trans h3
  split
  · exact hclosed
  · exact (hclosed.trans h4).trans (s4.putParity_sameBytes _ _ _)

theorem State.draw_sameBytes (s : State) : s.sameBytes s.draw.2 := .of_mem rfl

theorem State.closeSlots_sameBytes (s : State) (lost : Bool) : s.sameBytes (s.closeSlots lost) := by
  refine .foldl _ (fun t m => .foldl _ (fun u p => ?_) _) _
  split
  · exact u.draw_sameBytes.trans (State.closeSlot_sameBytes _ _ _ _)
  · exact u.closeSlot_sameBytes _ _ _

/-! ### Reads -/

section Read
variable {s : State} (hcrc : s.mem.crc = []) (hclean : s.mem.upsets = [])

theorem State.touchHbm_whole (hcrc : s.mem.crc = []) (a n : Nat) : (s.touchHbm a n).mem = s.mem := by
  unfold State.touchHbm
  extract_lets pages s0 bad
  have h0 : s0.mem = s.mem := by
    simp only [s0]
    split
    · rfl
    · exact foldl_keeps State.mem _ State.waitRetrain_stored _ _
  have hbad : bad = [] := by simp [bad, h0, hcrc]
  rw [hbad]
  exact h0

include hcrc hclean

/-- A read of whole and clean memory changes nothing of it. -/
theorem State.touch_whole (a n : Nat) : (s.touch a n).mem = s.mem := by
  unfold State.touch
  split
  · rfl
  split
  · exact State.touchHbm_whole hcrc a n
  · rw [State.touchSram_clean hclean]
  · rw [State.touchSram_clean hclean]
  · rfl

end Read

theorem Comb.bareEcc_map_set (combs : Vector Comb 64) (c : CombId) {k : Comb} (hk : k.bareEcc = combs[c].bareEcc) :
    (combs.set c k).map Comb.bareEcc = combs.map Comb.bareEcc := by
  refine Vector.ext fun i hi => ?_
  rw [Vector.getElem_map, Vector.getElem_map, Vector.getElem_set]
  split
  next hc => subst hc; exact hk
  next => rfl

theorem State.modComb_keeps (s : State) (c : CombId) {f : Comb → Comb} (hf : ∀ k, (f k).bareEcc = k.bareEcc) : s.Keeps (s.modComb c f) := by
  refine ⟨?_, List.prefix_rfl⟩
  change { s.hull with combs := (s.combs.set c (f s.combs[c])).map Comb.bareEcc } = s.hull
  rw [Comb.bareEcc_map_set _ _ (hf _)]
  rfl

theorem State.eccNote_keeps (s : State) (u : SweepUnit) (n d line : Nat) : s.Keeps (s.eccNote u n d line) := by
  cases u with
  | comb c => exact (s.modComb_keeps c (f := fun k => k.eccNoted n d line) fun k => rfl).trans (.of_tells (s.eccNote_comb_tells c n d line))
  | square q => exact (s.modSquare_keeps q _).trans (.of_tells (s.eccNote_square_tells q n d line))
  | hbm m => exact .refl s

theorem State.touchSram_keeps (s : State) (u : SweepUnit) (a n : Nat) : s.Keeps (s.touchSram u a n) := by
  unfold State.touchSram
  dsimp only
  split
  · exact .refl s
  · exact (s.modMem_keeps _).trans (State.eccNote_keeps _ _ _ _ _)

theorem State.touch_keeps (s : State) (a n : Nat) : s.Keeps (s.touch a n) := by
  unfold State.touch
  split
  · exact .refl s
  split
  · exact s.touchHbm_keeps a n
  · exact s.touchSram_keeps _ a n
  · exact s.touchSram_keeps _ a n
  · exact .refl s

/-! ### An image is read -/

theorem State.readImage_keeps (s : State) (a : Nat) : s.Keeps (s.readImage a).2 := by
  unfold State.readImage
  split
  · exact .refl s
  dsimp only
  split
  · exact s.touch_keeps a 64
  · exact (s.touch_keeps a 64).trans (State.touch_keeps _ _ _)

section Image
variable {s t : State} (hmem : t.mem = s.mem) (hcol : t.col = s.col)
include hmem hcol

theorem State.room_congr (a : Nat) : t.room a = s.room a := by
  have hreserve : t.reserve = s.reserve := congrArg (fun m : Mem => reserveBytes (getF m.cfg 32 2)) hmem
  have hpool : t.pool = s.pool := congrArg (fun c : Col => getF c.cfg 0 4) hcol
  have hregion : t.region a = s.region a := by rw [State.region, hreserve, hpool, State.region]
  rw [State.room, hregion, hreserve, hpool, State.room]

theorem State.opened_congr (a n : Nat) : t.opened a n = s.opened a n := by
  rw [State.opened, State.room_congr hmem hcol, State.opened]

theorem State.imageAt_congr (a : Nat) : t.imageAt a = s.imageAt a := by
  have hopened : t.opened = s.opened := funext fun x => funext (State.opened_congr hmem hcol x)
  have hbytes : t.bytes = s.bytes := by
    unfold State.bytes State.byte
    rw [hmem]
  have hpoisoned : t.poisoned = s.poisoned := by
    unfold State.poisoned State.doubled
    rw [hmem]
  rw [State.imageAt, hopened, hbytes, hpoisoned, State.imageAt]

end Image

theorem State.Keeps.col {s t : State} (h : s.Keeps t) : t.col = s.col := (congrArg State.col h.hull :)

/-- From whole and clean memory the hall reads the image that stands there. -/
theorem State.readImage_whole {s : State} (hcrc : s.mem.crc = []) (hclean : s.mem.upsets = []) (a : Nat) :
    (s.readImage a).1 = s.imageAt a ∧ (s.readImage a).2.mem = s.mem := by
  have htouch : ∀ (t : State) n, t.mem = s.mem → t.col = s.col → (t.touch a n).mem = s.mem ∧ (t.touch a n).col = s.col := fun t n hm hc =>
    ⟨(State.touch_whole (by rw [hm, hcrc]) (by rw [hm, hclean]) a n).trans hm, (t.touch_keeps a n).col.trans hc⟩
  obtain ⟨hmem, hcol⟩ := htouch s 64 rfl rfl
  have himage := State.imageAt_congr hmem hcol a
  unfold State.readImage
  by_cases hopen : s.opened a 64 = true
  · rw [if_neg (by simp [hopen])]
    dsimp only
    rw [himage]
    cases him : s.imageAt a with
    | none => exact ⟨rfl, hmem⟩
    | some im =>
      obtain ⟨hmem', hcol'⟩ := htouch _ (64 + 8 * im.words) hmem hcol
      exact ⟨(State.imageAt_congr hmem' hcol' a).trans him, hmem'⟩
  · have hnone : s.imageAt a = none := if_pos (by simpa using hopen)
    rw [if_pos (by simpa using hopen), hnone]
    exact ⟨rfl, rfl⟩

end Sys2Proof.Machine
end

section
/-!
O57, first part: comb and compute resets, asked for by an order (R381) and ended with the reload of the combs (R28, R151, R378).
-/
namespace Sys2Proof.Machine

/-! ### RESET_COMB and RESET_COMPUTE -/

/-- An order that is executed runs in the state that has heard it. -/
theorem exec_order_runs {s : State} {c : Instr} {h : OrderHdr} {u : OrderRule} {run : State → State} (hacc : s.accepts c = true)
    (horder : s.orderRule c = some (h, u)) (hcached : u.cached = true) (hexec : exec c s = .next (s.order h u run)) :
    exec c s = .next (run (s.heard h)) := by
  simp only [State.accepts, horder, Bool.and_eq_true] at hacc
  obtain ⟨⟨⟨⟨htaken, hnew⟩, hformed⟩, hauth⟩, hstate⟩ := hacc
  rw [hexec, State.order_runs s h u run htaken hnew hcached hformed hauth (List.contains_iff_mem.mp hstate)]

/-- The port of a device that takes up an order is up. -/
theorem State.accepts_linkUp {s : State} {c : Instr} {h : OrderHdr} {u : OrderRule} (hacc : s.accepts c = true)
    (horder : s.orderRule c = some (h, u)) : s.eth.linkUp = true := by
  simp only [State.accepts, horder, Bool.and_eq_true, State.takesUp, State.receives] at hacc
  exact hacc.1.1.1.1.1.1.1.1.1

section Later
variable (s : State) (h : OrderHdr) (combs chime : W64)

/-- Whether a chime has passed is a matter of the chime number alone. -/
theorem State.heard_past : (s.heard h).past chime = s.past chime := by
  rw [State.past, State.heard_chm, ← State.past]

/-- A comb reset without combs, a compute reset with combs, or one for a chime that has passed is refused; else it waits. -/
theorem State.resetLater_heard (compute : Bool) :
    ((if compute then combs ≠ 0 else combs = 0) ∨ (chime ≠ 0 ∧ s.past chime = true) →
      (s.heard h).resetLater h compute combs chime = (s.heard h).refuse h 0x21 true .range .none) ∧
    (¬ (if compute then combs ≠ 0 else combs = 0) → ¬ (chime ≠ 0 ∧ s.past chime = true) →
      (s.heard h).resetLater h compute combs chime = { s.heard h with dev := { (s.heard h).dev with jobs := s.dev.jobs ++
        [{ hdr := h, compute := compute, combs := combs, chime := if chime = 0 then s.chm.n + 1 else chime }] } }) := by
  have hpast : (s.heard h).future chime = false ↔ s.past chime = true := by
    rw [State.future, State.heard_past, Bool.not_eq_false']
  have hlate : (if compute then combs ≠ 0 else combs = 0) ∨ (chime ≠ 0 ∧ (s.heard h).future chime = false) ↔
      (if compute then combs ≠ 0 else combs = 0) ∨ (chime ≠ 0 ∧ s.past chime = true) := by rw [hpast]
  unfold State.resetLater
  refine ⟨fun hno => if_pos (hlate.mpr hno), fun hcombs htime => ?_⟩
  have hn : (s.heard h).chm.n = s.chm.n := congrArg Chm.n (s.heard_chm h)
  have hjobs : (s.heard h).dev.jobs = s.dev.jobs := congrArg Dev.jobs (s.heard_dev h)
  rw [if_neg (mt hlate.mp (not_or.mpr ⟨hcombs, htime⟩)), hn, hjobs]

end Later

/-! ### Several replies in a row -/

section Replies
variable {α : Type} (hdr : α → OrderHdr) (code : BitVec 8) (res : Result)

/-- Replies to the senders of what waits. -/
def State.replyAll (s : State) (xs : List α) : State := xs.foldl (fun (t : State) x => t.reply (hdr x) code res .none) s

theorem State.replyAll_answers (s : State) (xs : List α) : s.Answers (s.replyAll hdr code res xs) := by
  induction xs generalizing s with
  | nil => exact .refl s
  | cons x xs ih => exact (s.reply_answers _ _ _ _).trans (ih _)

theorem State.replyAll_dev (s : State) (xs : List α) : (s.replyAll hdr code res xs).dev = s.dev :=
  foldl_keeps State.dev _ (fun t x => t.reply_dev (hdr x) code res .none) xs s

/-- The reply itself. -/
def State.answerTo (s : State) (x : α) : Reply := ⟨(hdr x).src, code, (hdr x).seq, res, s.dev.st, .none⟩

theorem State.replyAll_replies {s : State} (hbare : s.eth.linkUp = true ∧ getF s.eth.cfg 33 1 = 0) (xs : List α) :
    (s.replyAll hdr code res xs).eth.replies = s.eth.replies ++ xs.map (s.answerTo hdr code res) := by
  induction xs generalizing s with
  | nil => exact (List.append_nil _).symm
  | cons x xs ih =>
    have hone := s.reply_answers (hdr x) code res .none
    have hst : (s.reply (hdr x) code res .none).dev = s.dev := s.reply_dev _ _ _ _
    have hsent : (s.reply (hdr x) code res .none).eth.replies = s.eth.replies ++ [s.answerTo hdr code res x] := by
      obtain ⟨cache, hreply⟩ := s.reply_eq (hdr x) code res .none
      rw [hreply, State.sendReply_bare]
      · rw [if_pos hbare.1]
        rfl
      · exact hbare.2
    have hrest := ih (s := s.reply (hdr x) code res .none) (by rw [hone.linkUp, hone.cfg]; exact hbare)
    have hto : (s.reply (hdr x) code res .none).answerTo hdr code res = s.answerTo hdr code res := by
      funext y
      rw [State.answerTo, hst, State.answerTo]
    rw [State.replyAll, List.foldl_cons, ← State.replyAll, hrest, hsent, hto, List.append_assoc, List.map_cons, List.singleton_append]

end Replies


/-! ### READY and RUNNING follow the combs (Table 17.5) -/

/-- What a reset's end reads of the device and the port. -/
def State.port (s : State) : List Reply × W64 × Bool × Option ResetRun := (s.eth.replies, s.eth.cfg, s.eth.linkUp, s.dev.reset)

section Port
variable {s t : State} (h : t.port = s.port)
include h

theorem State.replies_of_port : t.eth.replies = s.eth.replies := congrArg Prod.fst h
theorem State.cfg_of_port : t.eth.cfg = s.eth.cfg := congrArg (fun p => p.2.1) h
theorem State.linkUp_of_port : t.eth.linkUp = s.eth.linkUp := congrArg (fun p => p.2.2.1) h

end Port

theorem State.Tells.port {s t : State} (h : s.Tells t) : t.port = s.port := (congrArg State.port h.quiet :)
theorem State.Tells.col {s t : State} (h : s.Tells t) : t.col = s.col := (congrArg State.col h.quiet :)
theorem State.Keeps.port {s t : State} (h : s.Keeps t) : t.port = s.port := (congrArg State.port h.hull :)

theorem State.Keeps.seq {s t : State} (h : s.Keeps t) (c : CombId) : (t.comb c).seq = (s.comb c).seq := by
  have hcombs : t.combs.map Comb.bareEcc = s.combs.map Comb.bareEcc := (congrArg State.combs h.hull :)
  have hc : (t.combs.map Comb.bareEcc)[c.val] = (s.combs.map Comb.bareEcc)[c.val] := by rw [hcombs]
  rw [Vector.getElem_map, Vector.getElem_map] at hc
  exact (congrArg Comb.seq hc : (t.comb c).bareEcc.seq = (s.comb c).bareEcc.seq)


section Refresh
variable (s : State)

theorem State.setDev_combs (d : DevState) : (s.setDev d).combs = s.combs := (s.setDev_tells d).combs
theorem State.setDev_port (d : DevState) : (s.setDev d).port = s.port := (s.setDev_tells d).port
theorem State.setDev_col (d : DevState) : (s.setDev d).col = s.col := (s.setDev_tells d).col

/-- What follows the combs is the device state alone. -/
theorem State.refresh_cases : s.refresh = s ∨ ∃ d, s.refresh = s.setDev d := by
  unfold State.refresh
  dsimp only
  split
  · exact .inr ⟨_, rfl⟩
  split
  · exact .inr ⟨_, rfl⟩
  · exact .inl rfl

theorem State.refresh_frame : s.refresh.combs = s.combs ∧ s.refresh.port = s.port ∧ s.refresh.col = s.col := by
  rcases s.refresh_cases with h | ⟨d, h⟩
  · rw [h]
    exact ⟨rfl, rfl, rfl⟩
  · rw [h]
    exact ⟨s.setDev_combs d, s.setDev_port d, s.setDev_col d⟩

theorem State.refresh_resetting {s : State} (hst : s.dev.st = .resetting) : s.refresh = s := by
  unfold State.refresh
  dsimp only
  rw [hst, if_neg (fun h => DevState.noConfusion h.1), if_neg (fun h => DevState.noConfusion h.1)]

/-- Without an active comb a running device is READY. -/
theorem State.refresh_idle {s : State} (hidle : ∀ c : CombId, (s.comb c).seq.st.active = false) :
    s.refresh.dev.st = if s.dev.st = .running then .ready else s.dev.st := by
  have hact : (s.combs.toList.any fun k => k.seq.st.active) = false := by
    rw [List.any_eq_false]
    intro k hk
    obtain ⟨i, hi, hik⟩ := List.mem_iff_getElem.mp hk
    have hk' : k = s.comb ⟨i, by simpa using hi⟩ := by rw [← hik]; simp [State.comb]
    rw [hk', hidle]
    exact Bool.false_ne_true
  unfold State.refresh
  dsimp only
  rw [hact, if_neg (fun h => Bool.false_ne_true h.2)]
  split
  next h => rw [if_pos h.1, State.setDev_dev]
  next h => rw [if_neg (fun h0 => h ⟨h0, Bool.false_ne_true⟩)]

end Refresh

/-! ### A comb is loaded again (R28, R151) -/

/-- The reload of comb `c` has led from `s` to `t`. -/
structure State.Reloads (s : State) (c : CombId) (t : State) : Prop where
  others : ∀ k, k ≠ c → (t.comb k).seq = (s.comb k).seq
  port : t.port = s.port
  st : s.dev.st = .resetting → t.dev.st = .resetting
  idle : (s.comb c).seq.st.active = false → (t.comb c).seq.st.active = false
  col : t.col = s.col
  mem : s.mem.crc = [] → s.mem.upsets = [] → t.mem = s.mem

theorem State.Keeps.dev_st {s t : State} (h : s.Keeps t) : t.dev.st = s.dev.st := (congrArg (fun x : State => x.dev.st) h.hull :)

section Reload
variable {s : State} {c : CombId} {p : ProgRec}

theorem State.reloadComb_none (hprog : (s.comb c).seq.prog = none) : s.reloadComb c = s := by
  rw [State.reloadComb, hprog]

theorem State.reloadComb_loaded (hprog : (s.comb c).seq.prog = some p) {im : Image} (him : (s.readImage p.image).1 = some im)
    (hseal : plainSeal im.bytes = p.digest) : s.reloadComb c = (s.readImage p.image).2.loadComb c im := by
  rw [State.reloadComb, hprog]
  dsimp only
  rw [him]
  exact if_pos hseal

theorem State.reloadComb_dropped (hprog : (s.comb c).seq.prog = some p)
    (hno : ∀ im, (s.readImage p.image).1 = some im → plainSeal im.bytes ≠ p.digest) :
    s.reloadComb c = ((s.readImage p.image).2.modSeq c fun q => { q with prog := none }).record (.sealMismatch c) := by
  rw [State.reloadComb, hprog]
  dsimp only
  cases him : (s.readImage p.image).1 with
  | none => rfl
  | some im => exact if_neg (hno im him)

end Reload


namespace State.Reloads

variable {s t u : State} {c : CombId}

theorem refl (s : State) (c : CombId) : s.Reloads c s := ⟨fun _ _ => rfl, rfl, id, id, rfl, fun _ _ => rfl⟩

/-- A read before it. -/
theorem of_read (hkeeps : s.Keeps t) (hmem : s.mem.crc = [] → s.mem.upsets = [] → t.mem = s.mem) (h : t.Reloads c u) : s.Reloads c u where
  others k hk := (h.others k hk).trans (hkeeps.seq k)
  port := h.port.trans hkeeps.port
  st hst := h.st (hkeeps.dev_st.trans hst)
  idle hidle := h.idle (by rw [hkeeps.seq, hidle])
  col := h.col.trans hkeeps.col
  mem hcrc hclean := (h.mem (by rw [hmem hcrc hclean, hcrc]) (by rw [hmem hcrc hclean, hclean])).trans (hmem hcrc hclean)

/-- The sequencer of `c` changes, and what is told of it. -/
theorem of_modSeq {f : Seq → Seq} (hf : (s.comb c).seq.st.active = false → (f (s.comb c).seq).st.active = false)
    (hcombs : t.combs = (s.modSeq c f).combs) (hport : t.port = s.port) (hcol : t.col = s.col) (hmem : t.mem = s.mem)
    (hst : s.dev.st = .resetting → t.dev.st = .resetting) : s.Reloads c t := by
  have hcomb : ∀ k, t.comb k = (s.modSeq c f).comb k := fun k => congrArg (·[k]) hcombs
  exact {
    others := fun k hk => by rw [hcomb, s.modSeq_comb_ne f hk]
    port := hport, st := hst, col := hcol, mem := fun _ _ => hmem
    idle := fun hidle => by rw [hcomb, State.modSeq_seq]; exact hf hidle }

end State.Reloads

/-- A sequencer with an image loaded (R154). -/
def Seq.loadedWith (q : Seq) (im : Image) : Seq :=
  { q with
    stall := .none, wait := none, vote := none, fetched := none
    s := Vector.replicate 32 0, d := Vector.replicate 32 (Vector.replicate 8 0), p := 0, cnt := Vector.replicate 256 0
    loops := [], fault := setF q.fault 0 8 0, istore := imageWords im.words im.bytes, upsets := im.bad.map fun i => (i, .double)
    prog := some ⟨im.addr, im.entry, im.words, plainSeal im.bytes⟩, st := .loaded }

theorem State.loadComb_eq (s : State) (c : CombId) (im : Image) : s.loadComb c im = (s.modSeq c fun q => q.loadedWith im).refresh := by
  rw [State.loadComb, State.setSeqSt, State.modSeq_modSeq]
  rfl

theorem State.loadComb_reloads (s : State) (c : CombId) (im : Image) : s.Reloads c (s.loadComb c im) := by
  rw [State.loadComb_eq]
  obtain ⟨hcombs, hport, hcol⟩ := State.refresh_frame (s.modSeq c fun q => q.loadedWith im)
  refine .of_modSeq (f := fun q => q.loadedWith im) (fun _ => rfl) hcombs hport hcol (State.refresh_mem _) fun hst => ?_
  rw [State.refresh_resetting (by exact hst)]
  exact hst

/-- A reload changes the comb's own sequencer. -/
theorem State.reloadComb_reloads (s : State) (c : CombId) : s.Reloads c (s.reloadComb c) := by
  cases hprog : (s.comb c).seq.prog with
  | none =>
    rw [State.reloadComb_none hprog]
    exact .refl s c
  | some p =>
    have hread := s.readImage_keeps p.image
    have hwhole := fun hcrc hclean => (State.readImage_whole (s := s) hcrc hclean p.image).2
    refine .of_read hread hwhole ?_
    by_cases hseal : ∃ im, (s.readImage p.image).1 = some im ∧ plainSeal im.bytes = p.digest
    · obtain ⟨im, him, hok⟩ := hseal
      rw [State.reloadComb_loaded hprog him hok]
      exact State.loadComb_reloads _ c im
    · rw [State.reloadComb_dropped hprog fun im him hok => hseal ⟨im, him, hok⟩]
      have htells := State.record_tells ((s.readImage p.image).2.modSeq c fun q => { q with prog := none }) (.sealMismatch c)
      refine .of_modSeq (f := fun q => { q with prog := none }) id htells.combs htells.port htells.col htells.mem fun hst => ?_
      rw [State.record_dev]
      exact hst

/-- What a comb's sequencer is after its reload, for an image that passes and one that does not. -/
theorem State.reloadComb_result {s : State} {c : CombId} {p : ProgRec} (hprog : (s.comb c).seq.prog = some p) :
    (∀ im, (s.readImage p.image).1 = some im → plainSeal im.bytes = p.digest →
      ((s.reloadComb c).comb c).seq.st = .loaded ∧ ((s.reloadComb c).comb c).seq.cnt = Vector.replicate 256 0) ∧
    ((∀ im, (s.readImage p.image).1 = some im → plainSeal im.bytes ≠ p.digest) →
      ((s.reloadComb c).comb c).seq = { (s.comb c).seq with prog := none }) := by
  refine ⟨fun im him hok => ?_, fun hno => ?_⟩
  · rw [State.reloadComb_loaded hprog him hok, State.loadComb_eq]
    have hcomb := congrArg (fun v : Vector Comb 64 => v[c])
      (State.refresh_frame ((s.readImage p.image).2.modSeq c fun q => q.loadedWith im)).1
    rw [State.comb, hcomb, ← State.comb, State.modSeq_seq]
    exact ⟨rfl, rfl⟩
  · rw [State.reloadComb_dropped hprog hno, (State.record_tells _ _).comb, State.modSeq_seq, (s.readImage_keeps p.image).seq]


/-! ### Every comb is loaded again -/

section ReloadAll

/-- Combs that are not among those loaded keep their sequencer; the port, the device state and memory are as each reload leaves them. -/
theorem State.foldl_reload_frame (cs : List CombId) (s : State) :
    (∀ k, k ∉ cs → ((cs.foldl State.reloadComb s).comb k).seq = (s.comb k).seq) ∧ (cs.foldl State.reloadComb s).port = s.port ∧
      (s.dev.st = .resetting → (cs.foldl State.reloadComb s).dev.st = .resetting) ∧
      ((∀ k, (s.comb k).seq.st.active = false) → ∀ k, ((cs.foldl State.reloadComb s).comb k).seq.st.active = false) := by
  induction cs generalizing s with
  | nil => exact ⟨fun _ _ => rfl, rfl, id, id⟩
  | cons c cs ih =>
    have hone := s.reloadComb_reloads c
    obtain ⟨hothers, hport, hst, hidle⟩ := ih (s.reloadComb c)
    refine ⟨fun k hk => ?_, hport.trans hone.port, fun h => hst (hone.st h), fun h => hidle fun k => ?_⟩
    · obtain ⟨hkc, hkcs⟩ := not_or.mp (mt List.mem_cons.mpr hk)
      exact (hothers k hkcs).trans (hone.others k hkc)
    · by_cases hkc : k = c
      · rw [hkc]
        exact hone.idle (h c)
      · rw [hone.others k hkc]
        exact h k

/-- A comb among them is reloaded once, from memory as it stood. -/
theorem State.foldl_reload_result {cs : List CombId} (hcs : cs.Nodup) {s : State} (hcrc : s.mem.crc = []) (hclean : s.mem.upsets = [])
    {c : CombId} (hc : c ∈ cs) :
    ∃ u : State, u.mem = s.mem ∧ u.col = s.col ∧ (u.comb c).seq = (s.comb c).seq ∧
      ((cs.foldl State.reloadComb s).comb c).seq = ((u.reloadComb c).comb c).seq := by
  induction cs generalizing s with
  | nil => exact absurd hc List.not_mem_nil
  | cons b cs ih =>
    obtain ⟨hb, hcs⟩ := List.nodup_cons.mp hcs
    have hone := s.reloadComb_reloads b
    have hmem := hone.mem hcrc hclean
    by_cases hcb : c = b
    · subst hcb
      exact ⟨s, rfl, rfl, rfl, (State.foldl_reload_frame cs _).1 c hb⟩
    · have hc' : c ∈ cs := (List.mem_cons.mp hc).resolve_left hcb
      obtain ⟨u, humem, hucol, huseq, hu⟩ := ih hcs (by rw [hmem, hcrc]) (by rw [hmem, hclean]) hc'
      exact ⟨u, humem.trans hmem, hucol.trans hone.col, huseq.trans (hone.others c hcb), hu⟩

theorem State.mem_reloads {s : State} {c : CombId} : c ∈ s.reloads ↔ (s.comb c).seq.st = .empty ∧ (s.comb c).seq.prog.isSome = true := by
  simp [State.reloads]

theorem State.reloads_nodup (s : State) : s.reloads.Nodup := (List.nodup_finRange 64).filter _

end ReloadAll

/-! ### RESET_COMPLETE after a comb or compute reset (R378) -/

/-- No reset is in progress any more. -/
def State.resetOver (s : State) : State := { s with dev := { s.dev with reset := none } }

/-- The state once the combs are loaded and the device is back, before the replies. -/
def State.resetEnded (s : State) (r : ResetRun) : State :=
  (s.resetOver.reloadAll.setDev r.back).refresh

section Complete
variable {s : State} {r : ResetRun}

theorem exec_resetComplete_work (hreset : s.dev.reset = some r) (hkind : r.kind = 1 ∨ r.kind = 2) :
    exec .resetComplete s = .next ((s.resetEnded r).replyAll ResetJob.hdr 0x21 .ok r.jobs) := by
  change execResetComplete s = _
  rw [execResetComplete, hreset]
  exact congrArg Host.Outcome.next (if_pos hkind)

/-- The combs' sequencers after it are those after the reloads. -/
theorem State.resetEnded_seq (s : State) (r : ResetRun) (c : CombId) :
    ((s.resetEnded r).comb c).seq = (s.resetOver.reloadAll.comb c).seq := by
  have hcombs : (s.resetEnded r).combs = s.resetOver.reloadAll.combs :=
    (State.refresh_frame _).1.trans (State.setDev_combs _ _)
  rw [State.comb, hcombs, ← State.comb]

theorem State.resetEnded_port (s : State) (r : ResetRun) : (s.resetEnded r).port = (s.eth.replies, s.eth.cfg, s.eth.linkUp, none) :=
  ((State.refresh_frame _).2.1.trans (State.setDev_port _ _)).trans (State.foldl_reload_frame _ _).2.1

/-- A device whose combs are idle is back. -/
theorem State.resetEnded_st (hidle : ∀ c : CombId, (s.comb c).seq.st.active = false) :
    (s.resetEnded r).dev.st = if r.back = .running then .ready else r.back := by
  have hidle' := (State.foldl_reload_frame s.resetOver.reloads s.resetOver).2.2.2 hidle
  rw [State.resetEnded, State.refresh_idle, State.setDev_dev]
  intro c
  rw [State.comb, State.setDev_combs, ← State.comb]
  exact hidle' c

theorem State.resetEnded_others {c : CombId} (hno : (s.comb c).seq.st ≠ .empty ∨ (s.comb c).seq.prog = none) :
    ((s.resetEnded r).comb c).seq = (s.comb c).seq := by
  rw [State.resetEnded_seq]
  refine (State.foldl_reload_frame _ _).1 c fun hc => ?_
  obtain ⟨hst, hprog⟩ := State.mem_reloads.mp hc
  rcases hno with h | h
  · exact h hst
  · exact Bool.false_ne_true ((congrArg Option.isSome h).symm.trans hprog)

/-- A comb whose program was recorded is loaded from memory as it stands, or left EMPTY. -/
theorem State.resetEnded_loaded {c : CombId} {p : ProgRec} (hst : (s.comb c).seq.st = .empty) (hprog : (s.comb c).seq.prog = some p)
    (hcrc : s.mem.crc = []) (hclean : s.mem.upsets = []) :
    (∀ im, (s.readImage p.image).1 = some im → plainSeal im.bytes = p.digest →
      ((s.resetEnded r).comb c).seq.st = .loaded ∧ ((s.resetEnded r).comb c).seq.cnt = Vector.replicate 256 0) ∧
    ((∀ im, (s.readImage p.image).1 = some im → plainSeal im.bytes ≠ p.digest) →
      ((s.resetEnded r).comb c).seq = { (s.comb c).seq with prog := none }) := by
  have hc : c ∈ s.resetOver.reloads :=
    State.mem_reloads.mpr ⟨hst, (congrArg Option.isSome hprog).trans rfl⟩
  obtain ⟨u, hmem, hcol, hseq, hresult⟩ := State.foldl_reload_result (s := s.resetOver) s.resetOver.reloads_nodup hcrc hclean hc
  have himage : (u.readImage p.image).1 = (s.readImage p.image).1 := by
    rw [(State.readImage_whole (s := u) (by rw [hmem]; exact hcrc) (by rw [hmem]; exact hclean) p.image).1,
      (State.readImage_whole hcrc hclean p.image).1]
    exact State.imageAt_congr hmem hcol p.image
  have hafter : ((s.resetEnded r).comb c).seq = ((u.reloadComb c).comb c).seq := (s.resetEnded_seq r c).trans hresult
  have hone := State.reloadComb_result (s := u) (c := c) (p := p) (by rw [hseq]; exact hprog)
  rw [himage, hseq] at hone
  rw [hafter]
  exact hone

end Complete

end Sys2Proof.Machine
end

section
/-!
O57, second part: the core reset (R33, R378, R380, R381, Tables 18.6 and 18.7).
-/
namespace Sys2Proof.Machine

/-! ### What outlasts a core reset -/

/-- What the warden and the chronicle keep over it, with the signs of its cause; MEMUNC may come on the way. -/
structure Lasting where
  refclkOk : Bool
  thermtrip : Bool
  keyStore : Twin (Vector (Option (BitVec 456)) 6 × Bool)
  nonceStore : Twin (Vector W64 6)
  banks : Vector FwBank 2
  fault : W64
  records : List Record

def State.lasting (s : State) : Lasting :=
  ⟨s.dev.refclkOk, s.dev.thermtrip, s.wdn.keyStore, s.wdn.nonceStore, s.wdn.banks, setB s.wdn.fault 7 true, s.chr.records⟩

/-- From `s` to `t` all of it has lasted, the chronicle's queue has only grown, and whole memory has kept its bytes. -/
structure State.Lasts (s t : State) : Prop where
  lasting : t.lasting = s.lasting
  queue : s.chr.queue <+: t.chr.queue
  bytes : s.sameBytes t

namespace State.Lasts

variable {s t u : State}

theorem trans (h : s.Lasts t) (h' : t.Lasts u) : s.Lasts u :=
  ⟨h'.lasting.trans h.lasting, h.queue.trans h'.queue, h.bytes.trans h'.bytes⟩

theorem refl (s : State) : s.Lasts s := ⟨rfl, List.prefix_rfl, .of_mem rfl⟩

theorem of_answers (h : s.Answers t) : s.Lasts t := ⟨(congrArg State.lasting h.mute :), h.queue, .of_mem h.mem⟩

theorem of_tells (h : s.Tells t) : s.Lasts t := .of_answers (.of_tells h)

theorem of_keeps (h : s.Keeps t) (hbytes : s.sameBytes t) : s.Lasts t := by
  refine ⟨?_, h.queue, hbytes⟩
  have hl : ∀ x : State, x.hull.lasting = { x.lasting with fault := setB (setB x.wdn.fault 7 true) 7 true } := fun _ => rfl
  have hhull := congrArg State.lasting h.hull
  rw [hl, hl, setB_setB_self, setB_setB_self] at hhull
  exact hhull

end State.Lasts

section Before
variable (s : State)

theorem State.freePins_lasts : s.Lasts s.freePins := by
  unfold State.freePins
  split
  · refine State.Lasts.trans ?_ (.of_tells (State.record_tells _ _))
    exact ⟨rfl, List.prefix_rfl, .of_mem rfl⟩
  · exact .refl s

theorem State.freePins_dev : ∃ tap, s.freePins.dev = { s.dev with tap := tap } := by
  unfold State.freePins
  split
  · exact ⟨_, State.record_dev _ _⟩
  · exact ⟨_, rfl⟩

/-- Jobs that wait for their chime or for a reset's end. -/
def State.waitingJobs : List ResetJob := s.dev.jobs ++ (s.dev.reset.map (·.jobs)).getD []

/-- The jobs and what waits of them are no more. -/
def State.withoutJobs : State :=
  { s with dev := { s.dev with jobs := [], reset := s.dev.reset.map fun x => { x with jobs := [] } } }

theorem State.answerJobs_eq (res : Result) : s.answerJobs res = (s.replyAll ResetJob.hdr 0x21 res s.waitingJobs).withoutJobs := by
  unfold State.answerJobs State.waitingJobs
  cases s.dev.reset <;> rfl

theorem State.withoutJobs_lasts : s.Lasts s.withoutJobs := ⟨rfl, List.prefix_rfl, .of_mem rfl⟩

theorem State.answerJobs_lasts (res : Result) : s.Lasts (s.answerJobs res) := by
  rw [State.answerJobs_eq]
  exact (State.Lasts.of_answers (State.replyAll_answers _ _ _ _ _)).trans (State.withoutJobs_lasts _)

/-- The orders that wait for their chime are no more. -/
def State.withoutSwitches : State := { s with wdn := { s.wdn with profSwitch := [], fwSwitchAt := [] } }

theorem State.answerSwitches_eq (res : Result) : s.answerSwitches res =
    ((s.replyAll (fun x : Fin 4 × OrderHdr => x.2) 0x22 res s.wdn.profSwitch).replyAll id 0x24 res s.wdn.fwSwitchAt).withoutSwitches := by
  have hwdn := (s.replyAll_answers (fun x : Fin 4 × OrderHdr => x.2) 0x22 res s.wdn.profSwitch).wdn
  rw [← congrArg Wdn.fwSwitchAt hwdn]
  rfl

theorem State.withoutSwitches_lasts : s.Lasts s.withoutSwitches := ⟨rfl, List.prefix_rfl, .of_mem rfl⟩

theorem State.answerSwitches_lasts (res : Result) : s.Lasts (s.answerSwitches res) := by
  rw [State.answerSwitches_eq]
  exact (State.Lasts.of_answers ((State.replyAll_answers _ _ _ _ _).trans (State.replyAll_answers _ _ _ _ _))).trans (State.withoutSwitches_lasts _)

theorem State.noteRefused_tells : State.Tells { s with eth := { s.eth with refused := [] } } s.noteRefused := by
  unfold State.noteRefused
  generalize s.eth.refused = xs
  generalize ({ s with eth := { s.eth with refused := [] } } : State) = t
  induction xs generalizing t with
  | nil => exact .refl t
  | cons x xs ih => exact (t.record_tells _).trans (ih _)

theorem State.noteRefused_lasts : s.Lasts s.noteRefused := by
  refine State.Lasts.trans ?_ (.of_tells s.noteRefused_tells)
  exact ⟨rfl, List.prefix_rfl, .of_mem rfl⟩

theorem State.closeSlots_lasts (lost : Bool) : s.Lasts (s.closeSlots lost) :=
  .of_keeps (s.closeSlots_keeps lost) (s.closeSlots_sameBytes lost)

theorem State.setDev_lasts (d : DevState) : s.Lasts (s.setDev d) := by
  refine State.Lasts.trans ?_ (.of_tells (s.setDev_tells d))
  exact ⟨rfl, List.prefix_rfl, .of_mem rfl⟩

/-- The state in which a core reset finds the chip once what was open is closed. -/
def State.closedDown (lost : Bool) : State :=
  (((s.freePins.answerJobs .state).answerSwitches .state).noteRefused.closeSlots lost).setDev .resetting

theorem State.closedDown_lasts (lost : Bool) : s.Lasts (s.closedDown lost) :=
  ((((s.freePins_lasts.trans (State.answerJobs_lasts _ _)).trans (State.answerSwitches_lasts _ _)).trans (State.noteRefused_lasts _)).trans
    (State.closeSlots_lasts _ _)).trans (State.setDev_lasts _ _)

theorem State.closedDown_st (lost : Bool) : (s.closedDown lost).dev.st = .resetting := by
  rw [State.closedDown, State.setDev_dev]

end Before


/-! ### What a core reset leaves -/

/-- The reset state with what stays of a state that has been closed down (Table 18.7). -/
def State.afresh (s : State) (cause : Nat) (hold : ResetHold) : State :=
  let r : State := {
    pending := s.pending
    dev := { s.dev with jobs := [], stagedWrites := [] }
    combs := Vector.ofFn fun c =>
      let k : Comb := s.combs[c]
      { map := State.identityMap c, energy := k.energy, mat := { fault := setF 0 32 16 (getF k.mat.fault 32 16) }
        testDue := k.testDue || k.testing }
    mem := s.mem.coreReset
    mcs := s.mcs.map fun c => { c with rt := false, rtpc := 0 }
    links := s.links.map fun k => { replay := setF 0 16 16 (getF k.replay 16 16) }
    lnkCfg := s.profNow.lnkWord
    lnkUse := s.profNow.lnkWord
    chm := { ival := s.profNow.ival, local_ := s.chm.local_ }
    eth := { cfg := s.profNow.ethWord, seats := s.eth.seats, lost := s.eth.lost ++ s.eth.bulks.map (·.piece.cid)
             replies := s.eth.replies, notices := s.eth.notices, assoc := s.eth.assoc, pn := s.eth.pn }
    wdn := { s.wdn with phase := 4, closed := false, armed := false, fwSwitchAt := [], profSwitch := [], profArm := none, core := s.profNow }
    chr := s.chr
    pwr := s.pwr
    free := s.free }
  { r.noteReset 3 cause 1 with dev := { (r.noteReset 3 cause 1).dev with reset := some { kind := 3, back := .coreUp, hold := hold } } }

theorem State.coreReset_eq (s : State) (cause : Nat) (hold : ResetHold) :
    s.coreReset cause hold = (s.closedDown (hold == .supply)).afresh cause hold := by
  unfold State.coreReset State.closedDown State.afresh
  dsimp only

section Afresh
variable (s : State) (cause : Nat) (hold : ResetHold)

theorem State.afresh_mem : (s.afresh cause hold).mem = s.mem.coreReset := rfl
theorem State.afresh_chr : (s.afresh cause hold).chr = s.chr := rfl
theorem State.afresh_replies : (s.afresh cause hold).eth.replies = s.eth.replies := rfl
theorem State.afresh_lasting : (s.afresh cause hold).lasting = s.lasting := rfl

theorem State.afresh_units : (s.afresh cause hold).squares = State.reset.squares ∧ (s.afresh cause hold).rte = {} ∧
    (s.afresh cause hold).fab = {} ∧ (s.afresh cause hold).col = {} ∧ (s.afresh cause hold).seals = {} ∧
    (s.afresh cause hold).stp = {} := ⟨rfl, rfl, rfl, rfl, rfl, rfl⟩

theorem State.afresh_comb (c : CombId) : ((s.afresh cause hold).comb c).seq = {} ∧ ((s.afresh cause hold).comb c).ext = {} ∧
    ((s.afresh cause hold).comb c).mat.slots = [] := by
  have hcomb : ∃ map energy fault due, (s.afresh cause hold).comb c = { map := map, energy := energy, mat := { fault := fault }, testDue := due } :=
    ⟨_, _, _, _, Vector.getElem_ofFn _⟩
  obtain ⟨map, energy, fault, due, hk⟩ := hcomb
  rw [hk]
  exact ⟨rfl, rfl, rfl⟩

end Afresh

/-- The cause and kind of a core reset (Table 18.11). -/
theorem getF_rstcause (r : W64) {cause : Nat} (hcause : cause < 256) :
    getF (setF (setF r 8 8 cause) 0 3 3) 0 3 = 3 ∧ getF (setF (setF r 8 8 cause) 0 3 3) 8 8 = cause := by
  refine ⟨getF_setF_same _ 3 (by decide), ?_⟩
  rw [getF_setF_of_disjoint _ _ (by decide) (.inr (by decide)), getF_setF_same _ _ (by decide)]
  exact Nat.mod_eq_of_lt hcause

/-- What lasts to the end of a core reset. -/
theorem State.coreReset_lasts (s : State) (cause : Nat) (hold : ResetHold) :
    (s.coreReset cause hold).lasting = s.lasting ∧ s.chr.queue <+: (s.coreReset cause hold).chr.queue := by
  have hlast := s.closedDown_lasts (hold == .supply)
  rw [State.coreReset_eq, State.afresh_lasting, State.afresh_chr]
  exact ⟨hlast.lasting, hlast.queue⟩


/-- Stores above an address go. -/
theorem Sparse.get_filter_lt {α : Type} (d : α) (m : List (Nat × α)) (bound a : Nat) :
    Sparse.get d (m.filter fun kv => decide (kv.1 < bound)) a = if a < bound then Sparse.get d m a else d := by
  induction m with
  | nil => simp [Sparse.get]
  | cons x m ih =>
    obtain ⟨j, v⟩ := x
    rw [List.filter_cons]
    by_cases hj : j < bound
    · rw [if_pos (by simpa using hj), Sparse.get, ih, Sparse.get]
      by_cases haj : a = j
      · simp [haj, hj]
      · simp [haj]
    · rw [if_neg (by simpa using hj), ih, Sparse.get]
      by_cases haj : a = j
      · simp [haj, hj]
      · simp [haj]

theorem State.coreReset_byte {s : State} (hcrc : s.mem.crc = []) (cause : Nat) (hold : ResetHold) (a : Nat) :
    (s.coreReset cause hold).byte a = if a < 0x00F000000000 then s.byte a else 0 := by
  have hbytes := ((s.closedDown_lasts (hold == .supply)).bytes hcrc).1
  rw [State.byte, State.coreReset_eq, State.afresh_mem, Mem.coreReset, Sparse.get_filter_lt, hbytes, ← State.byte]

/-- A core reset is one, whatever its cause. -/
theorem State.coreReset_wasReset (s : State) {cause : Nat} (hcause : cause < 256) (hold : ResetHold) :
    s.coreWasReset cause hold (s.coreReset cause hold) := by
  obtain ⟨hlast, -⟩ := s.coreReset_lasts cause hold
  have hbyte := fun hcrc => State.coreReset_byte (s := s) hcrc cause hold
  rw [State.coreReset_eq] at hlast hbyte ⊢
  have hst := s.closedDown_st (hold == .supply)
  generalize s.closedDown (hold == .supply) = u at hlast hbyte hst ⊢
  obtain ⟨hkind, hby⟩ := getF_rstcause (satF u.wdn.rstcause 48 16 1) hcause
  obtain ⟨hsquares, hrte, hfab, hcol, hseals, hstp⟩ := u.afresh_units cause hold
  exact ⟨hst, rfl, u.afresh_comb cause hold, hsquares, hrte, hfab, hcol, hseals, hstp, hkind, hby,
    (congrArg (fun l : Lasting => (l.keyStore.read.1, l.nonceStore.read, l.banks)) hlast :), (congrArg Lasting.records hlast :), hbyte⟩


/-! ### RESET_CORE (R381) and the orders that it ends (R358) -/

section Answered
variable {s : State} (hbare : s.eth.linkUp = true ∧ getF s.eth.cfg 33 1 = 0)

theorem State.freePins_port (s : State) : s.freePins.port = s.port ∧ s.freePins.wdn = s.wdn := by
  unfold State.freePins
  split
  · have htells := State.record_tells ({ s with dev := { s.dev with tap := { s.dev.tap with instr := .bypass, drive := false } } } : State) .tapBypass
    exact ⟨htells.port, htells.wdn⟩
  · exact ⟨rfl, rfl⟩

theorem State.freePins_waitingJobs (s : State) : s.freePins.waitingJobs = s.waitingJobs ∧ s.freePins.dev.st = s.dev.st := by
  obtain ⟨tap, hdev⟩ := s.freePins_dev
  rw [State.waitingJobs, hdev]
  exact ⟨rfl, rfl⟩

theorem State.noteRefused_port (s : State) : s.noteRefused.port = s.port := s.noteRefused_tells.port

/-- The replies of orders that a core reset ends. -/
def State.endedReplies (s : State) : List Reply :=
  s.waitingJobs.map (s.answerTo ResetJob.hdr 0x21 .state) ++
    (s.wdn.profSwitch.map (s.answerTo (fun x : Fin 4 × OrderHdr => x.2) 0x22 .state) ++ s.wdn.fwSwitchAt.map (s.answerTo id 0x24 .state))

theorem State.answerTo_st {α : Type} {s t : State} (hst : t.dev.st = s.dev.st) (hdr : α → OrderHdr) (code : BitVec 8) (res : Result) :
    t.answerTo hdr code res = s.answerTo hdr code res := by
  funext x
  rw [State.answerTo, hst, State.answerTo]

include hbare

theorem State.answerJobs_replies : (s.answerJobs .state).eth.replies = s.eth.replies ++ s.waitingJobs.map (s.answerTo ResetJob.hdr 0x21 .state) := by
  rw [State.answerJobs_eq]
  exact State.replyAll_replies ResetJob.hdr 0x21 .state hbare s.waitingJobs

theorem State.answerJobs_frame : (s.answerJobs .state).eth.linkUp = true ∧ getF (s.answerJobs .state).eth.cfg 33 1 = 0 ∧
    (s.answerJobs .state).dev.st = s.dev.st ∧ (s.answerJobs .state).wdn = s.wdn := by
  have hans := s.replyAll_answers ResetJob.hdr 0x21 .state s.waitingJobs
  have hdev := s.replyAll_dev ResetJob.hdr 0x21 .state s.waitingJobs
  obtain ⟨hup, hcfg⟩ := hbare
  rw [State.answerJobs_eq]
  exact ⟨hans.linkUp.trans hup, (congrArg (fun c => getF c 33 1) hans.cfg).trans hcfg, (congrArg Dev.st hdev :), hans.wdn⟩

theorem State.answerSwitches_replies : (s.answerSwitches .state).eth.replies = s.eth.replies ++
    (s.wdn.profSwitch.map (s.answerTo (fun x : Fin 4 × OrderHdr => x.2) 0x22 .state) ++ s.wdn.fwSwitchAt.map (s.answerTo id 0x24 .state)) := by
  have hans := s.replyAll_answers (fun x : Fin 4 × OrderHdr => x.2) 0x22 .state s.wdn.profSwitch
  have hdev := s.replyAll_dev (fun x : Fin 4 × OrderHdr => x.2) 0x22 .state s.wdn.profSwitch
  have hfirst := State.replyAll_replies (fun x : Fin 4 × OrderHdr => x.2) 0x22 .state hbare s.wdn.profSwitch
  have hbare' : (s.replyAll (fun x : Fin 4 × OrderHdr => x.2) 0x22 .state s.wdn.profSwitch).eth.linkUp = true ∧
      getF (s.replyAll (fun x : Fin 4 × OrderHdr => x.2) 0x22 .state s.wdn.profSwitch).eth.cfg 33 1 = 0 := by
    rw [hans.linkUp, hans.cfg]
    exact hbare
  have hsecond := State.replyAll_replies id 0x24 .state hbare' s.wdn.fwSwitchAt
  rw [hfirst, State.answerTo_st (congrArg Dev.st hdev)] at hsecond
  rw [State.answerSwitches_eq, ← List.append_assoc]
  exact hsecond

/-- Every order that waits is answered STATE as the core closes down. -/
theorem State.closedDown_replies (lost : Bool) : (s.closedDown lost).eth.replies = s.eth.replies ++ s.endedReplies := by
  obtain ⟨hport, hwdn⟩ := s.freePins_port
  obtain ⟨hjobs, hst⟩ := s.freePins_waitingJobs
  have hbare1 : s.freePins.eth.linkUp = true ∧ getF s.freePins.eth.cfg 33 1 = 0 := by
    rw [State.linkUp_of_port hport, State.cfg_of_port hport]
    exact hbare
  obtain ⟨hup, hcfg, hst2, hwdn2⟩ := State.answerJobs_frame hbare1
  have h1 := State.answerJobs_replies hbare1
  have h2 := State.answerSwitches_replies ⟨hup, hcfg⟩
  have hlate : (s.closedDown lost).port = ((s.freePins.answerJobs .state).answerSwitches .state).port := by
    rw [State.closedDown, State.setDev_port, (State.closeSlots_keeps _ _).port, State.noteRefused_port]
  rw [State.replies_of_port hlate, h2, h1, State.replies_of_port hport, hjobs, hwdn2, hwdn,
    State.answerTo_st (hst2.trans hst), State.answerTo_st (hst2.trans hst), State.answerTo_st hst, State.endedReplies, List.append_assoc]

end Answered


/-- What a core reset is judged by does not look at the whole state before it. -/
theorem State.coreWasReset_congr {s u t : State} {cause : Nat} {hold : ResetHold}
    (hwdn : (u.wdn.keyStore, u.wdn.nonceStore, u.wdn.banks) = (s.wdn.keyStore, s.wdn.nonceStore, s.wdn.banks))
    (hrec : u.chr.records = s.chr.records) (hmem : u.mem = s.mem) (h : u.coreWasReset cause hold t) : s.coreWasReset cause hold t := by
  have hkeys : (u.wdn.keys, u.wdn.nonces, u.wdn.banks) = (s.wdn.keys, s.wdn.nonces, s.wdn.banks) :=
    congrArg (fun w : _ × _ × _ => (w.1.read.1, w.2.1.read, w.2.2)) hwdn
  have hbyte : ∀ a, u.byte a = s.byte a := fun a => congrArg (fun m : Mem => Sparse.get 0 m.bytes a) hmem
  obtain ⟨hst, hreset, hcombs, hsquares, hrte, hfab, hcol, hseals, hstp, hkind, hby, hkept, hrecords, hbytes⟩ := h
  exact ⟨hst, hreset, hcombs, hsquares, hrte, hfab, hcol, hseals, hstp, hkind, hby, hkept.trans hkeys, hrecords.trans hrec,
    fun hcrc a => (hbytes (by rw [hmem, hcrc]) a).trans (by rw [hbyte])⟩

theorem State.Tells.records {s t : State} (h : s.Tells t) : t.chr.records = s.chr.records := (congrArg (fun x : State => x.chr.records) h.quiet :)
theorem State.Answers.records {s t : State} (h : s.Answers t) : t.chr.records = s.chr.records := (congrArg (fun x : State => x.chr.records) h.mute :)

theorem State.endedReplies_congr {s t : State} (hdev : t.dev = s.dev) (hprof : t.wdn.profSwitch = s.wdn.profSwitch)
    (hfw : t.wdn.fwSwitchAt = s.wdn.fwSwitchAt) : t.endedReplies = s.endedReplies := by
  rw [State.endedReplies, State.waitingJobs, hdev, hprof, hfw, State.answerTo_st (congrArg Dev.st hdev), State.answerTo_st (congrArg Dev.st hdev),
    State.answerTo_st (congrArg Dev.st hdev), ← State.waitingJobs, ← State.endedReplies]

/-! #### The order -/

section Order
variable {s : State} {h : OrderHdr}

theorem exec_resetCore (hacc : s.accepts (.resetCore h) = true) :
    exec (.resetCore h) s = .next (((s.heard h).reply h 0x21 .ok .none).coreReset 1 .none) :=
  exec_order_runs hacc (u := resetRule 2 0 0 coreStates) (run := fun t => (t.reply h 0x21 .ok .none).coreReset 1 .none) rfl rfl rfl

theorem exec_resetFull {pins : BitVec 2} (hacc : s.accepts (.resetFull ⟨h, pins⟩) = true) :
    exec (.resetFull ⟨h, pins⟩) s = .next (((s.heard h).reply h 0x21 .ok .none).fullReset 1 pins .none) :=
  exec_order_runs hacc (u := resetRule 3 0 0 everyState) (run := fun t => (t.reply h 0x21 .ok .none).fullReset 1 pins .none) rfl rfl rfl

theorem State.heard_reply_wasReset (code : BitVec 8) (res : Result) :
    (s.heard h).coreWasReset 1 .none (((s.heard h).reply h code res .none).coreReset 1 .none) := by
  have hans := (s.heard h).reply_answers h code res .none
  refine State.coreWasReset_congr ?_ hans.records hans.mem (State.coreReset_wasReset _ (by decide) _)
  rw [hans.wdn]

/-- The port and the orders that wait, once the order is heard and answered. -/
theorem State.heard_reply_frame (hup : s.eth.linkUp = true) (hbare : getF s.eth.cfg 33 1 = 0) (code : BitVec 8) (res : Result) :
    let t := (s.heard h).reply h code res .none
    (t.eth.linkUp = true ∧ getF t.eth.cfg 33 1 = 0) ∧ t.eth.replies = s.eth.replies ++ [⟨h.src, code, h.seq, res, s.dev.st, .none⟩] ∧
      t.endedReplies = s.endedReplies := by
  obtain ⟨seats, cache, nonces, hheard⟩ := s.heard_parts h
  have hans := (s.heard h).reply_answers h code res .none
  have hdev : ((s.heard h).reply h code res .none).dev = s.dev := (State.reply_dev _ _ _ _ _).trans (s.heard_dev h)
  have hup' : (s.heard h).eth.linkUp = true := by rw [hheard]; exact hup
  have hbare' : getF (s.heard h).eth.cfg 33 1 = 0 := by rw [hheard]; exact hbare
  have hsent := State.replyAll_replies (fun g : OrderHdr => g) code res ⟨hup', hbare'⟩ [h]
  have hreplies : (s.heard h).eth.replies = s.eth.replies := by rw [hheard]
  refine ⟨⟨hans.linkUp.trans hup', (congrArg (fun c => getF c 33 1) hans.cfg).trans hbare'⟩, ?_, ?_⟩
  · refine hsent.trans ?_
    rw [hreplies, State.answerTo_st (congrArg Dev.st (s.heard_dev h))]
    rfl
  · refine State.endedReplies_congr hdev ?_ ?_
    · rw [hans.wdn, hheard]
    · rw [hans.wdn, hheard]

theorem exec_resetCore_replies (hacc : s.accepts (.resetCore h) = true) (hbare : getF s.eth.cfg 33 1 = 0) :
    (((s.heard h).reply h 0x21 .ok .none).coreReset 1 .none).eth.replies =
      (s.eth.replies ++ [⟨h.src, 0x21, h.seq, .ok, s.dev.st, .none⟩]) ++ s.endedReplies := by
  obtain ⟨hport, hreplies, hended⟩ := State.heard_reply_frame (h := h) (s.accepts_linkUp hacc rfl) hbare 0x21 .ok
  rw [State.coreReset_eq, State.afresh_replies, State.closedDown_replies hport, hreplies, hended]

end Order

/-! #### Events (R380) -/

/-- The core is up and no reset is in progress. -/
def State.coreUp (s : State) : Prop := s.dev.st ≠ .off ∧ s.dev.st ≠ .wardenUp ∧ s.dev.reset = none

theorem State.coreEvent_up {s : State} (hup : s.coreUp) (cause : Nat) (hold : ResetHold) : s.coreEvent cause hold = s.coreReset cause hold := by
  obtain ⟨hoff, hwarden, hreset⟩ := hup
  unfold State.coreEvent
  split
  next h => exact absurd h hoff
  next h => exact absurd h hwarden
  next => rw [hreset]

/-- A bit of WDN_FAULT other than MEMUNC stands after a core reset as it stood before. -/
theorem State.coreReset_fault (s : State) (cause : Nat) (hold : ResetHold) {i : Nat} (hi : i < 7) :
    (s.coreReset cause hold).wdn.fault.getLsbD i = s.wdn.fault.getLsbD i := by
  have hfault := congrArg (fun l : Lasting => l.fault.getLsbD i) (s.coreReset_lasts cause hold).1
  have hbit : ∀ r : W64, (setB r 7 true).getLsbD i = r.getLsbD i := fun r => by
    rw [setB, getLsbD_setF _ _ _ _ _ (by omega), if_neg (by omega)]
  exact (hbit _).symm.trans (hfault.trans (hbit _))

theorem State.coreReset_faultBit (s : State) (cause : Nat) (hold : ResetHold) {i : Nat} (hi : i < 7) :
    ((s.faultBit i).coreReset cause hold).wdn.fault.getLsbD i = true := by
  rw [State.coreReset_fault _ _ _ hi]
  exact getLsbD_setB _ _ (by omega)

end Sys2Proof.Machine
end

section
/-!
O57, third part: the events that take a core reset (R33, R380, R406, R411), and the full reset with what ends it (R378, R380, R383, R407,
R416).
-/
namespace Sys2Proof.Machine

/-! ### HALL_LOCKSTEP -/

theorem exec_hallLockstep_off {s : State} (hoff : s.hallOn = false) : exec .hallLockstep s = .next s :=
  congrArg Host.Outcome.next (if_pos (by simp [hoff]))

/-- The state in which a lockstep takes its core reset: noted, and WDN_FAULT.HALL set for a second one within 600 s. -/
def State.lockstepNoted (s : State) : State :=
  let s1 := { s with wdn := { s.wdn with hallResets := s.wdn.hallResets ++ [s.chm.local_] } }
  (if (s.wdn.hallResets.any fun t => decide (s.chm.local_ < t + hallWindow)) = true then s1.faultBit 1 else s1).record .hallLockstep

theorem exec_hallLockstep_on {s : State} (hon : s.hallOn = true) : exec .hallLockstep s = .next (s.lockstepNoted.coreReset 5 .none) :=
  congrArg Host.Outcome.next (if_neg (by simp [hon]))

theorem State.lockstepNoted_eq (s : State) : ∃ fault, State.Tells { s with wdn := { s.wdn with
      hallResets := s.wdn.hallResets ++ [s.chm.local_], fault := fault } } s.lockstepNoted ∧
    fault.getLsbD 1 = (s.wdn.fault.getLsbD 1 || s.wdn.hallResets.any fun x => decide (s.chm.local_ < x + 2160000000000)) ∧
    (s.chr.queue.length < 1024 → ∃ r ∈ s.lockstepNoted.chr.queue, r.event = .hallLockstep) := by
  have hevent : ∀ u : State, u.chr = s.chr → s.chr.queue.length < 1024 → ∃ r ∈ (u.record .hallLockstep).chr.queue, r.event = .hallLockstep := by
    intro u hu hroom
    have hevents := State.record_events (s := u) (by rw [hu]; exact hroom) .hallLockstep
    have hmem : Event.hallLockstep ∈ (u.record .hallLockstep).chr.queue.map (·.event) := by
      rw [hevents]
      exact List.mem_append_right _ (List.mem_singleton_self _)
    exact List.mem_map.mp hmem
  unfold State.lockstepNoted hallWindow
  dsimp only
  split
  next hagain => exact ⟨setB s.wdn.fault 1 true, State.record_tells _ _, by rw [hagain, Bool.or_true, getLsbD_setB _ _ (by decide)], hevent _ rfl⟩
  next hagain => exact ⟨s.wdn.fault, State.record_tells _ _, by rw [Bool.eq_false_iff.mpr hagain, Bool.or_false], hevent _ rfl⟩

theorem State.lockstepNoted_wasReset (s : State) : s.coreWasReset 5 .none (s.lockstepNoted.coreReset 5 .none) := by
  obtain ⟨fault, htells, -, -⟩ := s.lockstepNoted_eq
  refine State.coreWasReset_congr ?_ htells.records htells.mem (State.coreReset_wasReset _ (by decide) _)
  rw [htells.wdn]

theorem State.lockstepNoted_fault (s : State) : (s.lockstepNoted.coreReset 5 .none).wdn.fault.getLsbD 1 =
    (s.wdn.fault.getLsbD 1 || s.wdn.hallResets.any fun x => decide (s.chm.local_ < x + 2160000000000)) := by
  obtain ⟨fault, htells, hfault, -⟩ := s.lockstepNoted_eq
  rw [State.coreReset_fault _ _ _ (by decide), htells.wdn]
  exact hfault

theorem State.lockstepNoted_record (s : State) (hroom : s.chr.queue.length < 1024) :
    ∃ r ∈ (s.lockstepNoted.coreReset 5 .none).chr.queue, r.event = .hallLockstep := by
  obtain ⟨fault, -, -, hrecord⟩ := s.lockstepNoted_eq
  obtain ⟨r, hr, hevent⟩ := hrecord hroom
  exact ⟨r, (State.coreReset_lasts _ 5 .none).2.subset hr, hevent⟩

/-! ### Faults of the clock, the rails and the supplies, and THERMTRIP -/

section Faults
variable {s : State}

theorem exec_clockMonitorFault (hup : s.coreUp) :
    exec .clockMonitorFault s = .next ((({ s with dev := { s.dev with refclkOk := false } } : State).faultBit 4).coreReset 6 .refclk) := by
  refine congrArg Host.Outcome.next ((if_neg hup.1).trans (State.coreEvent_up ?_ 6 .refclk))
  exact hup

theorem exec_railMonitorFault (hup : s.coreUp) : exec .railMonitorFault s = .next ((s.faultBit 3).coreReset 7 .none) := by
  refine congrArg Host.Outcome.next ((if_neg hup.1).trans (State.coreEvent_up ?_ 7 .none))
  exact hup

theorem exec_thermtrip {x : Nat} (hup : s.coreUp) (hx : 115 ≤ x) :
    exec (.thermtrip x) s = .next ((({ s.heat x with dev := { s.dev with thermtrip := true } } : State).faultBit 2).coreReset 9 .thermal) := by
  refine congrArg Host.Outcome.next ((if_neg ?_).trans (State.coreEvent_up ?_ 9 .thermal))
  · rintro (h | h)
    · exact hup.1 h
    · exact absurd hx (Nat.not_le.mpr h)
  · exact hup

theorem exec_supplyLoss_held {va vb : Nat} {held : Bool} (hon : s.dev.st ≠ .off) (hok : vinOk va = true ∨ vinOk vb = true) :
    exec (.supplyLoss va vb held) s = .next (s.measure va vb) :=
  congrArg Host.Outcome.next ((if_neg hon).trans (if_pos (by simpa using hok)))

/-- HBM is lost, and WDN_RSTCAUSE says so. -/
def State.hbmLost (s : State) : State :=
  { s with mem := s.mem.lostHbm, wdn := { s.wdn with rstcause := setB s.wdn.rstcause 3 true } }

theorem exec_supplyLoss {va vb : Nat} (hup : s.coreUp) (ha : vinOk va = false) (hb : vinOk vb = false) (held : Bool) :
    exec (.supplyLoss va vb held) s = .next (
      if held then ((s.measure va vb).faultBit 3).coreReset 8 .supply else (((s.measure va vb).faultBit 3).coreReset 8 .supply).hbmLost) := by
  have hevent := State.coreEvent_up (s := (s.measure va vb).faultBit 3) (by exact hup) 8 .supply
  have hloss : ¬ (vinOk va || vinOk vb) = true := by simp [ha, hb]
  rw [← hevent]
  exact congrArg Host.Outcome.next ((if_neg hup.1).trans (if_neg hloss))

end Faults

/-- No byte is left of stores that a core reset has zeroed and HBM that was lost. -/
theorem Mem.lostHbm_coreReset (m : Mem) : m.coreReset.lostHbm.bytes = [] := by
  refine List.filter_eq_nil_iff.mpr fun kv hkv => ?_
  have hlow := (List.mem_filter.mp hkv).2
  rw [decide_eq_true_eq] at hlow
  rw [decide_eq_true_eq]
  exact Nat.not_le.mpr hlow

theorem State.coreReset_hbmLost (s : State) (hold : ResetHold) :
    (s.coreReset 8 hold).hbmLost.dev.st = .resetting ∧ getF (s.coreReset 8 hold).hbmLost.wdn.rstcause 8 8 = 8 ∧
      (s.coreReset 8 hold).hbmLost.wdn.rstcause.getLsbD 3 = true ∧ ∀ a, (s.coreReset 8 hold).hbmLost.byte a = 0 := by
  obtain ⟨hst, -, -, -, -, -, -, -, -, -, hby, -⟩ := s.coreReset_wasReset (cause := 8) (by decide) hold
  refine ⟨hst, ?_, getLsbD_setB _ _ (by decide), fun a => ?_⟩
  · exact (getF_setF_of_disjoint _ _ (by decide) (.inr (by decide))).trans hby
  · have hbytes : (s.coreReset 8 hold).hbmLost.mem.bytes = [] := by
      rw [State.coreReset_eq]
      exact Mem.lostHbm_coreReset _
    rw [State.byte, hbytes]
    rfl


/-! ### The full reset (R378) -/

/-- The MRAM and what of the chronicle has been written. -/
structure Mram where
  profiles : Vector (Option (List Byte)) 4
  bootRec : Twin (Bool × BitVec 32)
  banks : Vector FwBank 2
  keyStore : Twin (Vector (Option (BitVec 456)) 6 × Bool)
  nonceStore : Twin (Vector W64 6)
  keySet : Option (Vector (Option (BitVec 456)) 6 × Bool)
  boots : BitVec 32

def Wdn.mram (w : Wdn) : Mram := ⟨w.profiles, w.bootRec, w.banks, w.keyStore, w.nonceStore, w.keySet, w.boots⟩

section Blank
variable (s : State)

theorem State.cutClear_frame : s.cutClear.wdn = s.wdn ∧ s.cutClear.dev = s.dev ∧ s.cutClear.eth = s.eth ∧ s.cutClear.pwr = s.pwr ∧
    (s.chr.clearing = none → s.cutClear.chr.records = s.chr.records) := by
  unfold State.cutClear
  split
  next => exact ⟨rfl, rfl, rfl, rfl, fun _ => rfl⟩
  next x hx => exact ⟨rfl, rfl, rfl, rfl, fun hnone => absurd (hnone.symm.trans hx) (by nofun)⟩

theorem State.blank_units : s.blank.combs = State.reset.combs ∧ s.blank.squares = State.reset.squares ∧ s.blank.rte = {} ∧ s.blank.fab = {} ∧
    s.blank.col = {} ∧ s.blank.seals = {} ∧ s.blank.stp = {} ∧ s.blank.mem.bytes = [] ∧ s.blank.mem.poison = [] :=
  ⟨rfl, rfl, rfl, rfl, rfl, rfl, rfl, rfl, rfl⟩

theorem State.blank_mram : s.blank.wdn.mram = s.wdn.mram := by
  obtain ⟨hwdn, -⟩ := s.cutClear_frame
  exact (congrArg Wdn.mram hwdn :)

theorem State.blank_records (hnone : s.chr.clearing = none) : s.blank.chr.records = s.chr.records := by
  obtain ⟨-, -, -, -, hrecords⟩ := s.cutClear_frame
  exact hrecords hnone

theorem State.blank_replies : s.blank.eth.replies = s.eth.replies := by
  obtain ⟨-, -, heth, -⟩ := s.cutClear_frame
  exact (congrArg Eth.replies heth :)

theorem State.blank_porstLow : s.blank.dev.porstLow = s.dev.porstLow := by
  obtain ⟨-, hdev, -⟩ := s.cutClear_frame
  exact (congrArg Dev.porstLow hdev :)

theorem State.blank_vaux : s.blank.pwr.vaux = s.pwr.vaux := by
  obtain ⟨-, -, -, hpwr, -⟩ := s.cutClear_frame
  exact (congrArg Pwr.vaux hpwr :)

end Blank

theorem State.freePins_tells (s : State) : State.Tells { s with dev := s.freePins.dev } s.freePins := by
  unfold State.freePins
  split
  · rw [State.record_dev]
    exact State.record_tells _ _
  · exact .refl s

theorem State.Tells.clearing {s t : State} (h : s.Tells t) : t.chr.clearing = s.chr.clearing :=
  (congrArg (fun x : State => x.chr.clearing) h.quiet :)

/-- The state that a full reset blanks: the pins are free, and the device is in RESETTING. -/
def State.fullStart (s : State) : State := s.freePins.setDev .resetting

section FullReset
variable (s : State) (cause : Nat) (pins : BitVec 2) (hold : ResetHold)

theorem State.fullStart_frame : s.fullStart.wdn = s.wdn ∧ s.fullStart.eth.replies = s.eth.replies ∧
    s.fullStart.dev.porstLow = s.dev.porstLow ∧ s.fullStart.pwr = s.pwr ∧ s.fullStart.chr.clearing = s.chr.clearing ∧
    s.fullStart.chr.records = s.chr.records := by
  have hfree := s.freePins_tells
  have hset := s.freePins.setDev_tells .resetting
  obtain ⟨tap, hdev⟩ := s.freePins_dev
  refine ⟨hset.wdn.trans hfree.wdn, (State.replies_of_port (s.freePins.setDev_port _)).trans (State.replies_of_port s.freePins_port.1), ?_,
    hset.pwr.trans hfree.pwr,
    hset.clearing.trans hfree.clearing, hset.records.trans hfree.records⟩
  rw [State.fullStart, State.setDev_dev, hdev]

theorem State.fullReset_eq : s.fullReset cause pins hold =
    { s.fullStart.blank with
      dev := { s.fullStart.blank.dev with st := .resetting, pins := pins, reset := some { kind := 4, back := .wardenUp, hold := hold } }
      wdn := { s.fullStart.blank.wdn with boots := s.fullStart.blank.wdn.boots + 1, rstcause := pack [(8, cause), (0, 4)] } } := rfl

/-- The cause and kind of a full reset (Table 18.11). -/
theorem getF_fullCause : ∀ cause < 256, getF (pack [(8, cause), (0, 4)]) 0 3 = 4 ∧ getF (pack [(8, cause), (0, 4)]) 8 8 = cause := by
  intro cause hcause
  have hword : (pack [(8, cause), (0, 4)]).toNat = cause * 256 + 4 := by
    change (0 + cause * 2 ^ 8 + 4 * 2 ^ 0) % 2 ^ 64 = _
    rw [Nat.mod_eq_of_lt (Nat.lt_trans (by omega : _ < 131072) (by decide))]
    omega
  rw [getF, getF, hword]
  omega

theorem State.fullReset_fullyReset (hcause : cause < 256) : s.fullyReset cause (s.fullReset cause pins hold) := by
  obtain ⟨hwdn, -, -, -, hclearing, hrecords⟩ := s.fullStart_frame
  obtain ⟨hcombs, hsquares, hrte, hfab, hcol, hseals, hstp, hbytes, hpoison⟩ := s.fullStart.blank_units
  obtain ⟨hkind, hby⟩ := getF_fullCause cause hcause
  have hmram : s.fullStart.blank.wdn.mram = s.wdn.mram := s.fullStart.blank_mram.trans (congrArg Wdn.mram hwdn)
  have hchr : s.chr.clearing = none → s.fullStart.blank.chr.records = s.chr.records := fun hnone =>
    (s.fullStart.blank_records (hclearing.trans hnone)).trans hrecords
  rw [State.fullReset_eq]
  generalize s.fullStart.blank = b at *
  exact ⟨rfl, hcombs, hsquares, hrte, hfab, hcol, hseals, hstp, hbytes, hpoison, hkind, hby, congrArg (fun m : Mram => m.boots + 1) hmram,
    congrArg (fun m : Mram => (m.profiles, m.banks, m.bootRec.read.1, m.bootRec.read.2)) hmram,
    congrArg (fun m : Mram => (m.keyStore.read.1, m.nonceStore.read, m.keyStore.read.2, m.keySet)) hmram, hchr⟩

end FullReset


/-! ### What a full reset leaves of pins and port -/

section FullEnds
variable (s : State) (cause : Nat) (pins : BitVec 2) (hold : ResetHold)

theorem State.fullReset_dev : (s.fullReset cause pins hold).dev.pins = pins ∧
    (s.fullReset cause pins hold).dev.reset = some { kind := 4, back := .wardenUp, hold := hold } ∧
    (s.fullReset cause pins hold).dev.porstLow = s.dev.porstLow ∧ (s.fullReset cause pins hold).dev.alive = false := by
  obtain ⟨-, -, hporst, -⟩ := s.fullStart_frame
  rw [State.fullReset_eq]
  exact ⟨rfl, rfl, s.fullStart.blank_porstLow.trans hporst, rfl⟩

theorem State.fullReset_replies : (s.fullReset cause pins hold).eth.replies = s.eth.replies := by
  obtain ⟨-, hreplies, -⟩ := s.fullStart_frame
  exact s.fullStart.blank_replies.trans hreplies

theorem State.fullReset_vaux : (s.fullReset cause pins hold).pwr.vaux = s.pwr.vaux := by
  obtain ⟨-, -, -, hpwr, -⟩ := s.fullStart_frame
  exact s.fullStart.blank_vaux.trans (congrArg Pwr.vaux hpwr)

theorem State.fullReset_phase : (s.fullReset cause pins hold).wdn.phase = 1 := rfl

end FullEnds

/-- A full reset is judged by the MRAM and the records before it alone. -/
theorem State.fullyReset_congr {s u t : State} {cause : Nat} (hmram : u.wdn.mram = s.wdn.mram) (hclearing : u.chr.clearing = s.chr.clearing)
    (hrecords : u.chr.records = s.chr.records) (h : u.fullyReset cause t) : s.fullyReset cause t := by
  obtain ⟨hst, hcombs, hsquares, hrte, hfab, hcol, hseals, hstp, hbytes, hpoison, hkind, hby, hboots, hbanks, hkeys, hchr⟩ := h
  exact ⟨hst, hcombs, hsquares, hrte, hfab, hcol, hseals, hstp, hbytes, hpoison, hkind, hby,
    hboots.trans (congrArg (fun m : Mram => m.boots + 1) hmram),
    hbanks.trans (congrArg (fun m : Mram => (m.profiles, m.banks, m.bootRec.read.1, m.bootRec.read.2)) hmram),
    hkeys.trans (congrArg (fun m : Mram => (m.keyStore.read.1, m.nonceStore.read, m.keyStore.read.2, m.keySet)) hmram),
    fun hnone => (hchr (hclearing.trans hnone)).trans hrecords⟩

/-- RESET_FULL replies, then resets. -/
theorem State.heard_reply_fullyReset (s : State) (h : OrderHdr) (code : BitVec 8) (res : Result) (pins : BitVec 2) :
    (s.heard h).fullyReset 1 (((s.heard h).reply h code res .none).fullReset 1 pins .none) := by
  have hans := (s.heard h).reply_answers h code res .none
  have hclearing : ((s.heard h).reply h code res .none).chr.clearing = (s.heard h).chr.clearing :=
    (congrArg (fun x : State => x.chr.clearing) hans.mute :)
  exact State.fullyReset_congr (congrArg Wdn.mram hans.wdn) hclearing hans.records (State.fullReset_fullyReset _ 1 pins .none (by decide))

/-! ### A full reset ends (R378, R387) -/

section FullDone
variable (s : State)

theorem State.fullDone_eq : s.fullDone = s.midBoot.resetOver.setDev .wardenUp := rfl

theorem State.fullDone_dev : s.fullDone.dev.st = .wardenUp ∧ s.fullDone.dev.reset = none := by
  rw [State.fullDone_eq, State.setDev_dev]
  exact ⟨rfl, rfl⟩

theorem State.fullDone_wdn : s.fullDone.wdn = s.midBoot.wdn := (s.midBoot.resetOver.setDev_tells .wardenUp).wdn

theorem State.Tells.lnkCfg {s t : State} (h : s.Tells t) : t.lnkCfg = s.lnkCfg := (congrArg State.lnkCfg h.quiet :)

theorem State.fullDone_frame : s.fullDone.lnkCfg = s.midBoot.lnkCfg ∧ s.fullDone.eth.cfg = s.midBoot.eth.cfg ∧
    s.fullDone.pwr = s.midBoot.pwr ∧ s.fullDone.mem = s.midBoot.mem := by
  have htells := s.midBoot.resetOver.setDev_tells .wardenUp
  exact ⟨htells.lnkCfg, (State.cfg_of_port (s.midBoot.resetOver.setDev_port .wardenUp) :), htells.pwr, htells.mem⟩

theorem exec_resetComplete_none {s : State} (hnone : s.dev.reset = none) : exec .resetComplete s = .next s := by
  change execResetComplete s = _
  rw [execResetComplete, hnone]

theorem exec_resetComplete_stays {s : State} {r : ResetRun} (hreset : s.dev.reset = some r) (hstays : r.kind = 3 ∨ r.kind = 4 ∧ r.hold = .porst) :
    exec .resetComplete s = .next s := by
  change execResetComplete s = _
  rw [execResetComplete, hreset]
  refine congrArg Host.Outcome.next ((if_neg ?_).trans (if_neg ?_))
  · rcases hstays with h | ⟨h, -⟩ <;> simp [h]
  · rcases hstays with h | ⟨-, h⟩ <;> simp [h]

theorem exec_resetComplete_full {s : State} {r : ResetRun} (hreset : s.dev.reset = some r) (hkind : r.kind = 4) (hhold : r.hold ≠ .porst) :
    exec .resetComplete s = .next s.fullDone := by
  change execResetComplete s = _
  rw [execResetComplete, hreset]
  refine congrArg Host.Outcome.next ((if_neg ?_).trans (if_pos ⟨hkind, hhold⟩))
  simp [hkind]

end FullDone

/-! #### Phases 2 and 3 in full -/

theorem Wdn.keyed_eq (w : Wdn) : ∃ set store nonces, w.keyed = { w with keySet := set, keyStore := store, nonceStore := nonces } := by
  unfold Wdn.keyed
  split
  · exact ⟨_, _, _, rfl⟩
  · exact ⟨_, _, _, rfl⟩

theorem Wdn.keyed_some {w : Wdn} {ks : Vector (Option (BitVec 456)) 6} {j : Bool} (hset : w.keySet = some (ks, j)) :
    w.keyed.keySet = none ∧ w.keyed.keys = ks ∧ w.keyed.jtag = j ∧
      ∀ k : Fin 6, w.keyed.nonces[k] = if ks[k] = w.keys[k] then w.nonces[k] else 0 := by
  have hkeyed : w.keyed = { w with
      keySet := none, keyStore := w.keyStore.write (ks, j)
      nonceStore := w.nonceStore.write (Vector.ofFn fun k => if ks[k] = w.keys[k] then w.nonces[k] else 0) } := by
    rw [Wdn.keyed, hset]
  have hstore := Twin.read_write w.keyStore (ks, j)
  rw [hkeyed]
  refine ⟨rfl, congrArg Prod.fst hstore, congrArg Prod.snd hstore, fun k => ?_⟩
  rw [Wdn.nonces, Twin.read_write]
  exact Vector.getElem_ofFn _

section Mid
variable {s : State} (hphase : s.wdn.phase = 1)
include hphase

theorem State.midBoot_tells : State.Tells { s.selectProfile with wdn := { s.selectProfile.wdn.keyed with phase := 4 } } s.midBoot := by
  rw [State.midBoot, if_pos hphase]
  have htells := s.selectProfile.applyKeys_tells
  exact ⟨congrArg (fun x : State => { x with wdn := { x.wdn with phase := 4 } }) htells.quiet, htells.queue⟩

theorem State.midBoot_frame : s.midBoot.lnkCfg = s.selectProfile.lnkCfg ∧ s.midBoot.eth.cfg = s.selectProfile.eth.cfg ∧
    s.midBoot.pwr = s.pwr ∧ s.midBoot.mem.bytes = s.mem.bytes := by
  have htells := State.midBoot_tells hphase
  exact ⟨htells.lnkCfg, State.cfg_of_port htells.port, htells.pwr, (congrArg Mem.bytes htells.mem :)⟩

/-- The profile of the pins is in force (R396, R397). -/
theorem State.fullDone_profile : s.fullDone.wdn.phase = 4 ∧ s.fullDone.wdn.pins = s.dev.pins ∧
    (s.fullDone.wdn.profNo, s.fullDone.wdn.prof) = ({ s.wdn with pins := s.dev.pins } : Wdn).select ∧
    s.fullDone.lnkCfg = s.fullDone.wdn.prof.lnkWord ∧ s.fullDone.eth.cfg = s.fullDone.wdn.prof.ethWord := by
  obtain ⟨hlnk, hcfg, -⟩ := s.fullDone_frame
  obtain ⟨hlnk', hcfg', -⟩ := State.midBoot_frame hphase
  have hpins := State.midBoot_pins hphase
  obtain ⟨set, store, nonces, hkeyed⟩ := s.selectProfile.wdn.keyed_eq
  rw [hlnk, hcfg, hlnk', hcfg', s.fullDone_wdn, hpins, State.midBoot_wdn hphase, hkeyed]
  exact ⟨rfl, rfl, rfl, rfl, rfl⟩

/-- A key set that was staged is the key store's; the keys that it changes start with nonce 0 (R395). -/
theorem State.fullDone_keys {ks : Vector (Option (BitVec 456)) 6} {j : Bool} (hset : s.wdn.keySet = some (ks, j)) :
    s.fullDone.wdn.keySet = none ∧ s.fullDone.wdn.keys = ks ∧ s.fullDone.wdn.jtag = j ∧
      ∀ k : Fin 6, s.fullDone.wdn.nonces[k] = if ks[k] = s.wdn.keys[k] then s.wdn.nonces[k] else 0 := by
  rw [s.fullDone_wdn, State.midBoot_wdn hphase]
  exact Wdn.keyed_some (w := s.selectProfile.wdn) hset

end Mid


/-! ### WARDEN_WATCHDOG, PORST and VAUX (R380, R383, R407, R416) -/

section Pins
variable {s : State} {pins : BitVec 2}

theorem exec_wardenWatchdog (hon : s.dev.st ≠ .off) (hhigh : s.dev.porstLow = false) :
    exec (.wardenWatchdog pins) s = .next (s.fullReset 0x0C pins .none) :=
  congrArg Host.Outcome.next (if_neg (by simp [hon, hhigh]))

theorem exec_wardenWatchdog_held (hlow : s.dev.porstLow = true) : exec (.wardenWatchdog pins) s = .next s :=
  congrArg Host.Outcome.next (if_pos (.inr hlow))

/-- PORST is low. -/
def State.porstDown (s : State) : State := { s with dev := { s.dev with porstLow := true, alive := false } }

theorem exec_porst_low (hon : s.dev.st ≠ .off) : exec (.porst true pins) s = .next (s.porstDown.fullReset 0x0A pins .porst) :=
  congrArg Host.Outcome.next ((if_neg hon).trans (if_pos rfl))

/-- A full reset that PORST holds goes on at its rise. -/
theorem exec_porst_high {r : ResetRun} (hon : s.dev.st ≠ .off) (hreset : s.dev.reset = some r) (hhold : r.hold = .porst) :
    exec (.porst false pins) s = .next { s with dev := { s.dev with porstLow := false, pins := pins, reset := some { r with hold := .none } } } := by
  refine congrArg Host.Outcome.next ((if_neg hon).trans ?_)
  rw [if_neg Bool.false_ne_true]
  dsimp only
  rw [hreset]
  exact if_pos hhold

theorem exec_porst_high_idle (hon : s.dev.st ≠ .off) (hreset : s.dev.reset = none) :
    exec (.porst false pins) s = .next { s with dev := { s.dev with porstLow := false } } := by
  refine congrArg Host.Outcome.next ((if_neg hon).trans ?_)
  rw [if_neg Bool.false_ne_true]
  dsimp only
  rw [hreset]
  rfl

/-- The levels of VAUX are known. -/
def State.vauxSet (s : State) (on : Bool × Bool) : State := { s with pwr := { s.pwr with vaux := on } }

theorem exec_vauxChange_stays_off (hoff : s.dev.st = .off) : exec (.vauxChange (false, false) pins) s = .next (s.vauxSet (false, false)) :=
  congrArg Host.Outcome.next ((if_pos hoff).trans (if_pos rfl))

theorem exec_vauxChange_on {a b : Bool} (hoff : s.dev.st = .off) (hab : (a || b) = true) (hhigh : s.dev.porstLow = false) :
    exec (.vauxChange (a, b) pins) s = .next ((s.vauxSet (a, b)).fullReset 0x0B pins .none).fullDone := by
  refine congrArg Host.Outcome.next ((if_pos hoff).trans ((if_neg ?_).trans (if_neg ?_)))
  · simp [hab]
  · simp [hhigh]

theorem exec_vauxChange_gone (hon : s.dev.st ≠ .off) : exec (.vauxChange (false, false) pins) s = .next (s.vauxSet (false, false)).powerOff :=
  congrArg Host.Outcome.next ((if_neg hon).trans (if_pos rfl))

theorem exec_vauxChange_lost (hon : s.dev.st ≠ .off) (hboth : s.pwr.vaux = (true, true)) :
    exec (.vauxChange (false, true) pins) s = .next ((s.vauxSet (false, true)).record (.vauxLost false)) := by
  refine congrArg Host.Outcome.next ((if_neg hon).trans ?_)
  dsimp only
  rw [hboth]
  rfl

end Pins

/-- The power-on reset (R407). -/
theorem State.powerOn_frame (s : State) (pins : BitVec 2) :
    let t := (s.fullReset 0x0B pins .none).fullDone
    t.dev.st = .wardenUp ∧ t.dev.reset = none ∧ t.wdn.pins = pins ∧ t.wdn.phase = 4 ∧ getF t.wdn.rstcause 8 8 = 0x0B ∧
      t.wdn.boots = s.wdn.boots + 1 ∧ t.pwr.vaux = s.pwr.vaux ∧ t.mem.bytes = [] := by
  have hreset := s.fullReset_fullyReset 0x0B pins .none (by decide)
  have hphase := s.fullReset_phase 0x0B pins .none
  have hvaux := s.fullReset_vaux 0x0B pins .none
  obtain ⟨hpins, -⟩ := s.fullReset_dev 0x0B pins .none
  obtain ⟨-, -, -, -, -, -, -, -, hbytes, -, -, hby, hboots, -⟩ := hreset
  generalize s.fullReset 0x0B pins .none = u at *
  obtain ⟨hst, hnone⟩ := u.fullDone_dev
  obtain ⟨hphase4, hpins', -⟩ := State.fullDone_profile hphase
  obtain ⟨-, -, hpwr, hmem⟩ := u.fullDone_frame
  obtain ⟨-, -, hpwr', hmem'⟩ := State.midBoot_frame hphase
  have hwdn : u.fullDone.wdn.rstcause = u.wdn.rstcause ∧ u.fullDone.wdn.boots = u.wdn.boots := by
    obtain ⟨set, store, nonces, hkeyed⟩ := u.selectProfile.wdn.keyed_eq
    rw [u.fullDone_wdn, State.midBoot_wdn hphase, hkeyed]
    exact ⟨rfl, rfl⟩
  refine ⟨hst, hnone, hpins'.trans hpins, hphase4, ?_, hwdn.2.trans hboots, ?_, ?_⟩
  · rw [hwdn.1, hby]
  · rw [hpwr, hpwr', hvaux]
  · rw [hmem, hmem', hbytes]

/-- OFF: the MRAM and the chronicle stay, the stores do not. -/
theorem State.powerOff_frame (s : State) : s.powerOff.dev.st = .off ∧ s.powerOff.mem.bytes = [] ∧ s.powerOff.wdn.mram = s.wdn.mram ∧
    (s.chr.clearing = none → s.powerOff.chr.records = s.chr.records) :=
  ⟨rfl, rfl, s.blank_mram, s.blank_records⟩

end Sys2Proof.Machine
end

section
/-!
O57: the statement, group by group.
-/
namespace Sys2Proof.Machine

/-! ### RESET_COMB, RESET_COMPUTE, RESET_CORE and RESET_FULL -/

section Orders
variable (s : State) (h : OrderHdr)

theorem exec_resetComb {combs chime : W64} (hacc : s.accepts (.resetComb h combs chime) = true) :
    exec (.resetComb h combs chime) s = .next ((s.heard h).resetLater h false combs chime) :=
  exec_order_runs hacc (u := resetRule 0 combs chime workStates) (run := fun t => t.resetLater h false combs chime) rfl rfl rfl

theorem exec_resetCompute {combs chime : W64} (hacc : s.accepts (.resetCompute h combs chime) = true) :
    exec (.resetCompute h combs chime) s = .next ((s.heard h).resetLater h true combs chime) :=
  exec_order_runs hacc (u := resetRule 1 combs chime [.ready, .running, .quiesced, .fenced])
    (run := fun t => t.resetLater h true combs chime) rfl rfl rfl

end Orders

/-! ### The clauses of a reset's end -/

/-- The end of a comb or compute reset (R378). -/
theorem resetComplete_work {s : State} {r : ResetRun} (hreset : s.dev.reset = some r) (hkind : r.kind = 1 ∨ r.kind = 2) :
    ∃ t, exec .resetComplete s = .next t ∧ t.dev.reset = none ∧
      ((∀ c : CombId, (s.comb c).seq.st.active = false) → t.dev.st = (if r.back = .running then .ready else r.back)) ∧
      (s.eth.linkUp = true ∧ getF s.eth.cfg 33 1 = 0 →
        t.eth.replies = s.eth.replies ++ r.jobs.map fun j => ⟨j.hdr.src, 0x21, j.hdr.seq, .ok, t.dev.st, .none⟩) ∧
      ∀ c : CombId, (t.comb c).seq = ((s.resetEnded r).comb c).seq := by
  have hans := (s.resetEnded r).replyAll_answers ResetJob.hdr 0x21 .ok r.jobs
  have hdev := (s.resetEnded r).replyAll_dev ResetJob.hdr 0x21 .ok r.jobs
  have hport := s.resetEnded_port r
  refine ⟨_, exec_resetComplete_work hreset hkind, ?_, fun hidle => ?_, fun hbare => ?_, fun c => by rw [hans.comb]⟩
  · rw [hdev]
    exact congrArg (fun p => p.2.2.2) hport
  · rw [hdev]
    exact State.resetEnded_st hidle
  · have hbare' : (s.resetEnded r).eth.linkUp = true ∧ getF (s.resetEnded r).eth.cfg 33 1 = 0 := by
      rw [show (s.resetEnded r).eth.linkUp = s.eth.linkUp from congrArg (fun p => p.2.2.1) hport,
        show (s.resetEnded r).eth.cfg = s.eth.cfg from congrArg (fun p => p.2.1) hport]
      exact hbare
    have hreplies : (s.resetEnded r).eth.replies = s.eth.replies := congrArg Prod.fst hport
    rw [State.replyAll_replies ResetJob.hdr 0x21 .ok hbare', hreplies, hdev]
    rfl

/-! ### The clauses of faults and pins -/

theorem State.refclkOk_of_lasting {s t : State} (h : t.lasting = s.lasting) : t.dev.refclkOk = s.dev.refclkOk := congrArg Lasting.refclkOk h
theorem State.thermtrip_of_lasting {s t : State} (h : t.lasting = s.lasting) : t.dev.thermtrip = s.dev.thermtrip := congrArg Lasting.thermtrip h

/-- A core reset taken from a state with other signs of its cause. -/
theorem State.coreReset_resets {s u : State} {cause : Nat} {hold : ResetHold}
    (hwdn : (u.wdn.keyStore, u.wdn.nonceStore, u.wdn.banks) = (s.wdn.keyStore, s.wdn.nonceStore, s.wdn.banks))
    (hrec : u.chr.records = s.chr.records) (hmem : u.mem = s.mem) (hcause : cause < 256) :
    s.coreWasReset cause hold (u.coreReset cause hold) :=
  State.coreWasReset_congr hwdn hrec hmem (u.coreReset_wasReset hcause hold)

section Faults
variable {s : State} (hup : s.coreUp)
include hup

theorem clockMonitorFault_resets : ∃ t, exec .clockMonitorFault s = .next t ∧ s.coreWasReset 6 .refclk t ∧ t.wdn.fault.getLsbD 4 = true ∧
    t.dev.refclkOk = false := by
  refine ⟨_, exec_clockMonitorFault hup, ?_, State.coreReset_faultBit _ _ _ (by decide), ?_⟩
  · exact State.coreReset_resets rfl rfl rfl (by decide)
  · exact State.refclkOk_of_lasting (State.coreReset_lasts _ 6 .refclk).1

theorem railMonitorFault_resets : ∃ t, exec .railMonitorFault s = .next t ∧ s.coreWasReset 7 .none t ∧ t.wdn.fault.getLsbD 3 = true := by
  refine ⟨_, exec_railMonitorFault hup, ?_, State.coreReset_faultBit _ _ _ (by decide)⟩
  exact State.coreReset_resets rfl rfl rfl (by decide)

theorem thermtrip_resets {x : Nat} (hx : 115 ≤ x) : ∃ t, exec (.thermtrip x) s = .next t ∧ s.coreWasReset 9 .thermal t ∧
    t.wdn.fault.getLsbD 2 = true ∧ t.dev.thermtrip = true := by
  refine ⟨_, exec_thermtrip hup hx, ?_, State.coreReset_faultBit _ _ _ (by decide), ?_⟩
  · exact State.coreReset_resets rfl rfl rfl (by decide)
  · exact State.thermtrip_of_lasting (State.coreReset_lasts _ 9 .thermal).1

theorem supplyLoss_resets {va vb : Nat} (ha : vinOk va = false) (hb : vinOk vb = false) :
    (∃ t, exec (.supplyLoss va vb true) s = .next t ∧ s.coreWasReset 8 .supply t ∧ t.wdn.fault.getLsbD 3 = true) ∧
    (∃ t, exec (.supplyLoss va vb false) s = .next t ∧ t.dev.st = .resetting ∧ getF t.wdn.rstcause 8 8 = 8 ∧
      t.wdn.rstcause.getLsbD 3 = true ∧ ∀ a, t.byte a = 0) := by
  refine ⟨⟨_, exec_supplyLoss hup ha hb true, ?_⟩, ⟨_, exec_supplyLoss hup ha hb false, ?_⟩⟩
  · rw [if_pos rfl]
    exact ⟨State.coreReset_resets rfl rfl rfl (by decide), State.coreReset_faultBit _ _ _ (by decide)⟩
  · rw [if_neg Bool.false_ne_true]
    exact State.coreReset_hbmLost _ _

end Faults

theorem porst_low_resets {s : State} {pins : BitVec 2} (hon : s.dev.st ≠ .off) : ∃ t, exec (.porst true pins) s = .next t ∧
    s.fullyReset 0x0A t ∧ (t.dev.reset.map (·.hold)) = some .porst ∧ t.dev.porstLow = true ∧ t.dev.alive = false := by
  obtain ⟨-, hreset, hlow, halive⟩ := s.porstDown.fullReset_dev 0x0A pins .porst
  refine ⟨_, exec_porst_low hon, ?_, ?_, hlow, halive⟩
  · exact State.fullyReset_congr rfl rfl rfl (State.fullReset_fullyReset s.porstDown 0x0A pins .porst (by decide))
  · rw [hreset]
    rfl

/-! ### The obligation -/

/-- Settles O57: orders run in the state that has heard them; a core reset is one blank state over what `State.closedDown` leaves,
and a full reset one over the MRAM. -/
theorem resets : Obligations.Resets := by
  intro s up bare
  refine ⟨fun h combs chime => ?_, fun h => ?_, exec_resetComplete_none, fun r hreset => ⟨exec_resetComplete_stays hreset, ?_, ?_⟩,
    exec_hallLockstep_off, fun hon => ?_, fun hup => ?_, fun va vb held => exec_supplyLoss_held, fun x hx => ?_, fun pins => ?_,
    fun pins hoff => ?_, fun pins hon => ?_⟩
  · intro u job late
    refine ⟨fun hacc => ⟨fun hno => ?_, fun hcombs htime => ?_⟩, fun hacc => ⟨fun hno => ?_, fun hcombs htime => ?_⟩⟩
    · exact (exec_resetComb s h hacc).trans (congrArg _ ((s.resetLater_heard h combs chime false).1 hno))
    · exact (exec_resetComb s h hacc).trans (congrArg _ ((s.resetLater_heard h combs chime false).2 hcombs htime))
    · exact (exec_resetCompute s h hacc).trans (congrArg _ ((s.resetLater_heard h combs chime true).1 hno))
    · exact (exec_resetCompute s h hacc).trans (congrArg _ ((s.resetLater_heard h combs chime true).2 (not_not.mpr hcombs) htime))
  · intro u told ended
    refine ⟨fun hacc => ⟨_, exec_resetCore hacc, State.heard_reply_wasReset 0x21 .ok, fun hbare => ?_⟩,
      fun pins hacc => ⟨_, exec_resetFull hacc, s.heard_reply_fullyReset h 0x21 .ok pins, ?_, fun hbare => ?_⟩⟩
    · rw [exec_resetCore_replies hacc hbare, State.endedReplies, ← List.append_assoc, ← List.append_assoc]
      rfl
    · exact (State.fullReset_dev _ 1 pins .none).1
    · rw [State.fullReset_replies]
      exact (State.heard_reply_frame (State.accepts_linkUp hacc rfl) hbare 0x21 .ok).2.1
  · intro hkind hhold
    obtain ⟨hst, hnone⟩ := s.fullDone_dev
    refine ⟨_, exec_resetComplete_full hreset hkind hhold, hst, hnone, fun hphase => ?_, fun hphase => ?_⟩
    · obtain ⟨hphase4, hpins, hprof, hlnk, hcfg⟩ := State.fullDone_profile hphase
      exact ⟨hphase4, hpins, hprof, hlnk, hcfg, fun ks j hset => State.fullDone_keys hphase hset⟩
    · rw [s.fullDone_wdn, State.midBoot_later hphase]
  · intro hkind
    obtain ⟨t, ht, hnone, hst, hreplies, hseq⟩ := resetComplete_work hreset hkind
    refine ⟨t, ht, hnone, fun _ => hst, hreplies, fun c => ⟨fun hno => ?_, fun p hempty hprog hcrc hclean => ?_⟩⟩
    · rw [hseq, State.resetEnded_others hno]
    · rw [hseq]
      exact State.resetEnded_loaded hempty hprog hcrc hclean
  · exact ⟨_, exec_hallLockstep_on hon, s.lockstepNoted_wasReset, s.lockstepNoted_fault, s.lockstepNoted_record⟩
  · exact ⟨clockMonitorFault_resets hup, railMonitorFault_resets hup, fun va vb => supplyLoss_resets hup, fun x => thermtrip_resets hup⟩
  · exact congrArg Host.Outcome.next (if_pos (.inr hx))
  · refine ⟨fun hon hhigh => ⟨_, exec_wardenWatchdog hon hhigh, State.fullReset_fullyReset _ _ _ _ (by decide), (s.fullReset_dev _ _ _).1⟩,
      exec_wardenWatchdog_held, porst_low_resets, fun r hon hreset hhold => ⟨_, exec_porst_high hon hreset hhold, rfl, rfl, rfl⟩,
      exec_porst_high_idle⟩
  · refine ⟨exec_vauxChange_stays_off hoff, fun a b hab hhigh => ⟨_, exec_vauxChange_on hoff hab hhigh, ?_⟩⟩
    exact (s.vauxSet (a, b)).powerOn_frame pins
  · refine ⟨⟨_, exec_vauxChange_gone hon, ?_⟩, exec_vauxChange_lost hon⟩
    obtain ⟨hst, hbytes, hmram, hrecords⟩ := (s.vauxSet (false, false)).powerOff_frame
    exact ⟨hst, hbytes, congrArg (fun m : Mram => (m.keyStore.read.1, m.nonceStore.read, m.profiles, m.banks, m.boots)) hmram, hrecords⟩

end Sys2Proof.Machine
end

section
/-!
SUPPORT for O13 to O15. What reads and writes of a unit leave: reads leave which addresses are open, and writes everything but memory, its
controllers and the SECDED counts (`State.Keeps`); and what bytes a write of whole memory leaves.
-/
namespace Sys2Proof.Machine

/-! ### A comb without its SECDED counts -/

section Keeps
variable {s t : State} (h : s.Keeps t) (c : CombId)
include h

theorem State.Keeps.comb : (t.comb c).bareEcc = (s.comb c).bareEcc := by
  have hcombs : t.combs.map Comb.bareEcc = s.combs.map Comb.bareEcc := congrArg State.combs h.hull
  have hc : (t.combs.map Comb.bareEcc)[c.val] = (s.combs.map Comb.bareEcc)[c.val] := by rw [hcombs]
  rwa [Vector.getElem_map, Vector.getElem_map] at hc

theorem State.Keeps.mat : (t.comb c).mat = (s.comb c).mat :=
  (congrArg Comb.mat (h.comb c) :)
theorem State.Keeps.map : (t.comb c).map = (s.comb c).map :=
  (congrArg Comb.map (h.comb c) :)
theorem State.Keeps.testDue : (t.comb c).testDue = (s.comb c).testDue :=
  (congrArg Comb.testDue (h.comb c) :)

end Keeps

/-! ### Reads leave which addresses are open -/

/-- What decides which addresses are open: MEM_CFG and COL_CFG (R267, R342). -/
def State.bounds (s : State) : W64 × W64 := (s.mem.cfg, s.col.cfg)

theorem State.Tells.bounds {s t : State} (h : s.Tells t) : t.bounds = s.bounds := (congrArg State.bounds h.quiet :)

section Bounds
variable (s : State)

@[simp] theorem State.modMc_bounds (m : McId) (f : Mc → Mc) : (s.modMc m f).bounds = s.bounds := (rfl)
@[simp] theorem State.setCrc_bounds (sector : Nat) (d : BitVec 32) : (s.setCrc sector d).bounds = s.bounds := (rfl)
@[simp] theorem State.rewriteParity_bounds (page : Nat) : (s.rewriteParity page).bounds = s.bounds := (rfl)
@[simp] theorem State.endRetrain_bounds (m : McId) (b : Bool) : (s.endRetrain m b).bounds = s.bounds := (rfl)
@[simp] theorem State.draw_bounds : s.draw.2.bounds = s.bounds := (rfl)
@[simp] theorem State.faultBit_bounds (i : Nat) : (s.faultBit i).bounds = s.bounds := (rfl)

theorem foldl_bounds {β : Type} {f : State → β → State} (hf : ∀ t x, (f t x).bounds = t.bounds) (l : List β) :
    (l.foldl f s).bounds = s.bounds :=
  foldl_keeps State.bounds f hf l s

@[simp] theorem State.waitRetrain_bounds (page : Nat) : (s.waitRetrain page).bounds = s.bounds := by
  unfold State.waitRetrain
  split <;> simp

@[simp] theorem State.waitParity_bounds (page : Nat) : (s.waitParity page).bounds = s.bounds := by
  unfold State.waitParity
  split
  · rfl
  · exact foldl_bounds s State.waitRetrain_bounds _

@[simp] theorem State.setStack_bounds (sector : Nat) (f : List Byte × Bool → List Byte × Bool) : (s.setStack sector f).bounds = s.bounds := by
  unfold State.setStack
  dsimp only
  split <;> rfl

@[simp] theorem State.uncorrectable_bounds (page : Nat) : (s.uncorrectable page).bounds = s.bounds := by
  unfold State.uncorrectable
  extract_lets m bad first s1 s2 _ s3
  have h1 : s1.bounds = s.bounds := foldl_bounds s (fun t k => by simp) _
  have h3 : s3.bounds = s2.bounds := State.faultBit_bounds s2 7
  exact ((s3.record_tells _).trans (State.notice_tells _ _)).bounds.trans ((h3.trans (State.modMc_bounds _ _ _)).trans h1)

@[simp] theorem State.lostParity_bounds (sector : Nat) : (s.lostParity sector).bounds = s.bounds := by
  rw [State.lostParity, State.setCrc_bounds, foldl_bounds, State.modMc_bounds]
  intro t p
  dsimp only
  split <;> simp

@[simp] theorem State.mendParity_bounds (page : Nat) : (s.mendParity page).bounds = s.bounds := foldl_bounds s State.lostParity_bounds _

@[simp] theorem State.mendPage_bounds (page : Nat) : (s.mendPage page).bounds = s.bounds := by
  unfold State.mendPage
  dsimp only
  split
  · exact s.uncorrectable_bounds page
  · rw [(State.corrected_tells _ _ _).bounds, State.modMc_bounds]
    exact foldl_bounds s (fun t k => by simp) _

@[simp] theorem State.checkPage_bounds (page : Nat) : (s.checkPage page).bounds = s.bounds := by
  unfold State.checkPage
  dsimp only
  split
  · split <;> simp
  · simp

@[simp] theorem State.touchHbm_bounds (a n : Nat) : (s.touchHbm a n).bounds = s.bounds := by
  refine (foldl_bounds _ State.checkPage_bounds _).trans ?_
  split
  · rfl
  · exact foldl_bounds s State.waitRetrain_bounds _

@[simp] theorem State.eccNote_bounds (u : SweepUnit) (n d line : Nat) : (s.eccNote u n d line).bounds = s.bounds := by
  cases u with
  | comb c => exact (s.eccNote_comb_tells c n d line).bounds
  | square q => exact (s.eccNote_square_tells q n d line).bounds
  | hbm m => rfl

@[simp] theorem State.touchSram_bounds (u : SweepUnit) (a n : Nat) : (s.touchSram u a n).bounds = s.bounds := by
  unfold State.touchSram
  dsimp only
  split
  · rfl
  · exact State.eccNote_bounds _ _ _ _ _

@[simp] theorem State.touch_bounds (a n : Nat) : (s.touch a n).bounds = s.bounds := by
  unfold State.touch
  split
  · rfl
  · split <;> simp

@[simp] theorem State.touchRuns_bounds (rs : List (Nat × Nat)) : (s.touchRuns rs).bounds = s.bounds :=
  foldl_bounds s (fun (t : State) (r : Nat × Nat) => t.touch_bounds r.1 r.2) rs

end Bounds

theorem State.touchRuns_keeps (s : State) (rs : List (Nat × Nat)) : s.Keeps (s.touchRuns rs) :=
  .foldl _ (fun (t : State) (r : Nat × Nat) => t.touch_keeps r.1 r.2) rs

section Opened
variable {s t : State} (h : t.bounds = s.bounds)
include h

theorem State.opened_of_bounds (a n : Nat) : t.opened a n = s.opened a n := by
  have hreserve : t.reserve = s.reserve := congrArg (fun x : W64 × W64 => reserveBytes (getF x.1 32 2)) h
  have hpool : t.pool = s.pool := congrArg (fun x : W64 × W64 => getF x.2 0 4) h
  have hregion : t.region a = s.region a := by rw [State.region, hreserve, hpool, State.region]
  have hroom : t.room a = s.room a := by rw [State.room, hregion, hreserve, hpool, State.room]
  rw [State.opened, hroom, State.opened]

theorem State.posOpen_of_bounds (d : Desc) (p : Pos) : t.posOpen d p = s.posOpen d p := by
  simp only [State.posOpen, State.opened_of_bounds h]

end Opened

/-! ### Writes -/

section Stores
variable (s : State)

theorem State.freshSram_keeps (u : SweepUnit) (a n : Nat) : s.Keeps (s.freshSram u a n) := by
  unfold State.freshSram
  dsimp only
  split
  · exact s.modMem_keeps _
  · exact (s.modMem_keeps _).trans (State.eccNote_keeps _ _ _ _ _)

theorem State.slotOpen_keeps (page : Nat) (valid : BitVec 64) : s.Keeps (s.slotOpen page valid) := by
  unfold State.slotOpen
  dsimp only
  refine .trans ?_ (State.modMc_keeps _ _ _)
  split
  · exact .refl s
  split
  · exact .refl s
  split
  · exact s.closeSlot_keeps _ _ _
  · exact .refl s

theorem State.slotDone_keeps (page : Nat) : s.Keeps (s.slotDone page) := by
  unfold State.slotDone
  split
  · split
    · exact s.closeSlot_keeps _ _ _
    · exact .refl s
  · exact .refl s

/-- The first and the last sector of a write are read first where it covers them in part. -/
def State.edgesRead (s : State) (a n : Nat) : State :=
  let s1 := if a % 64 = 0 then s else s.touchHbm a 1
  if (a + n) % 64 = 0 then s1 else s1.touchHbm (a + n - 1) 1

theorem State.freshHbm_eq (a n : Nat) : s.freshHbm a n =
    (((s.edgesRead a n).waitRetrain (a / 4096)).slotOpen (a / 4096) (sectorMask a n)).modMem fun m => { m with
      poison := m.poison.filter fun kv => !(decide (a ≤ 64 * kv.1) && decide (64 * kv.1 + 64 ≤ a + n)) } := rfl

theorem State.edgesRead_keeps (a n : Nat) : s.Keeps (s.edgesRead a n) := by
  unfold State.edgesRead
  dsimp only
  have h1 : s.Keeps (if a % 64 = 0 then s else s.touchHbm a 1) := by
    split
    · exact .refl s
    · exact s.touchHbm_keeps a 1
  split
  · exact h1
  · exact h1.trans (State.touchHbm_keeps _ _ _)

theorem State.freshHbm_keeps (a n : Nat) : s.Keeps (s.freshHbm a n) := by
  rw [State.freshHbm_eq]
  exact (((s.edgesRead_keeps a n).trans (State.waitRetrain_keeps _ _)).trans (State.slotOpen_keeps _ _ _)).trans (State.modMem_keeps _ _)

theorem State.putMarked_keeps (a : Nat) (bs : List Byte) (poison : Bool) : s.Keeps (s.putMarked a bs poison) := by
  unfold State.putMarked
  dsimp only
  split
  · exact (s.modMem_keeps _).trans (State.modMem_keeps _ _)
  · exact s.modMem_keeps _

theorem State.storePage_keeps (a : Nat) (bs : List Byte) (poison : Bool) : s.Keeps (s.storePage a bs poison) :=
  ((s.freshHbm_keeps a bs.length).trans (State.putMarked_keeps _ _ _ _)).trans (State.slotDone_keeps _ _)

theorem State.store_keeps (a : Nat) (bs : List Byte) (poison : Bool) : s.Keeps (s.store a bs poison) := by
  have hsram : ∀ u, s.Keeps ((s.freshSram u a bs.length).putMarked a bs poison) := fun u =>
    (s.freshSram_keeps u a bs.length).trans (State.putMarked_keeps _ a bs poison)
  unfold State.store
  split
  · exact .refl s
  split
  · exact .foldl _ (fun (t : State) (x : Nat × List Byte) => t.storePage_keeps x.1 x.2 poison) _
  · exact hsram _
  · exact hsram _
  · exact s.putMarked_keeps a bs poison

theorem State.putRuns_keeps (ws : List (Nat × List Byte)) : s.Keeps (s.putRuns ws) := .foldl _ (fun t w => t.store_keeps w.1 w.2 false) ws

theorem State.poisonList_keeps (ls : List Nat) : s.Keeps (s.poisonList ls) := by
  unfold State.poisonList
  split
  · exact .refl s
  · exact s.modMem_keeps _

theorem State.cut_keeps (ok : List Bool) : s.Keeps (s.cut ok).2 := by
  unfold State.cut
  split
  · exact .refl s
  · exact s.draw_keeps

end Stores

/-! ### The bytes that a write leaves -/

/-- The bytes `bs` laid over `f` from address `a`. -/
def overlay (f : Nat → Byte) (a : Nat) (bs : List Byte) (x : Nat) : Byte := if a ≤ x then bs[x - a]?.getD (f x) else f x

@[simp] theorem overlay_nil (f : Nat → Byte) (a : Nat) : overlay f a [] = f := by
  funext x
  simp [overlay]

theorem overlay_in (f : Nat → Byte) (a : Nat) {bs : List Byte} {i : Nat} (h : i < bs.length) : overlay f a bs (a + i) = bs[i] := by
  simp [overlay, h]

theorem overlay_out (f : Nat → Byte) {a x : Nat} {bs : List Byte} (h : x < a ∨ a + bs.length ≤ x) : overlay f a bs x = f x := by
  unfold overlay
  split
  · rw [List.getElem?_eq_none (by omega)]
    rfl
  · rfl

/-- Bytes laid one piece behind the other are laid at once. -/
theorem overlay_append (f : Nat → Byte) (a : Nat) (bs cs : List Byte) :
    overlay (overlay f a bs) (a + bs.length) cs = overlay f a (bs ++ cs) := by
  funext x
  by_cases hx : a + bs.length ≤ x
  · rw [overlay, if_pos hx, overlay_out f (.inr hx), overlay, if_pos (by omega), List.getElem?_append_right (by omega), Nat.sub_sub]
  · rw [overlay, if_neg hx, overlay, overlay]
    split
    · rw [List.getElem?_append_left (by omega)]
    · rfl

theorem get_putBytes {m : List (Nat × Byte)} (h : Sparse.wf 0 m = true) (a : Nat) (bs : List Byte) :
    Sparse.get 0 (putBytes m a bs) = overlay (Sparse.get 0 m) a bs := by
  induction bs generalizing m a with
  | nil => simp [putBytes]
  | cons b bs ih =>
    have hone : Sparse.get 0 (Sparse.set 0 m a b) = overlay (Sparse.get 0 m) a [b] := by
      funext x
      by_cases hx : x = a
      · subst hx
        rw [Sparse.get_set_self m x b h]
        simp [overlay]
      · rw [Sparse.get_set_ne m b hx, overlay_out _ (by simp only [List.length_singleton]; omega)]
    rw [putBytes, ih (Sparse.wf_set a b h), hone]
    exact overlay_append (Sparse.get 0 m) a [b] bs

theorem State.touchHbm_sameBytes (s : State) (a n : Nat) : s.sameBytes (s.touchHbm a n) :=
  fun hcrc => State.sameBytes.of_mem (State.touchHbm_whole hcrc a n) hcrc

theorem State.freshSram_sameBytes (s : State) (u : SweepUnit) (a n : Nat) : s.sameBytes (s.freshSram u a n) := by
  unfold State.freshSram
  dsimp only
  split
  · exact fun hcrc => ⟨rfl, hcrc⟩
  · rw [State.sameBytes, State.eccNote_mem]
    exact fun hcrc => ⟨rfl, hcrc⟩

theorem State.slotOpen_sameBytes (s : State) (page : Nat) (valid : BitVec 64) : s.sameBytes (s.slotOpen page valid) := by
  unfold State.slotOpen
  dsimp only
  refine .trans ?_ (State.modMc_sameBytes _ _ _)
  split
  · exact .of_mem rfl
  split
  · exact .of_mem rfl
  split
  · exact s.closeSlot_sameBytes _ _ _
  · exact .of_mem rfl

theorem State.slotDone_sameBytes (s : State) (page : Nat) : s.sameBytes (s.slotDone page) := by
  unfold State.slotDone
  split
  · split
    · exact s.closeSlot_sameBytes _ _ _
    · exact .of_mem rfl
  · exact .of_mem rfl

theorem State.edgesRead_sameBytes (s : State) (a n : Nat) : s.sameBytes (s.edgesRead a n) := by
  unfold State.edgesRead
  dsimp only
  have h1 : s.sameBytes (if a % 64 = 0 then s else s.touchHbm a 1) := by
    split
    · exact .of_mem rfl
    · exact s.touchHbm_sameBytes a 1
  split
  · exact h1
  · exact h1.trans (State.touchHbm_sameBytes _ _ _)

theorem State.freshHbm_sameBytes (s : State) (a n : Nat) : s.sameBytes (s.freshHbm a n) := by
  rw [State.freshHbm_eq]
  have hopened := ((s.edgesRead_sameBytes a n).trans (.of_mem (State.waitRetrain_stored _ (a / 4096)))).trans
    (State.slotOpen_sameBytes _ (a / 4096) (sectorMask a n))
  exact hopened.trans fun hcrc => ⟨rfl, hcrc⟩

/-- Memory in canonical form, no stored sector of which fails its CRC. -/
def State.sound (s : State) : Prop := s.mem.wf = true ∧ s.mem.crc = []

/-- From sound `s` to sound `t` the bytes `bs` have come to stand at `a`. -/
def State.laid (s : State) (a : Nat) (bs : List Byte) (t : State) : Prop := s.sound → t.sound ∧ t.byte = overlay s.byte a bs

theorem State.laid_nil (s : State) (a : Nat) : s.laid a [] s := fun h => ⟨h, (overlay_nil _ a).symm⟩

theorem State.laid.append {s t u : State} {a : Nat} {bs cs : List Byte} (h : s.laid a bs t) (h' : t.laid (a + bs.length) cs u) :
    s.laid a (bs ++ cs) u := fun hs =>
  have ⟨ht, hbytes⟩ := h hs
  have ⟨hu, hbytes'⟩ := h' ht
  ⟨hu, by rw [hbytes', hbytes, overlay_append]⟩

/-- A write between operations that leave the stored bytes. -/
theorem State.laid_of_sameBytes {s t u v : State} {a : Nat} {bs : List Byte} (hst : s.sameBytes t)
    (ht : s.mem.wf = true → t.mem.wf = true) (htu : t.laid a bs u) (huv : u.sameBytes v) (hv : u.mem.wf = true → v.mem.wf = true) :
    s.laid a bs v := by
  rintro ⟨hwf, hcrc⟩
  obtain ⟨hbytes, hcrc'⟩ := hst hcrc
  obtain ⟨⟨hwfu, hcrcu⟩, hbytesu⟩ := htu ⟨ht hwf, hcrc'⟩
  obtain ⟨hbytesv, hcrcv⟩ := huv hcrcu
  have hbyte : t.byte = s.byte := by
    funext x
    rw [State.byte, hbytes, State.byte]
  refine ⟨⟨hv hwfu, hcrcv⟩, ?_⟩
  rw [← hbyte, ← hbytesu]
  funext x
  rw [State.byte, hbytesv, State.byte]

theorem State.putMarked_laid (s : State) (a : Nat) (bs : List Byte) (poison : Bool) : s.laid a bs (s.putMarked a bs poison) := by
  rintro ⟨hwf, hcrc⟩
  have hbytes : (s.putMarked a bs poison).mem.bytes = putBytes s.mem.bytes a bs ∧ (s.putMarked a bs poison).mem.crc = s.mem.crc := by
    unfold State.putMarked
    dsimp only
    split <;> exact ⟨rfl, rfl⟩
  obtain ⟨hput, hsame⟩ := hbytes
  refine ⟨⟨State.putMarked_wf s a bs poison hwf, hsame.trans hcrc⟩, ?_⟩
  have hbyte : (s.putMarked a bs poison).byte = Sparse.get 0 (putBytes s.mem.bytes a bs) := by
    funext x
    rw [State.byte, hput]
  rw [hbyte, get_putBytes ((Mem.wf_iff _).1 hwf).1]
  rfl

theorem State.storePage_laid (s : State) (a : Nat) (bs : List Byte) (poison : Bool) : s.laid a bs (s.storePage a bs poison) :=
  State.laid_of_sameBytes (s.freshHbm_sameBytes a bs.length) (State.freshHbm_wf s a bs.length) (State.putMarked_laid _ a bs poison)
    (State.slotDone_sameBytes _ _) (State.slotDone_wf _ _)

/-- The pieces of a write, one page each, lay all its bytes. -/
theorem State.pagePieces_laid (poison : Bool) (fuel : Nat) (s : State) (a : Nat) (bs : List Byte) :
    s.laid a bs ((pagePieces fuel a bs).foldl (fun (t : State) x => t.storePage x.1 x.2 poison) s) := by
  induction fuel generalizing s a bs with
  | zero => exact s.storePage_laid a bs poison
  | succ fuel ih =>
    unfold pagePieces
    dsimp only
    split
    · exact s.storePage_laid a bs poison
    next hlong =>
      have hlen : (bs.take (4096 - a % 4096)).length = 4096 - a % 4096 := List.length_take_of_le (by omega)
      have hrest := ih (s.storePage a (bs.take (4096 - a % 4096)) poison) (a + (4096 - a % 4096)) (bs.drop (4096 - a % 4096))
      have hall := (s.storePage_laid a (bs.take (4096 - a % 4096)) poison).append (by rw [hlen]; exact hrest)
      rwa [List.take_append_drop] at hall

theorem State.store_laid (s : State) (a : Nat) (bs : List Byte) (poison : Bool) : s.laid a bs (s.store a bs poison) := by
  have hsram : ∀ u, s.laid a bs ((s.freshSram u a bs.length).putMarked a bs poison) := fun u =>
    State.laid_of_sameBytes (s.freshSram_sameBytes u a bs.length) (State.freshSram_wf s u a bs.length) (State.putMarked_laid _ a bs poison)
      (.of_mem rfl) id
  unfold State.store
  split
  next hempty =>
    rw [List.isEmpty_iff.1 hempty]
    exact s.laid_nil a
  split
  · exact State.pagePieces_laid poison _ s a bs
  · exact hsram _
  · exact hsram _
  · exact s.putMarked_laid a bs poison

@[simp] theorem State.poisonList_byte (s : State) (ls : List Nat) : (s.poisonList ls).byte = s.byte := by
  unfold State.poisonList
  split <;> rfl

end Sys2Proof.Machine
end

section
/-!
O14: the completions of the units (R127, R136, R137, R141, R142). A completion writes and marks memory, and changes one sequencer.
-/
namespace Sys2Proof.Machine

/-! ### Descriptors -/

theorem signed_unsigned {x : Int} (hlo : -2048 ≤ x) (hhi : x ≤ 2047) : signed 12 (unsigned 12 x) = x := by
  unfold signed unsigned
  split <;> omega

/-- A ceiling raised by an exponent of its range (R56, R127). -/
theorem Desc.raise_ceil (d : Desc) {e : Int} (hlo : -2048 ≤ e) (hhi : e ≤ 2047) :
    (d.raise e).ceilv = true ∧ (d.raise e).ceil = if d.ceilv then max d.ceil e else e := by
  have hword : (d.raise e)[7] = setF (setF d[7] 32 12 (unsigned 12 (if d.ceilv then max d.ceil e else e))) 44 1 1 := by
    simp [Desc.raise]
  have hd : -2048 ≤ d.ceil ∧ d.ceil ≤ 2047 := by
    unfold Desc.ceil signed
    split <;> omega
  have hmax : -2048 ≤ (if d.ceilv then max d.ceil e else e) ∧ (if d.ceilv then max d.ceil e else e) ≤ 2047 := by
    split <;> omega
  constructor
  · rw [Desc.ceilv, hword, getF_setF_same _ _ (by decide)]
    rfl
  · rw [Desc.ceil, hword, getF_setF_of_disjoint _ _ (by decide) (by decide), getF_setF_same _ _ (by decide)]
    rw [show signed 12 (unsigned 12 (if d.ceilv then max d.ceil e else e) % 2 ^ 12) =
      signed 12 (unsigned 12 (if d.ceilv then max d.ceil e else e)) by simp [signed]]
    exact signed_unsigned hmax.1 hmax.2

/-- The descriptors after the ceilings of a completion. -/
def raised (d : Vector Desc 32) (cs : List (Fin 32 × Int)) : Vector Desc 32 := cs.foldl (fun d r => d.set r.1 (d[r.1].raise r.2)) d

theorem raised_other (d : Vector Desc 32) {cs : List (Fin 32 × Int)} {i : Fin 32} (h : i ∉ cs.map (·.1)) : (raised d cs)[i] = d[i] := by
  induction cs generalizing d with
  | nil => rfl
  | cons r cs ih =>
    rw [List.map_cons, List.mem_cons, not_or] at h
    have hne : r.1.val ≠ i.val := fun e => h.1 (Fin.ext e.symm)
    refine (ih (d.set r.1 (d[r.1].raise r.2)) h.2).trans ?_
    exact Vector.getElem_set_ne _ _ hne

/-! ### The sequencer after a completion -/

/-- The counter of an instruction moves where CE = 1 (R137). -/
def Seq.counted (q : Seq) (e : QEntry) : Vector W32 256 := if e.ce then q.cnt.set (cntIx e.cnt) (q.cnt[cntIx e.cnt] + 1) else q.cnt

/-- A sequencer after the completion of a flight of queue `k`. -/
def Seq.completed (q : Seq) (k : Fin 4) (fl : Flight) : Seq :=
  { q with d := raised q.d fl.ceils, busy := q.busy.set k (q.busy[k] - 1), cnt := q.counted fl.e }

theorem State.modSeq_id (s : State) (c : CombId) : (s.modSeq c fun q => q) = s := by
  change { s with combs := s.combs.set c s.combs[c] } = s
  rw [Fin.getElem_fin, Vector.set_getElem_self]

theorem State.raiseAll_eq (s : State) (c : CombId) (cs : List (Fin 32 × Int)) :
    s.raiseAll c cs = s.modSeq c fun q => { q with d := raised q.d cs } := by
  induction cs generalizing s with
  | nil => exact (s.modSeq_id c).symm
  | cons r cs ih => exact (ih _).trans (State.modSeq_modSeq _ _ _ _)

theorem State.bumpE_eq (s : State) (c : CombId) (e : QEntry) : s.bumpE c e = s.modSeq c fun q => { q with cnt := q.counted e } := by
  unfold State.bumpE Seq.counted
  split
  · rfl
  · exact (s.modSeq_id c).symm

/-- A completion is a write to memory and one change of a sequencer (R141). -/
theorem State.complete_eq (s : State) (c : CombId) (k : Fin 4) (fl : Flight) :
    s.complete c k fl = ((s.putRuns fl.writes).poisonList fl.poisons).modSeq c fun q => q.completed k fl := by
  rw [State.complete, State.bumpE_eq, State.busySub, State.raiseAll_eq, State.modSeq_modSeq, State.modSeq_modSeq]
  rfl

theorem State.written_keeps (s : State) (fl : Flight) : s.Keeps ((s.putRuns fl.writes).poisonList fl.poisons) :=
  (s.putRuns_keeps _).trans (State.poisonList_keeps _ _)

section Complete
variable (s : State) (c : CombId) (k : Fin 4) (fl : Flight)

theorem State.complete_seq : ((s.complete c k fl).comb c).seq = (s.comb c).seq.completed k fl := by
  rw [State.complete_eq, State.modSeq_seq, (s.written_keeps fl).seq]

theorem State.complete_mat : ((s.complete c k fl).comb c).mat = (s.comb c).mat := by
  rw [State.complete_eq, State.modSeq_mat, (s.written_keeps fl).mat]

theorem State.complete_testDue : ((s.complete c k fl).comb c).testDue = (s.comb c).testDue := by
  rw [State.complete_eq, State.modSeq, State.modComb_comb]
  exact (s.written_keeps fl).testDue c

theorem State.complete_seq_other {d : CombId} (hd : d ≠ c) : ((s.complete c k fl).comb d).seq = (s.comb d).seq := by
  rw [State.complete_eq, State.modSeq_comb_ne _ _ hd, (s.written_keeps fl).seq]

theorem State.complete_byte : (s.complete c k fl).byte = (s.putRuns fl.writes).byte := by
  rw [State.complete_eq]
  exact State.poisonList_byte _ _

end Complete

/-! ### Whose completion it is -/

theorem Flight.fills_iff {fl : Flight} : fl.fills = true ↔ ∃ b k0 c0 tb p64, fl.e.op = .mhold b k0 c0 tb p64 := by
  unfold Flight.fills
  split
  next h => exact ⟨fun _ => ⟨_, _, _, _, _, h⟩, fun _ => rfl⟩
  next h => exact ⟨nofun, fun ⟨b, k0, c0, tb, p64, he⟩ => absurd he (h b k0 c0 tb p64)⟩

theorem takeFirst_head {p : Flight → Bool} {fl : Flight} (h : p fl = true) (rest : List Flight) :
    takeFirst p (fl :: rest) = some (fl, rest) := if_pos h

section Exec
variable {s : State} {c : CombId} {fl : Flight} {rest : List Flight}

theorem exec_mholdFillDone (hrun : (s.comb c).mat.run = fl :: rest) (hfills : fl.fills = true) :
    exec (.mholdFillDone c) s = .next ((s.modMat c fun m => { m with run := rest, full := m.shadow.isSome }).complete c 0 fl) := by
  change execMholdFillDone c s = _
  rw [execMholdFillDone, hrun, takeFirst_head hfills]

theorem exec_matrixCompletion_none (hrun : (s.comb c).mat.run = fl :: rest) (hfills : fl.fills = false) :
    exec (.matrixCompletion c none) s = .next ((s.modMat c fun m => { m with run := rest }).complete c 0 fl) := by
  change execMatrixCompletion c none s = _
  rw [execMatrixCompletion, hrun, takeFirst_head (by simp [hfills])]

theorem exec_mxCompletion (hrun : (s.comb c).ext.run = fl :: rest) :
    exec (.mxCompletion c) s = .next ((s.modExt c fun x => { x with run := rest }).complete c 0 fl) := by
  change execMxCompletion c s = _
  rw [execMxCompletion, hrun]

theorem exec_vectorCompletion (hrun : (s.comb c).vecRun = fl :: rest) :
    exec (.vectorCompletion c) s = .next ((s.modComb c fun k => { k with vecRun := rest }).complete c 1 fl) := by
  change execVectorCompletion c s = _
  rw [execVectorCompletion, hrun]

theorem exec_courierCompletion {i : Nat} (hrun : (s.comb c).crrRun[i]? = some fl) : exec (.courierCompletion c i) s = .next (
    if fl.waits = 0 then (s.modComb c fun k => { k with crrRun := k.crrRun.eraseIdx i }).complete c 2 fl else s) := by
  change execCourierCompletion c i s = _
  rw [execCourierCompletion, hrun]

end Exec

/-! ### O14 -/

/-- Settles O14: each unit takes out the flight that ends, and what `State.complete` changes is read off `State.complete_eq`. -/
theorem unitCompletions : Obligations.UnitCompletions := by
  refine ⟨fun s c fl rest => ⟨fun b k0 c0 tb p64 hrun he => exec_mholdFillDone hrun (Flight.fills_iff.2 ⟨b, k0, c0, tb, p64, he⟩),
    fun hno hrun => exec_matrixCompletion_none hrun ?_, exec_mxCompletion, exec_vectorCompletion,
    fun i hrun hdone => (exec_courierCompletion hrun).trans (congrArg _ (if_pos hdone)),
    fun i hrun hwaits => (exec_courierCompletion hrun).trans (congrArg _ (if_neg hwaits))⟩, fun s c k fl hwf hcrc => ?_⟩
  · exact Bool.eq_false_iff.2 fun h => let ⟨b, k0, c0, tb, p64, he⟩ := Flight.fills_iff.1 h; hno b k0 c0 tb p64 he
  intro q t r
  have hseq : r = q.completed k fl := s.complete_seq c k fl
  rw [hseq]
  refine ⟨rfl, rfl, rfl, fun i hi => raised_other q.d hi, fun i x hceils hlo hhi => ?_, fun d hd => s.complete_seq_other c k fl hd,
    fun hnone a => ?_, fun a bs hone => ?_⟩
  · have hraised : (q.completed k fl).d[i] = q.d[i].raise x := by simp [Seq.completed, raised, hceils]
    rw [hraised]
    exact Desc.raise_ceil q.d[i] hlo hhi
  · rw [s.complete_byte, hnone]
    rfl
  · have hbyte : t.byte = overlay s.byte a bs := by
      rw [s.complete_byte, hone]
      exact (s.store_laid a bs false ⟨hwf, hcrc⟩).2
    rw [hbyte]
    exact ⟨fun i hi => overlay_in s.byte a hi, fun x hx => overlay_out s.byte hx⟩

end Sys2Proof.Machine
end

section
/-!
O15: a residue mismatch of the array (R86). What it leaves in MAT_FAULT and in the slot elements, and the completion that reports it.
-/
namespace Sys2Proof.Machine

/-! ### MAT_FAULT (Table 4.9) -/

/-- MAT_FAULT with the place of a mismatch. -/
def faultPlace (r : W64) (x : Mismatch) (slot shape : Nat) : W64 :=
  setF (setF (setF (setF r 8 6 x.row.val) 16 6 x.col.val) 24 2 slot) 48 3 shape

theorem mismatchBit_lt (k : MismatchKind) : mismatchBit k < 4 := by cases k <;> decide

section Fault
variable (m : Mat) (fl : Flight) (slot : Fin 4) (x : Mismatch)

theorem Mat.mismatch_fault : (m.mismatch fl slot.val x).fault =
    setB (satF (if getF m.fault 0 4 = 0 then faultPlace m.fault x slot.val m.shape.toNat else m.fault) 32 16 1) (mismatchBit x.kind) true := by
  simp only [Mat.mismatch, faultPlace, beq_iff_eq]

theorem Mat.mismatch_bit : (m.mismatch fl slot.val x).fault.getLsbD (mismatchBit x.kind) = true := by
  have hbit := mismatchBit_lt x.kind
  rw [Mat.mismatch_fault]
  exact getLsbD_setB _ _ (by omega)

/-- The fields that a place takes hold it, and a count stands above them. -/
theorem getF_faultPlace (r : W64) (shape : Nat) :
    (getF (faultPlace r x slot.val shape) 8 6, getF (faultPlace r x slot.val shape) 16 6, getF (faultPlace r x slot.val shape) 24 2) =
      (x.row.val, x.col.val, slot.val) ∧ getF (faultPlace r x slot.val shape) 32 16 = getF r 32 16 := by
  simp only [faultPlace, Prod.mk.injEq]
  refine ⟨⟨?_, ?_, ?_⟩, ?_⟩
  · rw [getF_setF_of_disjoint _ _ (by decide) (by decide), getF_setF_of_disjoint _ _ (by decide) (by decide),
      getF_setF_of_disjoint _ _ (by decide) (by decide), getF_setF_same _ _ (by decide)]
    omega
  · rw [getF_setF_of_disjoint _ _ (by decide) (by decide), getF_setF_of_disjoint _ _ (by decide) (by decide),
      getF_setF_same _ _ (by decide)]
    omega
  · rw [getF_setF_of_disjoint _ _ (by decide) (by decide), getF_setF_same _ _ (by decide)]
    omega
  · rw [getF_setF_of_disjoint _ _ (by decide) (by decide), getF_setF_of_disjoint _ _ (by decide) (by decide),
      getF_setF_of_disjoint _ _ (by decide) (by decide), getF_setF_of_disjoint _ _ (by decide) (by decide)]

theorem Mat.mismatch_count : getF (m.mismatch fl slot.val x).fault 32 16 = min (getF m.fault 32 16 + 1) 0xFFFF := by
  have hbit := mismatchBit_lt x.kind
  rw [Mat.mismatch_fault, setB, getF_setF_of_disjoint _ _ (by decide) (by omega), getF_satF _ _ (by decide)]
  split
  · rw [(getF_faultPlace slot x m.fault m.shape.toNat).2]
    rfl
  · rfl

/-- A field below the count and above the bits is that of the place. -/
theorem Mat.mismatch_field {lo n : Nat} (hlo : 4 ≤ lo) (hhi : lo + n ≤ 32) : getF (m.mismatch fl slot.val x).fault lo n =
    getF (if getF m.fault 0 4 = 0 then faultPlace m.fault x slot.val m.shape.toNat else m.fault) lo n := by
  have hbit := mismatchBit_lt x.kind
  rw [Mat.mismatch_fault, setB, getF_setF_of_disjoint _ _ (by omega) (by omega), satF, getF_setF_of_disjoint _ _ (by omega) (by omega)]

theorem Mat.mismatch_first (hclear : getF m.fault 0 4 = 0) :
    (getF (m.mismatch fl slot.val x).fault 8 6, getF (m.mismatch fl slot.val x).fault 16 6, getF (m.mismatch fl slot.val x).fault 24 2,
      (m.mismatch fl slot.val x).faultPc) = (x.row.val, x.col.val, slot.val, fl.e.pc.setWidth 64) := by
  have hpc : (m.mismatch fl slot.val x).faultPc = fl.e.pc.setWidth 64 := by simp [Mat.mismatch, hclear]
  have hplace := (getF_faultPlace slot x m.fault m.shape.toNat).1
  simp only [Prod.mk.injEq] at hplace
  obtain ⟨hrow, hcol, hslot⟩ := hplace
  rw [Mat.mismatch_field m fl slot x (by decide) (by decide), Mat.mismatch_field m fl slot x (by decide) (by decide),
    Mat.mismatch_field m fl slot x (by decide) (by decide), if_pos hclear, hpc, hrow, hcol, hslot]

theorem Mat.mismatch_later (hset : getF m.fault 0 4 ≠ 0) :
    (getF (m.mismatch fl slot.val x).fault 8 6, getF (m.mismatch fl slot.val x).fault 16 6, getF (m.mismatch fl slot.val x).fault 24 2,
      (m.mismatch fl slot.val x).faultPc) = (getF m.fault 8 6, getF m.fault 16 6, getF m.fault 24 2, m.faultPc) := by
  have hpc : (m.mismatch fl slot.val x).faultPc = m.faultPc := by simp [Mat.mismatch, hset]
  rw [Mat.mismatch_field m fl slot x (by decide) (by decide), Mat.mismatch_field m fl slot x (by decide) (by decide),
    Mat.mismatch_field m fl slot x (by decide) (by decide), if_neg hset, hpc]

end Fault

/-! ### The elements of the slot -/

theorem get_foldl_poison (keys : List Nat) (l : List (Nat × SlotElem)) (key : Nat) :
    Sparse.get {} (keys.foldl (fun l k => Sparse.set {} l k { Sparse.get {} l k with poison := true }) l) key =
      if key ∈ keys then { Sparse.get {} l key with poison := true } else Sparse.get {} l key := by
  induction keys generalizing l with
  | nil => simp
  | cons k keys ih =>
    rw [List.foldl_cons, ih]
    by_cases hk : key = k
    · subst hk
      have hne : ({ Sparse.get {} l key with poison := true } : SlotElem) ≠ {} := fun h =>
        Bool.noConfusion (congrArg SlotElem.poison h : true = false)
      rw [Sparse.get_set_self_ne _ _ hne]
      simp
    · rw [Sparse.get_set_ne _ _ hk]
      simp [hk]

theorem Mat.mismatch_elem (m : Mat) (fl : Flight) (slot : Nat) (x : Mismatch) (key : Nat) :
    (m.mismatch fl slot x).elem key = if key ∈ fl.keys then { m.elem key with poison := true } else m.elem key :=
  get_foldl_poison fl.keys m.slots key

/-! ### The completion -/

/-- What a mismatch does before its instruction completes. -/
def State.mismatched (s : State) (c : CombId) (fl : Flight) (slot : Fin 4) (x : Mismatch) : State :=
  ((((s.modMat c fun m => m.mismatch fl slot.val x).modComb c fun k => { k with testDue := true }).abortStep).record
    (.mismatch c x.kind)).notice (.fault 3 (BitVec.ofNat 8 (mismatchBit x.kind)) fl.e.pc.toNat)

theorem State.abortStep_comb (s : State) (c : CombId) : s.abortStep.comb c = s.comb c := rfl

theorem State.mismatched_comb (s : State) (c : CombId) (fl : Flight) (slot : Fin 4) (x : Mismatch) : (s.mismatched c fl slot x).comb c =
    { s.comb c with mat := (s.comb c).mat.mismatch fl slot.val x, testDue := true } := by
  rw [State.mismatched, ((State.record_tells _ _).trans (State.notice_tells _ _)).comb c, State.abortStep_comb,
    State.modComb_comb, State.modMat, State.modComb_comb]

theorem exec_matrixCompletion_some {s : State} {c : CombId} {fl : Flight} {rest : List Flight} {a b : Desc} {slot : Fin 4} {ow seq : Bool}
    {g : BitVec 2} {auto : Bool} {win : Int} {kc : Nat} {ta tb : Bool} {mask : Option W64}
    (he : fl.e.op = .mmul a b slot ow seq g auto win kc ta tb mask) (hrun : (s.comb c).mat.run = fl :: rest) (x : Mismatch) :
    exec (.matrixCompletion c (some x)) s = .next (((s.modMat c fun m => { m with run := rest }).mismatched c fl slot x).complete c 0 fl) := by
  have hfills : fl.fills = false := by simp [Flight.fills, he]
  change execMatrixCompletion c (some x) s = _
  rw [execMatrixCompletion, hrun, takeFirst_head (by simp [hfills])]
  simp only [he]
  rfl

/-! ### O15 -/

/-- Settles O15: the mismatch changes MAT_FAULT and the slot's elements, and the instruction then completes as any other does. -/
theorem matrixMismatch : Obligations.MatrixMismatch := by
  intro s c x fl rest a b slot ow seq g auto win kc ta tb mask he hrun _ _ m
  refine ⟨_, exec_matrixCompletion_some he hrun x, ?_⟩
  have hcomb := (s.modMat c fun m => { m with run := rest }).mismatched_comb c fl slot x
  have hmat : ((s.modMat c fun m => { m with run := rest }).comb c).mat = { m with run := rest } := by simp [State.modMat, m]
  rw [State.complete_mat, State.complete_testDue, State.complete_seq, hcomb, hmat, State.modMat_seq]
  dsimp only
  exact ⟨Mat.mismatch_bit _ fl slot x, Mat.mismatch_count _ fl slot x, Mat.mismatch_first _ fl slot x, Mat.mismatch_later _ fl slot x,
    fun key hkey => (Mat.mismatch_elem _ fl slot.val x key).trans (if_pos hkey),
    fun key hkey => (Mat.mismatch_elem _ fl slot.val x key).trans (if_neg hkey), rfl, rfl, rfl⟩

end Sys2Proof.Machine
end

section
/-!
SUPPORT for O13. Folds of writes into a sparse store; what the accumulation of an element keeps; the execution fault of an instruction
(R149, R150); and the part of a comb that an extraction works on.
-/
namespace Sys2Proof.Machine

/-! ### Folds of writes into a sparse store -/

section Folds
variable {α β : Type} [DecidableEq α] {d : α} (key : β → Nat) (val : β → α)

theorem Sparse.get_foldl_set_other (l : List β) (m : List (Nat × α)) {j : Nat} (hj : j ∉ l.map key) :
    Sparse.get d (l.foldl (fun m x => Sparse.set d m (key x) (val x)) m) j = Sparse.get d m j := by
  induction l generalizing m with
  | nil => rfl
  | cons x l ih =>
    rw [List.map_cons, List.mem_cons, not_or] at hj
    rw [List.foldl_cons, ih _ hj.2, Sparse.get_set_ne _ _ hj.1]

/-- A key that is written reads as one of the values written to it. -/
theorem Sparse.get_foldl_set_mem (l : List β) {m : List (Nat × α)} {j : Nat} (hj : j ∈ l.map key)
    (hm : Sparse.wf d m = true ∨ ∀ x ∈ l, val x ≠ d) :
    ∃ x ∈ l, key x = j ∧ Sparse.get d (l.foldl (fun m x => Sparse.set d m (key x) (val x)) m) j = val x := by
  induction l generalizing m with
  | nil => cases hj
  | cons x l ih =>
    by_cases hl : j ∈ l.map key
    · obtain ⟨y, hy, hkey, hget⟩ := ih hl (hm.imp (Sparse.wf_set (key x) (val x)) fun h y hy => h y (List.mem_cons_of_mem x hy))
      exact ⟨y, List.mem_cons_of_mem x hy, hkey, hget⟩
    · have hx : j = key x := by simpa [hl] using hj
      refine ⟨x, List.mem_cons_self, hx.symm, ?_⟩
      rw [List.foldl_cons, Sparse.get_foldl_set_other key val l _ hl, hx]
      exact hm.elim (Sparse.get_set_self m (key x) (val x)) fun h => Sparse.get_set_self_ne m (key x) (h x List.mem_cons_self)

/-- A key that is written once reads as the value written. -/
theorem Sparse.get_foldl_set_nodup {l : List β} (hl : (l.map key).Nodup) {m : List (Nat × α)} (hm : Sparse.wf d m = true) {x : β}
    (hx : x ∈ l) : Sparse.get d (l.foldl (fun m x => Sparse.set d m (key x) (val x)) m) (key x) = val x := by
  obtain ⟨y, hy, hkey, hget⟩ := Sparse.get_foldl_set_mem key val l (List.mem_map_of_mem hx) (.inl hm)
  rw [hget, List.inj_on_of_nodup_map hl hy hx hkey]

end Folds

/-! ### The accumulation of an element keeps its mode -/

/-- SEQ and G of an element (R105). -/
def SlotElem.modeG (x : SlotElem) : Bool × BitVec 2 := (x.seq, x.g)

theorem SlotElem.special_modeG (x : SlotElem) (v : Val × Bool) : (x.special v).modeG = x.modeG := by
  unfold SlotElem.special
  dsimp only
  split <;> rfl

theorem SlotElem.specials_modeG (x : SlotElem) (vs : List (Val × Bool)) : (vs.foldl SlotElem.special x).modeG = x.modeG :=
  foldl_keeps SlotElem.modeG _ SlotElem.special_modeG vs x

theorem SlotElem.exact_modeG (x : SlotElem) (vs : List (Val × Bool)) : (x.exact vs).1.modeG = x.modeG := x.specials_modeG vs

theorem SlotElem.group_modeG (x : SlotElem) (vs : List (Val × Bool)) : (x.group vs).modeG = x.modeG := by
  cases vs with
  | nil => rfl
  | cons v vs => exact x.specials_modeG (v :: vs)

theorem seqGroups_modeG (g n : Nat) (vs : List (Val × Bool)) (x : SlotElem) : (seqGroups g n vs x).modeG = x.modeG := by
  induction n generalizing vs x with
  | zero => rfl
  | succ n ih =>
    unfold seqGroups
    split
    · rfl
    · exact (ih _ _).trans (x.group_modeG _)

theorem SlotElem.seqAcc_modeG (x : SlotElem) (vs : List (Val × Bool)) : (x.seqAcc vs).modeG = x.modeG := seqGroups_modeG _ _ vs x

/-- The products of one element (R163). -/
def Feed.products (fd : Feed) (r c : Nat) : List (Val × Bool) := (List.range fd.k).map fun k => Val.mul (fd.a r k).1 (fd.b k c).1

theorem accumulate_modeG (x : SlotElem) (fd : Feed) (r c : Nat) : (accumulate x fd r c).x.modeG = x.modeG := by
  unfold accumulate
  dsimp only
  split
  · exact x.seqAcc_modeG _
  · exact x.exact_modeG _

/-- An element takes its products by its own mode (R92, R100). -/
theorem accumulate_value (x : SlotElem) (fd : Feed) (r c : Nat) :
    ((accumulate x fd r c).x.value, (accumulate x fd r c).x.kcount, (accumulate x fd r c).x.seq) =
      if x.seq then ((x.seqAcc (fd.products r c)).value, (x.seqAcc (fd.products r c)).kcount, true)
      else ((x.exact (fd.products r c)).1.value, (x.exact (fd.products r c)).1.kcount, false) := by
  have hmode : (accumulate x fd r c).x.seq = x.seq := congrArg Prod.fst (accumulate_modeG x fd r c)
  rw [hmode]
  unfold accumulate
  dsimp only
  cases x.seq <;> rfl

/-! ### The execution fault of an instruction -/

theorem State.fault_comb (s : State) (c : CombId) (code addr src : Nat) : (s.fault c code addr src).comb c =
    { s.comb c with seq := (s.comb c).seq.noteFault code addr src } := by
  have hnoted : (s.modSeq c fun q => q.noteFault code addr src).comb c = { s.comb c with seq := (s.comb c).seq.noteFault code addr src } := by
    rw [State.modSeq, State.modComb_comb]
  have habort : ∀ (t : State) (p : Prop) [Decidable p], (if p then t.abortStep else t).comb c = t.comb c := fun t p _ => by
    split <;> rfl
  unfold State.fault
  dsimp only
  rw [habort, ← hnoted]
  split
  · rfl
  · split
    · exact ((State.notice_tells _ _).trans (State.record_tells _ _)).comb c
    · exact (State.notice_tells _ _).comb c

/-- A sequencer when an instruction of queue `k` has ended. -/
def Seq.ended (q : Seq) (k : Fin 4) : Seq := { q with busy := q.busy.set k (q.busy[k] - 1) }

theorem State.execFault_comb (s : State) (c : CombId) (e : QEntry) (k : Fin 4) (code : Nat) : (s.execFault c e k code).comb c =
    { s.comb c with seq := ((s.comb c).seq.ended k).noteFault code e.pc.toNat (k.val + 1) } := by
  rw [State.execFault, State.fault_comb, State.busySub, State.modSeq, State.modComb_comb]
  rfl

theorem Seq.noteFault_frame (q : Seq) (code addr src : Nat) : (q.noteFault code addr src).busy = q.busy ∧
    (q.noteFault code addr src).cnt = q.cnt ∧ (q.noteFault code addr src).qMat = q.qMat := by
  unfold Seq.noteFault
  dsimp only
  split <;> exact ⟨rfl, rfl, rfl⟩

/-- The first fault of a sequencer is recorded (R150). -/
theorem Seq.noteFault_first {q : Seq} (hstall : q.stall ≠ .faulting) (hst : q.st ≠ .faulted) {code addr src : Nat} (hcode : code < 2 ^ 8)
    (haddr : addr < 2 ^ 18) (hsrc : src < 2 ^ 3) : getF (q.noteFault code addr src).fault 0 8 = code ∧
      getF (q.noteFault code addr src).fault 8 18 = addr ∧ getF (q.noteFault code addr src).fault 40 3 = src := by
  have hfault : (q.noteFault code addr src).fault = setF (setF (setF (satF q.fault 48 16 1) 0 8 code) 8 18 addr) 40 3 src := by
    unfold Seq.noteFault
    dsimp only
    rw [if_neg (by simp [hstall, hst])]
  rw [hfault]
  refine ⟨?_, ?_, ?_⟩
  · rw [getF_setF_of_disjoint _ _ (by decide) (by decide), getF_setF_of_disjoint _ _ (by decide) (by decide),
      getF_setF_same _ _ (by decide), Nat.mod_eq_of_lt hcode]
  · rw [getF_setF_of_disjoint _ _ (by decide) (by decide), getF_setF_same _ _ (by decide), Nat.mod_eq_of_lt haddr]
  · rw [getF_setF_same _ _ (by decide), Nat.mod_eq_of_lt hsrc]

/-- An instruction that has left its queue ends at an unpopulated address. -/
theorem State.execFault_addrFaulted {s t : State} {c : CombId} {es : List QEntry}
    (hseq : (t.comb c).seq = { (s.comb c).seq with qMat := es }) (e : QEntry) (k : Fin 4) : s.addrFaulted c e k (t.execFault c e k 3) := by
  rw [State.addrFaulted, State.execFault_comb, hseq]
  let q : Seq := ({ (s.comb c).seq with qMat := es } : Seq).ended k
  obtain ⟨hbusy, hcnt, -⟩ := q.noteFault_frame 3 e.pc.toNat (k.val + 1)
  exact ⟨hbusy, hcnt, fun hstall hst => Seq.noteFault_first (q := q) (code := 3) (src := k.val + 1) hstall hst (by decide) e.pc.isLt (by omega)⟩

/-! ### The part of a comb that an extraction works on -/

/-- Sequencer and array of a comb, and what its extractor has in flight. -/
def Comb.work (k : Comb) : Seq × Mat × List Flight := (k.seq, k.mat, k.ext.run)

theorem State.Keeps.work {s t : State} (h : s.Keeps t) (c : CombId) : (t.comb c).work = (s.comb c).work := (congrArg Comb.work (h.comb c) :)

theorem State.consumeIf_comb (s : State) (b : Bool) (c : CombId) : (s.consumeIf b).comb c = s.comb c := by
  unfold State.consumeIf
  split <;> rfl

theorem State.modExt_work (s : State) (c : CombId) {f : Ext → Ext} (hf : ∀ x, (f x).run = x.run) :
    ((s.modExt c f).comb c).work = (s.comb c).work := by
  rw [State.modExt, State.modComb_comb, Comb.work, hf, Comb.work]

theorem Ext.countAll_run (x : Ext) (k : Fin 4) (f : Fmt) (ds : List Done) : (x.countAll k f ds).run = x.run := by
  refine foldl_keeps Ext.run _ (fun y dn => ?_) ds x
  split <;> rfl

theorem State.setMat_comb (s : State) (c : CombId) (es : List QEntry) :
    (s.setMat c es).comb c = { s.comb c with seq := { (s.comb c).seq with qMat := es } } := by
  rw [State.setMat, State.modSeq, State.modComb_comb]

end Sys2Proof.Machine
end

section
/-!
O13: what the array and the extractor start from the matrix queue (R74, R77, R91, R92, R97, R98, R100, R109, R124, R160, R163).
-/
namespace Sys2Proof.Machine

/-! ### The next instruction of the array and of the extractor -/

section Accept
variable {s : State} {c : CombId} {e : QEntry} {rest : List QEntry} (htest : (s.comb c).testing = false)

theorem exec_arrayAccept_none (hpick : pickArray [] (s.comb c).seq.qMat = none) : exec (.arrayAccept c) s = .next s := by
  change execArrayAccept c s = _
  simp [execArrayAccept, hpick]

theorem exec_extractorAccept_none (hpick : pickMx (s.comb c).mat.slotBusy [] (s.comb c).seq.qMat = none) :
    exec (.extractorAccept c) s = .next s := by
  change execExtractorAccept c s = _
  simp [execExtractorAccept, hpick]

include htest

section Array
variable (hpick : pickArray [] (s.comb c).seq.qMat = some (e, rest))
include hpick

theorem exec_arrayAccept_mshape {shape : BitVec 3} {mode : BitVec 2} (he : e.op = .mshape shape mode) :
    exec (.arrayAccept c) s = .next ((s.setMat c rest).modMat c fun m =>
      { m with shape := shape, mode := mode, run := m.run ++ [{ e := e, cycles := 2 }] }) := by
  change execArrayAccept c s = _
  simp [execArrayAccept, htest, hpick, he]

theorem exec_arrayAccept_mhold {b : Desc} {k0 c0 : Nat} {tb p64 : Bool} (he : e.op = .mhold b k0 c0 tb p64) :
    exec (.arrayAccept c) s = .next ((s.setMat c rest).startMhold c e b k0 c0 tb p64) := by
  change execArrayAccept c s = _
  simp [execArrayAccept, htest, hpick, he]

theorem exec_arrayAccept_mmul {a b : Desc} {slot : Fin 4} {ow seq : Bool} {g : BitVec 2} {auto : Bool} {win : Int} {kc : Nat}
    {ta tb : Bool} {mask : Option W64} (he : e.op = .mmul a b slot ow seq g auto win kc ta tb mask) :
    exec (.arrayAccept c) s = .next ((s.setMat c rest).startMmul c e a b slot ow seq g auto win kc ta tb mask) := by
  change execArrayAccept c s = _
  simp [execArrayAccept, htest, hpick, he]

/-- An instruction that is none of the array's stays where it is. -/
theorem exec_arrayAccept_other (hmmul : ∀ slot a b ow seq g auto win kc ta tb mask, e.op ≠ .mmul a b slot ow seq g auto win kc ta tb mask)
    (hmshape : ∀ shape mode, e.op ≠ .mshape shape mode) (hmhold : ∀ b k0 c0 tb p64, e.op ≠ .mhold b k0 c0 tb p64) :
    exec (.arrayAccept c) s = .next s := by
  change execArrayAccept c s = _
  simp only [execArrayAccept, htest, hpick, Bool.false_eq_true, if_false]
  split
  next h => exact absurd h (hmshape _ _)
  next h => exact absurd h (hmhold _ _ _ _ _)
  next h => exact absurd h (hmmul _ _ _ _ _ _ _ _ _ _ _ _)
  next => rfl

end Array

theorem exec_extractorAccept_mx (hpick : pickMx (s.comb c).mat.slotBusy [] (s.comb c).seq.qMat = some (e, rest)) {shape : BitVec 3}
    {dr : Fin 32} {d : Desc} {slot : Fin 4} {rm : BitVec 3} {cs : Fin 4} {sv bv : Option Desc} {lo hi : W32} {base pitch : W64}
    (he : e.op = .mx shape dr d slot rm cs sv bv lo hi base pitch) : exec (.extractorAccept c) s =
      .next ((s.setMat c rest).startMx c e shape dr d slot rm cs sv bv lo hi base pitch) := by
  change execExtractorAccept c s = _
  simp [execExtractorAccept, htest, hpick, he, State.setMat]

end Accept

/-! ### mhold (R160) -/

/-- A fill that reads open addresses: the shadow banks take the block, and nothing else of the array changes but what is in flight. -/
theorem State.startMhold_comb {s : State} {c : CombId} {b : Desc} {k0 c0 : Nat} {tb p64 : Bool}
    (hopen : s.openRuns ((s.comb c).mholdReads b k0 c0 tb p64) = true) (e : QEntry) :
    ((s.startMhold c e b k0 c0 tb p64).comb c).seq = (s.comb c).seq ∧
      ∃ h : HeldBlock, (h.h, h.k0, h.ceil, h.ceilv) = (if p64 then 64 else 32, k0, b.ceil, b.ceilv) ∧
        ((s.startMhold c e b k0 c0 tb p64).comb c).mat =
          { (s.comb c).mat with shadow := some h, full := false, run := (s.comb c).mat.run ++ [{ e := e, cycles := 36 }] } := by
  have hkeeps := s.touchRuns_keeps ((s.comb c).mholdReads b k0 c0 tb p64)
  unfold State.startMhold
  extract_lets
  rw [if_neg (by simpa using hopen), State.consumeIf_comb, State.modMat, State.modComb_comb, hkeeps.mat]
  exact ⟨hkeeps.seq c, _, rfl, rfl⟩

/-! ### mmul (R163) -/

/-- The array as an mmul finds it: in held feed a block that waits in the shadow banks becomes active (R77). -/
def Mat.swapped (m : Mat) : Mat :=
  if m.mode == 2 && m.shadow.isSome then { m with active := m.shadow, shadow := none, full := false } else m

theorem Mat.swapped_frame (m : Mat) :
    m.swapped.mode = m.mode ∧ m.swapped.shape = m.shape ∧ m.swapped.slots = m.slots ∧ m.swapped.run = m.run := by
  unfold Mat.swapped
  split <;> exact ⟨rfl, rfl, rfl, rfl⟩

/-- Operands of an mmul in streamed feed, as memory holds them once they are read. -/
def State.streamed (s : State) (a b : Desc) (ta tb : Bool) : Feed :=
  { k := a.extK ta, a := fun r i => s.feedVal a (Desc.posK ta i r), b := fun i cc => s.feedVal b (Desc.posK tb i cc) }

/-- W_lo that an overwrite gives its elements in streamed feed (R97, R98). -/
def streamedWlo (a b : Desc) (auto : Bool) (win : Int) (kc : Nat) (ta : Bool) : Int :=
  if auto then autoWlo a.ceil b.ceil a.ceilv b.ceilv (if kc = 0 then a.extK ta else kc) else win

/-- The geometry of a comb is that of its map (R69). -/
theorem Comb.slotKey_of_map {k k' : Comb} (h : k'.map = k.map) (shape : BitVec 3) (slot r c : Nat) :
    k'.slotKey shape slot r c = k.slotKey shape slot r c := by
  simp only [Comb.slotKey, Comb.width, Comb.column, Comb.bypass, h]

section Mmul
variable {s : State} {c : CombId} {a b : Desc} {ta tb : Bool} {mask : Option W64}
  (hopen : s.openRuns ((s.comb c).mmulReads a b ta tb mask) = true)
  (e : QEntry) (slot : Fin 4) (ow seq : Bool) (g : BitVec 2) (auto : Bool) (win : Int) (kc : Nat)
include hopen

/-- An mmul that reads open addresses accumulates its active elements on the comb, whose block may have become active. -/
theorem State.startMmul_comb : ∃ (k : Comb) (fd : Feed) (wlo : Int) (cyc : Nat),
    ((s.startMmul c e a b slot ow seq g auto win kc ta tb mask).comb c) = k.mmul e slot.val ow seq g wlo
      (activeList (a.extX ta) (mmulCols (s.comb c) (s.comb c).mat.mode (s.comb c).mat.shape b tb) mask) fd cyc ∧
    k.seq = (s.comb c).seq ∧ k.map = (s.comb c).map ∧ k.mat = (s.comb c).mat.swapped ∧
    ((s.comb c).mat.mode ≠ 2 → fd = (s.touchRuns ((s.comb c).mmulReads a b ta tb mask)).streamed a b ta tb ∧
      wlo = streamedWlo a b auto win kc ta) := by
  have hkeeps := s.touchRuns_keeps ((s.comb c).mmulReads a b ta tb mask)
  unfold State.startMmul
  extract_lets k0 held _ k kk act rows runs s1 blk p fd cb wlo ate cyc
  have hk : k.mat = (s.comb c).mat.swapped ∧ mmulCols k = mmulCols (s.comb c) := by
    simp only [k, held, Mat.swapped]
    split <;> exact ⟨rfl, rfl⟩
  obtain ⟨hmode, hshape, -, -⟩ := (s.comb c).mat.swapped_frame
  have hact : act = activeList (a.extX ta) (mmulCols (s.comb c) (s.comb c).mat.mode (s.comb c).mat.shape b tb) mask := by
    simp only [act, hk.1, hk.2, hmode, hshape]
  rw [if_neg (by simpa using hopen), State.consumeIf_comb, State.modComb_comb, hact]
  refine ⟨_, fd, wlo, cyc, rfl, hkeeps.seq c, hkeeps.map c, hk.1, fun hstreamed => ?_⟩
  have hheld : held = false := by simpa [held] using hstreamed
  refine ⟨?_, ?_⟩
  · simp only [fd, hheld]
    rfl
  · simp only [wlo, cb, hheld]
    rfl

end Mmul

section Outs
variable (k : Comb) (e : QEntry) (slot : Nat) (ow seq : Bool) (g : BitVec 2) (wlo : Int) (act : List (Nat × Nat)) (fd : Feed) (cyc : Nat)

/-- The element that an mmul begins with: a fresh one, or what stood there (R97, R105). -/
def Comb.begun (rc : Nat × Nat) : SlotElem :=
  if ow then SlotElem.fresh seq g wlo else k.mat.elem (k.slotKey k.mat.shape slot rc.1 rc.2)

/-- The slots after an mmul: each active element takes its products. -/
theorem Comb.mmul_slots : (k.mmul e slot ow seq g wlo act fd cyc).mat.slots =
    act.foldl (fun l rc => Sparse.set {} l (k.slotKey k.mat.shape slot rc.1 rc.2)
      (accumulate (k.begun slot ow seq g wlo rc) fd rc.1 rc.2).x) k.mat.slots :=
  List.foldl_map

theorem Comb.mmul_run : ∃ fl : Flight, (k.mmul e slot ow seq g wlo act fd cyc).mat.run = k.mat.run ++ [fl] ∧ fl.e = e := ⟨_, rfl, rfl⟩

theorem Comb.mmul_qMat : (k.mmul e slot ow seq g wlo act fd cyc).seq.qMat = k.seq.qMat := rfl

end Outs

/-! #### The elements after an mmul

`k0` is the comb as the mmul finds it, `k` the same once the held block is active and the operands are read. -/

section Elements
variable {k0 k : Comb} (hmap : k.map = k0.map) (hmat : k.mat = k0.mat.swapped)
  {a b : Desc} {slot : Nat} {ta tb : Bool} {mask : Option W64} (e : QEntry) (ow seq : Bool) (g : BitVec 2) (wlo : Int) (fd : Feed) (cyc : Nat)
include hmap hmat

theorem Comb.slotKey_swapped (rc : Nat × Nat) : k.slotKey k.mat.shape slot rc.1 rc.2 = k0.slotKey k0.mat.shape slot rc.1 rc.2 := by
  rw [Comb.slotKey_of_map hmap, hmat, k0.mat.swapped_frame.2.1]

theorem Comb.begun_swapped (rc : Nat × Nat) : k.begun slot ow seq g wlo rc = k0.begun slot ow seq g wlo rc := by
  rw [Comb.begun, Comb.slotKey_swapped hmap hmat, Mat.elem, hmat, k0.mat.swapped_frame.2.2.1]
  rfl

/-- The slots after an mmul, in terms of the comb as it found it. -/
theorem Comb.mmul_elem (act : List (Nat × Nat)) (key : Nat) : (k.mmul e slot ow seq g wlo act fd cyc).mat.elem key =
    Sparse.get {} (act.foldl (fun l rc => Sparse.set {} l (k0.slotKey k0.mat.shape slot rc.1 rc.2)
      (accumulate (k0.begun slot ow seq g wlo rc) fd rc.1 rc.2).x) k0.mat.slots) key := by
  rw [Mat.elem, Comb.mmul_slots]
  simp only [Comb.slotKey_swapped hmap hmat, Comb.begun_swapped hmap hmat]
  rw [hmat, k0.mat.swapped_frame.2.2.1]

section Active
variable {act : List (Nat × Nat)}

theorem Comb.mmul_elem_other {key : Nat} (hkey : key ∉ act.map fun rc => k0.slotKey k0.mat.shape slot rc.1 rc.2) :
    (k.mmul e slot ow seq g wlo act fd cyc).mat.elem key = k0.mat.elem key :=
  (Comb.mmul_elem hmap hmat e ow seq g wlo fd cyc act key).trans (Sparse.get_foldl_set_other _ _ _ _ hkey)

/-- An overwrite in SEQ mode leaves each element in that mode with its G (R97). -/
theorem Comb.mmul_elem_overwritten {key : Nat} (hkey : key ∈ act.map fun rc => k0.slotKey k0.mat.shape slot rc.1 rc.2) :
    ((k.mmul e slot true true g wlo act fd cyc).mat.elem key).modeG = (true, g) := by
  have hmode : ∀ rc : Nat × Nat, (accumulate (k0.begun slot true true g wlo rc) fd rc.1 rc.2).x.modeG = (true, g) :=
    fun rc => accumulate_modeG _ fd rc.1 rc.2
  have hne : ∀ rc : Nat × Nat, (accumulate (k0.begun slot true true g wlo rc) fd rc.1 rc.2).x ≠ {} := fun rc h =>
    Bool.noConfusion (congrArg Prod.fst ((hmode rc).symm.trans (congrArg SlotElem.modeG h)) : true = false)
  obtain ⟨rc, -, -, hget⟩ := Sparse.get_foldl_set_mem (d := ({} : SlotElem)) (fun rc : Nat × Nat => k0.slotKey k0.mat.shape slot rc.1 rc.2)
    (fun rc => (accumulate (k0.begun slot true true g wlo rc) fd rc.1 rc.2).x) act (m := k0.mat.slots) hkey (.inr fun rc _ => hne rc)
  rw [Comb.mmul_elem hmap hmat, hget, hmode]

/-- An element that is active once takes its products (R92, R100). -/
theorem Comb.mmul_elem_active (hwf : Sparse.wf {} k0.mat.slots = true)
    (hnodup : (act.map fun rc => k0.slotKey k0.mat.shape slot rc.1 rc.2).Nodup) {rc : Nat × Nat} (hrc : rc ∈ act) :
    (k.mmul e slot ow seq g wlo act fd cyc).mat.elem (k0.slotKey k0.mat.shape slot rc.1 rc.2) =
      (accumulate (k0.begun slot ow seq g wlo rc) fd rc.1 rc.2).x :=
  (Comb.mmul_elem hmap hmat e ow seq g wlo fd cyc act _).trans
    (Sparse.get_foldl_set_nodup (fun rc : Nat × Nat => k0.slotKey k0.mat.shape slot rc.1 rc.2) _ hnodup hwf hrc)

end Active

end Elements

/-! ### mx (R165) -/

/-- Everything that an mx touches stands at open addresses. -/
def State.mxOpen (s : State) (c : CombId) (shape : BitVec 3) (d : Desc) (sv bv : Option Desc) : Prop :=
  s.openRuns ((s.comb c).mxReads shape d sv bv) = true ∧
    ∀ r x, r < min d.s1 (shapeM shape) → x < min d.s0 ((s.comb c).shapeN shape) → s.posOpen d ⟨x, r, 0, 0⟩ = true

theorem State.cut_open (s : State) {ok : List Bool} (h : ∀ b ∈ ok, b = true) : s.cut ok = (none, s) :=
  if_pos (List.all_eq_true.2 h)

theorem convertAll_nil (d : Desc) (rm : BitVec 3) (seed : W64) : convertAll d rm seed [] = ([], []) := by
  unfold convertAll
  split
  next h => rw [convertBlock, if_pos h]; rfl
  next => rfl

theorem State.convRuns_nil (s : State) (d : Desc) : (s.convRuns d [] []).1 = [] := rfl

theorem cutTake_nil {α : Type} (cut : Option Nat) : cutTake cut ([] : List α) = [] := by
  cases cut <;> simp [cutTake]

/-- An mx starts, and its flight is new in the extractor; or it ends at an unpopulated address with a part of its elements written. -/
theorem State.startMx_outcome (s : State) (c : CombId) (e : QEntry) (shape : BitVec 3) (dr : Fin 32) (d : Desc) (slot : Fin 4) (rm : BitVec 3)
    (cs : Fin 4) (sv bv : Option Desc) (lo hi : W32) (base pitch : W64) :
    ∃ (t : State) (fl : Flight), (t.comb c).work = (s.comb c).work ∧ fl.e = e ∧ ((d.s0 = 0 ∨ d.s1 = 0) → fl.writes = []) ∧
      (s.startMx c e shape dr d slot rm cs sv bv lo hi base pitch = (t.modExt c fun x => { x with run := x.run ++ [fl] }) ∨
        ¬ s.mxOpen c shape d sv bv ∧ s.startMx c e shape dr d slot rm cs sv bv lo hi base pitch = t.execFault c e 0 3) := by
  unfold State.startMx
  lift_lets
  extract_lets k rows cols runs s1 lf raw res slow
  by_cases hruns : s.openRuns runs = true
  case neg =>
    rw [if_pos (by simpa using hruns)]
    exact ⟨s, { e := e }, rfl, rfl, fun _ => rfl, .inr ⟨fun h => hruns h.1, rfl⟩⟩
  rw [if_neg (by simpa using hruns)]
  have h1 : s.Keeps s1 := s.touchRuns_keeps runs
  have hpos : ∀ x ∈ raw, ∃ r cc, r < rows ∧ cc < cols ∧ x.1.pos = ⟨cc, r, 0, 0⟩ := by
    intro x hx
    obtain ⟨r, hr, hx⟩ := List.mem_flatMap.1 hx
    obtain ⟨cc, hcc, rfl⟩ := List.mem_map.1 hx
    exact ⟨r, cc, List.mem_range.1 hr, List.mem_range.1 hcc, rfl⟩
  have hopen : s.mxOpen c shape d sv bv → s1.cut (raw.map fun x => s1.posOpen d x.1.pos) = (none, s1) := by
    rintro ⟨-, hopen⟩
    refine State.cut_open s1 fun b hb => ?_
    obtain ⟨x, hx, rfl⟩ := List.mem_map.1 hb
    obtain ⟨r, cc, hr, hcc, hp⟩ := hpos x hx
    rw [hp, State.posOpen_of_bounds (s.touchRuns_bounds runs)]
    exact hopen r cc hr hcc
  have hempty : (d.s0 = 0 ∨ d.s1 = 0) → raw = [] := by
    intro h0
    refine List.eq_nil_iff_forall_not_mem.2 fun x hx => ?_
    obtain ⟨r, cc, hr, hcc, -⟩ := hpos x hx
    omega
  have h2 := h1.trans (s1.cut_keeps (raw.map fun x => s1.posOpen d x.1.pos))
  clear_value raw
  generalize s1.cut (raw.map fun x => s1.posOpen d x.1.pos) = r at hopen h2
  obtain ⟨cut, s2⟩ := r
  dsimp only at hopen h2 ⊢
  have hcounted : ∀ (f : Ext → Ext) (b : Bool), (∀ x, (f x).run = x.run) → (((s2.modExt c f).consumeIf b).comb c).work = (s.comb c).work :=
    fun f b hf => by rw [State.consumeIf_comb, State.modExt_work s2 c hf, h2.work]
  split
  next hcut =>
    refine ⟨_, { e := e }, ?_, rfl, fun _ => rfl, .inr ⟨fun h => ?_, rfl⟩⟩
    · rw [((State.putRuns_keeps _ _).trans (State.poisonList_keeps _ _)).work]
      exact hcounted _ _ fun x => x.countAll_run cs d.fmt _
    · rw [(Prod.mk.inj (hopen h)).1] at hcut
      cases hcut
  next =>
    refine ⟨_, _, ?_, ?_, fun h0 => ?_, .inl rfl⟩
    · exact hcounted _ _ fun x => x.countAll_run cs d.fmt _
    · rfl
    · simp only [res, hempty h0, List.map_nil, convertAll_nil, cutTake_nil, State.convRuns_nil]

/-! ### The clauses of O13 -/

section Clauses
variable {s : State} {c : CombId} {e : QEntry} {es : List QEntry}

theorem onlyComb_modMat_setMat (s : State) (c : CombId) (es : List QEntry) (f : Mat → Mat) : s.onlyComb c ((s.setMat c es).modMat c f) := by
  simp [State.onlyComb, State.setMat, State.modMat, State.modSeq, State.modComb, State.comb, Vector.set_set]

section Array
variable (htest : (s.comb c).testing = false) {rest : List QEntry} (hpick : pickArray [] (s.comb c).seq.qMat = some (e, rest))
include htest hpick

theorem arrayAccept_mshape {shape : BitVec 3} {mode : BitVec 2} (he : e.op = .mshape shape mode) :
    ∃ t, exec (.arrayAccept c) s = .next t ∧ s.onlyComb c t ∧ (t.comb c).seq = { (s.comb c).seq with qMat := rest } ∧
      ((t.comb c).mat.shape, (t.comb c).mat.mode) = (shape, mode) ∧ (t.comb c).mat.slots = (s.comb c).mat.slots ∧
      (t.comb c).mat.run = (s.comb c).mat.run ++ [{ e := e, cycles := 2 }] := by
  refine ⟨_, exec_arrayAccept_mshape htest hpick he, onlyComb_modMat_setMat s c rest _, ?_⟩
  rw [State.modMat, State.modComb_comb, State.setMat_comb]
  exact ⟨rfl, rfl, rfl, rfl⟩

theorem arrayAccept_mhold {b : Desc} {k0 c0 : Nat} {tb p64 : Bool} (he : e.op = .mhold b k0 c0 tb p64)
    (hopen : s.openRuns ((s.comb c).mholdReads b k0 c0 tb p64) = true) :
    ∃ t h, exec (.arrayAccept c) s = .next t ∧ (t.comb c).seq = { (s.comb c).seq with qMat := rest } ∧
      (t.comb c).mat.shadow = some h ∧ (h.h, h.k0, h.ceil, h.ceilv) = (if p64 then 64 else 32, k0, b.ceil, b.ceilv) ∧
      (t.comb c).mat.full = false ∧ (t.comb c).mat.active = (s.comb c).mat.active ∧ (t.comb c).mat.slots = (s.comb c).mat.slots ∧
      (t.comb c).mat.run = (s.comb c).mat.run ++ [{ e := e, cycles := 36 }] := by
  have hcomb := s.setMat_comb c rest
  have hopen' : (s.setMat c rest).openRuns (((s.setMat c rest).comb c).mholdReads b k0 c0 tb p64) = true := by
    rw [hcomb]
    exact hopen
  obtain ⟨hseq, h, hfields, hmat⟩ := State.startMhold_comb hopen' e
  refine ⟨_, h, exec_arrayAccept_mhold htest hpick he, ?_⟩
  rw [hseq, hmat, hcomb]
  exact ⟨rfl, rfl, hfields, rfl, rfl, rfl, rfl⟩

section Mmul
variable {a b : Desc} {slot : Fin 4} {ow seq : Bool} {g : BitVec 2} {auto : Bool} {win : Int} {kc : Nat} {ta tb : Bool} {mask : Option W64}
  (he : e.op = .mmul a b slot ow seq g auto win kc ta tb mask) (hopen : s.openRuns ((s.comb c).mmulReads a b ta tb mask) = true)
include he hopen

/-- The comb after the start of an mmul (`State.startMmul_comb` behind the queue's change). -/
theorem arrayAccept_mmul_comb : ∃ (t : State) (k : Comb) (fd : Feed) (wlo : Int) (cyc : Nat), exec (.arrayAccept c) s = .next t ∧
    t.comb c = k.mmul e slot.val ow seq g wlo
      (activeList (a.extX ta) (mmulCols (s.comb c) (s.comb c).mat.mode (s.comb c).mat.shape b tb) mask) fd cyc ∧
    k.seq = { (s.comb c).seq with qMat := rest } ∧ k.map = (s.comb c).map ∧ k.mat = (s.comb c).mat.swapped ∧
    ((s.comb c).mat.mode ≠ 2 → fd = ((s.setMat c rest).touchRuns ((s.comb c).mmulReads a b ta tb mask)).streamed a b ta tb ∧
      wlo = streamedWlo a b auto win kc ta) := by
  have hcomb := s.setMat_comb c rest
  have hopen' : (s.setMat c rest).openRuns (((s.setMat c rest).comb c).mmulReads a b ta tb mask) = true := by
    rw [hcomb]
    exact hopen
  have hstart := State.startMmul_comb hopen' e slot ow seq g auto win kc
  rw [hcomb] at hstart
  obtain ⟨k, fd, wlo, cyc, hk, hseq, hmap, hmat, hstreamed⟩ := hstart
  exact ⟨_, k, fd, wlo, cyc, exec_arrayAccept_mmul htest hpick he, hk, hseq, hmap, hmat, hstreamed⟩

/-- An mmul that the array takes out of the queue, with what it leaves in the slots (R92, R97, R100). -/
theorem arrayAccept_mmul : let k := s.comb c
    let keys := mmulKeys k k.mat.mode k.mat.shape a b slot.val ta tb mask
    ∃ (t : State) (fl : Flight), exec (.arrayAccept c) s = .next t ∧ (t.comb c).seq.qMat = rest ∧ (t.comb c).mat.run = k.mat.run ++ [fl] ∧
      fl.e = e ∧ (∀ key, key ∉ keys → (t.comb c).mat.elem key = k.mat.elem key) ∧
      (ow = true → seq = true → ∀ key, key ∈ keys → ((t.comb c).mat.elem key).seq = true ∧ ((t.comb c).mat.elem key).g = g) ∧
      (k.mat.mode ≠ 2 → Sparse.wf {} k.mat.slots = true → keys.Nodup →
        let u := (s.setMat c rest).touchRuns (k.mmulReads a b ta tb mask)
        ∀ rc ∈ activeList (a.extX ta) (b.extX tb) mask,
          let y := (t.comb c).mat.elem (k.slotKey k.mat.shape slot.val rc.1 rc.2)
          let x := k.begun slot.val ow seq g (streamedWlo a b auto win kc ta) rc
          let prods := (u.streamed a b ta tb).products rc.1 rc.2
          (y.value, y.kcount, y.seq) = if x.seq then ((x.seqAcc prods).value, (x.seqAcc prods).kcount, true)
            else ((x.exact prods).1.value, (x.exact prods).1.kcount, false)) ∧
      (k.mat.mode = 2 → k.mat.shadow.isSome = true →
        (t.comb c).mat.active = k.mat.shadow ∧ (t.comb c).mat.shadow = none ∧ (t.comb c).mat.full = false) := by
  obtain ⟨t, k, fd, wlo, cyc, ht, hk, hseq, hmap, hmat, hstreamed⟩ := arrayAccept_mmul_comb htest hpick he hopen
  obtain ⟨fl, hrun, hfl⟩ := k.mmul_run e slot.val ow seq g wlo
    (activeList (a.extX ta) (mmulCols (s.comb c) (s.comb c).mat.mode (s.comb c).mat.shape b tb) mask) fd cyc
  refine ⟨t, fl, ht, ?_, ?_, hfl, fun key hkey => ?_, ?_, ?_, fun hmode hshadow => ?_⟩
  · rw [hk, Comb.mmul_qMat, hseq]
  · rw [hk, hrun, hmat, (s.comb c).mat.swapped_frame.2.2.2]
  · rw [hk]
    exact Comb.mmul_elem_other hmap hmat e ow seq g wlo fd cyc hkey
  · rintro rfl rfl key hkey
    rw [hk]
    exact Prod.mk.inj (Comb.mmul_elem_overwritten hmap hmat e g wlo fd cyc hkey)
  · intro hmode hwf hnodup u rc hrc
    obtain ⟨rfl, rfl⟩ := hstreamed hmode
    have hcols : mmulCols (s.comb c) (s.comb c).mat.mode (s.comb c).mat.shape b tb = b.extX tb := if_neg hmode
    rw [← hcols] at hrc
    rw [hk, Comb.mmul_elem_active hmap hmat e ow seq g _ _ cyc hwf hnodup hrc]
    exact accumulate_value _ _ _ _
  · have hswapped : k.mat = { (s.comb c).mat with active := (s.comb c).mat.shadow, shadow := none, full := false } := by
      rw [hmat, Mat.swapped, if_pos (by simp [hmode, hshadow])]
    rw [hk]
    exact ⟨congrArg Mat.active hswapped, congrArg Mat.shadow hswapped, congrArg Mat.full hswapped⟩

end Mmul

end Array

/-! #### mx -/

/-- The extractor has started the mx `e`: its flight is the newest. -/
def State.mxRan (s : State) (c : CombId) (e : QEntry) (es : List QEntry) (d : Desc) (t : State) : Prop :=
  ∃ fl : Flight, (t.comb c).ext.run = (s.comb c).ext.run ++ [fl] ∧ fl.e = e ∧ (t.comb c).seq = { (s.comb c).seq with qMat := es } ∧
    ((d.s0 = 0 ∨ d.s1 = 0) → fl.writes = [])

section Mx
variable (htest : (s.comb c).testing = false) (hpick : pickMx (s.comb c).mat.slotBusy [] (s.comb c).seq.qMat = some (e, es))
  {shape : BitVec 3} {dr : Fin 32} {d : Desc} {slot : Fin 4} {rm : BitVec 3} {cs : Fin 4} {sv bv : Option Desc} {lo hi : W32}
  {base pitch : W64} (he : e.op = .mx shape dr d slot rm cs sv bv lo hi base pitch)
include htest hpick he

/-- An mx that the extractor takes out of the queue starts, or ends at an unpopulated address (R124, R149). -/
theorem extractorAccept_mx : ∃ t, exec (.extractorAccept c) s = .next t ∧ (t.comb c).seq.qMat = es ∧ (t.comb c).mat = (s.comb c).mat ∧
    (s.mxRan c e es d t ∨ ¬ s.mxOpen c shape d sv bv ∧ (t.comb c).ext.run = (s.comb c).ext.run ∧ s.addrFaulted c e 0 t) := by
  obtain ⟨t, fl, hwork, hfl, hempty, hstart⟩ := (s.setMat c es).startMx_outcome c e shape dr d slot rm cs sv bv lo hi base pitch
  rw [State.setMat_comb] at hwork
  obtain ⟨hseq, hmat, hrun⟩ : (t.comb c).seq = { (s.comb c).seq with qMat := es } ∧ (t.comb c).mat = (s.comb c).mat ∧
      (t.comb c).ext.run = (s.comb c).ext.run :=
    ⟨congrArg Prod.fst hwork, congrArg (fun x => x.2.1) hwork, congrArg (fun x => x.2.2) hwork⟩
  refine ⟨_, exec_extractorAccept_mx htest hpick he, ?_⟩
  rcases hstart with hstart | ⟨hclosed, hstart⟩
  · have hcomb : ((t.modExt c fun x => { x with run := x.run ++ [fl] }).comb c) =
        { t.comb c with ext := { (t.comb c).ext with run := (t.comb c).ext.run ++ [fl] } } := by
      rw [State.modExt, State.modComb_comb]
    rw [hstart, State.mxRan, hcomb]
    exact ⟨congrArg Seq.qMat hseq, hmat, .inl ⟨fl, congrArg (· ++ [fl]) hrun, hfl, hseq, hempty⟩⟩
  · have hqueue := (((t.comb c).seq.ended 0).noteFault_frame 3 e.pc.toNat 1).2.2
    rw [hstart]
    refine ⟨?_, ?_, .inr ⟨fun hopen => hclosed ?_, ?_, State.execFault_addrFaulted hseq e 0⟩⟩
    · rw [State.execFault_comb]
      exact hqueue.trans (congrArg Seq.qMat hseq)
    · rw [State.execFault_comb]
      exact hmat
    · rw [State.mxOpen, State.setMat_comb]
      exact hopen
    · rw [State.execFault_comb]
      exact hrun

end Mx

end Clauses

/-! ### O13 -/

/-- Settles O13: what is next for the array and for the extractor, and for each kind of instruction what its start leaves. -/
theorem matrixStarts : Obligations.MatrixStarts := by
  intro s c e es hq htest k
  refine ⟨fun shape mode he => ?_, fun b k0 c0 tb p64 he hopen => ?_, fun a b slot ow seq g auto win kc ta tb mask he hopen => ?_,
    fun shape dr d slot rm cs sv bv lo hi base pitch he => ?_, fun hes hmmul hmshape hmhold => ?_⟩
  · exact arrayAccept_mshape htest (by simp [hq, pickArray, he]) he
  · exact arrayAccept_mhold htest (by simp [hq, pickArray, he]) he hopen
  · exact arrayAccept_mmul htest (by simp [hq, pickArray, he]) he hopen
  · intro ran
    have hpick : k.mat.slotBusy slot = false → pickMx k.mat.slotBusy [] k.seq.qMat = some (e, es) := fun hfree => by
      simp [k, hq, pickMx, he, hfree]
    refine ⟨fun hbusy hes => ?_, fun hfree hruns hpos => ?_, fun hfree => ?_,
      fun e2 es2 a b slot2 ow seq g auto win kc ta tb mask hes he2 => ⟨fun hslot hopen => ?_, fun hslot hes2 => ?_⟩⟩
    · exact exec_extractorAccept_none (by simp [hq, hes, pickMx, he, show (s.comb c).mat.slotBusy slot = true from hbusy])
    · obtain ⟨t, ht, -, hmat, hran | ⟨hclosed, -⟩⟩ := extractorAccept_mx htest (hpick hfree) he
      · exact ⟨t, ht, hmat, hran⟩
      · exact absurd ⟨hruns, hpos⟩ hclosed
    · obtain ⟨t, ht, hqueue, hmat, hran | ⟨-, hrun, hfaulted⟩⟩ := extractorAccept_mx htest (hpick hfree) he
      · exact ⟨t, ht, hqueue, hmat, .inr hran⟩
      · exact ⟨t, ht, hqueue, hmat, .inl ⟨hrun, hfaulted⟩⟩
    · obtain ⟨t, fl, ht, hqueue, hrun, hfl, -⟩ := arrayAccept_mmul htest (rest := e :: es2)
        (by simp [hq, hes, pickArray, he, he2, hslot]) he2 hopen
      exact ⟨t, fl, ht, hqueue, hrun, hfl⟩
    · exact exec_arrayAccept_none (by simp [hq, hes, pickArray, he, he2, hslot])
  · subst hes
    cases hop : e.op with
    | mx => exact exec_arrayAccept_none (by simp [hq, pickArray, hop])
    | mmul a b slot ow seq g auto win kc ta tb mask => exact absurd hop (hmmul _ _ _ _ _ _ _ _ _ _ _ _)
    | _ => exact exec_arrayAccept_other htest (by simp [hq, pickArray, hop]; rfl) hmmul hmshape hmhold

end Sys2Proof.Machine
end

section
/-!
O17: the sums of an EXACT element (R92 to R94). VALUE adds the aligned products modulo 2^96, and what falls off is 2^96 times the count
of wraps; the special-value flags are ORed (R107), so that the order of the products does not matter to them.
-/
namespace Sys2Proof.Machine

/-! ### Two's complement -/

theorem signed_eq_toInt (n v : Nat) : signed n v = (BitVec.ofNat n v).toInt := by
  have hhalf : v % 2 ^ n < 2 ^ (n - 1) ↔ 2 * (v % 2 ^ n) < 2 ^ n := by
    cases n with
    | zero => simp [Nat.mod_one]
    | succ n => rw [Nat.pow_succ, Nat.add_sub_cancel]; omega
  rw [BitVec.toInt_eq_toNat_cond, BitVec.toNat_ofNat, signed]
  simp only [hhalf]

theorem ofNat_unsigned (n : Nat) (i : Int) : BitVec.ofNat n (unsigned n i) = BitVec.ofInt n i := by
  rw [unsigned, ← BitVec.toNat_ofInt, BitVec.ofNat_toNat, BitVec.setWidth_eq]

theorem SlotElem.int_eq_toInt (x : SlotElem) : x.int = x.value.toInt := by
  rw [SlotElem.int, signed_eq_toInt, BitVec.ofNat_toNat, BitVec.setWidth_eq]

/-! ### The special-value flags (R106, R107) -/

/-- Every flag is ORed with what the product brings. -/
theorem SlotElem.special_eq (x : SlotElem) (v : Val × Bool) :
    x.special v = { x with
      nan := x.nan || decide (v.1 = .nan), pinf := x.pinf || decide (v.1 = .inf false), ninf := x.ninf || decide (v.1 = .inf true)
      inv := x.inv || v.2 || (x.pinf || decide (v.1 = .inf false)) && (x.ninf || decide (v.1 = .inf true)) } := by
  obtain ⟨v, inv⟩ := v
  cases v with
  | inf neg => cases neg <;> simp [SlotElem.special]
  | _ => simp [SlotElem.special]

/-- INV after two products looks at the infinities of both, whichever comes first. -/
theorem SlotElem.special_comm (x : SlotElem) (v w : Val × Bool) : (x.special v).special w = (x.special w).special v := by
  simp only [SlotElem.special_eq, SlotElem.mk.injEq, true_and, and_true]
  refine ⟨Bool.or_right_comm .., Bool.or_right_comm .., Bool.or_right_comm .., ?_⟩
  grind

theorem SlotElem.specials_perm (x : SlotElem) {vs ws : List (Val × Bool)} (h : vs.Perm ws) :
    vs.foldl SlotElem.special x = ws.foldl SlotElem.special x :=
  h.foldl_eq' (fun v _ w _ y => y.special_comm v w) x

theorem SlotElem.specials_wlo (x : SlotElem) (vs : List (Val × Bool)) : (vs.foldl SlotElem.special x).wlo = x.wlo :=
  foldl_keeps SlotElem.wlo _ (fun y v => by rw [SlotElem.special_eq]) vs x

theorem SlotElem.specials_ovf (x : SlotElem) (vs : List (Val × Bool)) : (vs.foldl SlotElem.special x).ovf = x.ovf :=
  foldl_keeps SlotElem.ovf _ (fun y v => by rw [SlotElem.special_eq]) vs x

/-! ### The sum -/

/-- The exact sum of the aligned products (Σa of R94). -/
def SlotElem.aligned (x : SlotElem) (vs : List (Val × Bool)) : Int := (vs.map fun v => (alignTo x.lo v.1).1).sum

/-- How often, with its sign, the sum leaves the 96 bits. -/
def SlotElem.wraps (x : SlotElem) (vs : List (Val × Bool)) : Int := (x.int + x.aligned vs - (x.exact vs).1.int) / 2 ^ 96

section Exact
variable (x : SlotElem) (vs ws : List (Val × Bool))

theorem SlotElem.aligned_fold : (vs.map fun v => alignTo x.lo v.1).foldl (fun t a => t + a.1) 0 = x.aligned vs := by
  rw [SlotElem.aligned, List.sum_eq_foldl, List.foldl_map, List.foldl_map]

theorem SlotElem.exact_lo : (x.exact vs).1.lo = x.lo := congrArg (fun w : BitVec 10 => signed 10 w.toNat) (x.specials_wlo vs)

theorem SlotElem.exact_aligned : (x.exact vs).1.aligned ws = x.aligned ws := by
  rw [SlotElem.aligned, SlotElem.exact_lo, SlotElem.aligned]

theorem SlotElem.aligned_append : x.aligned (vs ++ ws) = x.aligned vs + x.aligned ws := by
  rw [SlotElem.aligned, List.map_append, List.sum_append, SlotElem.aligned, SlotElem.aligned]

/-- VALUE takes the sum modulo 2^96. -/
theorem SlotElem.exact_value : (x.exact vs).1.value = x.value + BitVec.ofInt 96 (x.aligned vs) := by
  rw [SlotElem.exact, SlotElem.aligned_fold]
  dsimp only
  rw [ofNat_unsigned, BitVec.ofInt_add, SlotElem.int_eq_toInt, BitVec.ofInt_toInt]

theorem SlotElem.exact_int : (x.exact vs).1.int = (x.int + x.aligned vs).bmod (2 ^ 96) := by
  rw [SlotElem.int_eq_toInt, SlotElem.exact_value, BitVec.toInt_add, BitVec.toInt_ofInt, Int.add_bmod_bmod, SlotElem.int_eq_toInt]

theorem SlotElem.add_aligned : x.int + x.aligned vs = (x.exact vs).1.int + 2 ^ 96 * x.wraps vs := by
  have hdvd : (2 ^ 96 : Int) ∣ x.int + x.aligned vs - (x.exact vs).1.int := by
    rw [SlotElem.exact_int]
    exact Int.dvd_self_sub_bmod
  rw [SlotElem.wraps, Int.mul_ediv_cancel' hdvd]
  ring

theorem SlotElem.exact_kcount : (x.exact vs).1.kcount.toNat = min (x.kcount.toNat + vs.length) (2 ^ 32 - 1) := by
  rw [SlotElem.exact]
  dsimp only
  rw [BitVec.toNat_ofNat]
  omega

theorem SlotElem.wraps_eq :
    (x.int + x.aligned vs - signed 96 (unsigned 96 (x.int + x.aligned vs))) / (2 ^ 96 : Nat) = x.wraps vs := by
  rw [SlotElem.wraps, SlotElem.exact_int, signed_eq_toInt, ofNat_unsigned, BitVec.toInt_ofInt]
  rfl

theorem SlotElem.exact_wrap : ((x.exact vs).1.wrap.toNat : Int) = (x.wrap.toNat + x.wraps vs) % 127 := by
  rw [SlotElem.exact, SlotElem.aligned_fold]
  dsimp only
  rw [SlotElem.wraps_eq, BitVec.toNat_ofNat]
  omega

theorem SlotElem.exact_res : ((x.exact vs).1.res.toNat : Int) = (x.res.toNat + x.aligned vs) % 127 := by
  rw [SlotElem.exact, SlotElem.aligned_fold]
  dsimp only
  rw [BitVec.toNat_ofNat]
  omega

/-- OVF is set by an overflowed product, by KCOUNT past 2^31 and by a wrap (R93, R94). -/
theorem SlotElem.exact_ovf : (x.exact vs).1.ovf = (x.ovf || decide (((vs.map fun v => alignTo x.lo v.1).filter (·.2.2)).length ≠ 0) ||
    decide ((x.exact vs).1.kcount.toNat > 2 ^ 31) || decide (x.wraps vs ≠ 0)) := by
  rw [SlotElem.exact_kcount, SlotElem.exact, SlotElem.aligned_fold]
  dsimp only
  rw [SlotElem.wraps_eq, SlotElem.specials_ovf]
  rfl

theorem SlotElem.exact_perm {vs ws : List (Val × Bool)} (h : vs.Perm ws) : x.exact vs = x.exact ws := by
  have hal : (vs.map fun v => alignTo x.lo v.1).Perm (ws.map fun v => alignTo x.lo v.1) := h.map _
  have hsum : x.aligned vs = x.aligned ws := (h.map _).sum_eq
  simp only [SlotElem.exact, SlotElem.aligned_fold, hsum, h.length_eq, x.specials_perm h, (hal.filter _).length_eq]

theorem SlotElem.exact_append : ((x.exact vs).1.exact ws).1.value = (x.exact (vs ++ ws)).1.value ∧
    ((x.exact vs).1.exact ws).1.kcount = (x.exact (vs ++ ws)).1.kcount := by
  constructor
  · rw [SlotElem.exact_value, SlotElem.exact_value, SlotElem.exact_value, SlotElem.exact_aligned, SlotElem.aligned_append,
      BitVec.ofInt_add, BitVec.add_assoc]
  · apply BitVec.eq_of_toNat_eq
    rw [SlotElem.exact_kcount, SlotElem.exact_kcount, SlotElem.exact_kcount, List.length_append]
    omega

/-- The residue lane: a wrap takes 2^96 from VALUE, and 2^96 ≡ 32 modulo 127. -/
theorem SlotElem.exact_residue (h : (x.int + 32 * x.wrap.toNat - x.res.toNat) % 127 = 0) :
    ((x.exact vs).1.int + 32 * (x.exact vs).1.wrap.toNat - (x.exact vs).1.res.toNat) % 127 = 0 := by
  have hsum := x.add_aligned vs
  rw [SlotElem.exact_wrap, SlotElem.exact_res]
  omega

end Exact

/-! ### Chains that do not overflow -/

/-- The floor of a magnitude below 2^64 units. -/
theorem floor_lt_two_pow {m : Nat} {e wlo : Int} (h : (Nat.log2 m : Int) + e < wlo + 64) :
    (if 0 ≤ e - wlo then m * 2 ^ (e - wlo).toNat else m / 2 ^ (wlo - e).toNat) < 2 ^ 64 := by
  have hm : m < 2 ^ (Nat.log2 m + 1) := Nat.lt_log2_self
  split
  · calc m * 2 ^ (e - wlo).toNat < 2 ^ (Nat.log2 m + 1) * 2 ^ (e - wlo).toNat := Nat.mul_lt_mul_of_pos_right hm (Nat.two_pow_pos _)
      _ = 2 ^ (Nat.log2 m + 1 + (e - wlo).toNat) := (Nat.pow_add ..).symm
      _ ≤ 2 ^ 64 := Nat.pow_le_pow_right (by decide) (by omega)
  · rw [Nat.div_lt_iff_lt_mul (Nat.two_pow_pos _), ← Nat.pow_add]
    exact hm.trans_le (Nat.pow_le_pow_right (by decide) (by omega))

/-- A product that does not overflow is below 2^64 units; the floor of a negative one can reach -2^64. -/
theorem alignTo_bounds {wlo : Int} {v : Val} (h : (alignTo wlo v).2.2 = false) :
    -2 ^ 64 ≤ (alignTo wlo v).1 ∧ (alignTo wlo v).1 ≤ 2 ^ 64 - 1 := by
  cases v with
  | fin n m e =>
    rw [alignTo] at h ⊢
    dsimp only at h ⊢
    split at h
    · rw [if_pos ‹_›]
      decide
    · have hmag := floor_lt_two_pow (m := m) (e := e) (wlo := wlo) (by simpa using h)
      rw [if_neg ‹_›]
      dsimp only
      generalize (if 0 ≤ e - wlo then m * 2 ^ (e - wlo).toNat else m / 2 ^ (wlo - e).toNat) = mag at hmag
      split_ifs <;> omega
  | _ => simp [alignTo]

/-- Each of at most 2^31 products is bounded, so that their sum stays inside the 96 bits. -/
theorem SlotElem.aligned_bounds (x : SlotElem) {vs : List (Val × Bool)} (hlen : vs.length ≤ 2 ^ 31)
    (hov : ∀ v ∈ vs, (alignTo x.lo v.1).2.2 = false) : -2 ^ 95 ≤ x.aligned vs ∧ x.aligned vs < 2 ^ 95 := by
  have hlo : (vs.map fun v => (alignTo x.lo v.1).1).length • (-2 ^ 64 : Int) ≤ x.aligned vs :=
    List.card_nsmul_le_sum _ _ (List.forall_mem_map.mpr fun v hv => (alignTo_bounds (hov v hv)).1)
  have hhi : x.aligned vs ≤ (vs.map fun v => (alignTo x.lo v.1).1).length • (2 ^ 64 - 1 : Int) :=
    List.sum_le_card_nsmul _ _ (List.forall_mem_map.mpr fun v hv => (alignTo_bounds (hov v hv)).2)
  rw [List.length_map, nsmul_eq_mul] at hlo hhi
  omega

/-- A chain of at most 2^31 products, none of them overflowed, holds their sum, and OVF stays clear (R94). -/
theorem SlotElem.exact_of_fresh {x : SlotElem} {vs : List (Val × Bool)} (hint : x.int = 0) (hcount : x.kcount = 0) (hovf : x.ovf = false)
    (hlen : vs.length ≤ 2 ^ 31) (hov : ∀ v ∈ vs, (alignTo x.lo v.1).2.2 = false) :
    (x.exact vs).1.int = x.aligned vs ∧ (x.exact vs).1.ovf = false := by
  obtain ⟨hlo, hhi⟩ := x.aligned_bounds hlen hov
  have hsum : (x.exact vs).1.int = x.aligned vs := by
    rw [SlotElem.exact_int, hint, Int.zero_add]
    exact Int.bmod_eq_of_le_mul_two (by omega) (by omega)
  have hwraps : x.wraps vs = 0 := by
    have := x.add_aligned vs
    omega
  have hkcount : (x.exact vs).1.kcount.toNat ≤ 2 ^ 31 := by
    rw [SlotElem.exact_kcount, hcount]
    exact (Nat.min_le_left ..).trans (by simpa using hlen)
  have hnone : (vs.map fun v => alignTo x.lo v.1).filter (·.2.2) = [] := by
    rw [List.filter_eq_nil_iff, List.forall_mem_map]
    exact fun v hv => by rw [hov v hv]; decide
  refine ⟨hsum, ?_⟩
  rw [SlotElem.exact_ovf, hovf, hnone, hwraps, decide_eq_false (Nat.not_lt.mpr hkcount)]
  rfl

/-! ### O17 -/

/-- Settles O17: order, the sum modulo 2^96, split, KCOUNT, the residue lane, and the sum itself while nothing overflows. -/
theorem exactAccumulation : Obligations.ExactAccumulation := by
  intro x vs ws a y
  refine ⟨x.exact_perm, ?_, ?_, x.exact_kcount vs, x.exact_residue vs, ?_⟩
  · have hsum : x.int + (vs.map a).sum = y.int + 2 ^ 96 * x.wraps vs := x.add_aligned vs
    omega
  · obtain ⟨hvalue, hkcount⟩ := x.exact_append vs ws
    rw [hvalue, hkcount]
  · rintro wlo rfl hlen hov
    exact SlotElem.exact_of_fresh rfl rfl rfl hlen hov

end Sys2Proof.Machine
end

section
/-!
O18: maximum and minimum of indexed pairs (R110). A pair has a key in a linear order (NaN first, then the greater or the smaller value,
then the lower index), and a pair wins exactly when its key is the smaller one: a reduction takes the least key.
-/
namespace Sys2Proof.Machine

/-! ### Comparison of values -/

/-- The real number of a zero or a finite value, 0 for the others. -/
noncomputable def Val.real : Val → ℝ
  | .fin n m e => (if n then -1 else 1) * m * 2 ^ e
  | _ => 0

/-- The extended real that a value stands for; a NaN, which `Val.cmp` reads as 0, gives 0. -/
noncomputable def Val.ereal : Val → EReal
  | .inf true => ⊥
  | .inf false => ⊤
  | v => v.real

theorem Val.ereal_of_not_inf {v : Val} (h : v.isInf = false) : v.ereal = v.real := by
  cases v with
  | inf => cases h
  | _ => rfl

/-- The significand at an exponent that is not above the value's own. -/
theorem Val.at_mul_zpow {v : Val} {l : Int} (h : ∀ e ∈ v.lsb, l ≤ e) : (v.at l : ℝ) * 2 ^ l = v.real := by
  cases v with
  | fin n m e =>
    have hpow : ((2 : ℝ) ^ (e - l).toNat) * 2 ^ l = 2 ^ e := by
      rw [← zpow_natCast, ← zpow_add₀ two_ne_zero, Int.toNat_of_nonneg (sub_nonneg.mpr (h e rfl)), sub_add_cancel]
    rw [Val.at, Val.real, ← hpow]
    push_cast
    ring
  | _ => simp [Val.at, Val.real]

/-- Two values that are not infinite are compared at one exponent. -/
theorem Val.cmp_of_not_inf {a b : Val} (ha : a.isInf = false) (hb : b.isInf = false) :
    ∃ l : Int, (∀ e ∈ a.lsb, l ≤ e) ∧ (∀ e ∈ b.lsb, l ≤ e) ∧
      Val.cmp a b = if a.at l < b.at l then -1 else if a.at l = b.at l then 0 else 1 := by
  refine ⟨min (a.lsb.getD 0) (b.lsb.getD 0), fun e he => ?_, fun e he => ?_, ?_⟩
  · rw [Option.mem_def.mp he]
    exact min_le_left ..
  · rw [Option.mem_def.mp he]
    exact min_le_right ..
  · cases a with
    | inf => cases ha
    | _ =>
      cases b with
      | inf => cases hb
      | _ => simp [Val.cmp, Val.lsb, Val.at]

theorem Val.cmp_inf_left (n : Bool) (b : Val) : Val.cmp (.inf n) b =
    if (Val.inf n).ereal < b.ereal then -1 else if (Val.inf n).ereal = b.ereal then 0 else 1 := by
  cases b with
  | inf m => cases n <;> cases m <;> simp [Val.cmp, Val.ereal]
  | _ => cases n <;> simp [Val.cmp, Val.ereal, EReal.bot_lt_coe]

theorem Val.cmp_inf_right (a : Val) (m : Bool) : Val.cmp a (.inf m) =
    if a.ereal < (Val.inf m).ereal then -1 else if a.ereal = (Val.inf m).ereal then 0 else 1 := by
  cases a with
  | inf n => exact Val.cmp_inf_left n (.inf m)
  | _ => cases m <;> simp [Val.cmp, Val.ereal, EReal.coe_lt_top]

theorem Val.eq_inf_of_isInf {v : Val} (h : v.isInf = true) : ∃ n, v = .inf n := by
  cases v with
  | inf n => exact ⟨n, rfl⟩
  | _ => cases h

/-- `Val.cmp` is the order of the extended reals. -/
theorem Val.cmp_eq (a b : Val) : Val.cmp a b = if a.ereal < b.ereal then -1 else if a.ereal = b.ereal then 0 else 1 := by
  cases ha : a.isInf with
  | true =>
    obtain ⟨n, rfl⟩ := Val.eq_inf_of_isInf ha
    exact Val.cmp_inf_left n b
  | false =>
    cases hb : b.isInf with
    | true =>
      obtain ⟨m, rfl⟩ := Val.eq_inf_of_isInf hb
      exact Val.cmp_inf_right a m
    | false =>
      obtain ⟨l, hla, hlb, hcmp⟩ := Val.cmp_of_not_inf ha hb
      have hpos : (0 : ℝ) < 2 ^ l := zpow_pos two_pos l
      rw [Val.ereal_of_not_inf ha, Val.ereal_of_not_inf hb, ← Val.at_mul_zpow hla, ← Val.at_mul_zpow hlb, hcmp]
      simp only [EReal.coe_lt_coe_iff, EReal.coe_eq_coe_iff, mul_lt_mul_iff_left₀ hpos, mul_left_inj' hpos.ne', Int.cast_lt, Int.cast_inj]

theorem Val.cmp_pos (a b : Val) : 0 < Val.cmp a b ↔ b.ereal < a.ereal := by
  rw [Val.cmp_eq]
  split_ifs with hlt heq
  · simp [hlt.le]
  · simp [heq]
  · simpa using lt_of_le_of_ne (not_lt.mp hlt) (Ne.symm heq)

theorem Val.cmp_zero (a b : Val) : Val.cmp a b = 0 ↔ a.ereal = b.ereal := by
  rw [Val.cmp_eq]
  split_ifs with hlt heq
  · simp [hlt.ne]
  · simp [heq]
  · simp [heq]

/-! ### The key of an indexed pair -/

/-- Where a pair stands: a NaN before every other value, then by value (the greater first, or for the minimum the smaller), then by index. -/
noncomputable def pairKey (mn : Bool) (x : Val × Nat) : Bool ×ₗ EReal ×ₗ Nat :=
  toLex (decide (x.1 ≠ .nan), toLex (if mn then x.1.ereal else -x.1.ereal, x.2))

theorem pairWins_of_ne_nan {a b : Val} (mn : Bool) (i j : Nat) (ha : a ≠ .nan) (hb : b ≠ .nan) : pairWins mn a i b j =
    (decide ((if mn then Val.cmp b a else Val.cmp a b) > 0) || ((if mn then Val.cmp b a else Val.cmp a b) == 0 && decide (i < j))) := by
  unfold pairWins
  split
  · exact absurd rfl ha
  · exact absurd rfl ha
  · exact absurd rfl hb
  · rfl

theorem pairWins_nan_nan (mn : Bool) (i j : Nat) : pairWins mn .nan i .nan j = decide (i < j) := rfl

theorem pairWins_nan_left {b : Val} (mn : Bool) (i j : Nat) (hb : b ≠ .nan) : pairWins mn .nan i b j = true := by
  cases b with
  | nan => exact absurd rfl hb
  | _ => rfl

theorem pairWins_nan_right {a : Val} (mn : Bool) (i j : Nat) (ha : a ≠ .nan) : pairWins mn a i .nan j = false := by
  cases a with
  | nan => exact absurd rfl ha
  | _ => rfl

/-- A pair wins exactly when its key is the smaller one. -/
theorem pairWins_iff (mn : Bool) (x y : Val × Nat) : pairWins mn x.1 x.2 y.1 y.2 = true ↔ pairKey mn x < pairKey mn y := by
  obtain ⟨a, i⟩ := x
  obtain ⟨b, j⟩ := y
  simp only [pairKey, Prod.Lex.toLex_lt_toLex]
  by_cases ha : a = .nan
  · by_cases hb : b = .nan
    · simp [ha, hb, pairWins_nan_nan]
    · simp [ha, hb, pairWins_nan_left]
  · by_cases hb : b = .nan
    · simp [ha, hb, pairWins_nan_right]
    · rw [pairWins_of_ne_nan mn i j ha hb]
      cases mn <;> simp [ha, hb, Val.cmp_pos, Val.cmp_zero, eq_comm (a := b.ereal)]

/-- Keys differ where indexes do. -/
theorem pairKey_ne (mn : Bool) {x y : Val × Nat} (h : x.2 ≠ y.2) : pairKey mn x ≠ pairKey mn y := fun hkey => by
  simp only [pairKey, EmbeddingLike.apply_eq_iff_eq, Prod.mk.injEq] at hkey
  exact h hkey.2.2

/-! ### Reductions -/

/-- The pair that a reduction holds after `y` comes to `x`: the one already held unless the other wins. -/
def betterPair (mn : Bool) (x y : Val × Nat) : Val × Nat := if pairWins mn y.1 y.2 x.1 x.2 then y else x

theorem betterPair_eq (mn : Bool) (x y : Val × Nat) : betterPair mn x y = if pairKey mn y < pairKey mn x then y else x := by
  simp only [betterPair, pairWins_iff]

theorem betterPair_comm {mn : Bool} {x y : Val × Nat} (h : x.2 ≠ y.2) : betterPair mn x y = betterPair mn y x := by
  rw [betterPair_eq, betterPair_eq]
  rcases lt_or_gt_of_ne (pairKey_ne mn h) with hlt | hlt
  · rw [if_neg hlt.not_gt, if_pos hlt]
  · rw [if_pos hlt, if_neg hlt.not_gt]

/-- Either grouping holds the first of the least keys. -/
theorem betterPair_assoc (mn : Bool) (x y z : Val × Nat) : betterPair mn (betterPair mn x y) z = betterPair mn x (betterPair mn y z) := by
  simp only [betterPair_eq]
  by_cases hyx : pairKey mn y < pairKey mn x
  · by_cases hzy : pairKey mn z < pairKey mn y
    · simp [hyx, hzy, hzy.trans hyx]
    · simp [hyx, hzy]
  · by_cases hzy : pairKey mn z < pairKey mn y
    · simp [hyx, hzy]
    · have hzx : ¬ pairKey mn z < pairKey mn x := fun h => (h.trans_le (not_lt.mp hyx)).not_ge (not_lt.mp hzy)
      simp [hyx, hzy, hzx]

/-! ### O18 -/

/-- Settles O18: NaN comes first, of two pairs one wins, winning is transitive, and a reduction takes the least key. -/
theorem indexedPairReduction : Obligations.IndexedPairReduction := by
  intro mn wins pick
  refine ⟨pairWins_nan_nan mn, fun v i j hv => ⟨pairWins_nan_left mn i j hv, pairWins_nan_right mn i j hv⟩, fun x y hne => ?_,
    fun x y z hxy hyz _ => ?_, fun x y z hxy _ _ => ⟨betterPair_comm hxy, betterPair_assoc mn x y z⟩⟩
  · rw [Bool.eq_not_iff, ne_eq, Bool.eq_iff_iff, pairWins_iff, pairWins_iff]
    rcases lt_or_gt_of_ne (pairKey_ne mn hne) with hlt | hlt
    · simp [hlt, hlt.not_gt]
    · simp [hlt, hlt.not_gt]
  · exact (pairWins_iff mn x z).mpr (((pairWins_iff mn x y).mp hxy).trans ((pairWins_iff mn y z).mp hyz))

end Sys2Proof.Machine
end

section
/-!
O1 and O4: words at issue (R135, R143, R148, R158, R184), scalar arithmetic and calls (R134). A word that does not act is read off
`State.issueS` or `State.issueT`; one that is due changes its own sequencer.
-/
namespace Sys2Proof.Machine

/-! ### Changes of one sequencer -/

/-- A change of a sequencer is known by what it makes of that sequencer. -/
theorem State.modSeq_congr {s : State} {c : CombId} {f g : Seq → Seq} (h : f (s.comb c).seq = g (s.comb c).seq) :
    s.modSeq c f = s.modSeq c g := by
  change { s with combs := s.combs.set c { s.comb c with seq := f (s.comb c).seq } } = _
  rw [h]
  rfl

theorem State.modSeq_onlySeq (s : State) (c : CombId) (f : Seq → Seq) : s.onlySeq c (s.modSeq c f) := by
  refine State.modSeq_congr ?_
  rw [State.modSeq_seq]

/-- A change that leaves its sequencer alone leaves the state alone. -/
theorem State.modSeq_same {s : State} {c : CombId} {f : Seq → Seq} (h : f (s.comb c).seq = (s.comb c).seq) : s.modSeq c f = s :=
  (State.modSeq_congr (g := fun q => q) h).trans (s.modSeq_id c)

/-! ### Words at issue (R135, R143, R148, R158) -/

/-- Every sequencer word but commit.prep goes through the shared checks of issue. -/
theorem exec_wordS (c : CombId) (f : SForm) {op : SOp} (hop : op ≠ .commitPrep) (s : State) :
    ∃ act, exec (wordS c f op) s = .next (s.issueS c op f act) := by
  cases op with
  | commitPrep => exact absurd rfl hop
  | _ => exact ⟨_, rfl⟩

/-- Every tensor word goes through the checks of tensor issue. -/
theorem exec_wordT (c : CombId) (f : TForm) (k : TKind) (s : State) : exec (wordT c f k) s = .next (s.issueT c k f) := by
  cases k with
  | vec op => cases op with | _ => rfl
  | upd op => cases op with | _ => rfl
  | _ => rfl

/-- What commit.prep asks before it looks at its round. -/
theorem exec_commitPrep_quiet (c : CombId) (f : SForm) {s : State} (hq : (s.comb c).seq.issuing = false) :
    exec (.commitPrep c f) s = .next s := by
  change execCommitPrep c f s = _
  simp [execCommitPrep, hq]

theorem exec_commitPrep_illegal (c : CombId) (f : SForm) {s : State} (hq : (s.comb c).seq.issuing = true)
    (hill : f.illegal .commitPrep = true) : exec (.commitPrep c f) s = .next (s.issueFault c 1) := by
  change execCommitPrep c f s = _
  simp [execCommitPrep, hq, hill]

/-- A word that does not issue leaves everything as it is. -/
theorem exec_wordS_quiet (c : CombId) (op : SOp) (f : SForm) {s : State} (hq : (s.comb c).seq.issuing = false) :
    exec (wordS c f op) s = .next s := by
  by_cases hop : op = .commitPrep
  · subst hop
    exact exec_commitPrep_quiet c f hq
  · obtain ⟨act, hact⟩ := exec_wordS c f hop s
    rw [hact, State.issueS_quiet _ _ _ _ _ hq]

theorem exec_wordS_illegal (c : CombId) (op : SOp) (f : SForm) {s : State} (hq : (s.comb c).seq.issuing = true) (hill : f.illegal op = true) :
    exec (wordS c f op) s = .next (s.issueFault c 1) := by
  by_cases hop : op = .commitPrep
  · subst hop
    exact exec_commitPrep_illegal c f hq hill
  · obtain ⟨act, hact⟩ := exec_wordS c f hop s
    rw [hact, State.issueS_illegal _ _ _ _ _ hq hill]

theorem State.issueS_off (s : State) (c : CombId) (op : SOp) (f : SForm) (act : State) (hq : (s.comb c).seq.issuing = true)
    (hill : f.illegal op = false) (hp : (s.comb c).seq.pred f.pred = false) : s.issueS c op f act = s.passed c := by
  simp [State.issueS, State.passed, hq, hill, hp]

/-- The scoreboard holds a word at issue; a comb that does not issue holds it as well. -/
theorem State.issueS_held (s : State) (c : CombId) (op : SOp) (f : SForm) (act : State) (hill : f.illegal op = false)
    (hp : (s.comb c).seq.pred f.pred = true) (hh : (s.comb c).seq.held (sRegs op f) = true) : s.issueS c op f act = s := by
  simp [State.issueS, hill, hp, hh]

theorem State.issueT_quiet {s : State} {c : CombId} {k : TKind} {f : TForm} (hq : (s.comb c).seq.issuing = false) : s.issueT c k f = s := by
  simp [State.issueT, hq]

theorem State.issueT_illegal {s : State} {c : CombId} {k : TKind} {f : TForm} (hq : (s.comb c).seq.issuing = true) (hill : f.illegal k = true) :
    s.issueT c k f = s.issueFault c 1 := by
  simp [State.issueT, hq, hill]

theorem State.issueT_off {s : State} {c : CombId} {k : TKind} {f : TForm} (hq : (s.comb c).seq.issuing = true) (hill : f.illegal k = false)
    (hp : (s.comb c).seq.pred f.pred = false) : s.issueT c k f = if f.ce then (s.bump c (cntIx f.cnt) 1).passed c else s.passed c := by
  simp only [State.issueT, hq, hill, hp, State.passed]
  cases f.ce <;> rfl

theorem State.issueT_held {s : State} {c : CombId} {k : TKind} {f : TForm} (hill : f.illegal k = false) (hp : (s.comb c).seq.pred f.pred = true)
    (hh : (s.comb c).seq.held (tRegs k f) = true) : s.issueT c k f = s := by
  simp [State.issueT, State.tryTensor, hill, hp, hh]

/-- Settles O4: each kind of word that does not act is one branch of the shared checks of issue. -/
theorem wordsWithoutEffect : Obligations.WordsWithoutEffect := by
  refine ⟨fun s c hq => ⟨fun op f hop hill hp => ?_, fun k f hill hp => ?_⟩, fun s c hq => ⟨fun op f hill => ?_, fun k f hill => ?_⟩,
    fun s c => ⟨fun hq => ⟨fun op f => exec_wordS_quiet c op f hq, fun k f => ?_⟩, fun op f hop hill hp hh => ?_, fun k f hill hp hh => ?_⟩⟩
  · obtain ⟨act, hact⟩ := exec_wordS c f hop s
    rw [hact, State.issueS_off s c op f act hq hill hp]
  · rw [exec_wordT, State.issueT_off hq hill hp]
  · exact exec_wordS_illegal c op f hq hill
  · rw [exec_wordT, State.issueT_illegal hq hill]
  · rw [exec_wordT, State.issueT_quiet hq]
  · obtain ⟨act, hact⟩ := exec_wordS c f hop s
    rw [hact, State.issueS_held s c op f act hill hp hh]
  · rw [exec_wordT, State.issueT_held hill hp hh]

/-! ### Scalar arithmetic and calls (R134) -/

section Due
variable {s : State} {c : CombId} {op : SOp} {f : SForm} (hdue : s.due c op f = true)
include hdue

/-- A scalar word that is due writes its result, and the next word is due. -/
theorem State.scalar_due (g : W64 → W64 → W64) :
    s.scalar c op f g = s.wroteS c f.sd (g (s.comb c).seq.s[f.sa] ((s.comb c).seq.b f)) := by
  rw [State.scalar, State.issueS_due _ _ _ _ _ hdue]
  exact State.modSeq_congr rfl

end Due

theorem badTarget_eq_false {t : Nat} (h8 : t % 8 = 0) (hlt : t < 262144) : badTarget t = false := by
  simp [badTarget, h8, hlt]

/-- A call that is due, to a word of the store. -/
theorem exec_call_due {s : State} {c : CombId} {f : SForm} (hdue : s.due c .call f = true) {t : Nat}
    (ht : ((s.comb c).seq.s[f.sa] + f.sext).toNat = t) (h8 : t % 8 = 0) (hlt : t < 262144) :
    exec (.call c f) s = .next (s.modSeq c fun q =>
      { q with s := q.s.set 31 (BitVec.ofNat 64 (q.pc.toNat + 8)), pc := BitVec.ofNat 18 t, fetched := none }) := by
  have hnext (pc : BitVec 18) : pc.setWidth 64 + 8 = BitVec.ofNat 64 (pc.toNat + 8) := by
    rw [BitVec.ofNat_add, ← BitVec.ofNat_toNat]
    rfl
  change Host.Outcome.next (s.issueS c .call f (if badTarget _ = true then _ else _)) = _
  rw [State.issueS_due _ _ _ _ _ hdue, ht, badTarget_eq_false h8 hlt, if_neg Bool.false_ne_true]
  simp only [hnext]

/-- A ret that is due, to a word of the store: the low 18 bits of s31 are always one where it is a multiple of 8. -/
theorem exec_ret_due {s : State} {c : CombId} {f : SForm} (hdue : s.due c .ret f = true)
    (h8 : (s.comb c).seq.s[(31 : Fin 32)].toNat % 8 = 0) :
    exec (.ret c f) s = .next (s.modSeq c fun q => { q with pc := (s.comb c).seq.s[(31 : Fin 32)].setWidth 18, fetched := none }) := by
  have hlow (w : W64) : getF w 0 18 = w.toNat % 2 ^ 18 := by simp [getF]
  have hpc (w : W64) : BitVec.ofNat 18 (getF w 0 18) = w.setWidth 18 := by
    apply BitVec.eq_of_toNat_eq
    simp [hlow]
  have hgood : badTarget (getF (s.comb c).seq.s[(31 : Fin 32)] 0 18) = false := by
    rw [hlow]
    exact badTarget_eq_false (by omega) (by omega)
  change Host.Outcome.next (s.issueS c .ret f (if badTarget (getF (s.comb c).seq.s[(31 : Fin 32)] 0 18) = true then _ else s.modSeq c fun q =>
    { q with pc := BitVec.ofNat 18 (getF (s.comb c).seq.s[(31 : Fin 32)] 0 18), fetched := none })) = _
  rw [State.issueS_due _ _ _ _ _ hdue, hgood, if_neg Bool.false_ne_true, hpc]

/-- Settles O1: the operation on words is the one on numbers modulo 2^64, and a jump that is due has a target in the store. -/
theorem scalarArithmeticAndCalls : Obligations.ScalarArithmeticAndCalls := by
  intro s c f q a b t
  have hb : b = (q.b f).toNat := rfl
  have hadd : BitVec.ofNat 64 (a + b) = q.s[f.sa] + q.b f := by
    rw [hb, BitVec.ofNat_add]
    simp [a]
  have hsub : BitVec.ofInt 64 ((a : Int) - b) = q.s[f.sa] - q.b f := by
    rw [hb]
    simp [a, sub_eq_add_neg, BitVec.ofInt_add, BitVec.ofInt_neg]
  have hmul : BitVec.ofNat 64 (a * b) = q.s[f.sa] * q.b f := by
    rw [hb, BitVec.ofNat_mul]
    simp [a]
  rw [hadd, hsub, hmul]
  exact ⟨fun hdue => congrArg Host.Outcome.next (State.scalar_due hdue _), fun hdue => congrArg Host.Outcome.next (State.scalar_due hdue _),
    fun hdue => congrArg Host.Outcome.next (State.scalar_due hdue _), fun hdue h8 hlt => exec_call_due hdue rfl h8 hlt,
    fun hdue h8 => (exec_ret_due hdue h8).trans (congrArg Host.Outcome.next (State.modSeq_congr rfl))⟩

end Sys2Proof.Machine
end

section
/-!
O5 and O6: the stalls of wait, fence and chimew with their releases (R137, R142, R190), and halt with the entry to HALTED (R156).
-/
namespace Sys2Proof.Machine

/-! ### Stalls and releases -/

theorem Seq.idle_iff (q : Seq) (set : BitVec 4) : q.idle set = true ↔ ∀ k : Fin 4, set.getLsbD k = true → q.busy[k] = 0 := by
  simp [Seq.idle, Fin.forall_fin_succ, imp_iff_not_or, and_assoc]

theorem Seq.drained_iff (q : Seq) : q.drained = true ↔ ∀ k : Fin 4, q.busy[k] = 0 := by
  simp [Seq.drained, Fin.forall_iff]

/-- Two changes of one sequencer, by a condition on what it was. -/
theorem State.modSeq_ite {s : State} {c : CombId} {p : Prop} [Decidable p] {f g h : Seq → Seq} (hpos : p → h (s.comb c).seq = f (s.comb c).seq)
    (hneg : ¬ p → h (s.comb c).seq = g (s.comb c).seq) : s.modSeq c h = if p then s.modSeq c f else s.modSeq c g := by
  split
  · exact State.modSeq_congr (hpos ‹_›)
  · exact State.modSeq_congr (hneg ‹_›)

/-- A change of one sequencer that is made only on a condition. -/
theorem State.modSeq_if {s : State} {c : CombId} {p : Prop} [Decidable p] {f h : Seq → Seq} (hpos : p → h (s.comb c).seq = f (s.comb c).seq)
    (hneg : ¬ p → h (s.comb c).seq = (s.comb c).seq) : s.modSeq c h = if p then s.modSeq c f else s := by
  split
  · exact State.modSeq_congr (hpos ‹_›)
  · exact State.modSeq_same (hneg ‹_›)

/-- The word after a stall is due. -/
def Seq.released (q : Seq) : Seq := ({ q with stall := .none, st := .running } : Seq).advance

section Release
variable {s : State} {c : CombId}

theorem exec_waitRelease {i : BitVec 8} {u : W32} (hstall : (s.comb c).seq.stall = .counter i u) (hst : (s.comb c).seq.st = .waiting) :
    exec (.waitRelease c) s =
      .next (if ((s.comb c).seq.cnt[cntIx i] - u).toNat < 2 ^ 31 then s.modSeq c Seq.released else s) := by
  refine congrArg Host.Outcome.next (State.modSeq_if (fun hmet => ?_) (fun hmet => ?_))
  · simp only [hstall, hst, reached, hmet, decide_true, and_self, if_true]
    rfl
  · simp only [hstall, hst, reached, hmet, decide_false, Bool.false_eq_true, and_false, if_false]

theorem exec_fenceRelease {m : BitVec 4} (hstall : (s.comb c).seq.stall = .fence m) (hst : (s.comb c).seq.st = .waiting) :
    exec (.fenceRelease c) s =
      .next (if ∀ k : Fin 4, m.getLsbD k = true → (s.comb c).seq.busy[k] = 0 then s.modSeq c Seq.released else s) := by
  refine congrArg Host.Outcome.next (State.modSeq_if (fun hidle => ?_) (fun hidle => ?_))
  · simp only [hstall, hst, (Seq.idle_iff _ m).2 hidle, and_self, if_true]
    rfl
  · have hbusy : (s.comb c).seq.idle m = false := Bool.eq_false_iff.2 (mt (Seq.idle_iff _ m).1 hidle)
    simp only [hstall, hst, hbusy, Bool.false_eq_true, and_false, if_false]

/-- A release of chimew before the next chime: the time base is at its instant (log entry 4). -/
theorem exec_chimewRelease {u : Nat} (hstall : (s.comb c).seq.stall = .chimew u) (hst : (s.comb c).seq.st = .chimeWait) :
    exec (.chimewRelease c) s = .next (if u < s.chm.nextAt then (s.until u).modSeq c Seq.released else s) := by
  change execChimewRelease c s = _
  simp only [execChimewRelease, hstall, hst, true_and]
  rfl

end Release

/-- Settles O5: a word that is due goes on or stalls by its condition, and its release by the same one. -/
theorem stallsAndReleases : Obligations.StallsAndReleases := by
  intro s c f q v met t set
  refine ⟨fun hdue => ?_, fun i u => exec_waitRelease, fun hdue => ?_, fun m => exec_fenceRelease, fun hdue => ?_,
    fun u hstall hst hu => ?_, fun u hstall hst hu => ?_⟩
  · refine congrArg Host.Outcome.next ((State.issueS_due _ _ _ _ _ hdue).trans (State.modSeq_ite (fun hmet => ?_) (fun hmet => ?_)))
    · exact if_pos (decide_eq_true hmet)
    · exact if_neg (mt of_decide_eq_true hmet)
  · refine congrArg Host.Outcome.next ((State.issueS_due _ _ _ _ _ hdue).trans (State.modSeq_ite (fun hidle => ?_) (fun hidle => ?_)))
    · exact if_pos ((Seq.idle_iff _ _).2 hidle)
    · exact if_neg (mt (Seq.idle_iff _ _).1 hidle)
  · have hx : f.xBit 27 = true ↔ f.x.toNat % 2 = 1 := by simp [SForm.xBit, Nat.testBit_zero]
    refine congrArg Host.Outcome.next ((State.issueS_due _ _ _ _ _ hdue).trans (State.modSeq_congr ?_))
    simp only [hx]
    rfl
  · rw [exec_chimewRelease hstall hst, if_pos hu]
    rfl
  · rw [exec_chimewRelease hstall hst, if_neg (by omega)]

/-! ### Halt -/

theorem Seq.not_issuing_of_stall {q : Seq} (h : q.stall ≠ .none) : q.issuing = false := by
  simp [Seq.issuing, h]

/-- The state without what events and notices bring, and without the device state. -/
def State.still (s : State) : State := { s.quiet with dev := { s.quiet.dev with st := .off } }

theorem State.Tells.still {s t : State} (h : s.Tells t) : t.still = s.still :=
  congrArg (fun x : State => { x with dev := { x.dev with st := .off } }) h.quiet

theorem State.setDev_still (s : State) (d : DevState) : (s.setDev d).still = s.still := (s.setDev_tells d).still

/-- READY and RUNNING follow the combs: only the device state moves, with its notice. -/
theorem State.refresh_still (s : State) : s.refresh.still = s.still := by
  rcases s.refresh_cases with h | ⟨d, h⟩
  · rw [h]
  · rw [h, State.setDev_still]

section Still
variable {s t : State} (h : t.still = s.still)
include h

theorem State.combs_of_still : t.combs = s.combs := (congrArg State.combs h :)
theorem State.comb_of_still (c : CombId) : t.comb c = s.comb c := congrArg (·[c]) (State.combs_of_still h)
theorem State.mem_of_still : t.mem = s.mem := (congrArg State.mem h :)
theorem State.stp_of_still : t.stp = s.stp := (congrArg State.stp h :)
theorem State.notify_of_still : t.eth.notify = s.eth.notify := (congrArg (·.eth.notify) h :)
theorem State.cfg_of_still : t.eth.cfg = s.eth.cfg := (congrArg (·.eth.cfg) h :)
theorem State.linkUp_of_still : t.eth.linkUp = s.eth.linkUp := (congrArg (·.eth.linkUp) h :)

end Still

/-- Where the port is up without MACsec and notices are enabled, a notice is the last one sent. -/
theorem State.notice_sent {s : State} (hup : s.eth.linkUp = true) (hen : getF s.eth.notify 63 1 = 1) (hbare : getF s.eth.cfg 33 1 = 0)
    (b : NoticeBody) : ∃ n, (s.notice b).eth.notices.getLast? = some n ∧ (n.st, n.body) = (s.dev.st, b) ∧
      n.port.toNat = getF s.eth.notify 0 16 := by
  have hout : ({ s with eth := { s.eth with noticeNo := s.eth.noticeNo + 1 } } : State).frameOut =
      (true, { s with eth := { s.eth with noticeNo := s.eth.noticeNo + 1 } }) := by
    simp [State.frameOut, hup, hbare]
  have hport : (BitVec.ofNat 16 (getF s.eth.notify 0 16)).toNat = getF s.eth.notify 0 16 := by
    rw [BitVec.toNat_ofNat, Nat.mod_eq_of_lt (getF_lt _ 0 16)]
  rw [State.notice, if_pos hen, hout]
  dsimp only
  rw [if_pos rfl]
  exact ⟨_, List.getLast?_concat, rfl, hport⟩

theorem State.setSeqSt_still (s : State) (c : CombId) (t : SeqState) :
    (s.setSeqSt c t).still = (s.modSeq c fun q => { q with st := t }).still := State.refresh_still _

theorem exec_haltDrained_busy {s : State} {c : CombId} (hbusy : ∃ k : Fin 4, (s.comb c).seq.busy[k] ≠ 0) : exec (.haltDrained c) s = .next s := by
  have hdrained : ¬ (s.comb c).seq.drained = true := fun h => hbusy.elim fun k hk => hk ((Seq.drained_iff _).1 h k)
  refine congrArg Host.Outcome.next (if_neg ?_)
  exact fun h => hdrained h.2.2

theorem exec_haltDrained_idle {s : State} {c : CombId} (hstall : (s.comb c).seq.stall = .halting) (hst : (s.comb c).seq.st = .running)
    (hidle : ∀ k : Fin 4, (s.comb c).seq.busy[k] = 0) : exec (.haltDrained c) s =
    .next (((s.modSeq c fun q => { q with stall := .none }).setSeqSt c .halted).notice
      (.halt c (BitVec.ofNat 32 (getF (s.comb c).seq.frame 32 32)))) :=
  congrArg Host.Outcome.next (if_pos ⟨hst, hstall, (Seq.drained_iff _).2 hidle⟩)

/-- Settles O6: halt changes its sequencer alone, and a drained comb enters HALTED with the notice of R156. -/
theorem haltAndDrain : Obligations.HaltAndDrain := by
  intro s c f
  refine ⟨fun hdue => ⟨_, congrArg Host.Outcome.next (State.issueS_due _ _ _ _ _ hdue), State.modSeq_onlySeq _ _ _, State.modSeq_seq _ _ _,
    Seq.not_issuing_of_stall ?_⟩, fun _ _ => exec_haltDrained_busy, fun hstall hst hidle => ⟨_, exec_haltDrained_idle hstall hst hidle, ?_⟩⟩
  · rw [State.modSeq_seq]
    exact Stall.noConfusion
  let t := (s.modSeq c fun q => { q with stall := .none }).setSeqSt c .halted
  have ht : t.still = (s.modSeq c fun q => { q with stall := .none, st := .halted }).still := by
    rw [State.setSeqSt_still, State.modSeq_modSeq]
  have hnotice := t.notice_tells (.halt c (BitVec.ofNat 32 (getF (s.comb c).seq.frame 32 32)))
  refine ⟨?_, fun d hd => ?_, ?_, fun hup hen hbare => ?_⟩
  · rw [hnotice.comb, State.comb_of_still ht, State.modSeq_seq]
  · rw [hnotice.comb, State.comb_of_still ht, State.modSeq_comb_ne _ _ hd]
  · rw [hnotice.mem, State.mem_of_still ht]
    rfl
  · obtain ⟨n, hlast, hn, -⟩ := State.notice_sent (s := t) ((State.linkUp_of_still ht).trans hup)
      ((congrArg (getF · 63 1) (State.notify_of_still ht)).trans hen) ((congrArg (getF · 33 1) (State.cfg_of_still ht)).trans hbare)
      (.halt c (BitVec.ofNat 32 (getF (s.comb c).seq.frame 32 32)))
    refine ⟨n, hlast, (congrArg Prod.snd hn).trans ?_⟩
    have hframes : BitVec.ofNat 32 (getF (s.comb c).seq.frame 32 32) = BitVec.ofNat 32 ((s.comb c).seq.frame.toNat / 2 ^ 32) := by
      apply BitVec.eq_of_toNat_eq
      simp [getF]
    rw [hframes]

end Sys2Proof.Machine
end

section
/-!
SUPPORT for O7, O10 and O52. What the sending of one-drop consignments leaves (R231, R324), and what the commit round changes of the state: its
drops, the round, the decision made here and the chip's vote (R322 to R327). Voters and opening of an open round stay.
-/
namespace Sys2Proof.Machine

variable (s : State)

/-! ### Sending -/

/-- The state without the drops in the router and the consignments. -/
def State.unsent : State := { s with rte := { s.rte with drops := [] }, fab := {} }

theorem State.startWait_unsent (w : ConsWait) : (s.startWait w).unsent = s.unsent := (rfl)

theorem State.startOrWait_unsent (w : ConsWait) : (s.startOrWait w).unsent = s.unsent := by
  unfold State.startOrWait
  split
  · exact s.startWait_unsent w
  · rfl

theorem State.sendRound_unsent (kind : Nat) (dst : ChipId) (step : W64) (v : Bool) (c : W64) (decider : ChipId) (deputy : Bool) :
    (s.sendRound kind dst step v c decider deputy).unsent = s.unsent :=
  s.startOrWait_unsent _

/-! ### What the round leaves alone -/

/-- The state without the round, the decision made here, the chip's vote and what sending changes. -/
def State.offRound : State := { s.unsent with stp := { s.stp with round := none, made := none, vote := false } }

theorem State.offRound_of_unsent {s t : State} (h : t.unsent = s.unsent) : t.offRound = s.offRound :=
  congrArg (fun x : State => { x with stp := { x.stp with round := none, made := none, vote := false } }) h

section OffRound
variable {s t : State} (h : t.offRound = s.offRound)
include h

theorem State.combs_of_offRound : t.combs = s.combs := (congrArg State.combs h :)
theorem State.comb_of_offRound (c : CombId) : t.comb c = s.comb c := congrArg (·[c]) (State.combs_of_offRound h)
theorem State.mem_of_offRound : t.mem = s.mem := (congrArg State.mem h :)
theorem State.step_of_offRound : t.stp.step = s.stp.step := (congrArg (·.stp.step) h :)
theorem State.lodged_of_offRound : t.stp.lodged = s.stp.lodged := (congrArg (·.stp.lodged) h :)
theorem State.abort_of_offRound : t.stp.abort = s.stp.abort := (congrArg (·.stp.abort) h :)
theorem State.abortNext_of_offRound : t.stp.abortNext = s.stp.abortNext := (congrArg (·.stp.abortNext) h :)

end OffRound

theorem State.modRound_offRound (f : Round → Round) : (s.modRound f).offRound = s.offRound := (rfl)

theorem State.needRound_offRound : s.needRound.offRound = s.offRound := by
  unfold State.needRound
  split <;> rfl

theorem State.holdDecision_offRound (v : Bool) (c : W64) : (s.holdDecision v c).offRound = s.offRound :=
  (State.modRound_offRound _ _).trans s.needRound_offRound

theorem State.sendRound_offRound (kind : Nat) (dst : ChipId) (step : W64) (v : Bool) (c : W64) (decider : ChipId) (deputy : Bool) :
    (s.sendRound kind dst step v c decider deputy).offRound = s.offRound :=
  State.offRound_of_unsent (s.sendRound_unsent kind dst step v c decider deputy)

theorem State.announce_offRound (w : Verdict) : (s.announce w).offRound = s.offRound :=
  (State.holdDecision_offRound _ _ _).trans (foldl_keeps State.offRound _ (fun t _ => t.sendRound_offRound _ _ _ _ _ _ _) _ s)

theorem State.lodgeOut_offRound (w : Verdict) : (s.lodgeOut w).offRound = s.offRound := by
  unfold State.lodgeOut
  dsimp only
  split
  · exact (State.sendRound_offRound _ _ _ _ _ _ _ _).trans rfl
  · exact (State.announce_offRound _ _).trans rfl

theorem State.makeDecision_offRound (v : Bool) : (s.makeDecision v).offRound = s.offRound := by
  unfold State.makeDecision
  split
  · rfl
  · exact s.lodgeOut_offRound _

theorem State.decideRound_offRound : s.decideRound.offRound = s.offRound := by
  unfold State.decideRound
  dsimp only
  split
  · rfl
  split
  · exact s.lodgeOut_offRound _
  · split
    · exact s.makeDecision_offRound _
    · split
      · exact s.makeDecision_offRound _
      · rfl
  · rfl

theorem State.sendVote_offRound (r : Round) (v : Bool) (m : ChipId) (deputy : Bool) : (s.sendVote r v m deputy).offRound = s.offRound := by
  unfold State.sendVote
  split
  · rfl
  · exact s.sendRound_offRound _ _ _ _ _ _ _

/-- The chip's vote goes to whoever takes a role, if anyone does. -/
def State.sendVoteTo (r : Round) (v : Bool) (m : Option ChipId) (deputy : Bool) : State :=
  match m with | some m => s.sendVote r v m deputy | none => s

/-- The chip's vote has formed here. -/
def State.voteFormed (v : Bool) : State := ({ s with stp := { s.stp with vote := v } } : State).modRound fun r => { r with chipVote := some v }

theorem State.sendVoteTo_offRound (r : Round) (v : Bool) (m : Option ChipId) (deputy : Bool) :
    (s.sendVoteTo r v m deputy).offRound = s.offRound := by
  cases m with
  | none => rfl
  | some m => exact s.sendVote_offRound r v m deputy

/-- The chip's vote does not form, or it forms, goes out, and a leader decides where it can. -/
theorem State.formVote_cases : s.formVote = s ∨ ∃ r v, s.stp.round = some r ∧ r.chipVote = none ∧
    s.formVote = (((s.voteFormed v).sendVoteTo r v s.rte.leader false).sendVoteTo r v s.rte.deputy true).decideRound := by
  unfold State.formVote
  split
  · exact .inl rfl
  next r hr =>
    split
    · exact .inl rfl
    next hgo =>
      exact .inr ⟨r, r.voters.all (fun x => x.2 == some true) && !s.stp.abort, hr, by simpa using (not_or.mp hgo).1, rfl⟩

theorem State.formVote_offRound : s.formVote.offRound = s.offRound := by
  rcases s.formVote_cases with h | ⟨r, v, -, -, h⟩
  · rw [h]
  · rw [h, State.decideRound_offRound, State.sendVoteTo_offRound, State.sendVoteTo_offRound]
    rfl

/-! ### Voters and opening of the open round -/

/-- The step in force, and of the open round its step, opening, configuration and votes. -/
def State.ballot : W64 × Option (W64 × W64 × W64 × List (CombId × Option Bool)) :=
  (s.stp.step, s.stp.round.map fun r => (r.step, r.openedAt, r.cfg, r.voters))

theorem State.ballot_of_stp {s t : State} (h : t.stp = s.stp) : t.ballot = s.ballot := by
  rw [State.ballot, h, State.ballot]

theorem State.ballot_of_unsent {s t : State} (h : t.unsent = s.unsent) : t.ballot = s.ballot := State.ballot_of_stp (congrArg State.stp h :)

theorem State.roundNow_isSome_iff {s : State} : s.roundNow.isSome = true ↔ ∃ b, s.ballot = (s.stp.step, some (s.stp.step, b)) := by
  rw [State.roundNow, State.ballot]
  cases hr : s.stp.round with
  | none => simp
  | some r => by_cases hstep : r.step = s.stp.step <;> simp [Option.filter, hstep]

theorem State.roundNow_of_ballot {s t : State} (h : t.ballot = s.ballot) (hs : s.roundNow.isSome = true) : t.roundNow.isSome = true := by
  obtain ⟨b, hb⟩ := State.roundNow_isSome_iff.1 hs
  have hstep : t.stp.step = s.stp.step := congrArg Prod.fst h
  exact State.roundNow_isSome_iff.2 ⟨b, by rw [h, hb, hstep]⟩

theorem State.modRound_ballot {f : Round → Round} (hf : ∀ r, ((f r).step, (f r).openedAt, (f r).cfg, (f r).voters) =
    (r.step, r.openedAt, r.cfg, r.voters)) : (s.modRound f).ballot = s.ballot := by
  rw [State.ballot, State.modRound, State.ballot]
  cases hr : s.stp.round with
  | none => simp
  | some r => simpa using hf r

theorem State.sendRound_ballot (kind : Nat) (dst : ChipId) (step : W64) (v : Bool) (c : W64) (decider : ChipId) (deputy : Bool) :
    (s.sendRound kind dst step v c decider deputy).ballot = s.ballot :=
  State.ballot_of_unsent (s.sendRound_unsent kind dst step v c decider deputy)

theorem State.needRound_of_open {s : State} (h : s.roundNow.isSome = true) : s.needRound = s := if_pos h

section Open
variable {s : State} (hopen : s.roundNow.isSome = true)
include hopen

theorem State.holdDecision_ballot (v : Bool) (c : W64) : (s.holdDecision v c).ballot = s.ballot := by
  rw [State.holdDecision, State.needRound_of_open hopen]
  refine s.modRound_ballot fun r => ?_
  split <;> rfl

theorem State.announce_ballot (w : Verdict) : (s.announce w).ballot = s.ballot := by
  have hsent (l : List ChipId) : (l.foldl (fun (t : State) m => t.sendRound 0xB m w.step w.commit w.at_ w.by_ false) s).ballot = s.ballot :=
    foldl_keeps State.ballot _ (fun t _ => t.sendRound_ballot _ _ _ _ _ _ _) l s
  exact (State.holdDecision_ballot (State.roundNow_of_ballot (hsent _) hopen) _ _).trans (hsent _)

theorem State.lodgeOut_ballot (w : Verdict) : (s.lodgeOut w).ballot = s.ballot := by
  let t : State := { s with stp := { s.stp with made := some w } }
  have ht : t.ballot = s.ballot := rfl
  change (match s.rte.deputy with | some d => t.sendRound 0x9 d w.step w.commit w.at_ w.by_ false | none => t.announce w).ballot = _
  cases s.rte.deputy with
  | some d => exact (t.sendRound_ballot _ _ _ _ _ _ _).trans ht
  | none => exact (State.announce_ballot (State.roundNow_of_ballot ht hopen) w).trans ht

end Open

theorem State.makeDecision_ballot (v : Bool) : (s.makeDecision v).ballot = s.ballot := by
  unfold State.makeDecision
  split
  · rfl
  next r hr => exact State.lodgeOut_ballot (by rw [hr, Option.isSome_some]) _

section Votes
variable {s : State} (h : s.roundNow.isSome = true ∨ s.stp.lodged = none)
include h

theorem State.decideRound_ballot : s.decideRound.ballot = s.ballot := by
  unfold State.decideRound
  dsimp only
  split
  · rfl
  split
  next w hw =>
    rcases h with hopen | hnone
    · exact State.lodgeOut_ballot hopen w
    · rw [hnone] at hw
      cases hw
  · split
    · exact s.makeDecision_ballot _
    · split
      · exact s.makeDecision_ballot _
      · rfl
  · rfl

omit h in
theorem State.sendVoteTo_ballot (s : State) (r : Round) (v : Bool) (m : Option ChipId) (deputy : Bool) :
    (s.sendVoteTo r v m deputy).ballot = s.ballot := by
  cases m with
  | none => rfl
  | some m =>
    unfold State.sendVoteTo State.sendVote
    dsimp only
    split
    · refine s.modRound_ballot fun r => ?_
      unfold Round.hold
      split <;> rfl
    · exact s.sendRound_ballot _ _ _ _ _ _ _

theorem State.formVote_ballot : s.formVote.ballot = s.ballot := by
  rcases s.formVote_cases with hv | ⟨r, v, -, -, hv⟩
  · rw [hv]
  have hformed : (s.voteFormed v).ballot = s.ballot :=
    (State.modRound_ballot _ (f := fun r => { r with chipVote := some v }) fun _ => rfl).trans rfl
  have hsent : (((s.voteFormed v).sendVoteTo r v s.rte.leader false).sendVoteTo r v s.rte.deputy true).ballot = s.ballot := by
    rw [State.sendVoteTo_ballot, State.sendVoteTo_ballot, hformed]
  have hoff : (((s.voteFormed v).sendVoteTo r v s.rte.leader false).sendVoteTo r v s.rte.deputy true).offRound = s.offRound := by
    rw [State.sendVoteTo_offRound, State.sendVoteTo_offRound]
    rfl
  rw [hv, State.decideRound_ballot, hsent]
  exact h.imp (State.roundNow_of_ballot hsent) (State.lodged_of_offRound hoff).trans

end Votes

end Sys2Proof.Machine
end

section
/-!
O7: what a fault records (R149, R150, R323, R373), and the entry to FAULTED with the vote of 0 (R150, R192, R323).
-/
namespace Sys2Proof.Machine

/-! ### Recording a fault -/

/-- OVERRUN, LOCKSTEP and ISTORE, which abort the step (R373). -/
abbrev abortsStep (code : Nat) : Prop := code = 0x0A ∨ code = 0x0B ∨ code = 0x0C

section Fault
variable (s : State) (c : CombId) (code addr src : Nat)

/-- Besides the record in the sequencer a fault brings events and notices, and of three codes the step's abort. -/
theorem State.fault_told : ∃ u, (s.modSeq c fun q => q.noteFault code addr src).Tells u ∧
    s.fault c code addr src = if abortsStep code then u.abortStep else u := by
  unfold State.fault
  dsimp only
  refine ⟨_, ?_, rfl⟩
  split
  · exact .refl _
  · split
    · exact (State.notice_tells _ _).trans (State.record_tells _ _)
    · exact State.notice_tells _ _

/-- A later fault brings no event and no notice. -/
theorem State.fault_later {s : State} {c : CombId} (h : (s.comb c).seq.stall = .faulting ∨ (s.comb c).seq.st = .faulted) :
    s.fault c code addr src = (if abortsStep code then s.abortStep else s).modSeq c fun q => q.noteFault code addr src := by
  unfold State.fault
  dsimp only
  rw [if_pos h]
  split <;> rfl

theorem State.fault_comb_ne {d : CombId} (hd : d ≠ c) : (s.fault c code addr src).comb d = s.comb d := by
  obtain ⟨u, hu, hfault⟩ := s.fault_told c code addr src
  have hcomb : u.comb d = s.comb d := (hu.comb d).trans (State.modSeq_comb_ne _ _ hd)
  rw [hfault]
  split
  · exact (State.abortStep_comb u d).trans hcomb
  · exact hcomb

theorem State.abortStep_stp {s t : State} (h : t.stp = s.stp) : t.abortStep.stp = s.abortStep.stp := by
  simp only [State.abortStep, h]

theorem State.fault_stp (h : abortsStep code) : (s.fault c code addr src).stp = s.abortStep.stp := by
  obtain ⟨u, hu, hfault⟩ := s.fault_told c code addr src
  rw [hfault, if_pos h]
  exact State.abortStep_stp ((State.stp_of_still hu.still).trans (s.modSeq_stp _ _))

variable (q : Seq)

theorem Seq.noteFault_count : getF (q.noteFault code addr src).fault 48 16 = min (getF q.fault 48 16 + 1) 0xFFFF := by
  unfold Seq.noteFault
  dsimp only
  split
  · exact getF_satF q.fault 1 (by decide)
  · rw [getF_setF_of_disjoint _ _ (by decide) (by decide), getF_setF_of_disjoint _ _ (by decide) (by decide),
      getF_setF_of_disjoint _ _ (by decide) (by decide)]
    exact getF_satF q.fault 1 (by decide)

theorem Seq.noteFault_later {q : Seq} (h : q.stall = .faulting ∨ q.st = .faulted) : q.noteFault code addr src =
    { q with fault := satF q.fault 48 16 1, frame := if code = 0x0A then satF q.frame 16 16 1 else q.frame } := if_pos h

/-- A first fault stops issue and leaves registers and queues. -/
theorem Seq.noteFault_stops {q : Seq} (hstall : q.stall ≠ .faulting) (hst : q.st ≠ .faulted) :
    (q.noteFault code addr src).stall = .faulting ∧ (q.noteFault code addr src).wait = none := by
  unfold Seq.noteFault
  dsimp only
  rw [if_neg (by simp [hstall, hst])]
  exact ⟨rfl, rfl⟩

/-- Registers and program counter of a sequencer, and its state. -/
def Seq.file (q : Seq) : SeqState × Vector W64 32 × Vector Desc 32 × BitVec 8 × Vector W32 256 × BitVec 18 × List LoopEntry :=
  (q.st, q.s, q.d, q.p, q.cnt, q.pc, q.loops)

/-- The queues of a sequencer with their counts. -/
def Seq.queues (q : Seq) : List QEntry × List QEntry × List QEntry × List QEntry × Vector Nat 4 := (q.qMat, q.qVec, q.qCrr, q.qFab, q.busy)

theorem Seq.noteFault_keeps : (q.noteFault code addr src).file = q.file ∧ (q.noteFault code addr src).queues = q.queues := by
  unfold Seq.noteFault
  dsimp only
  split <;> exact ⟨rfl, rfl⟩

end Fault

/-! ### The entry to FAULTED -/

theorem State.abortStep_first {s : State} (h : ∀ r, s.stp.round = some r → r.chipVote = none) :
    s.abortStep.stp = { s.stp with abort := true } := by
  unfold State.abortStep
  cases hr : s.stp.round with
  | none => rfl
  | some r => simp [h r hr]

theorem State.abortStep_formed {s : State} {r : Round} (hr : s.stp.round = some r) (hv : r.chipVote ≠ none) :
    s.abortStep.stp = { s.stp with abortNext := true } := by
  simp [State.abortStep, hr, Option.isSome_iff_ne_none.2 hv]

/-- The open round is the same, seen by its voters and opening. -/
theorem State.round_of_ballot {s t : State} (h : t.ballot = s.ballot) {r : Round} (hr : s.stp.round = some r) :
    ∃ r', t.stp.round = some r' ∧ (r'.step, r'.openedAt, r'.cfg, r'.voters) = (r.step, r.openedAt, r.cfg, r.voters) := by
  have hround := congrArg Prod.snd h
  simp only [State.ballot, hr, Option.map_some, Option.map_eq_some_iff] at hround
  exact hround

/-- A comb stands FAULTED: what later words are judged against is what its array has reached (R420). -/
def Comb.enterFaulted (k : Comb) : Comb :=
  { k with seq := { k.seq with st := .faulted, stall := .none }, mat := { k.mat with judged := k.mat.reached } }

/-- The device state follows a comb that stands FAULTED. -/
def State.atFaulted (s : State) (c : CombId) : State :=
  ((s.modSeq c fun q => { q with stall := .none }).modMat c fun m => { m with judged := m.reached }).setSeqSt c .faulted

/-- A comb's missing vote is 0 from here on, and the step aborts. -/
def State.votedOut (s : State) (c : CombId) : State := (s.atFaulted c).abortStep.modRound fun r => r.combGone c

theorem State.modComb_modComb (s : State) (c : CombId) (f g : Comb → Comb) : (s.modComb c f).modComb c g = s.modComb c fun k => g (f k) := by
  simp [State.modComb, Vector.set_set]

theorem State.atFaulted_still (s : State) (c : CombId) : (s.atFaulted c).still = (s.modComb c Comb.enterFaulted).still := by
  rw [State.atFaulted, State.setSeqSt_still, State.modSeq, State.modMat, State.modSeq, State.modComb_modComb, State.modComb_modComb]
  rfl

section Drained
variable {s : State} {c : CombId}

theorem exec_faultDrained_busy (hbusy : ∃ k : Fin 4, (s.comb c).seq.busy[k] ≠ 0) : exec (.faultDrained c) s = .next s := by
  have hdrained : ¬ (s.comb c).seq.drained = true := fun h => hbusy.elim fun k hk => hk ((Seq.drained_iff _).1 h k)
  exact congrArg Host.Outcome.next (if_neg fun h => hdrained h.2)

theorem exec_faultDrained_idle (hstall : (s.comb c).seq.stall = .faulting) (hidle : ∀ k : Fin 4, (s.comb c).seq.busy[k] = 0) :
    exec (.faultDrained c) s = .next (s.votedOut c).formVote :=
  congrArg Host.Outcome.next (if_pos ⟨hstall, (Seq.drained_iff _).2 hidle⟩)

theorem State.votedOut_comb (d : CombId) : (s.votedOut c).comb d = (s.modComb c Comb.enterFaulted).comb d :=
  State.comb_of_still (s.atFaulted_still c) d

theorem State.votedOut_mem : (s.votedOut c).mem = s.mem := (State.mem_of_still (s.atFaulted_still c)).trans (s.modComb_mem _ _)

theorem State.atFaulted_stp : (s.atFaulted c).stp = s.stp := (State.stp_of_still (s.atFaulted_still c)).trans (s.modComb_stp _ _)

/-- Before the chip's vote the abort is this round's. -/
theorem State.votedOut_first (h : ∀ r, s.stp.round = some r → r.chipVote = none) : (s.votedOut c).stp =
    { s.stp with abort := true, round := s.stp.round.map fun r => r.combGone c } := by
  rw [State.votedOut, State.modRound, State.abortStep_first (by rwa [State.atFaulted_stp]), State.atFaulted_stp]

/-- After the chip's vote it is the next round's. -/
theorem State.votedOut_formed {r : Round} (hr : s.stp.round = some r) (hv : r.chipVote ≠ none) : (s.votedOut c).stp =
    { s.stp with abortNext := true, round := s.stp.round.map fun r => r.combGone c } := by
  rw [State.votedOut, State.modRound, State.abortStep_formed (by rwa [State.atFaulted_stp]) hv, State.atFaulted_stp]

/-- The votes as a comb goes out: no later vote of the chip opens another round, save where a decision lodged here is for another step. -/
theorem State.votedOut_voters {r : Round} (hr : s.stp.round = some r) (h : r.chipVote ≠ none ∨ r.step = s.stp.step ∨ s.stp.lodged = none) :
    ∃ r', (s.votedOut c).formVote.stp.round = some r' ∧ r'.voters = (r.combGone c).voters := by
  by_cases hv : r.chipVote = none
  · have hstp := State.votedOut_first (c := c) (s := s) fun x hx => by rw [hr] at hx; cases hx; exact hv
    have hout : (s.votedOut c).stp.round = some (r.combGone c) := by rw [hstp, hr]; rfl
    have hopen : (s.votedOut c).roundNow.isSome = true ∨ (s.votedOut c).stp.lodged = none := by
      refine (h.resolve_left (· hv)).imp (fun hstep => ?_) (fun hnone => ?_)
      · have hb : (r.combGone c).step = (s.votedOut c).stp.step := by rw [hstp]; exact hstep
        simp [State.roundNow, hout, Option.filter, hb]
      · rw [hstp]
        exact hnone
    obtain ⟨r', hr', heq⟩ := State.round_of_ballot (State.formVote_ballot hopen) hout
    exact ⟨r', hr', congrArg (·.2.2.2) heq⟩
  · have hout : (s.votedOut c).stp.round = some (r.combGone c) := by rw [State.votedOut_formed hr hv, hr]; rfl
    rcases (s.votedOut c).formVote_cases with hform | ⟨x, v, hx, hnone, -⟩
    · exact ⟨_, by rw [hform, hout], rfl⟩
    · rw [hout] at hx
      cases hx
      exact absurd hnone hv

end Drained

theorem State.formVote_of_none {s : State} (h : s.stp.round = none) : s.formVote = s := by
  simp [State.formVote, h]

/-- Settles O7: the record is the sequencer's own, what it brings besides is told or aborts the step, and a drained comb votes 0. -/
theorem faultRecordAndDrain : Obligations.FaultRecordAndDrain := by
  refine ⟨fun s c code addr src hcode haddr hsrc => ?_, fun s c hstall => ⟨exec_faultDrained_busy, fun hidle => ?_⟩⟩
  · intro q t r
    have hr : r = q.noteFault code addr src := congrArg Comb.seq (s.fault_comb c code addr src)
    refine ⟨fun hq hst => ?_, fun hlater => ⟨?_, hr.trans (Seq.noteFault_later _ _ _ hlater)⟩, ?_, s.fault_stp c code addr src, s.fault_mem _ _ _ _,
      fun d hd => s.fault_comb_ne c code addr src hd⟩
    · obtain ⟨hnum, hat, hunit⟩ := Seq.noteFault_first hq hst hcode haddr hsrc
      obtain ⟨hstops, -⟩ := Seq.noteFault_stops code addr src hq hst
      obtain ⟨hfile, hqueues⟩ := Seq.noteFault_keeps code addr src q
      rw [hr]
      exact ⟨hnum, hat, hunit, Seq.not_issuing_of_stall (by rw [hstops]; exact Stall.noConfusion), hstops, hfile, hqueues⟩
    · have ht : t = _ := State.fault_later code addr src hlater
      rw [ht]
      exact State.modSeq_onlySeq _ _ _
    · rw [hr]
      exact Seq.noteFault_count _ _ _ _
  · let u := s.votedOut c
    have hoff := u.formVote_offRound
    have hcomb (d : CombId) : u.formVote.comb d = (s.modComb c Comb.enterFaulted).comb d :=
      (State.comb_of_offRound hoff d).trans (State.votedOut_comb d)
    refine ⟨_, exec_faultDrained_idle hstall hidle, ?_, ?_, fun d hd => ?_, ?_, fun hnone => ?_, fun r hr hv => ?_, fun r hr hv => ?_,
      fun r hr h => State.votedOut_voters hr h⟩
    · rw [hcomb, State.modComb_comb]
      rfl
    · rw [hcomb, State.modComb_comb]
      rfl
    · rw [hcomb, State.modComb_comb_ne _ _ hd]
    · exact (State.mem_of_offRound hoff).trans State.votedOut_mem
    · have hstp := State.votedOut_first (c := c) (s := s) fun r hr => by rw [hnone] at hr; cases hr
      rw [State.formVote_of_none (by rw [hstp, hnone]; rfl), hstp, hnone]
      rw [Option.map_none, ← hnone]
    · rw [State.abort_of_offRound hoff, State.votedOut_first (fun x hx => by rw [hr] at hx; cases hx; exact hv)]
    · rw [State.abortNext_of_offRound hoff, State.votedOut_formed hr hv]

end Sys2Proof.Machine
end

section
/-!
O8: instruction fetch (R132, R184) and the lockstep comparator (R133, R150, R151).
-/
namespace Sys2Proof.Machine

/-! ### Fetch -/

theorem worseOf_eq_double {a b : Upset} : worseOf a b = .double ↔ a = .double ∨ b = .double := by
  cases a <;> cases b <;> decide

/-- The word at the program counter with what the check of its store line left of it. -/
def State.fetchMarked (s : State) (c : CombId) (u : Upset) : State :=
  s.modSeq c fun q => { q with upsets := Sparse.set .clean q.upsets ((s.comb c).seq.pc.toNat / 8) u }

section Fetch
variable {s : State} {c : CombId} {u : Upset} (hq : (s.comb c).seq.issuing = true)
include hq

/-- A double-bit error raises ISTORE. -/
theorem exec_instructionFetch_double (hbad : u = .double ∨ Sparse.get .clean (s.comb c).seq.upsets ((s.comb c).seq.pc.toNat / 8) = .double) :
    exec (.instructionFetch c u) s =
      .next (((s.fetchMarked c .double).fault c 0x0C (s.comb c).seq.pc.toNat 0).seqRetry c true (s.comb c).seq.pc) := by
  change execInstructionFetch c u s = _
  simp only [execInstructionFetch, hq, worseOf_eq_double.2 hbad]
  rfl

/-- A word that the check passes or corrects is taken, if it is a word at all. -/
theorem exec_instructionFetch_good (hgood : ¬ (u = .double ∨ Sparse.get .clean (s.comb c).seq.upsets ((s.comb c).seq.pc.toNat / 8) = .double)) :
    exec (.instructionFetch c u) s =
      .next (if (Word.ofBits (Sparse.get 0 (s.comb c).seq.istore ((s.comb c).seq.pc.toNat / 8))).isNone then (s.fetchMarked c .clean).issueFault c 1
        else (s.fetchMarked c .clean).modSeq c fun q =>
          { q with fetched := some (Sparse.get 0 (s.comb c).seq.istore ((s.comb c).seq.pc.toNat / 8)) }) := by
  change execInstructionFetch c u s = _
  simp only [execInstructionFetch, hq, Bool.not_true, Bool.false_eq_true, if_false]
  split
  next hdouble => exact absurd (worseOf_eq_double.1 hdouble) hgood
  next => rfl

end Fetch

/-! ### Lockstep -/

/-- A comb whose words are due sooner or later. -/
theorem SeqState.executing_iff (t : SeqState) :
    (t.active && t != .armed) = true ↔ t = .running ∨ t = .waiting ∨ t = .chimeWait ∨ t = .hold := by
  cases t <;> decide

section Lockstep
variable {s : State} {c : CombId}
  (hst : (s.comb c).seq.st = .running ∨ (s.comb c).seq.st = .waiting ∨ (s.comb c).seq.st = .chimeWait ∨ (s.comb c).seq.st = .hold)
include hst

theorem exec_lockstep : exec (.lockstep c) s = .next (if (s.comb c).seq.stall = .faulting then s.fault c 0x0B (s.comb c).seq.pc.toNat 0
    else (s.fault c 0x0B (s.comb c).seq.pc.toNat 0).seqRetry c false (s.comb c).seq.pc) := by
  change execLockstep c s = _
  simp only [execLockstep, (SeqState.executing_iff _).2 hst, Bool.not_true, Bool.false_eq_true, if_false]

omit hst in
/-- With no earlier LOCKSTEP or ISTORE the comb asks for its reset and is not retired. -/
theorem State.seqRetry_first {s : State} (hfresh : (s.comb c).seqFaults = []) (istore : Bool) (addr : BitVec 18) :
    s.seqRetry c istore addr = s.modComb c fun k => { k with
      seqFaults := k.seqFaults ++ [(s.chm.n, istore, addr)]
      due := match k.due with | some d => some { d with reload := true } | none => some { cause := 2, reload := true } } := by
  unfold State.seqRetry
  simp only [hfresh, List.any_nil, Bool.and_false, Bool.or_false, Bool.false_eq_true, if_false] <;> rfl

/-- A first mismatch: the fault at the word due, and a comb reset with reload due. -/
theorem State.lockstep_first (hstall : (s.comb c).seq.stall ≠ .faulting) (hfresh : (s.comb c).seqFaults = []) :
    let q := (s.comb c).seq
    let t := (s.fault c 0x0B q.pc.toNat 0).seqRetry c false q.pc
    (t.comb c).seq.stall = .faulting ∧ getF (t.comb c).seq.fault 0 8 = 0x0B ∧ getF (t.comb c).seq.fault 8 18 = q.pc.toNat ∧
      (t.comb c).seq.wait = none ∧ (t.comb c).seq.issuing = false ∧ (t.comb c).seq.busy = q.busy ∧
      (∃ d, (t.comb c).due = some d ∧ d.reload = true) ∧ t.mem = s.mem := by
  intro q t
  have hnot : q.st ≠ .faulted := fun h => by simp [q, h] at hst
  have hfresh' : ((s.fault c 0x0B q.pc.toNat 0).comb c).seqFaults = [] := by rw [State.fault_comb]; exact hfresh
  have ht : t = _ := State.seqRetry_first hfresh' false q.pc
  have hseq : (t.comb c).seq = q.noteFault 0x0B q.pc.toNat 0 := by rw [ht, State.modComb_comb, State.fault_comb]
  obtain ⟨hstops, hwait⟩ := Seq.noteFault_stops 0x0B q.pc.toNat 0 hstall hnot
  obtain ⟨hnum, hat, -⟩ := Seq.noteFault_first hstall hnot (code := 0x0B) (addr := q.pc.toNat) (src := 0) (by decide) q.pc.isLt (by decide)
  obtain ⟨hbusy, -, -⟩ := q.noteFault_frame 0x0B q.pc.toNat 0
  rw [hseq]
  refine ⟨hstops, hnum, hat, hwait, Seq.not_issuing_of_stall (by rw [hstops]; exact Stall.noConfusion), hbusy, ?_, ?_⟩
  · rw [ht, State.modComb_comb]
    cases ((s.fault c 0x0B q.pc.toNat 0).comb c).due with
    | none => exact ⟨_, rfl, rfl⟩
    | some d => exact ⟨_, rfl, rfl⟩
  · rw [ht, State.modComb_mem, State.fault_mem]

end Lockstep

/-- Settles O8: a fetch by what the check of the stored word finds, a mismatch by whether the comb drains already. -/
theorem fetchAndLockstep : Obligations.FetchAndLockstep := by
  refine ⟨fun s c u => ?_, fun s c => ?_⟩
  · intro q i stored w mended hq
    refine ⟨fun hu hstored hword => ?_, fun hu hstored hword => ?_, exec_instructionFetch_double hq, by decide⟩
    · have hsome : ¬ (Word.ofBits w).isNone = true := by rw [Option.isNone_iff_eq_none]; exact Option.isSome_iff_ne_none.1 hword
      exact (exec_instructionFetch_good hq (not_or.mpr ⟨hu, hstored⟩)).trans (congrArg Host.Outcome.next (if_neg hsome))
    · exact (exec_instructionFetch_good hq (not_or.mpr ⟨hu, hstored⟩)).trans
        (congrArg Host.Outcome.next (if_pos (Option.isNone_iff_eq_none.2 hword)))
  · intro q
    refine ⟨fun hst hstall => ?_, fun hst hstall => ⟨_, ?_, rfl, State.lockstep_first hst hstall⟩⟩
    · rw [exec_lockstep hst, if_pos hstall]
    · rw [exec_lockstep hst, if_neg hstall]

end Sys2Proof.Machine
end

section
/-!
O9: csrr and csrw (R6, R7, R138), and the descriptor words dset, dld and dst (R188, R189).
-/
namespace Sys2Proof.Machine

section Words
variable {s : State} {c : CombId} {f : SForm}

/-! ### Control registers -/

theorem exec_csrr_none (hdue : s.due c .csrr f = true) (ha : regFor c ((s.comb c).seq.csrAddr f) = none) :
    exec (.csrr c f) s = .next (s.issueFault c 3) := by
  change execCsrr c f s = _
  rw [execCsrr, ha, State.issueS_due _ _ _ _ _ hdue]

theorem exec_csrr_some (hdue : s.due c .csrr f = true) {r : Reg} (ha : regFor c ((s.comb c).seq.csrAddr f) = some r) :
    exec (.csrr c f) s = .next ((s.meter r).wroteS c f.sd ((s.meter r).readReg r)) := by
  change execCsrr c f s = _
  rw [execCsrr, ha, State.issueS_due _ _ _ _ _ hdue]
  rfl

theorem exec_csrw_none (hdue : s.due c .csrw f = true) (ha : regFor c ((s.comb c).seq.csrAddr f) = none) :
    exec (.csrw c f) s = .next (s.issueFault c 3) := by
  change execCsrw c f s = _
  rw [execCsrw, ha, State.issueS_due _ _ _ _ _ hdue]

theorem exec_csrw_some (hdue : s.due c .csrw f = true) {r : Reg} (ha : regFor c ((s.comb c).seq.csrAddr f) = some r) :
    exec (.csrw c f) s = .next (if ownReg c r then (s.writeReg r (s.comb c).seq.s[f.sb]).passed c else s.issueFault c 4) := by
  change execCsrw c f s = _
  rw [execCsrw, ha, State.issueS_due _ _ _ _ _ hdue]
  rfl

/-! ### Descriptors -/

/-- The value that dset writes. -/
def Seq.dsetValue (q : Seq) (f : SForm) : W64 := if f.i then f.sext else q.s[f.sa]

theorem exec_dset_none (hdue : s.due c .dset f = true)
    (hd : (s.comb c).seq.d[f.sd].dset f.x.toNat ((s.comb c).seq.dsetValue f) = none) :
    exec (.dset c f) s = .next (s.issueFault c 9) := by
  change Host.Outcome.next (s.issueS c .dset f (match (s.comb c).seq.d[f.sd].dset f.x.toNat ((s.comb c).seq.dsetValue f) with
    | none => s.issueFault c 9
    | some d => s.modSeq c fun q => { q with d := q.d.set f.sd d }.advance)) = _
  rw [hd, State.issueS_due _ _ _ _ _ hdue]

theorem exec_dset_some (hdue : s.due c .dset f = true) {d : Desc}
    (hd : (s.comb c).seq.d[f.sd].dset f.x.toNat ((s.comb c).seq.dsetValue f) = some d) :
    exec (.dset c f) s = .next ((s.setD c f.sd d).passed c) := by
  change Host.Outcome.next (s.issueS c .dset f (match (s.comb c).seq.d[f.sd].dset f.x.toNat ((s.comb c).seq.dsetValue f) with
    | none => s.issueFault c 9
    | some d => s.modSeq c fun q => { q with d := q.d.set f.sd d }.advance)) = _
  rw [hd, State.issueS_due _ _ _ _ _ hdue, State.setD, State.passed, State.modSeq_modSeq]

theorem State.descOk_iff (s : State) (a : Nat) : s.descOk a = true ↔ a % 64 = 0 ∧ s.opened a 64 = true := by
  simp [State.descOk]

theorem exec_dld_due (hdue : s.due c .dld f = true) : exec (.dld c f) s = .next (
    let a := (s.comb c).seq.descAddr f
    if !s.descOk a then s.issueFault c 3
    else ((s.touch a 64).consumeIf ((s.touch a 64).poisoned a 64)).modSeq c fun q =>
      ({ q with d := q.d.set f.sd (Desc.ofBytes ((s.touch a 64).bytes a 64)) } : Seq).advance) := by
  change execDld c f s = _
  rw [execDld, State.issueS_due _ _ _ _ _ hdue]

theorem exec_dst_due (hdue : s.due c .dst f = true) : exec (.dst c f) s = .next (
    let a := (s.comb c).seq.descAddr f
    if !s.descOk a then s.issueFault c 3 else (s.store a (s.comb c).seq.d[f.sd].toBytes false).passed c) := by
  change execDst c f s = _
  rw [execDst, State.issueS_due _ _ _ _ _ hdue]
  rfl

/-- An address that no descriptor may be moved from or to. -/
theorem exec_descWord_bad {op : SOp} (hop : op = .dld ∨ op = .dst) (hdue : s.due c op f = true)
    (hbad : s.descOk ((s.comb c).seq.descAddr f) = false) : exec (wordS c f op) s = .next (s.issueFault c 3) := by
  rcases hop with rfl | rfl
  · refine (exec_dld_due hdue).trans ?_
    simp only [hbad, Bool.not_false, if_true]
  · refine (exec_dst_due hdue).trans ?_
    simp only [hbad, Bool.not_false, if_true]

end Words

/-- Settles O9: each word by its own equation, for a register address or a descriptor address that it can use and for one that it cannot. -/
theorem controlRegisterAndDescriptorWords : Obligations.ControlRegisterAndDescriptorWords := by
  refine ⟨fun s c f => ?_, fun s c f => ?_⟩
  · refine ⟨exec_csrr_none, exec_csrw_none, fun r ha => ⟨fun hdue => exec_csrr_some hdue ha, fun hdue hown => ?_, fun hdue hown => ?_⟩⟩
    · rw [exec_csrw_some hdue ha, if_neg (Bool.eq_false_iff.1 hown)]
    · rw [exec_csrw_some hdue ha, if_pos hown]
  · intro q v a
    refine ⟨exec_dset_none, fun hdue d hd => exec_dset_some hdue hd, fun op hop hdue hbad => ?_, fun hdue h64 hopen => ?_, fun hdue h64 hopen => ?_⟩
    · refine exec_descWord_bad hop hdue (Bool.eq_false_iff.2 fun hok => ?_)
      obtain ⟨h64, hopen⟩ := (s.descOk_iff a).1 hok
      simp [h64, hopen] at hbad
    · have hok : s.descOk a = true := (s.descOk_iff a).2 ⟨h64, hopen⟩
      refine ⟨_, (exec_dld_due hdue).trans (congrArg Host.Outcome.next (if_neg (by simpa [a, q, Seq.descAddr] using hok))), ?_, ?_⟩
      · rw [State.modSeq_mem, State.consumeIf_mem]
        rfl
      · rw [State.modSeq_seq, State.consumeIf_comb, (s.touch_keeps _ _).seq, State.setD, State.modSeq_seq]
        rfl
    · have hok : s.descOk a = true := (s.descOk_iff a).2 ⟨h64, hopen⟩
      exact (exec_dst_due hdue).trans (congrArg Host.Outcome.next (if_neg (by simpa [a, q, Seq.descAddr] using hok)))

end Sys2Proof.Machine
end

section
/-!
O10: frame (R145), tally (R191) and commit.prep (R192). A comb's vote leaves the round's opening and its other votes as they are, by the laws of
`State.ballot`.
-/
namespace Sys2Proof.Machine

/-! ### tally -/

/-- The request of a tally word. -/
def Seq.tallyReq (q : Seq) (f : SForm) : TallyReq :=
  { set := ⟨f.sd.val % 4, Nat.mod_lt _ (by decide)⟩, clear := f.sd.val / 4 % 2 == 1, addr := (q.s[f.sa] + f.sext).toNat, ce := f.ce
    cnt := BitVec.ofNat 8 f.cnt.val, image := none }

/-- A census whose snapshot is taken with no request before it. -/
def Ext.taken (x : Ext) (r : TallyReq) (frame : W64) : Ext := { (x.take r frame).1 with tally := [(x.take r frame).2] }

/-- A change of a comb is known by what it makes of that comb. -/
theorem State.modComb_congr {s : State} {c : CombId} {f g : Comb → Comb} (h : f (s.comb c) = g (s.comb c)) : s.modComb c f = s.modComb c g :=
  congrArg (fun k => ({ s with combs := s.combs.set c k } : State)) h

section Tally
variable {s : State} {c : CombId} {f : SForm} (hdue : s.due c .tally f = true)
include hdue

theorem exec_tally_bad (hbad : ((s.comb c).seq.s[f.sa] + f.sext).toNat % 64 ≠ 0 ∨ ((s.comb c).seq.s[f.sa] + f.sext).toNat < combBase c ∨
    combBase c + 0x03C00000 < ((s.comb c).seq.s[f.sa] + f.sext).toNat + 640) : exec (.tally c f) s = .next (s.issueFault c 3) := by
  change execTally c f s = _
  rw [execTally, State.issueS_due _ _ _ _ _ hdue]
  exact congrArg Host.Outcome.next (if_pos hbad)

/-- With no other request the snapshot is taken at once. -/
theorem exec_tally_alone (halign : ((s.comb c).seq.s[f.sa] + f.sext).toNat % 64 = 0) (hlow : combBase c ≤ ((s.comb c).seq.s[f.sa] + f.sext).toNat)
    (hhigh : ((s.comb c).seq.s[f.sa] + f.sext).toNat + 640 ≤ combBase c + 0x03C00000) (hnone : (s.comb c).ext.tally = []) :
    exec (.tally c f) s = .next (s.modComb c fun k => { k with ext := k.ext.taken (k.seq.tallyReq f) k.seq.frameN, seq := k.seq.advance }) := by
  change execTally c f s = _
  rw [execTally, State.issueS_due _ _ _ _ _ hdue]
  dsimp only
  rw [if_neg (by omega), State.modExt, State.modSeq, State.modComb_modComb]
  refine congrArg Host.Outcome.next (State.modComb_congr ?_)
  simp only [hnone, List.any_nil, Bool.false_eq_true, if_false, Ext.enqueue, Ext.taken, Ext.take, List.filter_nil, List.nil_append]
  rfl

end Tally
/-- A dropped key is listed no more. -/
theorem Sparse.not_mem_drop {α : Type} {p : Nat → Bool} {key : Nat} (m : List (Nat × α)) (hkey : p key = true) :
    key ∉ (Sparse.drop p m).map (·.1) := by
  rw [Sparse.drop, List.mem_map]
  rintro ⟨x, hx, rfl⟩
  simp [hkey] at hx

theorem exec_tallySnapshotDone_last {s : State} {c : CombId} {r : TallyReq} {bs : List Byte} (hreq : (s.comb c).ext.tally = [r])
    (himage : r.image = some bs) : exec (.tallySnapshotDone c) s = .next (if r.ce then
      ((s.store r.addr bs false).modExt c fun x => { x with tally := [] }).bump c (cntIx r.cnt) 1
      else (s.store r.addr bs false).modExt c fun x => { x with tally := [] }) := by
  change execTallySnapshotDone c s = _
  simp only [execTallySnapshotDone, hreq, himage, List.find?_nil]

/-! ### commit.prep -/

/-- The comb's vote is entered where the round knows the comb. -/
def Round.voted (c : CombId) (v : Bool) (vs : List (CombId × Option Bool)) : List (CombId × Option Bool) :=
  vs.map fun x => if x.1 = c ∧ x.2 = none then (c, some v) else x

/-- What a comb's vote does to the round. -/
def Round.enter (c : CombId) (v : Bool) (r : Round) : Round :=
  if r.voters.any fun x => x.1 == c then { r with voters := Round.voted c v r.voters } else { r with voters := r.voters ++ [(c, some v)] }

/-- A voter's vote enters the round. -/
theorem State.combVote_ballot {s : State} {c : CombId} (v : Bool) {o cfg : W64} {vs : List (CombId × Option Bool)}
    (hb : s.ballot = (s.stp.step, some (s.stp.step, o, cfg, vs))) (hc : vs.any (fun x => x.1 == c) = true) :
    (s.combVote c v).ballot = (s.stp.step, some (s.stp.step, o, cfg, Round.voted c v vs)) := by
  obtain ⟨r, hr, hrb⟩ := Option.map_eq_some_iff.1 (congrArg Prod.snd hb)
  obtain ⟨hstep, hopen, hcfg, rfl⟩ : r.step = s.stp.step ∧ r.openedAt = o ∧ r.cfg = cfg ∧ r.voters = vs := by simpa using hrb
  set u := s.modRound (Round.enter c v) with hu
  have hub : u.ballot = (u.stp.step, some (u.stp.step, o, cfg, Round.voted c v r.voters)) := by
    rw [hu, State.ballot, State.modRound, hr]
    simp only [Option.map_some, Round.enter, if_pos hc, hstep, hopen, hcfg, Round.voted]
  have hsome : u.roundNow.isSome = true := State.roundNow_isSome_iff.2 ⟨_, hub⟩
  exact (State.formVote_ballot (.inl hsome)).trans hub

theorem State.combVote_offRound (s : State) (c : CombId) (v : Bool) : (s.combVote c v).offRound = s.offRound :=
  (State.formVote_offRound _).trans (s.modRound_offRound _)

theorem State.roundFor_offRound (s : State) : s.roundFor.offRound = s.offRound := by
  unfold State.roundFor
  split
  · rfl
  · rw [State.decideRound_offRound, State.needRound_offRound]

/-- A round that opens asks the combs that run now. -/
theorem State.roundFor_ballot {s : State} (hnone : s.roundNow = none) :
    s.roundFor.ballot = (s.stp.step, some (s.stp.step, s.chm.n, s.stp.cfg, s.votersNow)) := by
  have hopened : s.needRound = s.openRound s.stp.step := by simp [State.needRound, hnone]
  have hfor : s.roundFor = (s.openRound s.stp.step).decideRound := by simp [State.roundFor, hnone, hopened]
  have hb : (s.openRound s.stp.step).ballot = (s.stp.step, some (s.stp.step, s.chm.n, s.stp.cfg, s.votersNow)) := rfl
  rw [hfor, State.decideRound_ballot (.inl (State.roundNow_isSome_iff.2 ⟨_, hb⟩)), hb]

theorem State.votersNow_any {s : State} {c : CombId} (hrun : (s.comb c).seq.st = .running) :
    s.votersNow.any (fun x => x.1 == c) = true := by
  simp [State.votersNow, hrun, SeqState.active]

theorem Seq.issuing_iff (q : Seq) : q.issuing = true ↔ q.st = .running ∧ q.stall = .none ∧ q.wait = none := by
  simp [Seq.issuing, and_assoc]

/-- What a comb votes at commit.prep (R192). -/
def State.prepVote (s : State) (c : CombId) (f : SForm) : Bool :=
  (s.comb c).seq.pred f.pred && decide (getF (s.comb c).vecStatus 0 1 = 0) && decide (getF (s.comb c).crrStatus 0 1 = 0) &&
    decide ((s.comb c).seq.s[f.sa] = s.stp.step)

/-- What commit.prep does to the sequencer. -/
def Seq.prepared (f : SForm) (q : Seq) : Seq := { q.advance with vote := some (f.sd, f.ce, BitVec.ofNat 8 f.cnt.val) }

section CommitPrep
variable {s : State} {c : CombId} {f : SForm} (hq : (s.comb c).seq.issuing = true) (hill : f.illegal .commitPrep = false)
include hq hill

theorem exec_commitPrep_held (hheld : (s.comb c).seq.held (if (s.comb c).seq.pred f.pred then [f.sd, f.sa] else [f.sd]) = true) :
    exec (.commitPrep c f) s = .next s := by
  change execCommitPrep c f s = _
  simp only [execCommitPrep, hq, hill, sRegs, hheld, Bool.not_true, Bool.false_eq_true, if_false, if_true]

theorem exec_commitPrep_second (hheld : (s.comb c).seq.held (if (s.comb c).seq.pred f.pred then [f.sd, f.sa] else [f.sd]) = false)
    (hvote : (s.comb c).seq.vote ≠ none) : exec (.commitPrep c f) s = .next (s.issueFault c 5) := by
  change execCommitPrep c f s = _
  simp only [execCommitPrep, hq, hill, sRegs, hheld, Option.isSome_iff_ne_none.2 hvote, Bool.not_true, Bool.false_eq_true, if_false, true_or, if_true]

/-- A voter's commit.prep enters its vote, after an event where it names another step. -/
theorem exec_commitPrep_votes (hvote : (s.comb c).seq.vote = none) {r : Round} (hr : s.roundFor.stp.round = some r)
    (hc : r.voters.any (fun x => x.1 == c) = true) : ∃ u, s.roundFor.Tells u ∧
      exec (.commitPrep c f) s = .next ((u.modSeq c (Seq.prepared f)).combVote c (s.prepVote c f)) := by
  refine ⟨if (s.comb c).seq.pred f.pred && !((s.comb c).seq.s[f.sa] == s.stp.step) then s.roundFor.record (.badStep c) else s.roundFor, ?_, ?_⟩
  · split
    · exact State.record_tells _ _
    · exact .refl _
  · have hheld : ∀ rs, (s.comb c).seq.held rs = false := fun rs => by rw [Seq.held, hvote]
    have hsame : ((s.comb c).seq.s[f.sa] == s.stp.step) = decide ((s.comb c).seq.s[f.sa] = s.stp.step) := rfl
    change execCommitPrep c f s = _
    simp only [execCommitPrep, hq, hill, hheld, hvote, hr, hc, Bool.not_true, Bool.and_false, Bool.false_eq_true, if_false, Option.isSome_none, or_self]
    rfl

theorem commitPrep_voted (hvote : (s.comb c).seq.vote = none) {o cfg : W64} {vs : List (CombId × Option Bool)}
    (hb : s.roundFor.ballot = (s.stp.step, some (s.stp.step, o, cfg, vs))) (hc : vs.any (fun x => x.1 == c) = true) :
    ∃ t r', exec (.commitPrep c f) s = .next t ∧ (t.comb c).seq = Seq.prepared f (s.comb c).seq ∧ t.stp.round = some r' ∧
      (r'.step, r'.openedAt, r'.cfg) = (s.stp.step, o, cfg) ∧ r'.voters = Round.voted c (s.prepVote c f) vs := by
  obtain ⟨r, hr, hrb⟩ := Option.map_eq_some_iff.1 (congrArg Prod.snd hb)
  obtain ⟨-, -, -, rfl⟩ : r.step = s.stp.step ∧ r.openedAt = o ∧ r.cfg = cfg ∧ r.voters = vs := by simpa using hrb
  obtain ⟨u, hu, hexec⟩ := exec_commitPrep_votes hq hill hvote hr hc
  have hcomb : u.comb c = s.comb c := (hu.comb c).trans (State.comb_of_offRound s.roundFor_offRound c)
  set p := u.modSeq c (Seq.prepared f) with hp
  have hpstp : p.stp = s.roundFor.stp := (u.modSeq_stp _ _).trans (State.stp_of_still hu.still)
  have hstep : p.stp.step = s.stp.step := (congrArg (·.step) hpstp).trans (State.step_of_offRound s.roundFor_offRound)
  have hpb : p.ballot = (p.stp.step, some (p.stp.step, o, cfg, r.voters)) := by rw [State.ballot_of_stp hpstp, hb, hstep]
  have hvb := State.combVote_ballot (s.prepVote c f) hpb hc
  obtain ⟨r', hr', hrb'⟩ := Option.map_eq_some_iff.1 (congrArg Prod.snd hvb)
  obtain ⟨hs', ho', hc', hv'⟩ : r'.step = p.stp.step ∧ r'.openedAt = o ∧ r'.cfg = cfg ∧ r'.voters = Round.voted c (s.prepVote c f) r.voters := by
    simpa using hrb'
  refine ⟨_, r', hexec, ?_, hr', by rw [hs', ho', hc', hstep], hv'⟩
  rw [State.comb_of_offRound (p.combVote_offRound c _) c, hp, State.modSeq_seq, hcomb]

end CommitPrep

/-- Settles O10: frame and tally are branches of `issueS`; the votes go through `State.combVote_ballot`. -/
theorem frameTallyAndCommitWords : Obligations.FrameTallyAndCommitWords := by
  intro s c f
  refine ⟨fun hdue => ?_, fun hdue hbad => exec_tally_bad hdue hbad, fun hdue halign hlow hhigh hnone => ?_, fun r bs hreq himage => ?_,
    fun hq hill hvote => ⟨fun r hr hstep hc => ?_, fun hnone => ?_⟩, fun hq hill hheld => exec_commitPrep_held hq hill hheld,
    fun hq hill hheld hvote => ⟨_, exec_commitPrep_second hq hill hheld hvote, ?_⟩⟩
  · exact congrArg Host.Outcome.next (State.issueS_due _ _ _ _ _ hdue)
  · refine ⟨_, ((s.comb c).ext.take ((s.comb c).seq.tallyReq f) (s.comb c).seq.frameN).2, exec_tally_alone hdue halign hlow hhigh hnone, ?_, ?_, ?_,
      ?_, rfl, fun hkeep => ?_, fun hclear key hkey => ?_⟩
    · rw [State.onlyComb, State.modComb_comb]
      exact State.modComb_congr rfl
    · rw [State.modComb_comb]
    · rw [State.modComb_comb]
      rfl
    · have hcnt : (BitVec.ofNat 8 f.cnt.val).toNat = f.cnt.val := Nat.mod_eq_of_lt f.cnt.isLt
      exact Prod.ext rfl (Prod.ext rfl (Prod.ext rfl (Prod.ext rfl hcnt)))
    · rw [State.modComb_comb]
      exact if_neg (Bool.eq_false_iff.1 hkeep)
    · rw [State.modComb_comb]
      have hc : ((s.comb c).seq.tallyReq f).clear = true := hclear
      simp only [Ext.taken, Ext.take, hc, if_true]
      exact Sparse.not_mem_drop _ hkey
  · refine ⟨_, exec_tallySnapshotDone_last hreq himage, ?_, ?_, ?_⟩
    · split
      · rw [State.bump, State.modSeq, State.modExt, State.modComb_modComb, State.modComb_comb]
      · rw [State.modExt, State.modComb_comb]
    · split <;> simp
    · have hseq := (s.store_keeps r.addr bs false).seq c
      split
      · rw [State.bump, State.modSeq_seq, State.modExt_seq, hseq]
        rfl
      · rw [State.modExt_seq, hseq]
  · have hopen : s.roundNow.isSome = true := by simp [State.roundNow, hr, Option.filter, hstep]
    have hfor : s.roundFor = s := if_pos hopen
    have hb : s.roundFor.ballot = (s.stp.step, some (s.stp.step, r.openedAt, r.cfg, r.voters)) := by
      rw [hfor, State.ballot, hr, Option.map_some, hstep]
    obtain ⟨t, r', hexec, hseq, hr', -, hv⟩ := commitPrep_voted hq hill hvote hb hc
    exact ⟨t, r', hexec, hseq, hr', hv⟩
  · exact commitPrep_voted hq hill hvote (State.roundFor_ballot hnone) (State.votersNow_any ((Seq.issuing_iff _).1 hq).1)
  · obtain ⟨hrun, hstall, -⟩ := (Seq.issuing_iff _).1 hq
    have hs : (s.comb c).seq.stall ≠ .faulting := by simp [hstall]
    have hf : (s.comb c).seq.st ≠ .faulted := by simp [hrun]
    rw [State.issueFault, State.fault_comb]
    exact ⟨(Seq.noteFault_first hs hf (by decide) (s.comb c).seq.pc.isLt (by decide)).1, (Seq.noteFault_stops _ _ _ hs hf).1⟩

end Sys2Proof.Machine
end

section
/-!
O11: a due tensor word enters its queue (R136, R140).
-/
namespace Sys2Proof.Machine

theorem Seq.enqueue_queueOf (q : Seq) (i j : Fin 4) (e : QEntry) : (q.enqueue i e).queueOf j = q.queueOf j ++ if j = i then [e] else [] := by
  fin_cases i <;> fin_cases j <;> simp [Seq.enqueue, Seq.queueOf]

/-- A sequencer without its queues of instructions. -/
def Seq.unqueued (q : Seq) : Seq := { q with qMat := [], qVec := [], qCrr := [], qFab := [] }

theorem Seq.enqueue_unqueued (q : Seq) (i : Fin 4) (e : QEntry) : (q.enqueue i e).unqueued = q.unqueued := by
  fin_cases i <;> rfl

/-- The entry that a tensor word makes, with the operands read now. -/
def State.tensorEntry (s : State) (c : CombId) (k : TKind) (f : TForm) : QEntry :=
  { pc := (s.comb c).seq.pc, ce := f.ce, cnt := f.cnt, op := s.tensorOp c k f }

/-- What entering a queue does to the sequencer. -/
def Seq.entered (q : Seq) (i : Fin 4) (e : QEntry) : Seq :=
  { ({ q.enqueue i e with wait := none } : Seq).advance with busy := q.busy.set i (q.busy[i] + 1) }

/-- What a tensor word does to its comb. -/
def Comb.entered (k : TKind) (f : TForm) (e : QEntry) (kb : Comb) : Comb :=
  { kb with seq := kb.seq.entered k.queue e, mat := { kb.mat with judged := kb.judge k f } }

theorem Seq.entered_queueOf (q : Seq) (i j : Fin 4) (e : QEntry) : (q.entered i e).queueOf j = q.queueOf j ++ if j = i then [e] else [] := by
  rw [← Seq.enqueue_queueOf]
  fin_cases j <;> rfl

/-- But for queues, counts, the stalled word and the place in the program, entering a queue leaves a sequencer. -/
theorem Seq.entered_unqueued (q : Seq) (i : Fin 4) (e : QEntry) :
    (q.entered i e).unqueued = { q.advance.unqueued with wait := none, busy := q.busy.set i (q.busy[i] + 1) } :=
  congrArg (fun r : Seq => { r.advance with wait := none, busy := q.busy.set i (q.busy[i] + 1) }) (q.enqueue_unqueued i e)

theorem State.seqMark_combs (s : State) (k : TKind) (f : TForm) : (s.seqMark k f).combs = s.combs := by
  unfold State.seqMark
  split <;> rfl

theorem State.seqMark_mem (s : State) (k : TKind) (f : TForm) : (s.seqMark k f).mem = s.mem := by
  unfold State.seqMark
  split <;> rfl

/-- Every tensor word but coll and bar changes its comb and at most SEAL_STATUS.SEQT. -/
theorem State.enterQueue_eq (s : State) (c : CombId) {k : TKind} (f : TForm) (hcoll : k ≠ .coll) (hbar : k ≠ .bar) :
    s.enterQueue c k f = (s.modComb c (Comb.entered k f (s.tensorEntry c k f))).seqMark k f := by
  have hlocal (t : State) (e : QEntry) : t.fabricIssued c k e = t := by
    cases k with
    | coll => exact absurd rfl hcoll
    | bar => exact absurd rfl hbar
    | _ => rfl
  rw [State.enterQueue, hlocal, State.busyAdd, State.modSeq, State.modComb_modComb]
  refine congrArg (fun t : State => t.seqMark k f) (State.modComb_congr ?_)
  have hbusy : (((s.comb c).seq.enqueue k.queue (s.tensorEntry c k f))).busy = (s.comb c).seq.busy :=
    (congrArg Seq.busy (Seq.enqueue_unqueued (s.comb c).seq k.queue (s.tensorEntry c k f)) :)
  rw [Comb.entered, Seq.entered, ← hbusy]
  rfl

theorem exec_wordT_due {s : State} {c : CombId} {k : TKind} {f : TForm} (hdue : s.dueT c k f = true) :
    exec (wordT c f k) s = .next (s.enterQueue c k f) := by
  simp only [State.dueT, Bool.and_eq_true, Bool.not_eq_true', decide_eq_true_eq, beq_iff_eq] at hdue
  obtain ⟨⟨⟨⟨⟨hq, hill⟩, hp⟩, hheld⟩, hroom⟩, hfault⟩ := hdue
  rw [exec_wordT]
  simp only [State.issueT, State.tryTensor, hq, hill, hp, hheld, hfault, if_neg (Nat.not_le.2 hroom), Bool.false_eq_true, if_true, if_false]

/-- Settles O11: the word's entry is the one change, seen on its comb. -/
theorem tensorWordsEnterTheirQueue : Obligations.TensorWordsEnterTheirQueue := by
  intro s c k f hcoll hbar hdue
  have hcomb (d : CombId) : (s.enterQueue c k f).comb d = (s.modComb c (Comb.entered k f (s.tensorEntry c k f))).comb d := by
    rw [s.enterQueue_eq c f hcoll hbar]
    exact congrArg (·[d]) (State.seqMark_combs _ k f)
  have hself : (s.enterQueue c k f).comb c = (s.comb c).entered k f (s.tensorEntry c k f) := by rw [hcomb, State.modComb_comb]
  have hseq := Seq.entered_unqueued (s.comb c).seq k.queue (s.tensorEntry c k f)
  refine ⟨_, exec_wordT_due hdue, ?_, fun j hj => ?_, ?_, ?_, ?_, ?_, fun d hd => ?_, ?_⟩
  · rw [hself]
    exact (Seq.entered_queueOf _ _ _ _).trans (by rw [if_pos rfl]; rfl)
  · rw [hself]
    exact (Seq.entered_queueOf _ _ _ _).trans (by rw [if_neg hj, List.append_nil])
  · rw [hself]
    rfl
  · rw [hself]
    exact (congrArg (fun q : Seq => (q.pc, q.loops)) hseq :)
  · rw [hself]
    exact (congrArg (fun q : Seq => (q.st, q.stall, q.s, q.d, q.p, q.cnt, q.fault)) hseq :)
  · rw [hself]
    rfl
  · rw [hcomb, State.modComb_comb_ne _ _ hd]
  · rw [s.enterQueue_eq c f hcoll hbar, State.seqMark_mem, State.modComb_mem]

end Sys2Proof.Machine
end

section
/-!
O56: orders for programs, chimes, seals and the root (R147, R154, R155, R290, R294, R311, R312). A fold over the combs of a mask is read comb by
comb; what it leaves of the chip is the view `State.chassis`.
-/
namespace Sys2Proof.Machine

/-! ### Folds over combs -/

/-- The state without its combs, and without what events, notices and the device state bring. -/
def State.chassis (s : State) : State := { s.still with combs := Vector.replicate 64 {} }

theorem State.chassis_of_still {s t : State} (h : t.still = s.still) : t.chassis = s.chassis :=
  congrArg (fun x : State => { x with combs := Vector.replicate 64 {} }) h

theorem State.modSeq_chassis (s : State) (c : CombId) (f : Seq → Seq) : (s.modSeq c f).chassis = s.chassis := rfl

theorem State.setSeqSt_chassis (s : State) (c : CombId) (t : SeqState) : (s.setSeqSt c t).chassis = s.chassis :=
  (State.chassis_of_still (s.setSeqSt_still c t)).trans (s.modSeq_chassis c _)

theorem State.loadComb_still (s : State) (c : CombId) (im : Image) : (s.loadComb c im).still = (s.modSeq c fun q => q.loadedWith im).still := by
  rw [State.loadComb_eq, State.refresh_still]

/-- What a fold that changes each comb once makes of the combs. -/
theorem State.foldl_comb {g : State → CombId → State} {F : Comb → Comb}
    (hg : ∀ (u : State) c d, (g u c).comb d = if d = c then F (u.comb d) else u.comb d) {cs : List CombId} (hcs : cs.Nodup) (s : State)
    (d : CombId) : (cs.foldl g s).comb d = if d ∈ cs then F (s.comb d) else s.comb d := by
  induction cs generalizing s with
  | nil => rfl
  | cons c cs ih =>
    obtain ⟨hc, hnodup⟩ := List.nodup_cons.1 hcs
    rw [List.foldl_cons, ih hnodup, hg]
    by_cases hd : d = c
    · rw [hd, if_neg hc, if_pos rfl, if_pos List.mem_cons_self]
    · simp [hd]

theorem maskCombs_nodup (m : W64) : (maskCombs m).Nodup := (List.nodup_finRange 64).filter _

/-- What a change of one sequencer makes of every comb. -/
theorem State.modSeq_comb_if (s : State) (c d : CombId) (f : Seq → Seq) :
    (s.modSeq c f).comb d = if d = c then { s.comb d with seq := f (s.comb d).seq } else s.comb d := by
  split
  next h => rw [h, State.modSeq, State.modComb_comb]
  next h => exact State.modSeq_comb_ne _ _ h

/-! ### What an order that is executed finds -/

section Heard
variable (s : State) (h : OrderHdr)

@[simp] theorem State.heard_combs : (s.heard h).combs = s.combs := by
  obtain ⟨e, w, he⟩ := s.heard_eq h
  rw [he]

@[simp] theorem State.heard_comb (c : CombId) : (s.heard h).comb c = s.comb c := congrArg (·[c]) (s.heard_combs h)

@[simp] theorem State.heard_seals : (s.heard h).seals = s.seals := by
  obtain ⟨e, w, he⟩ := s.heard_eq h
  rw [he]

@[simp] theorem State.heard_loads : (s.heard h).eth.loads = s.eth.loads := by
  obtain ⟨l, c, n, he⟩ := s.heard_parts h
  rw [he]

end Heard

theorem State.Answers.loads {s t : State} (h : s.Answers t) : t.eth.loads = s.eth.loads := (congrArg (·.eth.loads) h.mute :)
theorem State.Answers.chm {s t : State} (h : s.Answers t) : t.chm = s.chm := (congrArg State.chm h.mute :)
theorem State.Keeps.loads {s t : State} (h : s.Keeps t) : t.eth.loads = s.eth.loads := (congrArg (·.eth.loads) h.hull :)
theorem State.loads_of_chassis {s t : State} (h : t.chassis = s.chassis) : t.eth.loads = s.eth.loads := (congrArg (·.eth.loads) h :)

/-! ### LOAD (R154) -/

theorem SeqState.loadable_iff (t : SeqState) : t.loadable = true ↔ t ∈ [SeqState.empty, .loaded, .halted, .faulted] := by
  cases t <;> decide

theorem SeqState.startable_iff (t : SeqState) : t.startable = true ↔ t ∈ [SeqState.loaded, .halted, .faulted] := by
  cases t <;> decide

/-- A comb of a mask is in a state that its test lets pass, or all are. -/
theorem any_not_iff {α : Type} {l : List α} {p : α → Bool} {P : α → Prop} (h : ∀ x, p x = true ↔ P x) :
    (l.any fun x => !p x) = true ↔ ∃ x ∈ l, ¬ P x := by
  simp [List.any_eq_true, ← h]

/-- One comb of a LOAD. -/
def State.loadOne (im : Image) (s : State) (c : CombId) : State := (s.loadComb c im).setSeqSt c .loading

/-- A comb with its image on the way. -/
def Comb.loadingWith (im : Image) (k : Comb) : Comb := { k with seq := { k.seq.loadedWith im with st := .loading } }

theorem State.loadOne_comb (im : Image) (s : State) (c d : CombId) :
    (s.loadOne im c).comb d = if d = c then (s.comb d).loadingWith im else s.comb d := by
  rw [State.loadOne, State.comb_of_still (State.setSeqSt_still _ _ _), State.modSeq_comb_if, State.comb_of_still (s.loadComb_still c im),
    State.modSeq_comb_if]
  split <;> rfl

theorem State.loadOne_chassis (im : Image) (s : State) (c : CombId) : (s.loadOne im c).chassis = s.chassis := by
  rw [State.loadOne, State.setSeqSt_chassis, State.chassis_of_still (s.loadComb_still c im), State.modSeq_chassis]

/-- What an accepted LOAD does once the combs may change and the image was read. -/
def State.loadRead (h : OrderHdr) (img : BitVec 48) (combs : W64) : Option Image × State → State
  | (none, u) => u.refuse h 0x07 true .range .none
  | (some im, t1) =>
    let t2 := (maskCombs combs).foldl (fun (u : State) c => u.loadOne im c) t1
    ({ t2 with eth := { t2.eth with loads := t2.eth.loads ++ [⟨h.seq, combs, img.toNat⟩] } } : State).reply h 0x07 .ok .none

/-- What an accepted LOAD does. -/
def State.loadRun (h : OrderHdr) (img : BitVec 48) (combs : W64) (t : State) : State :=
  if (maskCombs combs).any fun c => !(t.comb c).seq.st.loadable then t.refuse h 0x07 true .state .none
  else State.loadRead h img combs (t.readImage img.toNat)

section Load
variable {s : State} {h : OrderHdr} {img : BitVec 48} {combs : W64} (hacc : s.accepts (.load h img combs) = true)
include hacc

theorem exec_load_runs : exec (.load h img combs) s = .next ((s.heard h).loadRun h img combs) :=
  exec_order_runs hacc (u := { code := 0x07, body := Config.orderBody 0x07 [img.toNat, combs.toNat], states := workStates })
    (run := fun t => t.loadRun h img combs) rfl rfl rfl

theorem exec_load_busy (hbusy : ∃ c ∈ maskCombs combs, (s.comb c).seq.st ∉ [SeqState.empty, .loaded, .halted, .faulted]) :
    exec (.load h img combs) s = .next ((s.heard h).refuse h 0x07 true .state .none) := by
  rw [exec_load_runs hacc]
  refine congrArg Host.Outcome.next (if_pos ((any_not_iff fun c => SeqState.loadable_iff _).2 ?_))
  simpa using hbusy

theorem exec_load_free (hfree : ∀ c ∈ maskCombs combs, (s.comb c).seq.st ∈ [SeqState.empty, .loaded, .halted, .faulted]) :
    exec (.load h img combs) s = .next (State.loadRead h img combs ((s.heard h).readImage img.toNat)) := by
  rw [exec_load_runs hacc]
  refine congrArg Host.Outcome.next (if_neg fun hany => ?_)
  obtain ⟨c, hc, hno⟩ := (any_not_iff fun c => SeqState.loadable_iff _).1 hany
  exact hno (by simpa using hfree c hc)

end Load

theorem State.loadRead_none (h : OrderHdr) (img : BitVec 48) (combs : W64) {r : Option Image × State} (hr : r.1 = none) :
    State.loadRead h img combs r = r.2.refuse h 0x07 true .range .none := by
  obtain ⟨im, t⟩ := r
  subst hr
  rfl

/-- The combs of the mask are LOADING with the image's program, the others as they were, and the load is under way. -/
theorem State.loadRead_some (h : OrderHdr) (img : BitVec 48) (combs : W64) {im : Image} {r : Option Image × State} (hr : r.1 = some im) :
    (∀ c, (State.loadRead h img combs r).comb c = if c ∈ maskCombs combs then (r.2.comb c).loadingWith im else r.2.comb c) ∧
      (State.loadRead h img combs r).eth.loads = r.2.eth.loads ++ [⟨h.seq, combs, img.toNat⟩] := by
  obtain ⟨im', t⟩ := r
  subst hr
  refine ⟨fun c => ?_, ?_⟩
  · exact ((State.reply_answers _ _ _ _ _).comb c).trans (State.foldl_comb (State.loadOne_comb im) (maskCombs_nodup combs) t c)
  · have hloads := State.loads_of_chassis (foldl_keeps State.chassis _ (State.loadOne_chassis im) (maskCombs combs) t)
    exact (State.reply_answers _ _ _ _ _).loads.trans (congrArg (· ++ _) hloads)

/-! ### The end of a load -/

/-- One comb of a load that ends: a comb that a reset took stays. -/
def State.loadEnds (s : State) (c : CombId) : State := if (s.comb c).seq.st = .loading then s.setSeqSt c .loaded else s

/-- A comb whose load has ended. -/
def Comb.loadEnded (k : Comb) : Comb := if k.seq.st = .loading then { k with seq := { k.seq with st := .loaded } } else k

theorem State.loadEnds_comb (s : State) (c d : CombId) : (s.loadEnds c).comb d = if d = c then (s.comb d).loadEnded else s.comb d := by
  unfold State.loadEnds Comb.loadEnded
  by_cases hd : d = c
  · subst hd
    rw [if_pos rfl]
    split
    · rw [State.comb_of_still (State.setSeqSt_still _ _ _), State.modSeq_comb_if, if_pos rfl]
    · rfl
  · rw [if_neg hd]
    split
    · rw [State.comb_of_still (State.setSeqSt_still _ _ _), State.modSeq_comb_if, if_neg hd]
    · rfl

theorem State.loadEnds_chassis (s : State) (c : CombId) : (s.loadEnds c).chassis = s.chassis := by
  unfold State.loadEnds
  split
  · exact s.setSeqSt_chassis c _
  · rfl

/-- The state once a load's combs have it. -/
def State.loadDone (s : State) (j : LoadJob) : State :=
  (maskCombs j.combs).foldl State.loadEnds { s with eth := { s.eth with loads := s.eth.loads.erase j } }

theorem State.loadDone_chassis (s : State) (j : LoadJob) :
    (s.loadDone j).chassis = ({ s with eth := { s.eth with loads := s.eth.loads.erase j } } : State).chassis :=
  foldl_keeps State.chassis _ State.loadEnds_chassis _ _

theorem State.loadDone_comb (s : State) (j : LoadJob) (c : CombId) :
    (s.loadDone j).comb c = if c ∈ maskCombs j.combs then (s.comb c).loadEnded else s.comb c :=
  State.foldl_comb State.loadEnds_comb (maskCombs_nodup j.combs) _ c

section LoadComplete
variable {s : State} {seq : BitVec 32}

theorem exec_loadComplete_none (hj : (s.eth.loads.find? fun j => j.seq == seq) = none) : exec (.loadComplete seq) s = .next s := by
  change execLoadComplete seq s = _
  simp only [execLoadComplete, hj]

theorem exec_loadComplete_whole {j : LoadJob} (hj : (s.eth.loads.find? fun j => j.seq == seq) = some j)
    (hwhole : ∀ c ∈ maskCombs j.combs, (s.comb c).seq.st = .loading) :
    exec (.loadComplete seq) s = .next ((s.loadDone j).notice (.load j.seq j.combs)) := by
  have hall : ((maskCombs j.combs).all fun c => (s.comb c).seq.st == .loading) = true := by simpa [List.all_eq_true] using hwhole
  change execLoadComplete seq s = _
  simp only [execLoadComplete, hj, hall, if_true]
  rfl

end LoadComplete

/-! ### START (R155) -/

/-- With an active comb a READY or RUNNING device is RUNNING. -/
theorem State.refresh_active {s : State} (hst : s.dev.st = .ready ∨ s.dev.st = .running) {c : CombId}
    (hact : (s.comb c).seq.st.active = true) : s.refresh.dev.st = .running := by
  have hany : (s.combs.toList.any fun k => k.seq.st.active) = true := List.any_eq_true.2 ⟨s.comb c, by simp [State.comb], hact⟩
  unfold State.refresh
  dsimp only
  rw [hany]
  rcases hst with hready | hrun
  · rw [if_pos ⟨hready, rfl⟩, State.setDev_dev]
  · rw [if_neg (by simp [hrun]), if_neg (by simp), hrun]

/-- The combs of a start are armed. -/
def State.armAll (s : State) (cs : List CombId) (chime : W64) (v : Vector W64 8) : State :=
  cs.foldl (fun (u : State) c => u.modSeq c fun q => q.arm chime v) s

theorem State.armAll_comb (s : State) (combs chime : W64) (v : Vector W64 8) (c : CombId) : (s.armAll (maskCombs combs) chime v).comb c =
    if c ∈ maskCombs combs then { s.comb c with seq := (s.comb c).seq.arm chime v } else s.comb c :=
  State.foldl_comb (F := fun k => { k with seq := k.seq.arm chime v }) (fun u c d => u.modSeq_comb_if c d _) (maskCombs_nodup combs) s c

theorem State.armAll_dev (s : State) (cs : List CombId) (chime : W64) (v : Vector W64 8) : (s.armAll cs chime v).dev = s.dev :=
  foldl_keeps State.dev _ (fun u c => u.modSeq_dev c _) cs s

/-- What an accepted START does. -/
def State.startRun (h : OrderHdr) (combs chime : W64) (v : Vector W64 8) (t : State) : State :=
  if ((maskCombs combs).any fun c => !(t.comb c).seq.st.startable) || !t.future chime then t.refuse h 0x08 true .state .none
  else (t.armAll (maskCombs combs) chime v).refresh.reply h 0x08 .ok .none

section Start
variable {s : State} {h : OrderHdr} {combs chime : W64} {v : Vector W64 8} (hacc : s.accepts (.start h combs chime v) = true)
include hacc

theorem exec_start_runs : exec (.start h combs chime v) s = .next ((s.heard h).startRun h combs chime v) :=
  exec_order_runs hacc (u := { code := 0x08, body := Config.orderBody 0x08 (combs.toNat :: chime.toNat :: v.toList.map (·.toNat)),
                               states := [.ready, .running] })
    (run := fun t => t.startRun h combs chime v) rfl rfl rfl

theorem start_state : s.dev.st = .ready ∨ s.dev.st = .running := by
  have hst := State.accepts_state hacc (u := { code := 0x08, body := Config.orderBody 0x08 (combs.toNat :: chime.toNat :: v.toList.map (·.toNat)),
                                               states := [.ready, .running] }) rfl
  simpa using hst

theorem exec_start_refused (hno : (∃ c ∈ maskCombs combs, (s.comb c).seq.st ∉ [SeqState.loaded, .halted, .faulted]) ∨ s.past chime = true) :
    exec (.start h combs chime v) s = .next ((s.heard h).refuse h 0x08 true .state .none) := by
  rw [exec_start_runs hacc]
  refine congrArg Host.Outcome.next (if_pos (Bool.or_eq_true_iff.2 (hno.imp (fun hc => ?_) fun hp => ?_)))
  · exact (any_not_iff fun c => SeqState.startable_iff _).2 (by simpa using hc)
  · rw [State.future, State.heard_past, hp]
    rfl

theorem exec_start_armed (hfree : ∀ c ∈ maskCombs combs, (s.comb c).seq.st ∈ [SeqState.loaded, .halted, .faulted])
    (hpast : s.past chime = false) : exec (.start h combs chime v) s =
      .next (((s.heard h).armAll (maskCombs combs) chime v).refresh.reply h 0x08 .ok .none) := by
  rw [exec_start_runs hacc]
  refine congrArg Host.Outcome.next (if_neg fun hany => ?_)
  rcases Bool.or_eq_true_iff.1 hany with hc | hp
  · obtain ⟨c, hc, hno⟩ := (any_not_iff fun c => SeqState.startable_iff _).1 hc
    exact hno (by simpa using hfree c hc)
  · rw [State.future, State.heard_past, hpast] at hp
    exact Bool.noConfusion hp

end Start

/-! ### CERTIFY (R311, R312) and NAME_ROOT (R290) -/

theorem exec_certify_runs {s : State} {h : OrderHdr} {c : CombId} {ins ws : List (BitVec 16)} {res : BitVec 16}
    (hacc : s.accepts (.certify h c ins ws res) = true) :
    exec (.certify h c ins ws res) s = .next ((s.heard h).certify h c ins ws res) :=
  exec_order_runs hacc (u := {
    code := 0x0B
    body := Config.orderBody 0x0B ([c.val, ins.length] ++ ins.map (·.toNat) ++ [ws.length] ++ ws.map (·.toNat) ++ [res.toNat])
    states := workStates }) (run := fun t => t.certify h c ins ws res) rfl rfl rfl

section Certify
variable {s : State} {h : OrderHdr} {c : CombId} {ins ws : List (BitVec 16)} {res : BitVec 16}

theorem State.certify_long (hlong : 255 < ins.length ∨ 255 < ws.length) : s.certify h c ins ws res = s.refuse h 0x0B true .range .none :=
  if_pos hlong

variable (hins : ins.length ≤ 255) (hws : ws.length ≤ 255)
include hins hws

theorem State.certify_missing (hmiss : (s.comb c).seq.progSeal = none ∨ s.seals.named ins = none ∨ s.seals.named ws = none ∨
    s.seals.named [res] = none) : s.certify h c ins ws res = s.refuse h 0x0B true .state .none := by
  unfold State.certify
  rw [if_neg (by omega)]
  split
  next hp hi hw hr =>
    rw [hp, hi, hw, hr] at hmiss
    simp at hmiss
  next => rfl

theorem State.certify_whole {p r : Digest} {is wv : List Digest} (hp : (s.comb c).seq.progSeal = some p) (hi : s.seals.named ins = some is)
    (hw : s.seals.named ws = some wv) (hr : s.seals.named [res] = some [r]) : s.certify h c ins ws res =
    ({ s with seals := { s.seals with chains := (chainOf p is wv :: s.seals.chains).take 16 } } : State).reply h 0x0B .ok
      (.bytes (withSig .result (s.certHead (chainOf p is wv) r p is.length wv.length))) := by
  unfold State.certify
  rw [if_neg (by omega)]
  simp only [hp, hi, hw, hr]

end Certify

/-- What NAME_ROOT does to the chime. -/
def Chm.rootNamed (x : Chm) (root deputy : ChipId) (me : Option ChipId) : Chm :=
  { x with
    elected := root, deputy := deputy, isRoot := some root == me, isDeputy := some deputy == me, silent := 0
    hops := if some root == me then 0 else x.hops, orphan := x.orphan && !(some root == me) }

/-- What an accepted NAME_ROOT does. -/
def State.nameRootRun (h : OrderHdr) (root deputy : ChipId) (base : W64) (t : State) : State :=
  if t.chm.base ≠ base then t.refuse h 0x0E true .state .none
  else ({ t with chm := t.chm.rootNamed root deputy t.rte.named } : State).reply h 0x0E .ok .none

theorem exec_nameRoot_runs {s : State} {h : OrderHdr} {root deputy : ChipId} {base : W64} (hacc : s.accepts (.nameRoot h root deputy base) = true) :
    exec (.nameRoot h root deputy base) s = .next ((s.heard h).nameRootRun h root deputy base) :=
  exec_order_runs hacc (u := { code := 0x0E, body := Config.orderBody 0x0E [root.toNat, deputy.toNat, base.toNat], states := workStates })
    (run := fun t => t.nameRootRun h root deputy base) rfl rfl rfl

theorem State.nameRootRun_other (h : OrderHdr) (root deputy : ChipId) {base : W64} {t : State} (hbase : t.chm.base ≠ base) :
    t.nameRootRun h root deputy base = t.refuse h 0x0E true .state .none := if_pos hbase

theorem State.nameRootRun_chm (h : OrderHdr) (root deputy : ChipId) {base : W64} {t : State} (hbase : t.chm.base = base) :
    (t.nameRootRun h root deputy base).chm = t.chm.rootNamed root deputy t.rte.named := by
  rw [State.nameRootRun, if_neg (not_not.2 hbase), (State.reply_answers _ _ _ _ _).chm]

/-- Settles O56: each order is executed in the state that heard it, and its parts are read off the runs above. -/
theorem programOrders : Obligations.ProgramOrders := by
  intro s h
  refine ⟨fun img combs hacc => ⟨exec_load_busy hacc, fun hfree => ⟨fun hnone => ?_, fun im him => ⟨_, exec_load_free hacc hfree, ?_, fun c => ?_⟩⟩⟩,
    fun seq => exec_loadComplete_none, fun seq j hj hwhole => ⟨_, exec_loadComplete_whole hj hwhole, ?_, fun c => ?_, fun hen hup hbare => ?_⟩,
    fun combs chime v hacc => ⟨exec_start_refused hacc, fun hfree hpast => ⟨_, exec_start_armed hacc hfree hpast, fun hne => ?_, fun c => ?_⟩⟩,
    fun chime hacc => ?_, fun chime hacc => ?_,
    fun c ins ws res hacc => ⟨fun hlong => ?_, fun hins hws => ⟨fun hmiss => ?_, fun p is wv r hp hi hw hr => ?_⟩⟩,
    fun root deputy base hacc => ⟨fun hbase => ?_, fun hbase => ⟨_, exec_nameRoot_runs hacc, ?_⟩⟩⟩
  case refine_1 => rw [exec_load_free hacc hfree, State.loadRead_none h img combs hnone]
  case refine_2 =>
    rw [(State.loadRead_some h img combs him).2, (State.readImage_keeps _ _).loads, State.heard_loads]
  case refine_3 =>
    have hread : (((s.heard h).readImage img.toNat).2.comb c).seq = (s.comb c).seq := by rw [(State.readImage_keeps _ _).seq c, State.heard_comb]
    rw [(State.loadRead_some h img combs him).1 c]
    refine ⟨fun hc => ?_, fun hc => ?_⟩
    · rw [if_pos hc]
      exact ⟨rfl, rfl, rfl, rfl, getF_setF_same _ _ (by decide)⟩
    · rw [if_neg hc, hread]
  case refine_4 =>
    rw [State.loads_of_chassis (State.chassis_of_still (State.notice_tells _ _).still), State.loads_of_chassis (s.loadDone_chassis j)]
  case refine_5 =>
    rw [(State.notice_tells _ _).comb, State.loadDone_comb]
    split
    next hc => simp [Comb.loadEnded, hwhole c hc]
    next => rfl
  case refine_6 =>
    have heth := s.loadDone_chassis j
    obtain ⟨m, hlast, hm, hport⟩ := State.notice_sent (s := s.loadDone j) ((congrArg (·.eth.linkUp) heth :).trans hup)
      ((congrArg (fun u : State => getF u.eth.notify 63 1) heth :).trans hen) ((congrArg (fun u : State => getF u.eth.cfg 33 1) heth :).trans hbare)
      (.load j.seq j.combs)
    have hst : ((s.loadDone j).notice (.load j.seq j.combs)).dev.st = (s.loadDone j).dev.st := (congrArg (·.dev.st) (State.notice_tells _ _).quiet :)
    exact ⟨m, hlast, by rw [hm, hst], hport.trans (congrArg (fun u : State => getF u.eth.notify 0 16) heth :)⟩
  case refine_7 =>
    obtain ⟨c, hc⟩ := List.exists_mem_of_ne_nil _ hne
    rw [State.reply_dev]
    refine State.refresh_active (c := c) ?_ ?_
    · rw [State.armAll_dev, State.heard_dev]
      exact start_state hacc
    · rw [State.armAll_comb, if_pos hc]
      rfl
  case refine_8 =>
    have harm : ((((s.heard h).armAll (maskCombs combs) chime v).refresh.reply h 0x08 .ok .none).comb c).seq =
        if c ∈ maskCombs combs then (s.comb c).seq.arm chime v else (s.comb c).seq := by
      rw [(State.reply_answers _ _ _ _ _).comb, State.comb_of_still (State.refresh_still _), State.armAll_comb, State.heard_comb]
      split <;> rfl
    rw [harm]
    refine ⟨fun hc => ?_, fun hc => if_neg hc⟩
    rw [if_pos hc]
    refine ⟨rfl, rfl, fun p hp => ?_, rfl, getF_setF_same _ _ (by decide), getF_setF_same _ _ (by decide), fun i => ?_⟩
    · simp [Seq.arm, hp]
    · simp [Seq.arm]
  case refine_9 =>
    exact exec_order_runs hacc (u := { code := 0x09, body := Config.orderBody 0x09 [chime.toNat], states := [.ready, .running] })
      (run := fun t => ({ t with chm := { t.chm with qReq := some chime } } : State).reply h 0x09 .ok .none) rfl rfl rfl
  case refine_10 =>
    exact exec_order_runs hacc (u := { code := 0x0A, body := Config.orderBody 0x0A [chime.toNat], states := [.quiesced] })
      (run := fun t => ({ t with chm := { t.chm with resumeAt := some chime } } : State).reply h 0x0A .ok .none) rfl rfl rfl
  case refine_11 => rw [exec_certify_runs hacc, State.certify_long hlong]
  case refine_12 => rw [exec_certify_runs hacc, State.certify_missing hins hws (by simpa using hmiss)]
  case refine_13 =>
    rw [exec_certify_runs hacc, State.certify_whole hins hws (by simpa using hp) (by simpa using hi) (by simpa using hw) (by simpa using hr)]
    simp
  case refine_14 => rw [exec_nameRoot_runs hacc, State.nameRootRun_other h root deputy (by simpa using hbase)]
  case refine_15 =>
    rw [State.nameRootRun_chm h root deputy (by simpa using hbase), State.heard_chm, State.heard_rte]
    refine ⟨by simp only [Chm.rootNamed, Bool.beq_eq_decide_eq], fun hme => ?_, fun hme => ?_, rfl⟩
    · simp [Chm.rootNamed, hme]
    · simp [Chm.rootNamed, hme]

end Sys2Proof.Machine
end

section
/-!
O60 fails in its clause on RDATA. A write that covers a word of a comb store in part reads and merges that word (R36), so an error found there
counts in the comb's SECDED register; the clause says that no comb changes.
-/
namespace Sys2Proof.Machine

/-- The first RDATA drop from chip 0, with one byte. -/
def upsetDrop : Drop := ⟨6, [1]⟩

/-- Four INT8 elements at the start of the store of comb 0. -/
def upsetTarget : Desc := #v[BitVec.ofNat 64 (combBase 0), 0, 1, 0, 0, 0, 0, 0]

/-- The instruction whose get the drop answers. -/
def upsetEntry : QEntry := { pc := 0, ce := false, cnt := 0, op := .get 0 upsetTarget upsetTarget 0 }

/-- A get of two drops, none of which has arrived. -/
def upsetGet : Cons :=
  { key := .chip 0, cid := 0, kind := .get upsetTarget upsetTarget, comb := some 0, e := some upsetEntry, n := 2, members := [], sent := 0 }

/-- The first word of the store of comb 0 has a double-bit error, and the drop has arrived. -/
def upsetState : State :=
  { mem := { upsets := [(combBase 0 / 8, .double)] }, rte := { arrived := [upsetDrop] }, fab := { open_ := [upsetGet] } }

/-- The byte is written into the word with the error, which is counted. -/
theorem upsetState_counts : ∃ u, exec (.rdata upsetDrop) upsetState = .next u ∧ (u.comb 0).ecc = 0x10002 :=
  ⟨_, rfl, by decide⟩

/-- Refutes O60: the write of an RDATA drop meets a word with a double-bit error in a comb's store, and the comb's SECDED count changes. -/
theorem not_queuedWorkProceeds : ¬ Obligations.QueuedWorkProceeds := by
  intro h
  obtain ⟨-, -, hdata, -⟩ := h
  obtain ⟨t, hexec, -, -, -, -, -, -, hcombs⟩ := hdata upsetState upsetDrop upsetGet upsetTarget upsetTarget 0 upsetEntry (by decide) (by decide)
    (by decide) rfl rfl rfl (by decide) (by decide) (by decide) (by decide) (by decide) rfl (by decide) (by decide)
  obtain ⟨u, hu, hecc⟩ := upsetState_counts
  rw [hexec, Host.Outcome.next.injEq] at hu
  have hsame : (t.comb 0).ecc = (upsetState.comb 0).ecc := congrArg (fun k : Vector Comb 64 => k[(0 : CombId)].ecc) hcombs
  rw [hu, hecc] at hsame
  exact absurd hsame (by decide)

end Sys2Proof.Machine
end

section
/-!
SUPPORT for O52. What the actions of a chime that follow its number, flip, level and commit outcome leave alone (R292): the time base, the tables'
choice, the numberings, the settings and the step; and of the combs their map entries and the map changes that are due.
-/
namespace Sys2Proof.Machine

/-! ### The view -/

/-- What only the chime itself sets: clock, tables, numberings, settings, level and step; and whether no round is open. -/
structure Pulse where
  pending : List Instr
  clock : Chm
  inj : Fin 2
  flip : W64
  released : Bool
  self : W64
  cfg : W64
  spill : W64
  cfgNext : Option W64
  spillNext : Option W64
  era : W64
  nums : List (Nat × Nat) × List (Nat × Nat)
  level : BitVec 2 × BitVec 2 × W64
  step : Bool × W32 × W64 × W64 × W32 × Bool
  unopened : Bool
  phys : List (Nat × W64)

/-- A clock without the quiesce, the resume and the phase of the muster. -/
def Chm.face (t : Chm) : Chm := { t with phase := 0, qReq := none, qVoted := none, qGo := none, qVotes := [], qTold := [], resumeAt := none }

def State.pulse (s : State) : Pulse where
  pending := s.pending
  clock := s.chm.face
  inj := s.rte.inj
  flip := s.rte.flip
  released := s.rte.released
  self := s.rte.self
  cfg := s.col.cfg
  spill := s.col.spill
  cfgNext := s.col.cfgNext
  spillNext := s.col.spillNext
  era := s.col.era
  nums := (s.col.collNum, s.col.barNum)
  level := (s.seals.level, s.seals.pend, s.seals.at_)
  step := (s.stp.bank, s.stp.flips, s.stp.step, s.stp.last, s.stp.skips, s.stp.decision)
  unopened := s.stp.round.isNone
  phys := s.dev.phys

/-- The map entry of a comb, and whether its next reset changes it. -/
def Comb.plan (k : Comb) : W64 × Option CombDue := (k.map, k.due)

/-- The pulse, and the plan of every comb. -/
structure Beat where
  pulse : Pulse
  plan : CombId → W64 × Option CombDue

def State.beat (s : State) : Beat := ⟨s.pulse, fun c => (s.comb c).plan⟩

theorem State.beat_pulse {s t : State} (h : t.beat = s.beat) : t.pulse = s.pulse := congrArg Beat.pulse h
theorem State.beat_plan {s t : State} (h : t.beat = s.beat) (c : CombId) : (t.comb c).plan = (s.comb c).plan := congrFun (congrArg Beat.plan h) c

/-- Where the combs are as they were, the beat is, if the pulse is. -/
theorem State.beat_of_pulse {s t : State} (hcombs : t.combs = s.combs) (h : t.pulse = s.pulse) : t.beat = s.beat := by
  unfold State.beat State.comb
  rw [hcombs, h]

theorem State.beat_of_quiet {s t : State} (h : t.quiet = s.quiet) : t.beat = s.beat :=
  State.beat_of_pulse (congrArg State.combs h :) (congrArg State.pulse h :)

theorem State.Tells.beat {s t : State} (h : s.Tells t) : t.beat = s.beat := State.beat_of_quiet h.quiet

theorem State.Answers.beat {s t : State} (h : s.Answers t) : t.beat = s.beat :=
  State.beat_of_pulse h.combs (congrArg State.pulse h.mute :)

theorem State.Keeps.beat {s t : State} (h : s.Keeps t) : t.beat = s.beat := by
  have hplan (c : CombId) : (t.comb c).plan = (s.comb c).plan := (congrArg Comb.plan (h.comb c) :)
  unfold State.beat
  rw [show t.pulse = s.pulse from (congrArg State.pulse h.hull :), funext hplan]

theorem State.beat_of_still {s t : State} (h : t.still = s.still) : t.beat = s.beat :=
  State.beat_of_pulse (State.combs_of_still h) (congrArg State.pulse h :)

/-! ### Single updates -/

variable (s : State)

theorem State.modComb_beat (c : CombId) {f : Comb → Comb} (hf : (f (s.comb c)).plan = (s.comb c).plan) : (s.modComb c f).beat = s.beat := by
  have hplan (d : CombId) : ((s.modComb c f).comb d).plan = (s.comb d).plan := by
    by_cases hd : d = c
    · rw [hd, State.modComb_comb, hf]
    · rw [State.modComb_comb_ne _ _ hd]
  exact congrArg (Beat.mk s.pulse) (funext hplan)

@[simp] theorem State.modSeq_beat (c : CombId) (f : Seq → Seq) : (s.modSeq c f).beat = s.beat := s.modComb_beat c rfl
@[simp] theorem State.modLink_beat (l : LinkId) (f : Link → Link) : (s.modLink l f).beat = s.beat := rfl
@[simp] theorem State.draw_beat : s.draw.2.beat = s.beat := rfl
@[simp] theorem State.record_beat (ev : Event) : (s.record ev).beat = s.beat := (s.record_tells ev).beat
@[simp] theorem State.notice_beat (b : NoticeBody) : (s.notice b).beat = s.beat := (s.notice_tells b).beat
@[simp] theorem State.reply_beat (h : OrderHdr) (code : BitVec 8) (r : Result) (b : ReplyBody) : (s.reply h code r b).beat = s.beat :=
  (s.reply_answers h code r b).beat
@[simp] theorem State.setDev_beat (d : DevState) : (s.setDev d).beat = s.beat := State.beat_of_still (s.setDev_still d)
@[simp] theorem State.refresh_beat : s.refresh.beat = s.beat := State.beat_of_still s.refresh_still

/-- A fold of steps that keep the beat keeps it. -/
theorem foldl_beat {β : Type} {f : State → β → State} (hf : ∀ t x, (f t x).beat = t.beat) (l : List β) : (l.foldl f s).beat = s.beat :=
  foldl_keeps State.beat f hf l s

/-- A choice of two states that have the beat of `s`. -/
theorem ite_beat {s a b : State} {p : Prop} [Decidable p] (ha : a.beat = s.beat) (hb : b.beat = s.beat) : (if p then a else b).beat = s.beat := by
  split <;> assumption

/-! ### Sends, and links that come back -/

theorem State.beat_of_unsent {s t : State} (h : t.unsent = s.unsent) : t.beat = s.beat :=
  State.beat_of_pulse (congrArg State.combs h :) (congrArg State.pulse h :)

theorem State.sendQuiesce_unsent (kind : Nat) (dst : ChipId) (v : W64) (x : Bool) : (s.sendQuiesce kind dst v x).unsent = s.unsent :=
  s.startOrWait_unsent _

theorem State.sendColl_unsent (key : CollKey) (ver : Fin 2) (dst : ChipId) (kind phase : Nat) (dir gather : Bool) (seg : Nat) (bs : List Byte) :
    (s.sendColl key ver dst kind phase dir gather seg bs).unsent = s.unsent := s.startOrWait_unsent _

theorem State.sendRelease_unsent (b : BarInst) (t : W64) : (s.sendRelease b t).unsent = s.unsent :=
  foldl_keeps State.unsent _ (fun u _ => u.sendColl_unsent ..) _ s

theorem State.abortNeighbours_unsent (k : CollInst) (code : Nat) : (s.abortNeighbours k code).unsent = s.unsent :=
  foldl_keeps State.unsent _ (fun u _ => u.sendColl_unsent ..) _ s

theorem State.abortBar_unsent (b : BarInst) (code : Nat) : (s.abortBar b code).unsent = s.unsent :=
  foldl_keeps State.unsent _ (fun u _ => u.sendColl_unsent ..) _ s

theorem State.pumpWait_unsent : s.pumpWait.unsent = s.unsent :=
  (foldl_keeps State.unsent _ (fun u w => u.startOrWait_unsent w) s.fab.wait { s with fab := { s.fab with wait := [] } }).trans rfl

/-! ### Bars and collectives that start, end or fail -/

@[simp] theorem State.abortStep_beat : s.abortStep.beat = s.beat := by
  unfold State.abortStep
  extract_lets formed
  clear_value formed
  cases formed <;> rfl

@[simp] theorem State.fault_beat (c : CombId) (code addr src : Nat) : (s.fault c code addr src).beat = s.beat := by
  obtain ⟨u, hu, hfault⟩ := s.fault_told c code addr src
  have hbeat : u.beat = s.beat := hu.beat.trans (s.modSeq_beat c _)
  rw [hfault]
  exact ite_beat (u.abortStep_beat.trans hbeat) hbeat

theorem State.bumpE_beat (c : CombId) (e : QEntry) : (s.bumpE c e).beat = s.beat := ite_beat (s.modSeq_beat c _) rfl

theorem State.fabDone_beat (c : CombId) (e : QEntry) : (s.fabDone c e).beat = s.beat := (State.bumpE_beat _ c e).trans (s.modSeq_beat c _)

theorem State.fabRemote_beat (c : CombId) (e : QEntry) : (s.fabRemote c e).beat = s.beat := (State.fault_beat _ c _ _ _).trans (s.modSeq_beat c _)

theorem State.doneFenced_beat (c : CombId) (e : QEntry) : (s.doneFenced c e).beat = s.beat :=
  (State.fabDone_beat _ c e).trans (s.modComb_beat c (f := fun k => { k with crrStatus := setB (satF k.crrStatus 16 16 1) 0 true }) rfl)

theorem State.barAdvance_beat (b : BarInst) : (s.barAdvance b).beat = s.beat := by
  unfold State.barAdvance
  refine ite_beat rfl (ite_beat ?_ ?_)
  · exact (State.beat_of_unsent (State.sendRelease_unsent _ _ _)).trans rfl
  · exact (State.beat_of_unsent (State.sendColl_unsent ..)).trans rfl

theorem State.startBar_beat (b : BarInst) : (s.startBar b).beat = s.beat :=
  ite_beat ((State.doneFenced_beat _ _ _).trans (s.modSeq_beat b.comb _)) ((State.barAdvance_beat _ _).trans (s.modSeq_beat b.comb _))

theorem State.pumpBars_beat (c : CombId) (fuel : Nat) : (s.pumpBars c fuel).beat = s.beat := by
  induction fuel generalizing s with
  | zero => rfl
  | succ n ih =>
    unfold State.pumpBars
    refine ite_beat rfl ?_
    split
    · split
      · exact (ih _).trans (s.startBar_beat _)
      · rfl
    · rfl

theorem State.pumpAllBars_beat : s.pumpAllBars.beat = s.beat := foldl_beat s (fun t c => t.pumpBars_beat c 17) _

theorem State.admitAgain_beat : s.admitAgain.beat = s.beat := (State.pumpAllBars_beat _).trans rfl

theorem State.partWrites_keeps (ws : List (Nat × List Byte)) : s.Keeps (s.partWrites ws) :=
  s.draw_keeps.trans (.foldl _ (fun t (w : Nat × List Byte) => t.store_keeps w.1 w.2 false) _)

theorem State.failColl_beat (k : CollInst) : (s.failColl k).beat = s.beat := by
  have hcut : ((s.dropColl k).modSeq k.comb fun q => { q with qFab := q.qFab.filter fun e => e != k.e }).beat = s.beat := State.modSeq_beat _ _ _
  unfold State.failColl
  refine (State.fabRemote_beat _ _ _).trans ?_
  split
  · exact (State.partWrites_keeps _ _).beat.trans hcut
  · exact hcut

theorem State.failBar_beat (b : BarInst) : (s.failBar b).beat = s.beat :=
  (State.fabRemote_beat _ _ _).trans ((State.modSeq_beat _ _ _).trans rfl)

theorem State.eraMismatch_beat (d : Drop) (key : CollKey) : (s.eraMismatch d key).beat = s.beat :=
  (foldl_beat _ (fun t b => (State.failBar_beat _ b).trans (State.beat_of_unsent (t.abortBar_unsent b 3))) _).trans
    ((foldl_beat _ (fun t k => (State.failColl_beat _ k).trans (State.beat_of_unsent (t.abortNeighbours_unsent k 3))) _).trans
      ((State.beat_of_unsent (State.sendColl_unsent ..)).trans rfl))

/-! ### Links that come back -/

theorem State.rwStart_beat (l : LinkId) : (s.rwStart l).beat = s.beat := s.modLink_beat l _

theorem State.rwPump_beat : s.rwPump.beat = s.beat := foldl_beat s (fun t l => ite_beat (t.rwDecide.rwStart_beat l) rfl) _

theorem State.linksBack_beat (rec : Bool) : (s.linksBack rec).beat = s.beat := by
  refine (State.rwPump_beat _).trans (foldl_beat s (fun t l => ?_) _)
  exact ite_beat (ite_beat (State.record_beat _ _) rfl) rfl

end Sys2Proof.Machine
end

section
/-!
SUPPORT for O52. Of a chime's own actions: a restart of the numberings (R257), a commit outcome (R327), a vote that forms, the resets and the map
changes (R28, R378 to R381), the quiesce (R294) and the switches, as the pulse and the plans see them.
-/
namespace Sys2Proof.Machine

variable (s : State)

/-! ### Restart of the numberings, and the commit outcome -/

/-- Both numberings start anew in era `n`. -/
def State.renumbered (n : W64) : State := { s with col := { s.col with collNum := [], barNum := [], era := n } }

theorem State.restartNums_beat (n : W64) : (s.restartNums n).beat = (s.renumbered n).beat := by
  unfold State.restartNums
  refine (foldl_beat _ (fun t d => ?_) _).trans rfl
  split
  · exact ite_beat rfl (t.eraMismatch_beat d _)
  · exact ite_beat rfl (t.eraMismatch_beat d _)
  · rfl

/-- The step's outcome is in force. -/
def State.decidedStep (v : Bool) (r : Round) : State :=
  { s with stp := { s.stp with
    bank := if v then !s.stp.bank else s.stp.bank
    flips := if v then s.stp.flips + 1 else s.stp.flips
    last := if v then r.step else s.stp.last
    step := if v then r.step + 1 else s.stp.step
    skips := if v then s.stp.skips else s.stp.skips + 1
    decision := v, round := none } }

theorem State.giveOutcome_beat (v : Bool) (c : CombId) : (s.giveOutcome v c).beat = s.beat := by
  unfold State.giveOutcome
  split
  · rfl
  · exact ite_beat ((State.modSeq_beat _ _ _).trans (s.modSeq_beat _ _)) (s.modSeq_beat _ _)

theorem State.applyDecision_beat (v : Bool) (c : W64) (r : Round) : (s.applyDecision v c r).beat = (s.decidedStep v r).beat :=
  (State.notice_beat _ _).trans ((foldl_beat _ (fun t k => t.giveOutcome_beat v k) _).trans rfl)

/-! ### A vote that forms -/

theorem State.modRound_round_isSome (f : Round → Round) : (s.modRound f).stp.round.isSome = s.stp.round.isSome := Option.isSome_map

theorem State.needRound_round_isSome : s.needRound.stp.round.isSome = true := by
  unfold State.needRound
  split
  next h =>
    obtain ⟨r, hr⟩ := Option.isSome_iff_exists.1 h
    exact Option.isSome_iff_exists.2 ⟨r, Option.eq_some_of_filter_eq_some hr⟩
  next => rfl

theorem State.announce_round_isSome (w : Verdict) : (s.announce w).stp.round.isSome = true :=
  (State.modRound_round_isSome _ _).trans (State.needRound_round_isSome _)

theorem State.sendRound_stp (kind : Nat) (dst : ChipId) (step : W64) (v : Bool) (c : W64) (decider : ChipId) (deputy : Bool) :
    (s.sendRound kind dst step v c decider deputy).stp = s.stp := (congrArg State.stp (s.sendRound_unsent kind dst step v c decider deputy) :)

section Open
variable {s : State} (h : s.stp.round.isSome = true)
include h

theorem State.lodgeOut_round_isSome (w : Verdict) : (s.lodgeOut w).stp.round.isSome = true := by
  unfold State.lodgeOut
  dsimp only
  split
  · rw [State.sendRound_stp]
    exact h
  · exact State.announce_round_isSome _ w

theorem State.makeDecision_round_isSome (v : Bool) : (s.makeDecision v).stp.round.isSome = true := by
  unfold State.makeDecision
  split
  · exact h
  · exact State.lodgeOut_round_isSome h _

theorem State.decideRound_round_isSome : s.decideRound.stp.round.isSome = true := by
  unfold State.decideRound
  dsimp only
  split
  · exact h
  split
  · exact State.lodgeOut_round_isSome h _
  · split
    · exact State.makeDecision_round_isSome h _
    · split
      · exact State.makeDecision_round_isSome h _
      · exact h
  · exact h

theorem State.sendVoteTo_round_isSome (r : Round) (v : Bool) (m : Option ChipId) (deputy : Bool) :
    (s.sendVoteTo r v m deputy).stp.round.isSome = true := by
  cases m with
  | none => exact h
  | some m =>
    unfold State.sendVoteTo State.sendVote
    dsimp only
    split
    · rwa [State.modRound_round_isSome]
    · rwa [State.sendRound_stp]

end Open

theorem State.formVote_round_isSome : s.formVote.stp.round.isSome = s.stp.round.isSome := by
  rcases s.formVote_cases with h | ⟨r, v, hr, -, h⟩
  · rw [h]
  · have hopen : (s.voteFormed v).stp.round.isSome = true := by
      rw [State.voteFormed, State.modRound_round_isSome]
      exact Option.isSome_iff_exists.2 ⟨r, hr⟩
    rw [h, State.decideRound_round_isSome (State.sendVoteTo_round_isSome (State.sendVoteTo_round_isSome hopen _ _ _ _) _ _ _ _), hr]
    rfl

theorem State.formVote_beat : s.formVote.beat = s.beat := by
  have hoff := s.formVote_offRound
  have hpulse : s.formVote.pulse = { s.offRound.pulse with unopened := s.stp.round.isNone } := by
    have hopen : s.formVote.stp.round.isNone = s.stp.round.isNone := by
      rw [← Option.not_isSome, ← Option.not_isSome, s.formVote_round_isSome]
    rw [← hoff, ← hopen]
    rfl
  exact State.beat_of_pulse (State.combs_of_offRound hoff) hpulse

/-! ### Resets -/

/-- The beat of `b` where comb `c` has been reset: its map entry stays, and nothing is due. -/
def Beat.reset (b : Beat) (c : CombId) : Beat := { b with plan := Function.update b.plan c ((b.plan c).1, none) }

theorem State.dropColl_beat (k : CollInst) : (s.dropColl k).beat = s.beat := rfl
theorem State.dropBar_beat (b : BarInst) : (s.dropBar b).beat = s.beat := rfl

theorem State.cutComb_beat (c : CombId) : (s.cutComb c).beat = s.beat := by
  have hcoll (t : State) (k : CollInst) : ((t.abortNeighbours k 2).dropColl k).beat = t.beat :=
    (State.dropColl_beat _ k).trans (State.beat_of_unsent (t.abortNeighbours_unsent k 2))
  have hbar (t : State) (b : BarInst) : ((t.abortBar b 2).dropBar b).beat = t.beat :=
    (State.dropBar_beat _ b).trans (State.beat_of_unsent (t.abortBar_unsent b 2))
  exact Eq.trans rfl ((foldl_beat _ hbar _).trans (foldl_beat _ hcoll _))

theorem State.resetOne_beat (c : CombId) (keepProg : Bool) : (s.resetOne c keepProg).beat = s.beat.reset c := by
  have hcut := s.cutComb_beat c
  have hpulse : (s.resetOne c keepProg).pulse = { (s.cutComb c).pulse with unopened := ((s.cutComb c).stp.round.map fun r => r.combGone c).isNone } := rfl
  have hplan (d : CombId) : ((s.resetOne c keepProg).comb d).plan = Function.update s.beat.plan c ((s.beat.plan c).1, none) d := by
    have hd := State.beat_plan hcut d
    change (((s.cutComb c).modComb c fun k => k.afterReset keepProg).comb d).plan = _
    by_cases hdc : d = c
    · rw [hdc] at hd ⊢
      rw [State.modComb_comb, Function.update_self]
      exact congrArg (fun p : W64 × Option CombDue => (p.1, (none : Option CombDue))) hd
    · rw [State.modComb_comb_ne _ _ hdc, Function.update_of_ne hdc]
      exact hd
  rw [Option.isNone_map] at hpulse
  exact congrArg₂ Beat.mk (hpulse.trans (State.beat_pulse hcut)) (funext hplan)

theorem State.noteReset_beat (kind cause n : Nat) : (s.noteReset kind cause n).beat = s.beat := rfl

theorem State.enterReset_beat (kind : BitVec 3) (jobs : List ResetJob) : (s.enterReset kind jobs).beat = s.beat := by
  unfold State.enterReset
  refine ite_beat rfl ?_
  split
  · rfl
  · exact (State.setDev_beat _ _).trans rfl

theorem State.reloadComb_beat (c : CombId) : (s.reloadComb c).beat = s.beat := by
  cases hprog : (s.comb c).seq.prog with
  | none => rw [State.reloadComb_none hprog]
  | some p =>
    have hread := (s.readImage_keeps p.image).beat
    by_cases hseal : ∃ im, (s.readImage p.image).1 = some im ∧ plainSeal im.bytes = p.digest
    · obtain ⟨im, him, hok⟩ := hseal
      rw [State.reloadComb_loaded hprog him hok, State.beat_of_still (State.loadComb_still _ c im), State.modSeq_beat, hread]
    · rw [State.reloadComb_dropped hprog fun im him hok => hseal ⟨im, him, hok⟩, State.record_beat, State.modSeq_beat, hread]

theorem State.reloadAll_beat : s.reloadAll.beat = s.beat := foldl_beat s (fun t c => t.reloadComb_beat c) _

end Sys2Proof.Machine
end

section
/-!
SUPPORT for O52. The resets that fall due at a chime: none of them moves the pulse, and of the plans they leave the map entries, once the map
changes due have been taken (R28, R380, R381).
-/
namespace Sys2Proof.Machine

/-! ### Resets and plans -/

/-- From `b` to `b'` combs have been reset at most. -/
structure Beat.Resets (b b' : Beat) : Prop where
  pulse : b'.pulse = b.pulse
  plan : ∀ c, b'.plan c = b.plan c ∨ b'.plan c = ((b.plan c).1, none)

namespace Beat.Resets

variable {a b b' : Beat}

theorem of_eq (h : b' = b) : b.Resets b' := ⟨congrArg Beat.pulse h, fun c => .inl (congrFun (congrArg Beat.plan h) c)⟩

theorem trans (h : a.Resets b) (h' : b.Resets b') : a.Resets b' where
  pulse := h'.pulse.trans h.pulse
  plan c := by
    rcases h.plan c with hb | hb <;> rcases h'.plan c with hb' | hb' <;> rw [hb', hb]
    · exact .inl rfl
    all_goals exact .inr rfl

theorem reset (b : Beat) (c : CombId) : b.Resets (b.reset c) := by
  refine ⟨rfl, fun d => ?_⟩
  by_cases hdc : d = c
  · rw [hdc]
    exact .inr (Function.update_self ..)
  · exact .inl (Function.update_of_ne hdc ..)

theorem foldl {β : Type} {f : State → β → State} (hf : ∀ (t : State) x, t.beat.Resets (f t x).beat) (l : List β) (s : State) :
    s.beat.Resets (l.foldl f s).beat := by
  induction l generalizing s with
  | nil => exact .of_eq rfl
  | cons x l ih => exact (hf s x).trans (ih _)

theorem map (h : b.Resets b') (c : CombId) : (b'.plan c).1 = (b.plan c).1 := by
  rcases h.plan c with hc | hc <;> rw [hc]

/-- A map change that is not due stays so. -/
theorem steady (h : b.Resets b') (hb : ∀ c, (b.plan c).2.any (·.remap) = false) (c : CombId) : (b'.plan c).2.any (·.remap) = false := by
  rcases h.plan c with hc | hc <;> rw [hc]
  · exact hb c
  · rfl

end Beat.Resets

variable (s : State)

theorem State.combResets_resets (cs : List (CombId × Bool)) (cause : Nat) (jobs : List ResetJob) :
    s.beat.Resets (s.combResets cs cause jobs).beat := by
  have hfold : s.beat.Resets (cs.foldl (fun (t : State) c => t.resetOne c.1 c.2) s).beat :=
    .foldl (fun t c => by rw [State.resetOne_beat]; exact .reset _ _) cs s
  unfold State.combResets
  extract_lets s1 s2
  have h2 : s2.beat = (cs.foldl (fun (t : State) c => t.resetOne c.1 c.2) s).beat := by
    rw [State.enterReset_beat, State.noteReset_beat, State.formVote_beat, State.abortStep_beat]
  rw [ite_beat s2.reloadAll_beat rfl, h2]
  exact hfold

/-! ### Map changes -/

theorem State.modCombs_pulse (f : CombId → Comb → Comb) : (s.modCombs f).pulse = s.pulse := by
  simp only [State.modCombs, State.pulse]
theorem State.modComb_pulse (c : CombId) (f : Comb → Comb) : (s.modComb c f).pulse = s.pulse := rfl

theorem State.takeMap_pulse (c : CombId) : (s.takeMap c).pulse = s.pulse := by
  unfold State.takeMap
  split
  · exact (State.beat_pulse (State.record_beat _ _)).trans (s.modComb_pulse c _)
  · exact State.beat_pulse (State.record_beat _ _)

theorem State.takeMaps_pulse : s.takeMaps.pulse = s.pulse := foldl_keeps State.pulse _ (fun t c => t.takeMap_pulse c) _ s

/-- No map change is due. -/
def Beat.steady (b : Beat) : Prop := ∀ c, (b.plan c).2.any (fun d => d.remap) = false

theorem State.mem_remapDue {c : CombId} : c ∈ s.remapDue ↔ (s.beat.plan c).2.any (·.remap) = true := by
  have hplan : (s.beat.plan c).2 = (s.comb c).due := rfl
  rw [hplan, State.remapDue, List.mem_filter]
  cases (s.comb c).due <;> simp

theorem State.remapDue_of_steady {s : State} (h : s.beat.steady) : s.remapDue = [] := by
  refine List.eq_nil_iff_forall_not_mem.2 fun c hc => ?_
  rw [State.mem_remapDue, h c] at hc
  cases hc

theorem State.takeMaps_of_steady {s : State} (h : s.beat.steady) : s.takeMaps = s := by
  rw [State.takeMaps, State.remapDue_of_steady h]
  rfl

/-! ### Compute resets and the jobs -/

theorem State.closeBulks_beat (p : Bulk → Bool) : (s.closeBulks p).beat = s.beat := (foldl_beat _ (fun t _ => t.notice_beat _) _).trans rfl

theorem State.computeReset_resets (cause : Nat) (jobs : List ResetJob) : s.takeMaps.beat.Resets (s.computeReset cause jobs).beat := by
  unfold State.computeReset
  rw [State.enterReset_beat, State.noteReset_beat, State.closeBulks_beat, State.formVote_beat, State.abortStep_beat]
  exact .foldl (fun t c => by rw [State.resetOne_beat]; exact .reset _ _) _ _

theorem State.computeReset_pulse (cause : Nat) (jobs : List ResetJob) : (s.computeReset cause jobs).pulse = s.pulse :=
  (s.computeReset_resets cause jobs).pulse.trans s.takeMaps_pulse

theorem State.runJob_pulse (j : ResetJob) : (s.runJob j).pulse = s.pulse := by
  have hrun : (if j.compute then s.computeReset 1 [j] else s.combResets ((maskCombs j.combs).map fun c => (c, false)) 1 [j]).pulse = s.pulse := by
    split
    · exact s.computeReset_pulse 1 [j]
    · exact (s.combResets_resets _ 1 [j]).pulse
  unfold State.runJob
  dsimp only
  split
  · exact (State.beat_pulse (State.reply_beat _ _ _ _ _)).trans hrun
  · exact hrun

theorem State.jobResets_pulse (n : W64) : (s.jobResets n).pulse = s.pulse :=
  (foldl_keeps State.pulse State.runJob State.runJob_pulse _ _).trans rfl

theorem State.runJob_resets {s : State} (h : s.beat.steady) (j : ResetJob) : s.beat.Resets (s.runJob j).beat := by
  have hrun : s.beat.Resets (if j.compute then s.computeReset 1 [j] else s.combResets ((maskCombs j.combs).map fun c => (c, false)) 1 [j]).beat := by
    split
    · have hreset := s.computeReset_resets 1 [j]
      rwa [State.takeMaps_of_steady h] at hreset
    · exact s.combResets_resets _ 1 [j]
  unfold State.runJob
  dsimp only
  split
  · rw [State.reply_beat]
    exact hrun
  · exact hrun

/-- Other jobs wait for their chime. -/
def State.withJobs (jobs : List ResetJob) : State := { s with dev := { s.dev with jobs := jobs } }

theorem State.foldl_runJob_resets (l : List ResetJob) {s : State} (h : s.beat.steady) : s.beat.Resets (l.foldl State.runJob s).beat := by
  induction l generalizing s with
  | nil => exact .of_eq rfl
  | cons j l ih =>
    have hrun := State.runJob_resets h j
    exact hrun.trans (ih (hrun.steady h))

theorem State.jobResets_resets {s : State} (h : s.beat.steady) (n : W64) : s.beat.Resets (s.jobResets n).beat :=
  State.foldl_runJob_resets _ (s := s.withJobs (s.dev.jobs.filter fun j => !decide (j.chime.toNat ≤ n.toNat))) h

/-! ### FENCED -/

theorem State.freePins_beat : s.freePins.beat = s.beat := ite_beat ((State.record_beat _ _).trans rfl) rfl

theorem State.bulkFinal_beat (b : Bulk) (r : Result) (n : Nat) : (s.bulkFinal b r n).beat = s.beat := (State.sendReply_answers _ _).beat

theorem State.answerJobs_beat (r : Result) : (s.answerJobs r).beat = s.beat := by
  rw [State.answerJobs_eq]
  exact Eq.trans rfl (s.replyAll_answers _ _ _ _).beat

theorem State.answerSwitches_beat (r : Result) : (s.answerSwitches r).beat = s.beat := by
  rw [State.answerSwitches_eq]
  exact Eq.trans rfl (((State.replyAll_answers _ _ _ _ _).beat).trans (s.replyAll_answers _ _ _ _).beat)

theorem State.enterFenced_pulse : s.enterFenced.pulse = s.pulse := by
  unfold State.enterFenced
  split
  · rfl
  lift_lets
  extract_lets s1 s2 s3 s4 s5 dev eth wdn chr s6
  have h1 : s1.beat = s.beat := (foldl_beat _ (fun t b => t.bulkFinal_beat b _ _) _).trans ((State.setDev_beat _ _).trans s.freePins_beat)
  have h2 : s2.beat = s1.beat := s1.answerJobs_beat _
  have h3 : s3.beat = s2.beat := foldl_beat _ (fun t x => by
    split
    · exact ite_beat (t.reply_beat _ _ _ _) rfl
    · rfl) _
  have h4 : s4.beat = s3.beat := by
    unfold s4
    split
    · exact s3.reply_beat _ _ _ _
    · rfl
  have h5 : s5.beat = s4.beat := s4.answerSwitches_beat _
  have h6 : s6.pulse = s5.pulse := rfl
  rw [State.computeReset_pulse, h6]
  exact State.beat_pulse (h5.trans (h4.trans (h3.trans (h2.trans h1))))

/-! ### What is due -/

theorem State.dueResets_pulse : s.dueResets.pulse = s.pulse := by
  unfold State.dueResets
  extract_lets t a s1 b
  have ht : t.pulse = s.pulse := s.takeMaps_pulse
  have h1 : s1.pulse = s.pulse := by
    unfold s1
    split
    · exact ht
    · exact (t.combResets_resets a 2 []).pulse.trans ht
  split
  · split
    · exact h1
    · exact (s1.combResets_resets b 3 []).pulse.trans h1
  · exact (State.enterFenced_pulse _).trans ((t.modCombs_pulse _).trans ht)

end Sys2Proof.Machine
end

section
/-!
SUPPORT for O52. The other actions of a chime: the tables, the interval, the level, the quiesce, the switches, the frames and what is sent
(R249, R286 to R288, R294, R298); and the pulse of the chip once the chime is over.
-/
namespace Sys2Proof.Machine

variable (s : State)

/-! ### Quiesce -/

theorem State.quiesceDecided_beat (v : W64) (go : Bool) : (s.quiesceDecided v go).beat = s.beat :=
  ite_beat rfl (ite_beat rfl ((State.admitAgain_beat _).trans ((State.notice_beat _ _).trans rfl)))

theorem State.tellQuiesce_beat (v : W64) (go : Bool) : (s.tellQuiesce v go).beat = s.beat :=
  (State.quiesceDecided_beat _ v go).trans ((foldl_beat _ (fun t k => State.beat_of_unsent (t.sendQuiesce_unsent 2 k v go)) _).trans rfl)

theorem State.quiesceTry_beat (v : W64) : (s.quiesceTry v).beat = s.beat :=
  ite_beat rfl (ite_beat (s.tellQuiesce_beat v true) (ite_beat (s.tellQuiesce_beat v false) rfl))

theorem State.holdQuiesce_beat (v : W64) (m : ChipId) (x : Bool) : (s.holdQuiesce v m x).beat = s.beat :=
  ite_beat rfl ((State.quiesceTry_beat _ v).trans rfl)

theorem State.quiesceLate_beat (n : W64) : (s.quiesceLate n).beat = s.beat := foldl_beat s (fun t v => ite_beat (t.tellQuiesce_beat v false) rfl) _

theorem State.quiesceVote_beat (v : W64) : (s.quiesceVote v).beat = s.beat := by
  unfold State.quiesceVote
  extract_lets x chm col s1
  have h1 : s1.beat = s.beat := rfl
  split
  · exact ite_beat ((s1.holdQuiesce_beat v _ x).trans h1) ((State.beat_of_unsent (s1.sendQuiesce_unsent 1 _ v x)).trans h1)
  · exact h1

theorem State.quiesceChime_beat (n : W64) : (s.quiesceChime n).1.beat = s.beat := by
  unfold State.quiesceChime
  extract_lets u chm old up chm' s0 s1
  have hold : old.beat = s.beat := (rfl : old.beat = u.beat).trans (s.quiesceLate_beat n)
  split
  · exact (State.notice_beat _ _).trans ((State.setDev_beat _ _).trans hold)
  · have h1 : s1.beat = s.beat := by
      unfold s1
      split
      · exact ite_beat ((old.quiesceDecided_beat _ false).trans hold) hold
      · exact hold
    split
    · split
      · exact (s1.quiesceVote_beat n).trans h1
      · exact h1
    · exact h1

/-! ### Resume, switches, tests -/

theorem State.takeProfile_beat (k : Fin 4) : (s.takeProfile k).beat = s.beat := by
  unfold State.takeProfile
  split <;> rfl

theorem State.switchFirmware_beat : s.switchFirmware.beat = s.beat := (State.record_beat _ _).trans rfl

theorem State.resumeNow_beat : s.resumeNow.beat = s.beat :=
  (State.admitAgain_beat _).trans (ite_beat ((State.setDev_beat _ _).trans rfl) rfl)

theorem State.switches_beat (n : W64) (quiesced : Bool) : (s.switches n quiesced).beat = s.beat := by
  unfold State.switches
  extract_lets fw s1 wdn s2 wdn' s3
  have h1 : s1.beat = s.beat := by
    unfold s1
    split
    · exact ite_beat s.resumeNow_beat rfl
    · rfl
  have h2 : s2.beat = s1.beat := (foldl_beat _ (fun t (x : Fin 4 × OrderHdr) => (State.reply_beat _ _ _ _ _).trans (t.takeProfile_beat x.1)) _).trans rfl
  have h3 : s3.beat = s2.beat := by
    unfold s3
    split
    · exact (State.takeProfile_beat _ _).trans rfl
    · rfl
  refine ite_beat (h3.trans (h2.trans h1)) ?_
  split
  · exact (foldl_beat _ (fun t x => t.reply_beat _ _ _ _) _).trans ((State.reply_beat _ _ _ _ _).trans (s3.switchFirmware_beat.trans (h3.trans (h2.trans h1))))
  · exact s3.switchFirmware_beat.trans (h3.trans (h2.trans h1))

theorem State.modCombs_comb (f : CombId → Comb → Comb) (c : CombId) : (s.modCombs f).comb c = f c (s.comb c) := by
  simp [State.comb, State.modCombs]

theorem State.modCombs_beat {f : CombId → Comb → Comb} (hf : ∀ c k, (f c k).plan = k.plan) : (s.modCombs f).beat = s.beat := by
  have hplan (c : CombId) : ((s.modCombs f).comb c).plan = (s.comb c).plan := by
    rw [State.modCombs_comb, hf]
  exact congrArg₂ Beat.mk (s.modCombs_pulse f) (funext hplan)

theorem State.beginTests_beat : s.beginTests.beat = s.beat := s.modCombs_beat fun c k => by split <;> rfl

theorem State.readyNow_beat (t : Nat) : (s.readyNow t).beat = s.beat :=
  ite_beat ((State.setDev_beat _ _).trans ((State.linksBack_beat _ _).trans rfl)) rfl

/-! ### Frames, and what is sent -/

theorem State.combChime_beat (n : W64) (t : Nat) (hold resumed : Bool) (c : CombId) : (s.combChime n t hold resumed c).beat = s.beat := by
  unfold State.combChime
  dsimp only
  split
  · exact ite_beat (s.modSeq_beat c _) rfl
  · exact ite_beat (s.modSeq_beat c _) rfl
  iterate 3
    exact ite_beat (s.fault_beat c _ _ _) (ite_beat (s.modSeq_beat c _) (ite_beat (s.modSeq_beat c _) (s.modSeq_beat c _)))
  rfl

theorem State.frames_beat (n : W64) (t : Nat) (hold resumed : Bool) : (s.frames n t hold resumed).beat = s.beat :=
  (State.refresh_beat _).trans (foldl_beat s (fun u c => u.combChime_beat n t hold resumed c) _)

theorem State.chimeNotice_beat (n : W64) (t : Nat) : (s.chimeNotice n t).beat = s.beat := ite_beat (s.notice_beat _) rfl

theorem State.sendChime_beat (ls : List LinkId) (hops : BitVec 8) (root : ChipId) : (s.sendChime ls hops root).beat = s.beat :=
  foldl_beat s (fun t l => (State.modLink_beat _ l _).trans t.draw_beat) ls

/-! ### Tables, interval and level -/

/-- Do the tables flip at chime `n`? -/
def State.flipsAt (n : W64) : Bool := s.rte.flip != 0 && s.rte.flip == n

theorem State.latchHeld_beat (n : W64) : (s.latchHeld n).beat = s.beat := by
  unfold State.latchHeld
  extract_lets r h0 h1 zero r1
  clear_value h0 h1 zero
  split
  · rfl
  · split <;> rfl

end Sys2Proof.Machine
end

section
/-!
SUPPORT for O52. The pulse of the chip once a chime is over: the numbers that pass at it, the tables' flip, the settings, the level and the commit
outcome (R249, R257, R286, R287, R298, R327).
-/
namespace Sys2Proof.Machine

variable (s : State)

/-! ### The chime reached -/

/-- The state with another clock. -/
def State.withChm (x : Chm) : State := { s with chm := x }

theorem State.withChm_beat {s t : State} {y : Chm} (h : t.beat = (s.withChm y).beat) (z : Chm) : (t.withChm z).beat = (s.withChm z).beat :=
  congrArg (fun b : Beat => (⟨{ b.pulse with clock := z.face }, b.plan⟩ : Beat)) h

/-- A clock whose time base is at `t` at least, with the chip's own count at `k`. -/
def Chm.till (x : Chm) (t k : Nat) : Chm := { x with tb := max x.tb t, local_ := k }


theorem State.until_eq (t : Nat) : ∃ k, s.until t = s.withChm (s.chm.till t k) := by
  unfold State.until
  split
  next h => exact ⟨s.chm.local_ + (t - s.chm.tb), by rw [Chm.till, max_eq_right h.le]; rfl⟩
  next h => exact ⟨s.chm.local_, by rw [Chm.till, max_eq_left (not_lt.1 h)]; rfl⟩

/-- What a copy's use leaves of the clock. -/
def Chm.unheard (t : Chm) : W64 × Nat × BitVec 26 × Bool × W64 × Option W64 × Option W64 × Option W64 × List (W64 × ChipId × Bool) × List W64 × Option W64 :=
  (t.n, t.nextAt, t.ival, t.running, t.base, t.qReq, t.qVoted, t.qGo, t.qVotes, t.qTold, t.resumeAt)

theorem State.lostSync_tells (first : Bool) : ∃ u, (s.faultBit 4).Tells u ∧ s.lostSync first = u.abortStep := by
  unfold State.lostSync
  refine ⟨_, ?_, rfl⟩
  split
  · exact State.notice_tells _ _
  · exact .refl _

/-- A copy that is used changes the clock; a loss of synchronism besides aborts the step and is reported. -/
theorem State.useHeard_cases : s.useHeard = s ∨ ∃ x e, s.chm.copyNow = some (x, e) ∧
    (s.useHeard = s.withChm (s.chm.useCopy x s.rte.named e) ∨
      s.useHeard = (s.withChm (s.chm.useCopy x s.rte.named e)).lostSync (!s.chm.syncloss)) := by
  unfold State.useHeard
  split
  · exact .inl rfl
  next x e hcopy =>
    refine .inr ⟨x, e, hcopy, ?_⟩
    dsimp only
    split
    · exact .inr rfl
    · exact .inl rfl

theorem State.lostSync_beat (first : Bool) : (s.lostSync first).beat = s.beat := by
  obtain ⟨u, hu, h⟩ := s.lostSync_tells first
  rw [h, State.abortStep_beat, hu.beat]
  rfl

theorem State.abortStep_chm : s.abortStep.chm = s.chm := rfl
theorem State.abortStep_round : s.abortStep.stp.round = s.stp.round := by
  unfold State.abortStep
  extract_lets formed
  clear_value formed
  cases formed <;> rfl

theorem State.lostSync_chm (first : Bool) : (s.lostSync first).chm = s.chm := by
  obtain ⟨u, hu, h⟩ := s.lostSync_tells first
  rw [h, State.abortStep_chm]
  exact (congrArg State.chm hu.quiet :)

theorem State.lostSync_round (first : Bool) : (s.lostSync first).stp.round = s.stp.round := by
  obtain ⟨u, hu, h⟩ := s.lostSync_tells first
  rw [h, State.abortStep_round]
  exact (congrArg (fun x : State => x.stp.round) hu.quiet :)

theorem State.useHeard_beat : s.useHeard.beat = (s.withChm s.useHeard.chm).beat := by
  rcases s.useHeard_cases with h | ⟨x, e, -, h | h⟩
  · rw [h]
    rfl
  · rw [h]
    rfl
  · rw [h, State.lostSync_beat, State.lostSync_chm]
    rfl

theorem State.useHeard_round : s.useHeard.stp.round = s.stp.round := by
  rcases s.useHeard_cases with h | ⟨x, e, -, h | h⟩
  · rw [h]
  · rw [h]
    rfl
  · rw [h]
    exact State.lostSync_round _ _

theorem State.useHeard_unheard : s.useHeard.chm.unheard = s.chm.unheard := by
  rcases s.useHeard_cases with h | ⟨x, e, -, h | h⟩
  · rw [h]
  · rw [h]
    rfl
  · rw [h, State.lostSync_chm]
    rfl

/-- The chip as the next chime is reached. -/
def State.reached : State :=
  let s1 := (s.useHeard.until s.chm.nextAt).noteRefused
  { s1 with chm := s1.chm.pass }

theorem State.nextChime_idle {s : State} (h : s.chm.running = false) : s.nextChime = s := by
  rw [State.nextChime, h]
  rfl

theorem State.nextChime_eq {s : State} (h : s.chm.running = true) :
    s.nextChime = (s.reached.atChime (s.chm.n + 1) s.chm.nextAt).until (s.chm.nextAt + 32) := by
  rw [State.nextChime, h]
  rfl

theorem State.reached_chm : ∃ k, s.reached.chm = (s.useHeard.chm.till s.chm.nextAt k).pass := by
  obtain ⟨k, hk⟩ := s.useHeard.until_eq s.chm.nextAt
  refine ⟨k, ?_⟩
  have hnoted : (s.useHeard.until s.chm.nextAt).noteRefused.chm = (s.useHeard.until s.chm.nextAt).chm :=
    (congrArg State.chm (s.useHeard.until s.chm.nextAt).noteRefused_tells.quiet :)
  exact congrArg Chm.pass (hnoted.trans (congrArg State.chm hk))

theorem State.reached_beat : s.reached.beat = (s.withChm s.reached.chm).beat := by
  obtain ⟨k, hk⟩ := s.useHeard.until_eq s.chm.nextAt
  have hnoted : (s.useHeard.until s.chm.nextAt).noteRefused.beat = (s.withChm (s.useHeard.chm.till s.chm.nextAt k)).beat := by
    rw [(s.useHeard.until s.chm.nextAt).noteRefused_tells.beat, hk]
    exact (State.withChm_beat s.useHeard_beat _)
  exact State.withChm_beat hnoted s.reached.chm

theorem State.reached_round : s.reached.stp.round = s.stp.round := by
  obtain ⟨k, hk⟩ := s.useHeard.until_eq s.chm.nextAt
  have hnoted : (s.useHeard.until s.chm.nextAt).noteRefused.stp = (s.useHeard.until s.chm.nextAt).stp :=
    (congrArg State.stp (s.useHeard.until s.chm.nextAt).noteRefused_tells.quiet :)
  change (s.useHeard.until s.chm.nextAt).noteRefused.stp.round = _
  rw [hnoted, hk]
  exact s.useHeard_round

/-! ### Links that come back, and drops that waited -/

/-- The chip with its links in service again and the drops that waited for them sent. -/
def State.relinked : State := (if s.mustering then s else s.linksBack true).pumpWait

theorem State.relinked_beat : s.relinked.beat = s.beat :=
  (State.beat_of_unsent (State.pumpWait_unsent _)).trans (ite_beat rfl (s.linksBack_beat true))

theorem State.linksBack_stp (rec : Bool) : (s.linksBack rec).stp = s.stp := by
  refine (foldl_keeps State.stp _ (fun t l => ?_) _ _).trans (foldl_keeps State.stp _ (fun t l => ?_) _ s)
  · split <;> rfl
  · dsimp only
    split
    · split
      · exact (congrArg State.stp (State.record_tells _ _).quiet :)
      · rfl
    · rfl

theorem State.relinked_stp : s.relinked.stp = s.stp := by
  have hsent := congrArg State.stp (State.pumpWait_unsent (if s.mustering then s else s.linksBack true))
  refine Eq.trans hsent ?_
  change (if s.mustering then s else s.linksBack true).stp = _
  split
  · rfl
  · exact s.linksBack_stp true

/-! ### Flip and outcome -/

theorem State.flipTables_of_flips {s : State} {n : W64} (h : s.flipsAt n = true) : s.flipTables n =
    { s with rte := { s.rte with inj := if s.rte.inj = 0 then 1 else 0, flip := 0, released := false, run := false } } :=
  if_pos (by simpa [State.flipsAt] using h)

theorem State.flipTables_of_not_flips {s : State} {n : W64} (h : s.flipsAt n = false) : s.flipTables n = s :=
  if_neg (by simpa [State.flipsAt] using h)

theorem State.flipTables_stp (n : W64) : (s.flipTables n).stp = s.stp := by
  unfold State.flipTables
  split <;> rfl

theorem State.flipTables_commitDue (n : W64) : (s.flipTables n).commitDue n = s.commitDue n := by
  rw [State.commitDue, s.flipTables_stp n, State.commitDue]

theorem State.flipAndCommit_due {n : W64} {v : Bool} {c : W64} {r : Round} (h : s.commitDue n = some (v, c, r)) :
    (s.flipAndCommit n).beat = (((s.flipTables n).decidedStep v r).renumbered (if s.flipsAt n then n else c)).beat := by
  have hout : s.flipAndCommit n = ((s.flipTables n).applyDecision v c r).restartNums (if s.flipsAt n then n else c) := by
    unfold State.flipAndCommit
    dsimp only
    rw [s.flipTables_commitDue, h]
    rfl
  rw [hout, State.restartNums_beat]
  exact congrArg (fun b : Beat => (⟨{ b.pulse with nums := ([], []), era := if s.flipsAt n then n else c }, b.plan⟩ : Beat)) (State.applyDecision_beat _ v c r)

theorem State.flipAndCommit_open {n : W64} (h : s.commitDue n = none) :
    s.flipAndCommit n = if s.flipsAt n then (s.flipTables n).restartNums n else s.flipTables n := by
  unfold State.flipAndCommit
  dsimp only
  rw [s.flipTables_commitDue, h]
  rfl

end Sys2Proof.Machine
end

section
/-!
Clauses of O52 on the numbers, the tables, the settings, the level and the commit outcome (R249, R257, R286, R287, R298, R327), read off the pulse.
-/
namespace Sys2Proof.Machine

variable (s : State)

/-! ### Interval, settings and level -/

/-- The clock with an interval change that is due at chime `n`. -/
def Chm.retimed (x : Chm) (n : W64) : Chm :=
  if x.pendV ∧ x.pendAt = n then { x with ival := x.pendC, pendV := false, nextAt := x.nextAt - x.ival.toNat + x.pendC.toNat } else x

theorem Chm.retimed_face (x : Chm) (n : W64) : (x.retimed n).face = x.face.retimed n := by
  have hface : x.face.pendV = x.pendV ∧ x.face.pendAt = x.pendAt := ⟨rfl, rfl⟩
  unfold Chm.retimed
  rw [hface.1, hface.2]
  split <;> rfl

/-- Level, pending level and chime of the change, with a change that is due at chime `n`. -/
def levelAt (n : W64) (x : BitVec 2 × BitVec 2 × W64) : BitVec 2 × BitVec 2 × W64 := if x.2.2 ≠ 0 ∧ x.2.2 = n then (x.2.1, x.2.1, 0) else x

/-- A pulse with the changes of interval, settings and level at chime `n`. -/
def Pulse.settled (p : Pulse) (n : W64) : Pulse :=
  { p with
    clock := p.clock.retimed n, cfg := p.cfgNext.getD p.cfg, spill := p.spillNext.getD p.spill, cfgNext := none, spillNext := none
    level := levelAt n p.level }

theorem State.settings_pulse (n : W64) : (s.settings n).pulse =
    { s.pulse with clock := (s.chm.retimed n).face, cfg := s.col.cfgNext.getD s.col.cfg, spill := s.col.spillNext.getD s.col.spill, cfgNext := none, spillNext := none } := rfl

theorem State.levelChange_pulse (n : W64) : (s.levelChange n).pulse = { s.pulse with level := levelAt n s.pulse.level } := by
  unfold State.levelChange
  extract_lets x x1
  have h1 : (x1.level, x1.pend, x1.at_) = levelAt n s.pulse.level := by
    unfold x1 levelAt
    change _ = if x.at_ ≠ 0 ∧ x.at_ = n then (x.pend, x.pend, 0) else (x.level, x.pend, x.at_)
    split <;> rfl
  clear_value x1
  rw [← h1]
  split <;> rfl

theorem State.settled_pulse (n : W64) : ((s.settings n).levelChange n).pulse = s.pulse.settled n := by
  rw [State.levelChange_pulse, State.settings_pulse, Chm.retimed_face]
  rfl

/-! ### The chime as a whole -/

theorem State.atChime_pulse (n : W64) (t : Nat) : (s.atChime n t).pulse = (s.relinked.flipAndCommit n).pulse.settled n := by
  unfold State.atChime
  extract_lets s1 s2 q w s3 s4 rte s5 s6
  have h2 : s2.pulse = (s.relinked.flipAndCommit n).pulse.settled n := by
    rw [State.settled_pulse, State.beat_pulse (State.latchHeld_beat _ n)]
    rfl
  have hw : w.pulse = s2.pulse := State.beat_pulse ((State.switches_beat _ n _).trans (s2.quiesceChime_beat n))
  have h3 : s3.pulse = w.pulse :=
    (State.beat_pulse (State.beginTests_beat _)).trans ((State.jobResets_pulse _ n).trans w.dueResets_pulse)
  have h4 : s4.pulse = s3.pulse := State.beat_pulse ((State.frames_beat _ _ _ _ _).trans (s3.readyNow_beat t))
  clear_value s4
  have h5 : s5.beat = s4.beat := rfl
  have h6 : s6.pulse = s4.pulse := State.beat_pulse ((s5.chimeNotice_beat n t).trans h5)
  have hout : (if s6.chm.isRoot then s6.sendChime s6.chimeLinks (BitVec.ofNat 8 (min 255 (s6.chm.hops.toNat + 1))) s6.rte.selfId else s6).pulse = s6.pulse :=
    State.beat_pulse (ite_beat (s6.sendChime_beat _ _ _) rfl)
  rw [hout, h6, h4, h3, hw, h2]

/-! ### What flip and outcome leave of the pulse -/

/-- A pulse without the tables' choice, the numberings and the step. -/
def Pulse.outer (p : Pulse) : Pulse :=
  { p with inj := 0, flip := 0, released := false, era := 0, nums := ([], []), step := (false, 0, 0, 0, 0, false), unopened := true }

/-- The tables' choice, and the flip that is armed. -/
def Pulse.tables (p : Pulse) : Fin 2 × W64 × Bool := (p.inj, p.flip, p.released)

theorem State.flipTables_outer (n : W64) : (s.flipTables n).pulse.outer = s.pulse.outer := by
  unfold State.flipTables
  split <;> rfl

theorem State.flipAndCommit_outer (n : W64) : (s.flipAndCommit n).pulse.outer = s.pulse.outer := by
  rcases hdue : s.commitDue n with _ | ⟨v, c, r⟩
  · rw [State.flipAndCommit_open _ hdue, ← s.flipTables_outer n]
    split
    · rw [State.beat_pulse (State.restartNums_beat _ n)]
      rfl
    · rfl
  · rw [State.beat_pulse (State.flipAndCommit_due _ hdue), ← s.flipTables_outer n]
    rfl

theorem State.flipAndCommit_tables (n : W64) : (s.flipAndCommit n).pulse.tables = (s.flipTables n).pulse.tables := by
  rcases hdue : s.commitDue n with _ | ⟨v, c, r⟩
  · rw [State.flipAndCommit_open _ hdue]
    split
    · rw [State.beat_pulse (State.restartNums_beat _ n)]
      rfl
    · rfl
  · rw [State.beat_pulse (State.flipAndCommit_due _ hdue)]
    rfl

theorem State.flipAndCommit_numbers {s : State} {n : W64} (h : s.flipsAt n = true) :
    (s.flipAndCommit n).pulse.era = n ∧ (s.flipAndCommit n).pulse.nums = ([], []) := by
  rcases hdue : s.commitDue n with _ | ⟨v, c, r⟩
  · rw [State.flipAndCommit_open _ hdue, if_pos h, State.beat_pulse (State.restartNums_beat _ n)]
    exact ⟨rfl, rfl⟩
  · rw [State.beat_pulse (State.flipAndCommit_due _ hdue), if_pos h]
    exact ⟨rfl, rfl⟩

/-! ### The chip once the chime is over -/

/-- The number of the next chime. -/
def State.nextNo : W64 := s.chm.n + 1

/-- The chip with its numberings and its step as flip and outcome of the next chime leave them. -/
def State.turned : State := s.reached.relinked.flipAndCommit s.nextNo

theorem State.relinked_pulse : s.reached.relinked.pulse = { s.pulse with clock := s.reached.chm.face } := by
  rw [State.beat_pulse (State.relinked_beat _), State.beat_pulse s.reached_beat]
  rfl

theorem State.turned_outer : s.turned.pulse.outer = { s.pulse.outer with clock := s.reached.chm.face } := by
  rw [State.turned, State.flipAndCommit_outer, State.relinked_pulse]
  rfl

theorem State.relinked_commitDue (n : W64) : s.reached.relinked.commitDue n = s.commitDue n := by
  rw [State.commitDue, State.relinked_stp, s.reached_round, State.commitDue]

theorem State.pulse_clock : s.pulse.clock = s.chm.face := rfl

theorem Pulse.settled_clock (p : Pulse) (n : W64) : (p.settled n).clock = p.clock.retimed n := rfl

section Running
variable {s : State} (h : s.chm.running = true)
include h

theorem State.nextChime_pulse : ∃ k, s.nextChime.pulse =
    { s.turned.pulse.settled s.nextNo with clock := (s.turned.pulse.settled s.nextNo).clock.till (s.chm.nextAt + 32) k } := by
  obtain ⟨k, hk⟩ := (s.reached.atChime (s.chm.n + 1) s.chm.nextAt).until_eq (s.chm.nextAt + 32)
  refine ⟨k, ?_⟩
  have hp := State.atChime_pulse s.reached (s.chm.n + 1) s.chm.nextAt
  rw [State.nextChime_eq h, hk]
  change { (s.reached.atChime (s.chm.n + 1) s.chm.nextAt).pulse with
    clock := (s.reached.atChime (s.chm.n + 1) s.chm.nextAt).pulse.clock.till (s.chm.nextAt + 32) k } = _
  rw [hp]
  rfl

theorem State.nextChime_clock : ∃ k k', s.nextChime.chm.face =
    ((((s.useHeard.chm.till s.chm.nextAt k).pass).face.retimed s.nextNo).till (s.chm.nextAt + 32) k') := by
  obtain ⟨k', hp⟩ := State.nextChime_pulse h
  obtain ⟨k, hk⟩ := s.reached_chm
  have hclock : s.turned.pulse.clock = s.reached.chm.face := congrArg Pulse.clock s.turned_outer
  refine ⟨k, k', ?_⟩
  rw [← State.pulse_clock s.nextChime, hp, ← hk, ← hclock, ← Pulse.settled_clock]

end Running

/-- A clock that a chime at instant `a` has passed. -/
theorem Chm.passed (x : Chm) (a k k' : Nat) (n : W64) :
    (((x.till a k).pass.face.retimed n).till (a + 32) k').n = x.n + 1 ∧
    (((x.till a k).pass.face.retimed n).till (a + 32) k').tb = max x.tb (a + 32) ∧
    (((x.till a k).pass.face.retimed n).till (a + 32) k').ival = (if x.pendV = true ∧ x.pendAt = n then x.pendC else x.ival) ∧
    (((x.till a k).pass.face.retimed n).till (a + 32) k').nextAt =
      x.nextAt + (if x.pendV = true ∧ x.pendAt = n then x.pendC else x.ival).toNat := by
  have hpend : (x.till a k).pass.face.pendV = x.pendV ∧ (x.till a k).pass.face.pendAt = x.pendAt := ⟨rfl, rfl⟩
  have htb : max (max x.tb a) (a + 32) = max x.tb (a + 32) := by omega
  unfold Chm.retimed
  rw [hpend.1, hpend.2]
  split
  · exact ⟨rfl, htb, rfl, congrArg (· + x.pendC.toNat) (Nat.add_sub_cancel x.nextAt x.ival.toNat)⟩
  · exact ⟨rfl, htb, rfl, rfl⟩

theorem State.relinked_tables : s.reached.relinked.pulse.tables = s.pulse.tables := by
  rw [State.relinked_pulse]
  rfl

theorem State.flipsAt_iff (n : W64) : s.reached.relinked.flipsAt n = true ↔ s.rte.flip ≠ 0 ∧ s.rte.flip = n := by
  have hflip : s.reached.relinked.rte.flip = s.rte.flip := congrArg Pulse.flip s.relinked_pulse
  rw [State.flipsAt, hflip, Bool.and_eq_true, bne_iff_ne, beq_iff_eq]

theorem other_table_ne (i : Fin 2) : (if i = 0 then 1 else 0 : Fin 2) ≠ i := by decide +revert

section Clauses
variable {s : State} (h : s.chm.running = true)
include h

theorem State.nextChime_numbers : s.nextChime.chm.n = s.nextNo ∧ s.nextChime.chm.tb = max s.useHeard.chm.tb (s.chm.nextAt + 32) ∧
    s.nextChime.chm.ival = (if s.useHeard.chm.pendV = true ∧ s.useHeard.chm.pendAt = s.nextNo then s.useHeard.chm.pendC else s.chm.ival) ∧
    s.nextChime.chm.nextAt = s.chm.nextAt +
      (if s.useHeard.chm.pendV = true ∧ s.useHeard.chm.pendAt = s.nextNo then s.useHeard.chm.pendC else s.chm.ival).toNat := by
  obtain ⟨k, k', hface⟩ := State.nextChime_clock h
  have hheard := s.useHeard_unheard
  have hn : s.useHeard.chm.n = s.chm.n := congrArg (fun x => x.1) hheard
  have hat : s.useHeard.chm.nextAt = s.chm.nextAt := congrArg (fun x => x.2.1) hheard
  have hival : s.useHeard.chm.ival = s.chm.ival := congrArg (fun x => x.2.2.1) hheard
  have hpassed := Chm.passed s.useHeard.chm s.chm.nextAt k k' s.nextNo
  rw [← hface, hn, hat, hival] at hpassed
  exact hpassed

theorem State.nextChime_tables : s.nextChime.pulse.tables = (s.reached.relinked.flipTables s.nextNo).pulse.tables := by
  obtain ⟨k, hp⟩ := State.nextChime_pulse h
  have hturned : s.turned.pulse.tables = (s.reached.relinked.flipTables s.nextNo).pulse.tables := State.flipAndCommit_tables _ _
  rw [hp, ← hturned]
  rfl

theorem State.nextChime_flips (hflip : s.rte.flip ≠ 0) (hn : s.rte.flip = s.nextNo) : s.nextChime.rte.inj ≠ s.rte.inj ∧ s.nextChime.rte.flip = 0 ∧
    s.nextChime.rte.released = false ∧ s.nextChime.col.era = s.nextNo ∧ s.nextChime.col.collNum = [] ∧ s.nextChime.col.barNum = [] := by
  obtain ⟨k, hp⟩ := State.nextChime_pulse h
  have hflips : s.reached.relinked.flipsAt s.nextNo = true := (s.flipsAt_iff _).2 ⟨hflip, hn⟩
  have htab := State.nextChime_tables h
  rw [State.flipTables_of_flips hflips] at htab
  have hinj : s.reached.relinked.rte.inj = s.rte.inj := congrArg (fun x => x.1) s.relinked_tables
  have hturned : s.turned.pulse.era = s.nextNo ∧ s.turned.pulse.nums = ([], []) := State.flipAndCommit_numbers hflips
  have hera : s.nextChime.pulse.era = s.turned.pulse.era := by rw [hp]; rfl
  have hnums : s.nextChime.pulse.nums = s.turned.pulse.nums := by rw [hp]; rfl
  rw [hturned.1] at hera
  rw [hturned.2] at hnums
  refine ⟨?_, congrArg (fun x => x.2.1) htab, congrArg (fun x => x.2.2) htab, hera, congrArg Prod.fst hnums, congrArg Prod.snd hnums⟩
  rw [show s.nextChime.rte.inj = _ from congrArg (fun x => x.1) htab, ← hinj]
  exact other_table_ne _

theorem State.nextChime_unflipped (hn : s.rte.flip ≠ s.nextNo) : s.nextChime.rte.inj = s.rte.inj ∧ s.nextChime.rte.flip = s.rte.flip := by
  have hflips : s.reached.relinked.flipsAt s.nextNo = false := Bool.eq_false_iff.2 fun hf => hn ((s.flipsAt_iff _).1 hf).2
  have htab := State.nextChime_tables h
  rw [State.flipTables_of_not_flips hflips, State.relinked_tables] at htab
  exact ⟨congrArg (fun x => x.1) htab, congrArg (fun x => x.2.1) htab⟩

theorem State.nextChime_level : s.nextChime.pulse.level = levelAt s.nextNo s.pulse.level := by
  obtain ⟨k, hp⟩ := State.nextChime_pulse h
  have houter : s.turned.pulse.level = s.pulse.level := (congrArg Pulse.level s.turned_outer :)
  rw [hp, ← houter]
  rfl

theorem State.nextChime_levelled (hat : s.seals.at_ ≠ 0) (hn : s.seals.at_ = s.nextNo) :
    s.nextChime.seals.level = s.seals.pend ∧ s.nextChime.seals.at_ = 0 := by
  have hlevel := State.nextChime_level h
  rw [levelAt, if_pos ⟨hat, hn⟩] at hlevel
  exact ⟨congrArg (fun x => x.1) hlevel, congrArg (fun x => x.2.2) hlevel⟩

theorem State.nextChime_unlevelled (hn : s.seals.at_ ≠ s.nextNo) : s.nextChime.seals.level = s.seals.level ∧ s.nextChime.seals.at_ = s.seals.at_ := by
  have hlevel := State.nextChime_level h
  rw [levelAt, if_neg fun hat => hn hat.2] at hlevel
  exact ⟨congrArg (fun x => x.1) hlevel, congrArg (fun x => x.2.2) hlevel⟩

theorem State.nextChime_settings : s.nextChime.col.cfg = s.col.cfgNext.getD s.col.cfg ∧ s.nextChime.col.spill = s.col.spillNext.getD s.col.spill := by
  obtain ⟨k, hp⟩ := State.nextChime_pulse h
  have hcfg : s.nextChime.pulse.cfg = s.turned.pulse.cfgNext.getD s.turned.pulse.cfg := by rw [hp]; rfl
  have hspill : s.nextChime.pulse.spill = s.turned.pulse.spillNext.getD s.turned.pulse.spill := by rw [hp]; rfl
  have hcfg' : s.turned.pulse.cfg = s.col.cfg := congrArg Pulse.cfg s.turned_outer
  have hcfgNext : s.turned.pulse.cfgNext = s.col.cfgNext := congrArg Pulse.cfgNext s.turned_outer
  have hspill' : s.turned.pulse.spill = s.col.spill := congrArg Pulse.spill s.turned_outer
  have hspillNext : s.turned.pulse.spillNext = s.col.spillNext := congrArg Pulse.spillNext s.turned_outer
  rw [hcfg', hcfgNext] at hcfg
  rw [hspill', hspillNext] at hspill
  exact ⟨hcfg, hspill⟩

theorem State.nextChime_decided {r : Round} {v : Bool} {c : W64} (hr : s.stp.round = some r) (hd : r.decision = some (v, c))
    (hc : c.toNat ≤ s.nextNo.toNat) : s.nextChime.stp.round = none ∧
    (s.nextChime.stp.bank, s.nextChime.stp.flips, s.nextChime.stp.step, s.nextChime.stp.last, s.nextChime.stp.skips, s.nextChime.stp.decision) =
      if v then (!s.stp.bank, s.stp.flips + 1, r.step + 1, r.step, s.stp.skips, true)
      else (s.stp.bank, s.stp.flips, s.stp.step, s.stp.last, s.stp.skips + 1, false) := by
  obtain ⟨k, hp⟩ := State.nextChime_pulse h
  have hdue : s.reached.relinked.commitDue s.nextNo = some (v, c, r) := by
    rw [State.relinked_commitDue, State.commitDue, hr]
    dsimp only
    rw [hd]
    exact if_pos hc
  have hturned := State.beat_pulse (State.flipAndCommit_due _ hdue)
  have hround : s.nextChime.pulse.unopened = s.turned.pulse.unopened := by rw [hp]; rfl
  have hstep : s.nextChime.pulse.step = s.turned.pulse.step := by rw [hp]; rfl
  rw [show s.turned.pulse = _ from hturned] at hround hstep
  have hold : (s.reached.relinked.flipTables s.nextNo).pulse.step = s.pulse.step :=
    (congrArg (fun x : Stp => (x.bank, x.flips, x.step, x.last, x.skips, x.decision)) (State.flipTables_stp _ _)).trans
      (congrArg Pulse.step s.relinked_pulse)
  refine ⟨Option.isNone_iff_eq_none.1 hround, Eq.trans hstep ?_⟩
  cases v
  · exact congrArg (fun x : Bool × W32 × W64 × W64 × W32 × Bool => (x.1, x.2.1, x.2.2.1, x.2.2.2.1, x.2.2.2.2.1 + 1, false)) hold
  · exact congrArg (fun x : Bool × W32 × W64 × W64 × W32 × Bool => (!x.1, x.2.1 + 1, r.step + 1, r.step, x.2.2.2.2.1, true)) hold

end Clauses

end Sys2Proof.Machine
end

section
/-!
Clause of O52 on a comb with new findings: its map entry, or FENCED where no spare is free (R24, R28, R361).
-/
namespace Sys2Proof.Machine

variable (s : State)

/-! ### The device state in the later actions of a chime -/

theorem State.fault_dev (c : CombId) (code addr src : Nat) : (s.fault c code addr src).dev = s.dev := by
  unfold State.fault
  extract_lets q grave s1 s3 s2
  have h3 : s3.dev = s.dev := State.notice_dev _ _
  have h2 : s2.dev = s.dev := by
    unfold s2
    split
    · rfl
    split
    · exact (State.record_dev _ _).trans h3
    · exact h3
  split
  · exact h2
  · exact h2

theorem State.combChime_dev (n : W64) (t : Nat) (hold resumed : Bool) (c : CombId) : (s.combChime n t hold resumed c).dev = s.dev := by
  have hite {p : Prop} [Decidable p] {a b : State} (ha : a.dev = s.dev) (hb : b.dev = s.dev) : (if p then a else b).dev = s.dev := by
    split <;> assumption
  unfold State.combChime
  dsimp only
  split
  · exact hite rfl rfl
  · exact hite rfl rfl
  iterate 3
    exact hite (s.fault_dev _ _ _ _) (hite rfl (hite rfl rfl))
  rfl

theorem State.refresh_other {s : State} (hready : s.dev.st ≠ .ready) (hrunning : s.dev.st ≠ .running) : s.refresh = s := by
  unfold State.refresh
  dsimp only
  rw [if_neg fun h => hready h.1, if_neg fun h => hrunning h.1]

theorem State.foldl_combChime_dev (n : W64) (t : Nat) (hold resumed : Bool) (cs : List CombId) :
    (cs.foldl (fun (u : State) c => u.combChime n t hold resumed c) s).dev = s.dev :=
  foldl_keeps State.dev _ (fun u c => u.combChime_dev n t hold resumed c) cs s

/-- A device that is neither READY nor RUNNING keeps its state while the frames begin. -/
theorem State.frames_st {s : State} (hready : s.dev.st ≠ .ready) (hrunning : s.dev.st ≠ .running) (n : W64) (t : Nat) (hold resumed : Bool) :
    (s.frames n t hold resumed).dev.st = s.dev.st := by
  have hdev := s.foldl_combChime_dev n t hold resumed (List.finRange 64)
  rw [State.frames, State.refresh_other (by rwa [hdev]) (by rwa [hdev]), hdev]

theorem State.sendChime_dev (ls : List LinkId) (hops : BitVec 8) (root : ChipId) : (s.sendChime ls hops root).dev = s.dev := by
  refine foldl_keeps State.dev _ (fun t l => ?_) ls s
  rfl

theorem State.chimeNotice_dev (n : W64) (t : Nat) : (s.chimeNotice n t).dev = s.dev := by
  unfold State.chimeNotice
  dsimp only
  split
  · exact s.notice_dev _
  · rfl

/-! ### FENCED stays -/

theorem State.st_of_peers {s t : State} (h : t.net.peers = s.net.peers) : t.dev.st = s.dev.st := congrArg Peers.st h

section Fenced
variable {s : State} (h : s.dev.st = .fenced)
include h

theorem State.reloadComb_fenced (c : CombId) : (s.reloadComb c).dev.st = .fenced := by
  cases hprog : (s.comb c).seq.prog with
  | none => rwa [State.reloadComb_none hprog]
  | some p =>
    have hread : (s.readImage p.image).2.dev.st = .fenced := (s.readImage_keeps p.image).dev_st.trans h
    by_cases hseal : ∃ im, (s.readImage p.image).1 = some im ∧ plainSeal im.bytes = p.digest
    · obtain ⟨im, him, hok⟩ := hseal
      have hloaded : ((s.readImage p.image).2.modSeq c fun q => q.loadedWith im).dev.st = .fenced := hread
      rw [State.reloadComb_loaded hprog him hok, State.loadComb_eq,
        State.refresh_other (hloaded.trans_ne DevState.noConfusion) (hloaded.trans_ne DevState.noConfusion), hloaded]
    · rw [State.reloadComb_dropped hprog fun im him hok => hseal ⟨im, him, hok⟩, State.record_dev]
      exact hread

theorem State.foldl_fenced {β : Type} {f : State → β → State} (hf : ∀ (t : State) x, t.dev.st = .fenced → (f t x).dev.st = .fenced) (l : List β) :
    (l.foldl f s).dev.st = .fenced := by
  induction l generalizing s with
  | nil => exact h
  | cons x l ih => exact ih (hf s x h)

theorem State.combResets_fenced (cs : List (CombId × Bool)) (cause : Nat) (jobs : List ResetJob) : (s.combResets cs cause jobs).dev.st = .fenced := by
  have hfold : (cs.foldl (fun (t : State) c => t.resetOne c.1 c.2) s).dev.st = .fenced :=
    State.foldl_fenced h (fun t c ht => (State.st_of_peers (t.resetOne_peers c.1 c.2)).trans ht) cs
  unfold State.combResets
  extract_lets s1 s2
  have h1 : (s1.formVote.noteReset 1 cause cs.length).dev.st = .fenced := (State.st_of_peers s1.formVote_peers).trans hfold
  have h2 : s2.dev.st = .fenced := by
    unfold s2
    rw [State.enterReset_fenced h1]
    exact h1
  rw [if_pos h2]
  exact State.foldl_fenced h2 (fun t c ht => State.reloadComb_fenced ht c) _

theorem State.runJob_fenced (j : ResetJob) : (s.runJob j).dev.st = .fenced := by
  have hrun : (if j.compute then s.computeReset 1 [j] else s.combResets ((maskCombs j.combs).map fun c => (c, false)) 1 [j]).dev.st = .fenced := by
    split
    · exact (State.st_of_peers (State.computeReset_fenced h 1 [j])).trans h
    · exact State.combResets_fenced h _ 1 [j]
  unfold State.runJob
  dsimp only
  rw [if_pos h, State.reply_dev]
  exact hrun

theorem State.jobResets_fenced (n : W64) : (s.jobResets n).dev.st = .fenced :=
  State.foldl_fenced (s := s.withJobs (s.dev.jobs.filter fun j => !decide (j.chime.toNat ≤ n.toNat))) h (fun _ j ht => State.runJob_fenced ht j) _

theorem State.readyNow_fenced (t : Nat) : s.readyNow t = s := if_neg fun hm => DevState.noConfusion (h.symm.trans hm.1)

end Fenced

theorem State.enterFenced_st : s.enterFenced.dev.st = .fenced := congrArg Peers.st s.enterFenced_peers

/-! ### Map entries -/

section Congr
variable {s t : State} (hphys : t.dev.phys = s.dev.phys)
include hphys

theorem Dev.failed_congr : t.dev.failed = s.dev.failed := by
  funext p
  rw [Dev.failed, Dev.cols, hphys, Dev.failed, Dev.cols]

theorem Dev.mapWord_congr : t.dev.mapWord = s.dev.mapWord := by
  funext p
  rw [Dev.mapWord, Dev.cols, hphys, Dev.mapWord, Dev.cols]

theorem State.nextMap_congr (hmap : ∀ d, (t.comb d).map = (s.comb d).map) (c : CombId) : t.nextMap c = s.nextMap c := by
  have hserves (d : CombId) : (t.comb d).phys = (s.comb d).phys := by
    rw [Comb.phys, hmap, Comb.phys]
  have hfree : t.spareFree = s.spareFree := by
    funext p
    simp only [State.spareFree, Dev.failed_congr hphys, hserves]
  rw [State.nextMap, Dev.failed_congr hphys, Dev.mapWord_congr hphys, hserves, hfree, State.nextMap]

end Congr

theorem eq_singleton_of_nodup {α : Type} {l : List α} {c : α} (hl : l.Nodup) (hc : ∀ x, x ∈ l ↔ x = c) : l = [c] := by
  refine List.perm_singleton.1 ((List.perm_ext_iff_of_nodup hl (List.nodup_singleton c)).2 fun x => ?_)
  rw [hc, List.mem_singleton]

/-- The map change of comb `c` alone is due. -/
def Beat.changes (b : Beat) (c : CombId) : Prop :=
  b.plan c = ((b.plan c).1, some { cause := 3, reload := true, remap := true }) ∧ ∀ d, d ≠ c → b.plan d = ((b.plan d).1, none)

theorem State.remapDue_of_changes {s : State} {c : CombId} (h : s.beat.changes c) : s.remapDue = [c] := by
  refine eq_singleton_of_nodup ((List.nodup_finRange 64).filter _) fun d => ?_
  rw [State.mem_remapDue]
  by_cases hd : d = c
  · rw [hd, h.1]
    simp
  · rw [h.2 d hd]
    simp [hd]

section Changes
variable {s : State} {c : CombId} (h : s.beat.changes c)
include h

theorem State.takeMaps_of_changes : s.takeMaps = s.takeMap c := by
  rw [State.takeMaps, State.remapDue_of_changes h]
  rfl

theorem State.takeMap_spare {w : W64} (hw : s.nextMap c = some w) : s.takeMaps.beat.steady ∧ (s.takeMaps.beat.plan c).1 = w := by
  have htake : s.takeMaps.beat = (s.modComb c fun k => k.remapped w).beat := by
    rw [State.takeMaps_of_changes h, State.takeMap, hw]
    exact State.record_beat _ _
  have hsame (d : CombId) (hd : d ≠ c) : s.takeMaps.beat.plan d = s.beat.plan d := by
    rw [htake]
    exact congrArg Comb.plan (State.modComb_comb_ne _ _ hd)
  have htaken : s.takeMaps.beat.plan c = (w, (s.comb c).due.map fun d => { d with remap := false }) := by
    rw [htake]
    exact congrArg Comb.plan (s.modComb_comb c _)
  refine ⟨fun d => ?_, congrArg Prod.fst htaken⟩
  by_cases hd : d = c
  · rw [hd, htaken]
    cases (s.comb c).due <;> rfl
  · rw [hsame d hd, h.2 d hd]
    rfl

theorem State.takeMap_none (hnone : s.nextMap c = none) : s.takeMaps.remapDue = [c] := by
  have htake : s.takeMaps.beat = s.beat := by
    rw [State.takeMaps_of_changes h, State.takeMap, hnone]
    exact s.record_beat _
  exact State.remapDue_of_changes (by rwa [htake])

theorem State.dueResets_spare {w : W64} (hw : s.nextMap c = some w) : s.dueResets.beat.steady ∧ (s.dueResets.beat.plan c).1 = w := by
  obtain ⟨hsteady, hmap⟩ := State.takeMap_spare h hw
  have hresets : s.takeMaps.beat.Resets s.dueResets.beat := by
    unfold State.dueResets
    extract_lets t a s1 b
    have h1 : t.beat.Resets s1.beat := by
      unfold s1
      split
      · exact .of_eq rfl
      · exact t.combResets_resets a 2 []
    rw [if_pos (by rw [State.remapDue_of_steady hsteady]; rfl)]
    split
    · exact h1
    · exact h1.trans (s1.combResets_resets b 3 [])
  exact ⟨hresets.steady hsteady, (hresets.map c).trans hmap⟩

theorem State.dueResets_none (hnone : s.nextMap c = none) : s.dueResets.dev.st = .fenced := by
  unfold State.dueResets
  dsimp only
  rw [State.takeMap_none h hnone]
  exact State.enterFenced_st _

end Changes

end Sys2Proof.Machine
end

section
/-!
SUPPORT for O52. The actions of a chime in their order (Table 13.6), and the clause on a comb with new findings.
-/
namespace Sys2Proof.Machine

variable (s : State) (n : W64) (t : Nat)

/-! ### The actions in order -/

/-- Actions 1 to 6: links, tables, outcome, drain latches, interval, settings and level. -/
def State.settledAt : State := (((s.relinked.flipAndCommit n).latchHeld n).settings n).levelChange n

/-- Action 7 up to the switches. -/
def State.switchedAt : State := ((s.settledAt n).quiesceChime n).1.switches n ((s.settledAt n).quiesceChime n).2

/-- The resets and the tests due. -/
def State.resetAt : State := ((s.switchedAt n).dueResets.jobResets n).beginTests

/-- Do frames stop at this chime? -/
def State.holdsAt : Bool := ((s.settledAt n).quiesceChime n).2 || (s.switchedAt n).dev.st == .quiesced

/-- Do held frames go on at this chime? -/
def State.resumesAt : Bool := ((s.settledAt n).quiesceChime n).1.chm.resumeAt.isSome && (s.switchedAt n).chm.resumeAt.isNone

/-- Action 8. -/
def State.framedAt : State := ((s.resetAt n).readyNow t).frames n t (s.holdsAt n) (s.resumesAt n)

/-- Ports without a route are recorded anew. -/
def State.unrouted : State := { s with rte := { s.rte with noroute := [] } }

theorem State.unrouted_combs : s.unrouted.combs = s.combs := rfl
theorem State.unrouted_dev : s.unrouted.dev = s.dev := rfl

/-- The chip's own CHIME. -/
def State.ownChime : State :=
  if s.chm.isRoot then s.sendChime s.chimeLinks (BitVec.ofNat 8 (min 255 (s.chm.hops.toNat + 1))) s.rte.selfId else s

theorem State.atChime_eq : s.atChime n t = ((s.framedAt n t).unrouted.chimeNotice n t).ownChime := by
  unfold State.atChime State.ownChime State.unrouted State.framedAt State.resetAt State.holdsAt State.resumesAt State.switchedAt State.settledAt
    State.relinked
  dsimp only

theorem State.ownChime_combs : s.ownChime.combs = s.combs := by
  have hsent (ls : List LinkId) (hops : BitVec 8) (root : ChipId) : (s.sendChime ls hops root).combs = s.combs := by
    refine foldl_keeps State.combs _ (fun u l => ?_) ls s
    rfl
  unfold State.ownChime
  split
  · exact hsent _ _ _
  · rfl

theorem State.chimeNotice_combs : (s.chimeNotice n t).combs = s.combs := by
  unfold State.chimeNotice
  dsimp only
  split
  · exact (s.notice_tells _).combs
  · rfl

theorem State.atChime_combs : (s.atChime n t).combs = (s.framedAt n t).combs := by
  rw [State.atChime_eq, State.ownChime_combs, State.chimeNotice_combs, State.unrouted_combs]

theorem State.ownChime_dev : s.ownChime.dev = s.dev := by
  unfold State.ownChime
  split
  · exact s.sendChime_dev _ _ _
  · rfl

theorem State.atChime_dev : (s.atChime n t).dev = (s.framedAt n t).dev := by
  rw [State.atChime_eq, State.ownChime_dev, State.chimeNotice_dev, State.unrouted_dev]

theorem State.nextChime_frames {s : State} (h : s.chm.running = true) :
    s.nextChime.combs = (s.reached.framedAt s.nextNo s.chm.nextAt).combs ∧ s.nextChime.dev = (s.reached.framedAt s.nextNo s.chm.nextAt).dev := by
  obtain ⟨k, hk⟩ := (s.reached.atChime s.nextNo s.chm.nextAt).until_eq (s.chm.nextAt + 32)
  have heq : s.nextChime = (s.reached.atChime s.nextNo s.chm.nextAt).until (s.chm.nextAt + 32) := State.nextChime_eq h
  rw [heq, hk, ← State.atChime_combs, ← State.atChime_dev]
  exact ⟨rfl, rfl⟩

/-! ### Plans up to the resets -/

theorem State.flipTables_plan : (s.flipTables n).beat.plan = s.beat.plan := by
  unfold State.flipTables
  split <;> rfl

theorem State.flipAndCommit_plan : (s.flipAndCommit n).beat.plan = s.beat.plan := by
  rcases hdue : s.commitDue n with _ | ⟨v, c, r⟩
  · rw [State.flipAndCommit_open _ hdue, ← s.flipTables_plan n]
    split
    · rw [State.restartNums_beat]
      rfl
    · rfl
  · rw [State.flipAndCommit_due _ hdue, ← s.flipTables_plan n]
    rfl

theorem State.settledAt_plan : (s.settledAt n).beat.plan = s.beat.plan := by
  have hset (u : State) : ((u.settings n).levelChange n).beat.plan = u.beat.plan := rfl
  rw [State.settledAt, hset, State.latchHeld_beat, State.flipAndCommit_plan, State.relinked_beat]

theorem State.switchedAt_beat : (s.switchedAt n).beat = (s.settledAt n).beat :=
  (State.switches_beat _ n _).trans (State.quiesceChime_beat _ n)

theorem State.settledAt_phys : (s.settledAt n).dev.phys = s.dev.phys := by
  have hset (u : State) : ((u.settings n).levelChange n).dev = u.dev := rfl
  have hlatch (u : State) : (u.latchHeld n).dev = u.dev := rfl
  have houter : (s.relinked.flipAndCommit n).dev.phys = s.relinked.dev.phys :=
    congrArg Pulse.phys (s.relinked.flipAndCommit_outer n)
  have hlinked : s.relinked.dev.phys = s.dev.phys := congrArg Pulse.phys (State.beat_pulse s.relinked_beat)
  rw [State.settledAt, hset, hlatch, houter, hlinked]

theorem State.switchedAt_nextMap (c : CombId) : (s.switchedAt n).nextMap c = s.nextMap c := by
  have hbeat := s.switchedAt_beat n
  refine State.nextMap_congr ?_ (fun d => ?_) c
  · exact (congrArg Pulse.phys (State.beat_pulse hbeat)).trans (s.settledAt_phys n)
  · have hplan : ((s.switchedAt n).beat.plan d).1 = (s.beat.plan d).1 := by rw [hbeat, s.settledAt_plan]
    exact hplan

/-! ### A comb with new findings -/

theorem State.beat_map (c : CombId) : (s.beat.plan c).1 = (s.comb c).map := rfl

section Changes
variable {s : State} {c : CombId}

theorem State.switchedAt_changes (h : s.beat.changes c) : (s.switchedAt n).beat.changes c := by
  have hplan : (s.switchedAt n).beat.plan = s.beat.plan := by rw [s.switchedAt_beat n, s.settledAt_plan]
  rw [Beat.changes, hplan]
  exact h

theorem State.framedAt_spare (h : s.beat.changes c) {w : W64} (hw : s.nextMap c = some w) : ((s.framedAt n t).comb c).map = w := by
  obtain ⟨hsteady, hmap⟩ := State.dueResets_spare (State.switchedAt_changes n h) ((s.switchedAt_nextMap n c).trans hw)
  have hjobs := (State.jobResets_resets hsteady n).map c
  have hframed : (s.framedAt n t).beat = ((s.switchedAt n).dueResets.jobResets n).beat :=
    (State.frames_beat _ _ _ _ _).trans ((State.readyNow_beat _ t).trans (State.beginTests_beat _))
  rw [← State.beat_map, hframed, hjobs, hmap]

theorem State.framedAt_none (h : s.beat.changes c) (hnone : s.nextMap c = none) : (s.framedAt n t).dev.st = .fenced := by
  have hdue := State.dueResets_none (State.switchedAt_changes n h) ((s.switchedAt_nextMap n c).trans hnone)
  have hreset : (s.resetAt n).dev.st = .fenced := by
    rw [State.resetAt, State.beginTests, State.modCombs_dev]
    exact State.jobResets_fenced hdue n
  rw [State.framedAt, State.readyNow_fenced hreset,
    State.frames_st (hreset.trans_ne DevState.noConfusion) (hreset.trans_ne DevState.noConfusion), hreset]

/-- The clause on a comb with new findings. -/
theorem State.nextChime_changes (h : s.chm.running = true) (hc : (s.comb c).due = some { cause := 3, reload := true, remap := true })
    (hothers : ∀ d, d ≠ c → (s.comb d).due = none) :
    (∀ w, s.nextMap c = some w → (s.nextChime.comb c).map = w) ∧ (s.nextMap c = none → s.nextChime.dev.st = .fenced) := by
  obtain ⟨hcombs, hdev⟩ := State.nextChime_frames h
  have hbeat := s.reached_beat
  have hplan (d : CombId) : s.reached.beat.plan d = (s.comb d).plan := by
    rw [hbeat]
    rfl
  have hchanges : s.reached.beat.changes c := by
    refine ⟨?_, fun d hd => ?_⟩
    · rw [hplan, Comb.plan, hc]
    · rw [hplan, Comb.plan, hothers d hd]
  have hmap : s.reached.nextMap c = s.nextMap c := by
    refine State.nextMap_congr ?_ (fun d => congrArg Prod.fst (hplan d)) c
    exact (congrArg Pulse.phys (State.beat_pulse hbeat) :)
  refine ⟨fun w hw => ?_, fun hnone => ?_⟩
  · rw [State.comb, hcombs]
    exact State.framedAt_spare _ _ hchanges (hmap.trans hw)
  · rw [hdev]
    exact State.framedAt_none _ _ hchanges (hmap.trans hnone)

end Changes

end Sys2Proof.Machine
end

section
/-!
SUPPORT for O52. A chime without a flip, an outcome, an ordered reset and a comb due for one: the combs, the links and the device state as its
actions up to the frames leave them (Table 13.6).
-/
namespace Sys2Proof.Machine

/-! ### The view -/

/-- Combs, links and device state, and what moves them at a chime: flip, round, jobs, quiesce and resume, bars,
firmware switches. -/
structure Floor where
  combs : Vector Comb 64
  links : Vector Link 24
  st : DevState
  flip : W64
  round : Option Round
  jobs : List ResetJob
  qReq : Option W64
  qVoted : Option W64
  qGo : Option W64
  resumeAt : Option W64
  bars : List BarInst
  fw : List OrderHdr

def State.floor (s : State) : Floor :=
  ⟨s.combs, s.links, s.dev.st, s.rte.flip, s.stp.round, s.dev.jobs, s.chm.qReq, s.chm.qVoted, s.chm.qGo, s.chm.resumeAt, s.col.bars,
    s.wdn.fwSwitchAt⟩

theorem State.Tells.floor {s t : State} (h : s.Tells t) : t.floor = s.floor := (congrArg State.floor h.quiet :)
theorem State.Answers.floor {s t : State} (h : s.Answers t) : t.floor = s.floor := (congrArg State.floor h.mute :)
theorem State.floor_of_unsent {s t : State} (h : t.unsent = s.unsent) : t.floor = s.floor := (congrArg State.floor h :)

variable (s : State) (n : W64)

theorem State.setDev_floor (d : DevState) : (s.setDev d).floor = { s.floor with st := d } := (s.setDev_tells d).floor

theorem State.abortStep_floor : s.abortStep.floor = s.floor := by
  unfold State.abortStep
  extract_lets formed
  clear_value formed
  cases formed <;> rfl

theorem foldl_floor {β : Type} {f : State → β → State} (hf : ∀ t x, (f t x).floor = t.floor) (l : List β) (s : State) :
    (l.foldl f s).floor = s.floor := foldl_keeps State.floor f hf l s

/-! ### Up to the level -/

theorem State.reached_floor : s.reached.floor = s.floor := by
  obtain ⟨k, hk⟩ := s.useHeard.until_eq s.chm.nextAt
  obtain ⟨j, hj⟩ := s.reached_chm
  have hheard : s.useHeard.floor = s.floor := by
    rcases s.useHeard_cases with h | ⟨x, e, -, h | h⟩
    · rw [h]
    · rw [h]
      rfl
    · obtain ⟨u, hu, hlost⟩ := (s.withChm (s.chm.useCopy x s.rte.named e)).lostSync_tells (!s.chm.syncloss)
      rw [h, hlost, State.abortStep_floor, hu.floor]
      rfl
  have hnoted : (s.useHeard.until s.chm.nextAt).noteRefused.floor = s.useHeard.floor := by
    rw [(s.useHeard.until s.chm.nextAt).noteRefused_tells.floor, hk]
    rfl
  exact Eq.trans rfl (hnoted.trans hheard)

/-- The floor with other links. -/
def Floor.linked (x : Floor) (links : Vector Link 24) : Floor := { x with links := links }

theorem Floor.linked_linked (x : Floor) (k l : Vector Link 24) : (x.linked k).linked l = x.linked l := rfl
theorem State.floor_linked : s.floor.linked s.links = s.floor := rfl

theorem State.linksBack_floor (rec : Bool) : (s.linksBack rec).floor = s.floor.linked (s.linksBack rec).links := by
  have hone (t : State) (l : LinkId) (f : Link → Link) : (t.modLink l f).floor.linked s.links = t.floor.linked s.links := rfl
  have hview : (s.linksBack rec).floor.linked s.links = s.floor.linked s.links := by
    refine (foldl_keeps (fun t : State => t.floor.linked s.links) _ (fun t l => ?_) _ _).trans
      (foldl_keeps (fun t : State => t.floor.linked s.links) _ (fun t l => ?_) _ s)
    · split <;> rfl
    · dsimp only
      split
      · split
        · rw [(State.record_tells _ _).floor, hone]
        · rfl
      · rfl
  rw [← State.floor_linked, ← Floor.linked_linked, hview, Floor.linked_linked]

theorem State.relinked_floor : s.relinked.floor = s.floor.linked s.relinked.links := by
  have hsent := State.floor_of_unsent (State.pumpWait_unsent (if s.mustering then s else s.linksBack true))
  have hlinks : s.relinked.links = (if s.mustering then s else s.linksBack true).links := congrArg Floor.links hsent
  rw [hlinks]
  refine hsent.trans ?_
  split
  · rfl
  · exact s.linksBack_floor true

theorem State.latchHeld_floor : (s.latchHeld n).floor = s.floor := by
  unfold State.latchHeld
  extract_lets r h0 h1 zero r1
  clear_value h0 h1 zero
  split
  · rfl
  · split <;> rfl

theorem State.settings_floor : (s.settings n).floor = s.floor := by
  unfold State.settings
  dsimp only
  split <;> rfl

/-- Without an armed flip and an open round the first six actions leave the floor, but for links that come back. -/
theorem State.settledAt_floor {s : State} (hflip : s.rte.flip = 0) (hround : s.stp.round = none) :
    (s.settledAt n).floor = s.floor.linked s.relinked.links := by
  have hlinked := s.relinked_floor
  have hflips : s.relinked.flipsAt n = false := by
    rw [State.flipsAt, show s.relinked.rte.flip = 0 from (congrArg Floor.flip hlinked).trans hflip]
    rfl
  have hdue : s.relinked.commitDue n = none := by
    rw [State.commitDue, show s.relinked.stp.round = none from (congrArg Floor.round hlinked).trans hround]
  have hturned : s.relinked.flipAndCommit n = s.relinked := by
    rw [State.flipAndCommit_open _ hdue, hflips, State.flipTables_of_not_flips hflips]
    rfl
  have hlevel (u : State) : (u.levelChange n).floor = u.floor := rfl
  rw [State.settledAt, hturned, ← hlinked, hlevel, State.settings_floor, State.latchHeld_floor]

end Sys2Proof.Machine
end

section
/-!
SUPPORT for O52. Quiesce, resume and resets of a chime for which none of them has more to do than its clause of the statement says (R147, R294).
-/
namespace Sys2Proof.Machine

variable (s : State) (n : W64)

/-! ### Quiesce -/

section Late
variable {s : State} (hvoted : s.chm.qVoted = none)
include hvoted

/-- What the leader tells changes nothing here where no vote is out. -/
theorem State.tellQuiesce_floor (v : W64) (go : Bool) : (s.tellQuiesce v go).floor = s.floor := by
  unfold State.tellQuiesce
  extract_lets chips
  have hsent (u : State) : (chips.foldl (fun (t : State) k => t.sendQuiesce 2 k v go) u).floor = u.floor :=
    foldl_floor (fun t k => State.floor_of_unsent (t.sendQuiesce_unsent 2 k v go)) chips u
  have hnone (u : State) (hu : u.floor.qVoted = none) : u.quiesceDecided v go = u :=
    if_pos (by rw [show u.chm.qVoted = none from hu]; exact nofun)
  rw [hnone _ (by rw [hsent]; exact hvoted), hsent]
  rfl

theorem State.quiesceLate_floor : (s.quiesceLate n).floor = s.floor := by
  have hfold (l : List W64) {u : State} (hu : u.chm.qVoted = none) : (l.foldl (fun (t : State) v =>
      if v.toNat < n.toNat ∧ t.rte.leader = some t.rte.selfId ∧ ¬ t.chm.qTold.contains v then t.tellQuiesce v false else t) u).floor = u.floor := by
    induction l generalizing u with
    | nil => rfl
    | cons v l ih =>
      rw [List.foldl_cons]
      split
      · have htold := State.tellQuiesce_floor hu v false
        exact (ih ((congrArg Floor.qVoted htold).trans hu)).trans htold
      · exact ih hu
  exact hfold _ hvoted

/-- A chime for which no quiesce is decided, where the chip has asked for none. -/
theorem State.quiesceChime_none (hreq : s.chm.qReq = none) (hno : s.chm.qGo ≠ some n ∨ s.dev.st = .quiesced) :
    (s.quiesceChime n).1.floor = s.floor ∧ (s.quiesceChime n).2 = false := by
  have hlate := State.quiesceLate_floor n hvoted
  unfold State.quiesceChime
  extract_lets u chm old up chm' s0 s1
  have hold : old.floor = s.floor := (rfl : old.floor = u.floor).trans hlate
  have h1 : s1 = old := by
    unfold s1
    rw [show old.chm.qVoted = none from (congrArg Floor.qVoted hold).trans hvoted]
  have hstays : ¬ (s.chm.qGo = some n ∧ up = true) := by
    rintro ⟨hgo, hup⟩
    rcases hno with hno | hst
    · exact hno hgo
    · unfold up at hup
      rw [hst] at hup
      cases hup
  rw [if_neg hstays, hreq, h1]
  exact ⟨hold, rfl⟩

/-- The chime of a decided quiesce. -/
theorem State.quiesceChime_go (hgo : s.chm.qGo = some n) (hst : s.dev.st = .ready ∨ s.dev.st = .running) :
    (s.quiesceChime n).1.floor = { s.floor with st := .quiesced, qGo := none, qReq := none, qVoted := none } ∧ (s.quiesceChime n).2 = true := by
  have hlate := State.quiesceLate_floor n hvoted
  unfold State.quiesceChime
  extract_lets u chm old up chm' s0 s1
  have hup : up = true := by
    unfold up
    rcases hst with hst | hst <;> rw [hst] <;> rfl
  rw [if_pos ⟨hgo, hup⟩, (State.notice_tells _ _).floor, State.setDev_floor]
  exact ⟨congrArg (fun x : Floor => { x with st := .quiesced, qGo := none, qReq := none, qVoted := none }) hlate, rfl⟩

end Late

/-! ### Resume and switches -/

/-- The floor without the firmware switches that wait. -/
def Floor.bare (x : Floor) : Floor := { x with fw := [] }

theorem State.takeProfile_floor (k : Fin 4) : (s.takeProfile k).floor = s.floor := by
  unfold State.takeProfile
  split <;> rfl

theorem State.reply_floor (h : OrderHdr) (code : BitVec 8) (r : Result) (b : ReplyBody) : (s.reply h code r b).floor = s.floor :=
  (s.reply_answers h code r b).floor

theorem State.switchFirmware_floor : s.switchFirmware.floor.bare = s.floor.bare := by
  unfold State.switchFirmware
  dsimp only
  rw [(State.record_tells _ _).floor]
  rfl

/-- The switches come from the state itself or, where a resume takes effect, from the one that it leaves. -/
theorem State.switches_floor (quiesced : Bool) : ∃ u, (s.switches n quiesced).floor.bare = u.floor.bare ∧ (s.chm.resumeAt = none → u = s) ∧
    ∀ k, s.chm.resumeAt = some k → k.toNat ≤ n.toNat → s.wdn.fwSwitchAt = [] → quiesced = false → u = s.resumeNow := by
  unfold State.switches
  extract_lets fw s1 wdn s2 wdn' s3
  refine ⟨s1, ?_, ?_, ?_⟩
  · have h2 : s2.floor = s1.floor :=
      (foldl_floor (fun t (x : Fin 4 × OrderHdr) => (State.reply_floor _ _ _ _ _).trans (t.takeProfile_floor x.1)) _ _).trans rfl
    have h3 : s3.floor = s2.floor := by
      unfold s3
      split
      · exact (State.takeProfile_floor _ _).trans rfl
      · rfl
    have h : s3.floor.bare = s1.floor.bare := congrArg Floor.bare (h3.trans h2)
    split
    · exact h
    split
    · rw [foldl_floor (fun t x => t.reply_floor _ _ _ _), State.reply_floor, State.switchFirmware_floor, h]
    · rw [State.switchFirmware_floor, h]
  · intro hnone
    unfold s1
    rw [hnone]
  · intro k hk hle hfw hq
    unfold s1 fw
    rw [hk, hfw, hq]
    exact if_pos ⟨hle, by simp, by simp⟩

theorem State.pumpBars_of_none {s : State} (hbars : s.col.bars = []) (c : CombId) (fuel : Nat) : s.pumpBars c fuel = s := by
  cases fuel with
  | zero => rfl
  | succ k =>
    unfold State.pumpBars
    rw [hbars]
    split
    · rfl
    · split <;> rfl

theorem State.pumpAllBars_of_none {s : State} (hbars : s.col.bars = []) : s.pumpAllBars = s :=
  List.foldl_fixed' (fun c => State.pumpBars_of_none hbars c 17) _

theorem State.resumeNow_floor {s : State} (hst : s.dev.st = .quiesced) (hbars : s.col.bars = []) : ∃ d, (d = .running ∨ d = .ready) ∧
    s.resumeNow.floor = { s.floor with st := d, resumeAt := none } := by
  have hadmit {u : State} (hu : u.col.bars = []) : u.admitAgain.floor = u.floor := by
    rw [State.admitAgain, State.pumpAllBars_of_none (by exact hu)]
    rfl
  unfold State.resumeNow
  extract_lets held chm s1
  rw [if_pos hst]
  refine ⟨if held then .running else .ready, ?_, ?_⟩
  · split
    · exact .inl rfl
    · exact .inr rfl
  · have hset : (s1.setDev (if held then .running else .ready)).floor = { s1.floor with st := if held then .running else .ready } := s1.setDev_floor _
    rw [hadmit ((congrArg Floor.bars hset).trans hbars), hset]
    rfl

/-! ### Resets -/

section Undue
variable {s : State} (hdue : ∀ c, (s.comb c).due = none)
include hdue

theorem State.steady_of_undue : s.beat.steady := fun c => by
  rw [show (s.beat.plan c).2 = none from hdue c]
  rfl

theorem State.dueCombs_of_undue (cause : BitVec 8) : s.dueCombs cause = [] :=
  List.filterMap_eq_nil_iff.2 fun c _ => by rw [hdue c]

theorem State.dueResets_of_undue : s.dueResets = s := by
  unfold State.dueResets
  dsimp only
  rw [State.takeMaps_of_steady (State.steady_of_undue hdue), State.remapDue_of_steady (State.steady_of_undue hdue),
    State.dueCombs_of_undue hdue]
  simp only [List.isEmpty_nil, if_true, State.dueCombs_of_undue hdue]

end Undue

theorem State.jobResets_floor {s : State} (hjobs : s.dev.jobs = []) : (s.jobResets n).floor = s.floor := by
  unfold State.jobResets
  rw [hjobs]
  exact congrArg (fun l => { s.floor with jobs := l }) hjobs.symm

theorem State.beginTests_seq (c : CombId) : (s.beginTests.comb c).seq = (s.comb c).seq := by
  rw [State.beginTests, State.modCombs_comb]
  split <;> rfl

end Sys2Proof.Machine
end

section
/-!
SUPPORT for O52. What a chime makes of a comb's sequencer (R145 to R147, R150, R155), and of the device whose chime is calm: no flip, no outcome, no
reset and no vote.
-/
namespace Sys2Proof.Machine

/-! ### Sequencers -/

/-- A sequencer whose frame instruction has not issued. -/
def Seq.unframed (q : Seq) : Seq := { q with framed := false }

/-- A sequencer at chime `n` and instant `t`: `hold` where the frames stop, `resumed` where held ones go on. -/
def Seq.chimed (n : W64) (t : Nat) (hold resumed : Bool) (q : Seq) : Seq :=
  match q.st with
  | .armed => if (q.startAt.getD 0).toNat ≤ n.toNat then q.firstFrame n t else q
  | .hold => if resumed && q.stall != .faulting then q.nextFrame n t else q
  | .running | .waiting | .chimeWait =>
    if !q.framed then q.noteFault 0x0A q.pc.toNat 0
    else if q.stall = .faulting then q.unframed
    else if hold then { q with st := .hold }
    else q.nextFrame n t
  | _ => q

section Chimed
variable {q : Seq} {n : W64} {t : Nat} {hold resumed : Bool}

theorem Seq.chimed_overrun (h : q.st = .running ∨ q.st = .waiting ∨ q.st = .chimeWait) (hf : q.framed = false) :
    q.chimed n t hold resumed = q.noteFault 0x0A q.pc.toNat 0 := by
  rcases h with h | h | h <;> simp [Seq.chimed, h, hf]

theorem Seq.chimed_draining (h : q.st = .running ∨ q.st = .waiting ∨ q.st = .chimeWait) (hf : q.framed = true) (hs : q.stall = .faulting) :
    q.chimed n t hold resumed = q.unframed := by
  rcases h with h | h | h <;> simp [Seq.chimed, h, hf, hs]

theorem Seq.chimed_held (h : q.st = .running ∨ q.st = .waiting ∨ q.st = .chimeWait) (hf : q.framed = true) (hs : q.stall ≠ .faulting) :
    q.chimed n t true resumed = { q with st := .hold } := by
  rcases h with h | h | h <;> simp [Seq.chimed, h, hf, hs]

theorem Seq.chimed_next (h : q.st = .running ∨ q.st = .waiting ∨ q.st = .chimeWait) (hf : q.framed = true) (hs : q.stall ≠ .faulting) :
    q.chimed n t false resumed = q.nextFrame n t := by
  rcases h with h | h | h <;> simp [Seq.chimed, h, hf, hs]

theorem Seq.chimed_armed {k : W64} (h : q.st = .armed) (hk : q.startAt = some k) :
    q.chimed n t hold resumed = if k.toNat ≤ n.toNat then q.firstFrame n t else q := by
  simp [Seq.chimed, h, hk]

theorem Seq.chimed_resumed (h : q.st = .hold) : q.chimed n t hold true = if q.stall = .faulting then q else q.nextFrame n t := by
  by_cases hs : q.stall = .faulting <;> simp [Seq.chimed, h, hs]

theorem Seq.chimed_rest (h : q.st ∈ [SeqState.empty, .loading, .loaded, .halted, .faulted, .hold]) : q.chimed n t hold false = q := by
  simp only [List.mem_cons, List.not_mem_nil, or_false] at h
  rcases h with h | h | h | h | h | h <;> simp [Seq.chimed, h]

end Chimed

variable (s : State)

theorem State.fault_comb_if (c : CombId) (code addr src : Nat) (d : CombId) :
    (s.fault c code addr src).comb d = if d = c then { s.comb d with seq := (s.comb d).seq.noteFault code addr src } else s.comb d := by
  obtain ⟨u, hu, hfault⟩ := s.fault_told c code addr src
  have hcomb : u.comb d = if d = c then { s.comb d with seq := (s.comb d).seq.noteFault code addr src } else s.comb d :=
    (hu.comb d).trans (s.modSeq_comb_if c d _)
  rw [hfault]
  split
  · exact (State.abortStep_comb u d).trans hcomb
  · exact hcomb

theorem State.combChime_comb (n : W64) (t : Nat) (hold resumed : Bool) (c d : CombId) : (s.combChime n t hold resumed c).comb d =
    if d = c then { s.comb d with seq := (s.comb d).seq.chimed n t hold resumed } else s.comb d := by
  by_cases hd : d = c
  · subst hd
    rw [if_pos rfl]
    have hseq (f : Seq → Seq) : (s.modSeq d f).comb d = { s.comb d with seq := f (s.comb d).seq } := by rw [State.modSeq_comb_if, if_pos rfl]
    have hfault (code addr src : Nat) : (s.fault d code addr src).comb d = { s.comb d with seq := (s.comb d).seq.noteFault code addr src } := by
      rw [State.fault_comb_if, if_pos rfl]
    have hite {p : Prop} [Decidable p] {a b : State} {x y : Seq} (ha : a.comb d = { s.comb d with seq := x })
        (hb : b.comb d = { s.comb d with seq := y }) : (if p then a else b).comb d = { s.comb d with seq := if p then x else y } := by
      split <;> assumption
    unfold State.combChime Seq.chimed
    dsimp only
    cases hst : (s.comb d).seq.st
    case armed => exact hite (hseq _) rfl
    case hold => exact hite (hseq _) rfl
    case running | waiting | chimeWait => exact hite (hfault _ _ _) (hite (hseq Seq.unframed) (hite (hseq _) (hseq _)))
    all_goals rfl
  · rw [if_neg hd]
    have hseq (f : Seq → Seq) : (s.modSeq c f).comb d = s.comb d := State.modSeq_comb_ne _ _ hd
    have hite {p : Prop} [Decidable p] {a b : State} (ha : a.comb d = s.comb d) (hb : b.comb d = s.comb d) : (if p then a else b).comb d = s.comb d := by
      split <;> assumption
    unfold State.combChime
    dsimp only
    split
    · exact hite (hseq _) rfl
    · exact hite (hseq _) rfl
    iterate 3
      exact hite (State.fault_comb_ne _ _ _ _ _ hd) (hite (hseq _) (hite (hseq _) (hseq _)))
    rfl

theorem State.frames_seq (n : W64) (t : Nat) (hold resumed : Bool) (c : CombId) :
    ((s.frames n t hold resumed).comb c).seq = (s.comb c).seq.chimed n t hold resumed := by
  have hfold := State.foldl_comb (g := fun u c => u.combChime n t hold resumed c) (F := fun k => { k with seq := k.seq.chimed n t hold resumed })
    (fun u c d => u.combChime_comb n t hold resumed c d) (List.nodup_finRange 64) s c
  rw [if_pos (List.mem_finRange c)] at hfold
  rw [State.frames, State.comb_of_still (State.refresh_still _), hfold]

theorem State.combs_of_linked {s t : State} {l : Vector Link 24} (h : t.floor = s.floor.linked l) : t.combs = s.combs := congrArg Floor.combs h

theorem State.linksBack_combs (rec : Bool) : (s.linksBack rec).combs = s.combs := State.combs_of_linked (s.linksBack_floor rec)

theorem State.readyNow_combs (t : Nat) : (s.readyNow t).combs = s.combs := by
  unfold State.readyNow
  split
  · rw [State.setDev_combs, State.linksBack_combs]
  · rfl

end Sys2Proof.Machine
end

section
/-!
Clauses of O52 on a calm chime: one without a flip, an outcome, an ordered reset, a comb due for a reset and a vote that is out (R145 to R147, R294).
-/
namespace Sys2Proof.Machine

/-! ### The view after the switches -/

/-- No flip is armed, no round open, no reset due, and no vote out. -/
structure Floor.Calm (x : Floor) : Prop where
  flip : x.flip = 0
  round : x.round = none
  jobs : x.jobs = []
  voted : x.qVoted = none
  due : ∀ c : CombId, (x.combs[c]).due = none

/-- The floor without combs, links, device state and the firmware switches that wait. -/
def Floor.shell (x : Floor) : Floor := { x with combs := Vector.replicate 64 {}, links := Vector.replicate 24 {}, st := .off, fw := [] }

theorem Floor.shell_of_bare {x y : Floor} (h : x.bare = y.bare) : x.shell = y.shell := (congrArg Floor.shell h :)
theorem Floor.shell_of_linked {x y : Floor} {l : Vector Link 24} (h : x = y.linked l) : x.shell = y.shell := (congrArg Floor.shell h :)

variable (s : State) (n : W64) (t : Nat)

theorem State.shell_of_still {s t : State} (h : t.still = s.still) : t.floor.shell = s.floor.shell := (congrArg (fun x : State => x.floor.shell) h :)

theorem State.links_of_still {s t : State} (h : t.still = s.still) : t.links = s.links := (congrArg State.links h :)

section Same
variable {s t : State} (h : t.floor = s.floor)
include h

theorem State.links_of_floor : t.links = s.links := congrArg Floor.links h
theorem State.st_of_floor : t.dev.st = s.dev.st := congrArg Floor.st h
theorem State.comb_of_floor (c : CombId) : t.comb c = s.comb c := congrArg (fun x : Floor => x.combs[c]) h

end Same

theorem State.fault_shell (c : CombId) (code addr src : Nat) : (s.fault c code addr src).floor.shell = s.floor.shell := by
  obtain ⟨u, hu, hfault⟩ := s.fault_told c code addr src
  have hshell : u.floor.shell = s.floor.shell := (congrArg Floor.shell hu.floor).trans rfl
  rw [hfault]
  split
  · rw [State.abortStep_floor, hshell]
  · exact hshell

theorem State.fault_links (c : CombId) (code addr src : Nat) : (s.fault c code addr src).links = s.links := by
  obtain ⟨u, hu, hfault⟩ := s.fault_told c code addr src
  rw [hfault]
  split
  · exact (congrArg Floor.links u.abortStep_floor).trans hu.links
  · exact hu.links

/-- What a fault and a change of a sequencer both leave, a comb's chime leaves. -/
theorem State.combChime_keeps {β : Type} {view : State → β} (hseq : ∀ (c : CombId) (f : Seq → Seq), view (s.modSeq c f) = view s)
    (hfault : ∀ c code addr src, view (s.fault c code addr src) = view s) (hold resumed : Bool) (c : CombId) :
    view (s.combChime n t hold resumed c) = view s := by
  have hite {p : Prop} [Decidable p] {a b : State} (ha : view a = view s) (hb : view b = view s) : view (if p then a else b) = view s := by
    split <;> assumption
  unfold State.combChime
  dsimp only
  split
  · exact hite (hseq _ _) rfl
  · exact hite (hseq _ _) rfl
  iterate 3
    exact hite (hfault _ _ _ _) (hite (hseq _ _) (hite (hseq _ _) (hseq _ _)))
  rfl

theorem State.frames_shell (hold resumed : Bool) : (s.frames n t hold resumed).floor.shell = s.floor.shell :=
  (State.shell_of_still (State.refresh_still _)).trans (foldl_keeps (fun u : State => u.floor.shell) _
    (fun u c => u.combChime_keeps n t (view := fun u : State => u.floor.shell) (fun _ _ => rfl) u.fault_shell hold resumed c) _ s)

theorem State.frames_links (hold resumed : Bool) : (s.frames n t hold resumed).links = s.links :=
  (State.links_of_still (State.refresh_still _)).trans (foldl_keeps State.links _
    (fun u c => u.combChime_keeps n t (view := State.links) (fun _ _ => rfl) u.fault_links hold resumed c) _ s)

theorem State.linksBack_shell (rec : Bool) : (s.linksBack rec).floor.shell = s.floor.shell := Floor.shell_of_linked (s.linksBack_floor rec)

theorem State.readyNow_shell : (s.readyNow t).floor.shell = s.floor.shell := by
  unfold State.readyNow
  split
  · have hset (u : State) (d : DevState) : (u.setDev d).floor.shell = u.floor.shell := (congrArg Floor.shell (u.setDev_floor d) :)
    rw [hset, State.linksBack_shell]
    rfl
  · rfl

theorem State.beginTests_shell : s.beginTests.floor.shell = s.floor.shell := by
  simp only [State.beginTests, State.modCombs, State.floor, Floor.shell]

theorem State.sendChime_shell (ls : List LinkId) (hops : BitVec 8) (root : ChipId) : (s.sendChime ls hops root).floor.shell = s.floor.shell := by
  refine foldl_keeps (fun u : State => u.floor.shell) _ (fun u l => ?_) ls s
  rfl

theorem State.ownChime_shell : s.ownChime.floor.shell = s.floor.shell := by
  unfold State.ownChime
  split
  · exact s.sendChime_shell _ _ _
  · rfl

theorem State.atChime_shell : (s.atChime n t).floor.shell = (s.framedAt n t).floor.shell := by
  have hnotice (u : State) : (u.chimeNotice n t).floor.shell = u.floor.shell := by
    unfold State.chimeNotice
    dsimp only
    split
    · exact congrArg Floor.shell (u.notice_tells _).floor
    · rfl
  have hroute (u : State) : u.unrouted.floor.shell = u.floor.shell := rfl
  rw [State.atChime_eq, State.ownChime_shell, hnotice, hroute]

section Undue
variable {s : State} {n : W64} (hjobs : (s.switchedAt n).dev.jobs = []) (hdue : ∀ c, ((s.switchedAt n).comb c).due = none)
include hjobs hdue

theorem State.resetAt_frame : ((s.resetAt n).floor.shell = (s.switchedAt n).floor.shell ∧ (s.resetAt n).links = (s.switchedAt n).links) ∧
    (s.resetAt n).dev.st = (s.switchedAt n).dev.st ∧ ∀ c, ((s.resetAt n).comb c).seq = ((s.switchedAt n).comb c).seq := by
  have hfloor : ((s.switchedAt n).dueResets.jobResets n).floor = (s.switchedAt n).floor := by
    rw [State.dueResets_of_undue hdue, State.jobResets_floor n hjobs]
  rw [State.resetAt]
  refine ⟨⟨?_, ?_⟩, ?_, fun c => ?_⟩
  · rw [State.beginTests_shell, hfloor]
  · rw [State.beginTests, State.modCombs_links]
    exact State.links_of_floor hfloor
  · rw [State.beginTests, State.modCombs_dev]
    exact State.st_of_floor hfloor
  · rw [State.beginTests_seq]
    rw [State.comb_of_floor hfloor]

theorem State.framedAt_seq (c : CombId) : ((s.framedAt n t).comb c).seq =
    ((s.switchedAt n).comb c).seq.chimed n t (s.holdsAt n) (s.resumesAt n) := by
  obtain ⟨-, -, hseq⟩ := State.resetAt_frame hjobs hdue
  rw [State.framedAt, State.frames_seq, State.comb, State.readyNow_combs, ← hseq]
  rfl

theorem State.framedAt_shell : (s.framedAt n t).floor.shell = (s.switchedAt n).floor.shell := by
  obtain ⟨⟨hshell, -⟩, -, -⟩ := State.resetAt_frame hjobs hdue
  rw [State.framedAt, State.frames_shell, State.readyNow_shell, hshell]

end Undue

end Sys2Proof.Machine
end

section
/-!
Clauses of O52 on a calm chime: frames and overruns, the quiesce, the resume, and the chip's own CHIME (R145 to R147, R288, R294).
-/
namespace Sys2Proof.Machine

/-! ### The switches of a calm chime -/

section Calm
variable {s : State} {n : W64} (h : s.floor.Calm)
include h

theorem State.Calm.settled : (s.settledAt n).floor = s.floor.linked s.relinked.links := State.settledAt_floor n h.flip h.round

/-- Without a quiesce and a resume. -/
theorem State.Calm.goesOn (hgo : s.chm.qGo = none) (hreq : s.chm.qReq = none) (hresume : s.chm.resumeAt = none) :
    (s.switchedAt n).floor.bare = (s.floor.linked s.relinked.links).bare ∧ ((s.settledAt n).quiesceChime n).2 = false ∧
      ((s.settledAt n).quiesceChime n).1.chm.resumeAt = none := by
  have hset := State.Calm.settled (n := n) h
  obtain ⟨hfloor, hno⟩ := State.quiesceChime_none n ((congrArg Floor.qVoted hset).trans h.voted) ((congrArg Floor.qReq hset).trans hreq)
    (.inl (by rw [show (s.settledAt n).chm.qGo = none from (congrArg Floor.qGo hset).trans hgo]; nofun))
  have hresume' : ((s.settledAt n).quiesceChime n).1.chm.resumeAt = none :=
    (congrArg Floor.resumeAt (hfloor.trans hset)).trans hresume
  obtain ⟨u, hu, hsame, -⟩ := ((s.settledAt n).quiesceChime n).1.switches_floor n ((s.settledAt n).quiesceChime n).2
  rw [hsame hresume', hfloor, hset] at hu
  exact ⟨hu, hno, hresume'⟩

/-- With a quiesce decided for this chime. -/
theorem State.Calm.quiesces (hgo : s.chm.qGo = some n) (hst : s.dev.st = .ready ∨ s.dev.st = .running) (hresume : s.chm.resumeAt = none) :
    (s.switchedAt n).floor.bare = ({ s.floor.linked s.relinked.links with st := .quiesced, qGo := none, qReq := none, qVoted := none } : Floor).bare ∧
      ((s.settledAt n).quiesceChime n).2 = true := by
  have hset := State.Calm.settled (n := n) h
  have hst' : (s.settledAt n).dev.st = s.dev.st := congrArg Floor.st hset
  obtain ⟨hfloor, hyes⟩ := State.quiesceChime_go n ((congrArg Floor.qVoted hset).trans h.voted) ((congrArg Floor.qGo hset).trans hgo)
    (by rwa [hst'])
  rw [hset] at hfloor
  obtain ⟨u, hu, hsame, -⟩ := ((s.settledAt n).quiesceChime n).1.switches_floor n ((s.settledAt n).quiesceChime n).2
  rw [hsame ((congrArg Floor.resumeAt hfloor).trans hresume), hfloor] at hu
  exact ⟨hu, hyes⟩

/-- With a resume due. -/
theorem State.Calm.resumes {k : W64} (hresume : s.chm.resumeAt = some k) (hk : k.toNat ≤ n.toNat) (hst : s.dev.st = .quiesced)
    (hfw : s.wdn.fwSwitchAt = []) (hreq : s.chm.qReq = none) (hbars : s.col.bars = []) :
    ∃ d, (d = .running ∨ d = .ready) ∧
      (s.switchedAt n).floor.bare = ({ s.floor.linked s.relinked.links with st := d, resumeAt := none } : Floor).bare ∧
      ((s.settledAt n).quiesceChime n).1.chm.resumeAt = some k := by
  have hset := State.Calm.settled (n := n) h
  obtain ⟨hfloor, hno⟩ := State.quiesceChime_none n ((congrArg Floor.qVoted hset).trans h.voted) ((congrArg Floor.qReq hset).trans hreq)
    (.inr ((congrArg Floor.st hset).trans hst))
  rw [hset] at hfloor
  have hresume' : ((s.settledAt n).quiesceChime n).1.chm.resumeAt = some k := (congrArg Floor.resumeAt hfloor).trans hresume
  obtain ⟨u, hu, -, hresumed⟩ := ((s.settledAt n).quiesceChime n).1.switches_floor n ((s.settledAt n).quiesceChime n).2
  obtain ⟨d, hd, hnow⟩ := State.resumeNow_floor ((congrArg Floor.st hfloor).trans hst) ((congrArg Floor.bars hfloor).trans hbars)
  rw [hresumed k hresume' hk ((congrArg Floor.fw hfloor).trans hfw) hno, hnow, hfloor] at hu
  exact ⟨d, hd, hu, hresume'⟩

end Calm

/-! ### Combs at a calm chime -/

section Stands
variable {s : State} {n : W64} (h : s.floor.Calm) {x : Floor} (hx : (s.switchedAt n).floor.bare = x.bare) (hcombs : x.combs = s.combs)
  (hjobs : x.jobs = [])
include h hx hcombs hjobs

theorem State.switchedAt_undue : (∀ c, ((s.switchedAt n).comb c).due = none) ∧ (s.switchedAt n).dev.jobs = [] := by
  have hcombs' : (s.switchedAt n).combs = s.combs := (congrArg Floor.combs hx).trans hcombs
  refine ⟨fun c => ?_, (congrArg Floor.jobs hx).trans hjobs⟩
  rw [State.comb, hcombs']
  exact h.due c

/-- Combs that stand as they did, with no reset due, and no job: what the chime makes of each. -/
theorem State.framedAt_calm (t : Nat) : (s.framedAt n t).floor.shell = x.shell ∧
    (∀ c, ((s.framedAt n t).comb c).seq = (s.comb c).seq.chimed n t (s.holdsAt n) (s.resumesAt n)) := by
  have hcombs' : (s.switchedAt n).combs = s.combs := (congrArg Floor.combs hx).trans hcombs
  obtain ⟨hdue, hjobs'⟩ := State.switchedAt_undue h hx hcombs hjobs
  refine ⟨(State.framedAt_shell t hjobs' hdue).trans (Floor.shell_of_bare hx), fun c => ?_⟩
  rw [State.framedAt_seq t hjobs' hdue, State.comb, hcombs']
  rfl

/-- A device that has quiesced stays so. -/
theorem State.framedAt_quiesced (t : Nat) (hst : (s.switchedAt n).dev.st = .quiesced) : (s.framedAt n t).dev.st = .quiesced := by
  obtain ⟨hdue, hjobs'⟩ := State.switchedAt_undue h hx hcombs hjobs
  obtain ⟨-, hreset, -⟩ := State.resetAt_frame hjobs' hdue
  rw [hst] at hreset
  have hready : (s.resetAt n).readyNow t = s.resetAt n := if_neg fun hm => DevState.noConfusion (hreset.symm.trans hm.1)
  rw [State.framedAt, hready, State.frames_st (hreset.trans_ne DevState.noConfusion) (hreset.trans_ne DevState.noConfusion), hreset]

end Stands

theorem State.nextChime_shell {s : State} (h : s.chm.running = true) :
    s.nextChime.floor.shell = (s.reached.framedAt s.nextNo s.chm.nextAt).floor.shell := by
  obtain ⟨k, hk⟩ := (s.reached.atChime s.nextNo s.chm.nextAt).until_eq (s.chm.nextAt + 32)
  have heq : s.nextChime = (s.reached.atChime s.nextNo s.chm.nextAt).until (s.chm.nextAt + 32) := State.nextChime_eq h
  rw [heq, hk, ← State.atChime_shell]
  rfl

section Clauses
variable {s : State} (h : s.chm.running = true) (hcalm : s.floor.Calm)
include h hcalm

/-- The combs' sequencers after a calm chime, as the view after the switches tells. -/
theorem State.nextChime_seq {x : Floor} (hx : (s.reached.switchedAt s.nextNo).floor.bare = x.bare) (hcombs : x.combs = s.combs)
    (hjobs : x.jobs = []) : s.nextChime.floor.shell = x.shell ∧ ∀ c, (s.nextChime.comb c).seq =
      (s.comb c).seq.chimed s.nextNo s.chm.nextAt (s.reached.holdsAt s.nextNo) (s.reached.resumesAt s.nextNo) := by
  have hfloor := s.reached_floor
  obtain ⟨hshell, hseq⟩ := State.framedAt_calm (by rwa [hfloor]) hx (hcombs.trans (congrArg Floor.combs hfloor).symm) hjobs s.chm.nextAt
  refine ⟨(State.nextChime_shell h).trans hshell, fun c => ?_⟩
  rw [State.comb, (State.nextChime_frames h).1, ← State.comb_of_floor hfloor c]
  exact hseq c

theorem State.nextChime_goesOn (hgo : s.chm.qGo = none) (hreq : s.chm.qReq = none) (hresume : s.chm.resumeAt = none) (hst : s.dev.st ≠ .quiesced)
    (c : CombId) : (s.nextChime.comb c).seq = (s.comb c).seq.chimed s.nextNo s.chm.nextAt false false := by
  have hfloor := s.reached_floor
  obtain ⟨hx, hno, hresume'⟩ := State.Calm.goesOn (s := s.reached) (n := s.nextNo) (by rwa [hfloor]) ((congrArg Floor.qGo hfloor).trans hgo)
    ((congrArg Floor.qReq hfloor).trans hreq) ((congrArg Floor.resumeAt hfloor).trans hresume)
  rw [hfloor] at hx
  obtain ⟨-, hseq⟩ := State.nextChime_seq h hcalm hx rfl hcalm.jobs
  have hst' : (s.reached.switchedAt s.nextNo).dev.st = s.dev.st := congrArg Floor.st hx
  have hholds : s.reached.holdsAt s.nextNo = false := by
    rw [State.holdsAt, hno, hst', Bool.false_or, beq_eq_false_iff_ne]
    exact hst
  have hresumes : s.reached.resumesAt s.nextNo = false := by
    rw [State.resumesAt, hresume']
    rfl
  rw [hseq, hholds, hresumes]

theorem State.nextChime_quiesces (hgo : s.chm.qGo = some s.nextNo) (hst : s.dev.st = .ready ∨ s.dev.st = .running) (hresume : s.chm.resumeAt = none) :
    s.nextChime.dev.st = .quiesced ∧ s.nextChime.chm.qGo = none ∧
      ∀ c, (s.nextChime.comb c).seq = (s.comb c).seq.chimed s.nextNo s.chm.nextAt true (s.reached.resumesAt s.nextNo) := by
  have hfloor := s.reached_floor
  obtain ⟨hx, hyes⟩ := State.Calm.quiesces (s := s.reached) (n := s.nextNo) (by rwa [hfloor]) ((congrArg Floor.qGo hfloor).trans hgo)
    (by rwa [State.st_of_floor hfloor]) ((congrArg Floor.resumeAt hfloor).trans hresume)
  rw [hfloor] at hx
  obtain ⟨hshell, hseq⟩ := State.nextChime_seq h hcalm hx rfl hcalm.jobs
  have hst' : (s.reached.switchedAt s.nextNo).dev.st = .quiesced := congrArg Floor.st hx
  have hholds : s.reached.holdsAt s.nextNo = true := by
    rw [State.holdsAt, hyes]
    rfl
  refine ⟨?_, (congrArg Floor.qGo hshell :), fun c => by rw [hseq, hholds]⟩
  rw [(State.nextChime_frames h).2]
  exact State.framedAt_quiesced (by rwa [hfloor]) hx (congrArg Floor.combs hfloor).symm hcalm.jobs _ hst'

theorem State.nextChime_resumes {k : W64} (hresume : s.chm.resumeAt = some k) (hk : k.toNat ≤ s.nextNo.toNat) (hst : s.dev.st = .quiesced)
    (hfw : s.wdn.fwSwitchAt = []) (hreq : s.chm.qReq = none) (hbars : s.col.bars = []) :
    s.nextChime.chm.resumeAt = none ∧ ∀ c, (s.nextChime.comb c).seq =
      (s.comb c).seq.chimed s.nextNo s.chm.nextAt (s.reached.holdsAt s.nextNo) true := by
  have hfloor := s.reached_floor
  obtain ⟨d, hd, hx, hresume'⟩ := State.Calm.resumes (s := s.reached) (n := s.nextNo) (by rwa [hfloor]) ((congrArg Floor.resumeAt hfloor).trans hresume)
    hk ((State.st_of_floor hfloor).trans hst) ((congrArg Floor.fw hfloor).trans hfw)
    ((congrArg Floor.qReq hfloor).trans hreq) ((congrArg Floor.bars hfloor).trans hbars)
  rw [hfloor] at hx
  obtain ⟨hshell, hseq⟩ := State.nextChime_seq h hcalm hx rfl hcalm.jobs
  have hdone : (s.reached.switchedAt s.nextNo).chm.resumeAt = none := congrArg Floor.resumeAt hx
  have hresumes : s.reached.resumesAt s.nextNo = true := by
    rw [State.resumesAt, hresume', hdone]
    rfl
  exact ⟨(congrArg Floor.resumeAt hshell :), fun c => by rw [hseq, hresumes]⟩

end Clauses

end Sys2Proof.Machine
end

section
/-!
Clause of O52 on the root's own CHIME (R286 to R288).
-/
namespace Sys2Proof.Machine

variable (s : State)

/-! ### Links without work stay -/

section Idle
variable {s : State} (h : ∀ l : LinkId, (s.links[l]).matched = false ∧ (s.links[l]).rwWait = false)
include h

theorem State.linksBack_of_idle (rec : Bool) : s.linksBack rec = s := by
  have hback : (List.finRange 24).foldl (fun (t : State) l =>
      let k : Link := t.links[l]
      if k.st = .aligned ∧ k.matched ∧ k.en then
        let t1 := t.modLink l fun k => { k with st := .active, matched := false }
        if rec then t1.record (.linkBack l) else t1
      else t) s = s :=
    List.foldl_fixed' (fun l => if_neg fun hl => by rw [(h l).1] at hl; exact Bool.false_ne_true hl.2.1) _
  have hpump : s.rwPump = s := List.foldl_fixed' (fun l => if_neg (by rw [(h l).2]; exact Bool.false_ne_true)) _
  rw [State.linksBack, hback, hpump]

theorem State.relinked_of_idle : s.relinked.links = s.links := by
  have hsent := State.floor_of_unsent (State.pumpWait_unsent s)
  rw [State.relinked, State.linksBack_of_idle h, ite_self]
  exact State.links_of_floor hsent

end Idle

/-! ### The symbols that go out -/

/-- A CHIME goes out on a link, with a launch delay drawn. -/
def State.emitChime (x : W64 → ChimeSym) (s : State) (l : LinkId) : State := s.draw.2.emit l (.chime (x s.draw.1))

theorem State.sendChime_eq (ls : List LinkId) (hops : BitVec 8) (root : ChipId) : s.sendChime ls hops root =
    ls.foldl (State.emitChime fun w => { launch := w.setWidth 16, hops := hops, root := root, n := s.chm.n, base := s.chm.base, ival := s.chm.ival.setWidth 32
                                         pend := if s.chm.pendV then s.chm.pendC.setWidth 32 else 0, pendAt := s.chm.pendAt, deputy := s.chm.deputy }) s := rfl

section Emit
variable {x : W64 → ChimeSym} {l : LinkId}

theorem State.foldl_emitChime_ne {ls : List LinkId} (hl : l ∉ ls) (s : State) : (ls.foldl (State.emitChime x) s).links[l] = s.links[l] := by
  induction ls generalizing s with
  | nil => rfl
  | cons m ls ih =>
    obtain ⟨hm, hls⟩ := not_or.1 (mt List.mem_cons.2 hl)
    rw [List.foldl_cons, ih hls]
    exact State.modLink_link_ne _ _ hm

theorem State.foldl_emitChime {ls : List LinkId} (hls : ls.Nodup) (hl : l ∈ ls) (s : State) :
    ∃ w, ((ls.foldl (State.emitChime x) s).links[l]).symOut = (s.links[l]).symOut ++ [.chime (x w)] := by
  induction ls generalizing s with
  | nil => cases hl
  | cons m ls ih =>
    obtain ⟨hm, hnodup⟩ := List.nodup_cons.1 hls
    rw [List.foldl_cons]
    by_cases hlm : l = m
    · subst hlm
      refine ⟨s.draw.1, ?_⟩
      rw [State.foldl_emitChime_ne hm]
      exact congrArg Link.symOut (State.modLink_link _ _ _)
    · obtain ⟨w, hw⟩ := ih hnodup ((List.mem_cons.1 hl).resolve_left hlm) (s.emitChime x m)
      refine ⟨w, hw.trans (congrArg (fun k : Link => k.symOut ++ [.chime (x w)]) ?_)⟩
      exact State.modLink_link_ne _ _ hlm

end Emit

theorem State.chimeLinks_congr {s t : State} (h : t.links = s.links) : t.chimeLinks = s.chimeLinks := by
  rw [State.chimeLinks, h, State.chimeLinks]

theorem State.chimeLinks_nodup : s.chimeLinks.Nodup := (List.nodup_finRange 24).filter _

theorem State.ownChime_root {s : State} (hroot : s.chm.isRoot = true) {l : LinkId} (hl : l ∈ s.chimeLinks) :
    ∃ y : ChimeSym, (s.ownChime.links[l]).symOut = (s.links[l]).symOut ++ [.chime y] ∧
      (y.n, y.base, y.root) = (s.chm.n, s.chm.base, s.rte.selfId) ∧ y.hops = BitVec.ofNat 8 (min 255 (s.chm.hops.toNat + 1)) := by
  rw [State.ownChime, if_pos hroot, State.sendChime_eq]
  obtain ⟨w, hw⟩ := State.foldl_emitChime s.chimeLinks_nodup hl s
  exact ⟨_, hw, rfl, rfl⟩

theorem State.ownChime_pulse : s.ownChime.pulse = s.pulse := State.beat_pulse (ite_beat (s.sendChime_beat _ _ _) rfl)

/-! ### The root's clock -/

theorem State.useHeard_of_root {s : State} (h : s.chm.isRoot = true) : s.useHeard = s := by
  rw [State.useHeard, Chm.copyNow, h]
  rfl

/-- Number, base, hops and role of a clock. -/
def Chm.card (x : Chm) : W64 × W64 × BitVec 8 × Bool := (x.n, x.base, x.hops, x.isRoot)

theorem Chm.retimed_card (x : Chm) (n : W64) : (x.retimed n).card = x.card := by
  unfold Chm.retimed
  split <;> rfl

theorem State.reached_card {s : State} (h : s.chm.isRoot = true) : s.reached.chm.card = (s.nextNo, s.chm.base, s.chm.hops, true) := by
  obtain ⟨k, hk⟩ := s.reached_chm
  rw [hk, State.useHeard_of_root h, ← h]
  rfl

theorem State.unrouted_links : s.unrouted.links = s.links := rfl

/-- The chip as it sends its own CHIME. -/
def State.sending (s : State) : State := (s.reached.framedAt s.nextNo s.chm.nextAt).unrouted.chimeNotice s.nextNo s.chm.nextAt

theorem State.sending_pulse : s.sending.pulse = s.turned.pulse.settled s.nextNo := by
  have hp := State.atChime_pulse s.reached s.nextNo s.chm.nextAt
  rw [State.atChime_eq, State.ownChime_pulse] at hp
  exact hp

theorem State.sending_card {s : State} (h : s.chm.isRoot = true) : s.sending.chm.card = (s.nextNo, s.chm.base, s.chm.hops, true) ∧
    s.sending.rte.selfId = s.rte.selfId := by
  have hp := s.sending_pulse
  have hclock : s.turned.pulse.clock = s.reached.chm.face := (congrArg Pulse.clock s.turned_outer :)
  have hself : s.turned.pulse.self = s.rte.self := (congrArg Pulse.self s.turned_outer :)
  have hface : s.sending.pulse.clock = s.reached.chm.face.retimed s.nextNo := by
    rw [hp, Pulse.settled_clock, hclock]
  have hsame : s.sending.pulse.self = s.rte.self := by
    rw [hp, ← hself]
    rfl
  exact ⟨(congrArg Chm.card hface).trans ((Chm.retimed_card _ _).trans (State.reached_card h)), congrArg idOfWord hsame⟩

section Sends
variable {s : State} (hcalm : s.floor.Calm) (hgo : s.chm.qGo = none) (hreq : s.chm.qReq = none) (hresume : s.chm.resumeAt = none)
  (hst : s.dev.st = .ready ∨ s.dev.st = .running) (hidle : ∀ l : LinkId, (s.links[l]).matched = false ∧ (s.links[l]).rwWait = false)
include hcalm hgo hreq hresume hst hidle

theorem State.sending_links : s.sending.links = s.links := by
  have hfloor := s.reached_floor
  have hcalm' : s.reached.floor.Calm := by rwa [hfloor]
  have hlinks : s.reached.links = s.links := State.links_of_floor hfloor
  obtain ⟨hx, -, -⟩ := State.Calm.goesOn (s := s.reached) (n := s.nextNo) hcalm' ((congrArg Floor.qGo hfloor).trans hgo)
    ((congrArg Floor.qReq hfloor).trans hreq) ((congrArg Floor.resumeAt hfloor).trans hresume)
  obtain ⟨hdue, hjobs⟩ := State.switchedAt_undue hcalm' hx rfl hcalm'.jobs
  obtain ⟨⟨-, hreset⟩, hresetSt, -⟩ := State.resetAt_frame hjobs hdue
  have hswitched : (s.reached.switchedAt s.nextNo).links = s.reached.relinked.links := congrArg Floor.links hx
  have hrelinked : s.reached.relinked.links = s.links := by
    rw [State.relinked_of_idle (by rwa [hlinks]), hlinks]
  have hst' : (s.reached.resetAt s.nextNo).dev.st = s.dev.st :=
    hresetSt.trans ((congrArg Floor.st hx).trans (State.st_of_floor hfloor))
  have hready : (s.reached.resetAt s.nextNo).readyNow s.chm.nextAt = s.reached.resetAt s.nextNo := by
    refine if_neg fun hm => ?_
    rw [hst'] at hm
    rcases hst with hst | hst <;> rw [hst] at hm <;> exact DevState.noConfusion hm.1
  have hframed : (s.reached.framedAt s.nextNo s.chm.nextAt).links = s.links := by
    rw [State.framedAt, hready, State.frames_links, hreset, hswitched, hrelinked]
  have hnotice (u : State) (n : W64) (t : Nat) : (u.chimeNotice n t).links = u.links := by
    unfold State.chimeNotice
    dsimp only
    split
    · exact (u.notice_tells _).links
    · rfl
  rw [State.sending, hnotice, State.unrouted_links, hframed]

/-- The clause on the root's own CHIME. -/
theorem State.nextChime_sends (h : s.chm.running = true) (hroot : s.chm.isRoot = true) {l : LinkId} (hl : l ∈ s.chimeLinks) :
    ∃ y : ChimeSym, (s.nextChime.links[l]).symOut = (s.links[l]).symOut ++ [.chime y] ∧
      (y.n, y.base, y.root) = (s.nextNo, s.chm.base, s.rte.selfId) ∧ y.hops.toNat = min 255 (s.chm.hops.toNat + 1) := by
  have hlinks := State.sending_links hcalm hgo hreq hresume hst hidle
  obtain ⟨hcard, hself⟩ := State.sending_card hroot
  have hn : s.sending.chm.n = s.nextNo := congrArg (fun x => x.1) hcard
  have hbase : s.sending.chm.base = s.chm.base := congrArg (fun x => x.2.1) hcard
  have hhops : s.sending.chm.hops = s.chm.hops := congrArg (fun x => x.2.2.1) hcard
  have hroot' : s.sending.chm.isRoot = true := congrArg (fun x => x.2.2.2) hcard
  obtain ⟨y, hout, hy, hyhops⟩ := State.ownChime_root hroot' (by rwa [State.chimeLinks_congr hlinks])
  rw [hn, hbase, hself] at hy
  rw [hhops] at hyhops
  obtain ⟨k, hk⟩ := (s.reached.atChime s.nextNo s.chm.nextAt).until_eq (s.chm.nextAt + 32)
  have heq : s.nextChime = (s.reached.atChime s.nextNo s.chm.nextAt).until (s.chm.nextAt + 32) := State.nextChime_eq h
  have hfinal : s.nextChime.links = s.sending.ownChime.links := by
    rw [heq, hk, State.atChime_eq]
    rfl
  refine ⟨y, ?_, hy, ?_⟩
  · rw [hfinal, hout, hlinks]
  · rw [hyhops, BitVec.toNat_ofNat]
    omega

end Sends

end Sys2Proof.Machine
end

section
/-!
Clauses of O52 on map entries and self-tests (R24 to R28, R87), and O52 itself.
-/
namespace Sys2Proof.Machine

/-! ### Map entries -/

theorem getF_pack_phys (b a q : Nat) (hq : q < 128) : getF (pack [(23, 1), (16, b), (15, 1), (8, a), (0, q)]) 0 7 = q ∧
    getF (pack [(15, 1), (8, a), (0, q)]) 0 7 = q ∧ getF (pack [(0, q)]) 0 7 = q := by
  simp only [getF, pack, List.foldl, BitVec.toNat_ofNat]
  omega

theorem Dev.mapWord_phys (d : Dev) {q : Nat} (hq : q < 128) : getF (d.mapWord q) 0 7 = q := by
  unfold Dev.mapWord
  split
  next a b _ _ => exact (getF_pack_phys b a q hq).1
  next a _ => exact (getF_pack_phys 0 a q hq).2.1
  next => exact (getF_pack_phys 0 0 q hq).2.2

theorem bitsOf_zero : bitsOf 32 (getF (0 : W64) 0 32) = [] := by decide

theorem bitsOf_two_pow (a : Fin 32) : bitsOf 32 (getF (BitVec.ofNat 64 (2 ^ a.val)) 0 32) = [a.val] := by decide +revert

theorem Dev.mapWord_clean {d : Dev} {q : Nat} (h : Sparse.get 0 d.phys q = 0) : d.mapWord q = BitVec.ofNat 64 q :=
  Dev.mapWord_whole (by rw [Dev.cols, h, bitsOf_zero])

theorem Dev.mapWord_column {d : Dev} {q : Nat} (a : Fin 32) (h : Sparse.get 0 d.phys q = BitVec.ofNat 64 (2 ^ a.val)) :
    d.mapWord q = pack [(15, 1), (8, a.val), (0, q)] := by
  rw [Dev.mapWord, Dev.cols, h, bitsOf_two_pow]

section Next
variable {s : State} {c : CombId}

theorem State.nextMap_passed (h : s.dev.failed (getF (s.comb c).map 0 7) = false) : s.nextMap c = some (s.dev.mapWord (getF (s.comb c).map 0 7)) :=
  if_neg (by rw [Comb.phys, h]; exact Bool.false_ne_true)

theorem State.nextMap_failed (h : s.dev.failed (getF (s.comb c).map 0 7) = true) : s.nextMap c = (pickSpare c s.spareFree).map s.dev.mapWord := if_pos h

theorem pickSpare_own {ok : Nat → Bool} (h : ok (64 + fieldOf c) = true) : pickSpare c ok = some (64 + fieldOf c) := if_pos h

theorem pickSpare_least {ok : Nat → Bool} (hown : ok (64 + fieldOf c) = false) {q : Nat} (hlo : 64 ≤ q) (hhi : q ≤ 67) (hq : ok q = true)
    (hleast : ∀ q', 64 ≤ q' → q' < q → ok q' = false) : pickSpare c ok = some q := by
  have hfind : pickSpare c ok = [64, 65, 66, 67].find? ok := if_neg (by rw [hown]; exact Bool.false_ne_true)
  rw [hfind]
  obtain rfl | rfl | rfl | rfl : q = 64 ∨ q = 65 ∨ q = 66 ∨ q = 67 := by omega
  · simp [hq]
  · simp [hq, hleast 64]
  · simp [hq, hleast 64, hleast 65]
  · simp [hq, hleast 64, hleast 65, hleast 66]

theorem fieldOf_lt (c : CombId) : fieldOf c < 4 := by
  unfold fieldOf
  omega

theorem pickSpare_none {ok : Nat → Bool} (h : ∀ q, 64 ≤ q → q ≤ 67 → ok q = false) : pickSpare c ok = none := by
  have hfind : pickSpare c ok = [64, 65, 66, 67].find? ok :=
    if_neg (by rw [h _ (Nat.le_add_right ..) (by have := fieldOf_lt c; omega)]; exact Bool.false_ne_true)
  rw [hfind]
  simp [h]

end Next

/-! ### The end of a self-test -/

/-- The self-test of comb `c` has ended with a result. -/
def State.testEnded (s : State) (c : CombId) (r : W64) : State := s.modComb c fun k => { k with testing := false, mat := { k.mat with selftest := r } }

/-- A clean self-test is counted. -/
def State.testClean (s : State) (c : CombId) : State :=
  (s.testEnded c (pack [(34, 1)])).modComb c fun k => { k with cleanTests := k.cleanTests ++ [s.chm.n] }

section Test
variable {s : State} {c : CombId}

theorem exec_selftest_none (h : (s.comb c).testing = false) (x : SelftestResult) : exec (.arraySelftestDone c x) s = .next s :=
  congrArg Host.Outcome.next (if_pos (by rw [h]; rfl))

variable (h : (s.comb c).testing = true)
include h

theorem exec_selftest_interrupted : exec (.arraySelftestDone c .interrupted) s =
    .next (s.modComb c fun k => { k with testing := false, testDue := true }) :=
  congrArg Host.Outcome.next (if_neg (by rw [h]; exact Bool.false_ne_true))

theorem exec_selftest_columns (cols : BitVec 32) : exec (.arraySelftestDone c (.columns cols)) s =
    .next ((s.testEnded c (pack [(34, 2), (0, cols.toNat)])).bypass c cols) :=
  congrArg Host.Outcome.next (if_neg (by rw [h]; exact Bool.false_ne_true))

theorem exec_selftest_failed : exec (.arraySelftestDone c .failed) s = .next ((s.testEnded c (pack [(34, 3)])).retire c 3) :=
  congrArg Host.Outcome.next (if_neg (by rw [h]; exact Bool.false_ne_true))

theorem exec_selftest_clean : exec (.arraySelftestDone c .noFault) s =
    .next (if ((s.testClean c).comb c).persists s.chm.n then (s.testClean c).retire c 3 else s.testClean c) :=
  congrArg Host.Outcome.next (if_neg (by rw [h]; exact Bool.false_ne_true))

omit h

theorem State.testClean_eq : s.testClean c = s.modComb c fun k =>
    { k with testing := false, mat := { k.mat with selftest := pack [(34, 1)] }, cleanTests := k.cleanTests ++ [s.chm.n] } := by
  rw [State.testClean, State.testEnded, State.modComb_modComb]

theorem State.testClean_persists : ((s.testClean c).comb c).persists s.chm.n = true ↔
    2 ≤ ((s.comb c).cleanTests.filter fun x => decide ((s.chm.n - x).toNat < 10000)).length := by
  have hself : decide ((s.chm.n - s.chm.n).toNat < 10000) = true := by
    rw [BitVec.sub_self]
    rfl
  rw [State.testClean_eq, State.modComb_comb, Comb.persists, decide_eq_true_iff, List.filter_append, List.length_append,
    List.filter_cons_of_pos (p := fun x => decide ((s.chm.n - x).toNat < 10000)) hself, List.filter_nil, List.length_singleton]
  omega

/-- A finding is noted, and the comb's map entry changes at the next chime. -/
structure State.Found (s : State) (c : CombId) (t : State) : Prop where
  n : s.chm.n = t.chm.n
  st : t.dev.st = s.dev.st
  testing : (t.comb c).testing = false
  map : (t.comb c).map = (s.comb c).map
  due : (t.comb c).due = some { cause := 3, reload := true, remap := true }

theorem State.remapAt_found {f : Comb → Comb} (hmap : (f (s.comb c)).map = (s.comb c).map) (htesting : (f (s.comb c)).testing = false)
    (p : Nat) (cols : BitVec 32) (failed : Bool) : s.Found c (((s.modComb c f).findCols p cols failed).remapAt c 3) ∧
      ((((s.modComb c f).findCols p cols failed).remapAt c 3).comb c).mat = (f (s.comb c)).mat := by
  have hcomb : (((s.modComb c f).findCols p cols failed).remapAt c 3).comb c =
      { f (s.comb c) with due := some { cause := 3, reload := true, remap := true } } := by
    have hfound : ((s.modComb c f).findCols p cols failed).comb c = f (s.comb c) := s.modComb_comb c f
    rw [State.remapAt, State.modComb_comb, hfound]
  refine ⟨⟨rfl, rfl, ?_, ?_, ?_⟩, ?_⟩ <;> rw [hcomb]
  · exact htesting
  · exact hmap

theorem State.modComb_phys {f : Comb → Comb} (hmap : (f (s.comb c)).map = (s.comb c).map) : ((s.modComb c f).comb c).phys = getF (s.comb c).map 0 7 := by
  rw [Comb.phys, State.modComb_comb, hmap]

/-- A comb is retired after its self-test. -/
theorem State.retire_found {f : Comb → Comb} (hmap : (f (s.comb c)).map = (s.comb c).map) (htesting : (f (s.comb c)).testing = false) :
    s.Found c ((s.modComb c f).retire c 3) ∧ (((s.modComb c f).retire c 3).comb c).mat = (f (s.comb c)).mat ∧
      ((s.modComb c f).retire c 3).dev.failed (getF (s.comb c).map 0 7) = true := by
  obtain ⟨hfound, hmat⟩ := State.remapAt_found (s := s) (c := c) hmap htesting ((s.modComb c f).comb c).phys 0 true
  refine ⟨hfound, hmat, ?_⟩
  obtain ⟨-, hfailed, -, -⟩ := (s.modComb c f).retire_frame c 3
  rwa [State.modComb_comb, hmap] at hfailed

theorem pack_column (a : Fin 32) : pack [(32, false.toNat), (0, (BitVec.ofNat 32 (2 ^ a.val)).toNat)] = BitVec.ofNat 64 (2 ^ a.val) := by
  decide +revert

theorem or_column_ne_zero (v : W64) (a : Fin 32) : v ||| BitVec.ofNat 64 (2 ^ a.val) ≠ 0 := by
  have hne : BitVec.ofNat 64 (2 ^ a.val) ≠ 0 := by decide +revert
  exact fun h => hne (BitVec.or_eq_zero_iff.1 h).2

/-- A column found is bypassed after a self-test. -/
theorem State.bypass_found {f : Comb → Comb} (hmap : (f (s.comb c)).map = (s.comb c).map) (htesting : (f (s.comb c)).testing = false) (a : Fin 32) :
    s.Found c ((s.modComb c f).bypass c (BitVec.ofNat 32 (2 ^ a.val))) ∧
      (((s.modComb c f).bypass c (BitVec.ofNat 32 (2 ^ a.val))).comb c).mat = (f (s.comb c)).mat ∧
      Sparse.get 0 ((s.modComb c f).bypass c (BitVec.ofNat 32 (2 ^ a.val))).dev.phys (getF (s.comb c).map 0 7) =
        (Sparse.get 0 s.dev.phys (getF (s.comb c).map 0 7) ||| BitVec.ofNat 64 (2 ^ a.val)) := by
  obtain ⟨hfound, hmat⟩ := State.remapAt_found (s := s) (c := c) hmap htesting ((s.modComb c f).comb c).phys (BitVec.ofNat 32 (2 ^ a.val)) false
  refine ⟨hfound, hmat, ?_⟩
  have hset : ((s.modComb c f).bypass c (BitVec.ofNat 32 (2 ^ a.val))).dev.phys = Sparse.set 0 s.dev.phys ((s.modComb c f).comb c).phys
      (Sparse.get 0 s.dev.phys ((s.modComb c f).comb c).phys ||| pack [(32, false.toNat), (0, (BitVec.ofNat 32 (2 ^ a.val)).toNat)]) := rfl
  rw [hset, State.modComb_phys hmap, pack_column, Sparse.get_set_self_ne _ _ (or_column_ne_zero _ a)]

theorem getF_selftest_clean : getF (pack [(34, 1)]) 34 2 = 1 := by decide
theorem getF_selftest_failed : getF (pack [(34, 3)]) 34 2 = 3 := by decide

theorem getF_selftest (a : Fin 32) : getF (pack [(34, 2), (0, (BitVec.ofNat 32 (2 ^ a.val)).toNat)]) 34 2 = 2 := by decide +revert

end Test

/-! ### The obligation -/

theorem execChime_eq (s : State) : exec .chime s = .next s.nextChime := rfl

/-- What a chime makes of a sequencer whose frame instruction has not issued. -/
theorem Seq.chimed_overrun_counts {q : Seq} {n : W64} {t : Nat} {hold resumed : Bool} (h : q.st = .running ∨ q.st = .waiting ∨ q.st = .chimeWait)
    (hf : q.framed = false) :
    getF (q.chimed n t hold resumed).frame 16 16 = min (getF q.frame 16 16 + 1) 0xFFFF ∧
    getF (q.chimed n t hold resumed).fault 48 16 = min (getF q.fault 48 16 + 1) 0xFFFF ∧
    (q.stall ≠ .faulting → getF (q.chimed n t hold resumed).fault 0 8 = 0x0A ∧ getF (q.chimed n t hold resumed).fault 8 18 = q.pc.toNat ∧
      (q.chimed n t hold resumed).stall = .faulting) := by
  have hst : q.st ≠ .faulted := by
    rcases h with h | h | h <;> rw [h] <;> exact SeqState.noConfusion
  rw [Seq.chimed_overrun h hf]
  refine ⟨?_, Seq.noteFault_count .., fun hstall => ⟨?_, ?_, (Seq.noteFault_stops _ _ _ hstall hst).1⟩⟩
  · have hframe : (q.noteFault 0x0A q.pc.toNat 0).frame = satF q.frame 16 16 1 := by
      unfold Seq.noteFault
      dsimp only
      split <;> rfl
    rw [hframe]
    exact getF_satF q.frame 1 (by decide)
  · exact (Seq.noteFault_first hstall hst (by decide) q.pc.isLt (by decide)).1
  · exact (Seq.noteFault_first hstall hst (by decide) q.pc.isLt (by decide)).2.1

/-- Settles O52: the pulse and the plans show what a chime leaves of clock, tables, numberings, settings, level, step and maps, and on a calm chime
every comb is as its own sequencer's chime leaves it. -/
theorem chimeActions : Obligations.ChimeActions := by
  unfold Obligations.ChimeActions
  intro s
  extract_lets n used moved calm
  have hcalm (h : calm) (hvoted : s.chm.qVoted = none) : s.floor.Calm := by
    obtain ⟨hflip, hround, -, hjobs, hdue⟩ := h
    exact ⟨hflip, hround, hjobs, hvoted, hdue⟩
  refine ⟨fun hidle => ?_, fun h => ⟨s.nextChime, rfl, ?_⟩, ?_⟩
  · rw [execChime_eq, State.nextChime_idle hidle]
  · obtain ⟨hn, htb, hival, hat⟩ := State.nextChime_numbers h
    obtain ⟨hcfg, hspill⟩ := State.nextChime_settings h
    refine ⟨hn, htb, hival, hat, State.nextChime_flips h, State.nextChime_unflipped h, State.nextChime_levelled h, State.nextChime_unlevelled h,
      hcfg, hspill, fun r v c hr hd hc => State.nextChime_decided h hr hd hc, ?_, ?_, ?_, ?_, fun c hc hothers => State.nextChime_changes h hc hothers⟩
    · intro hc hgo hreq hvoted hst c q r going
      have hr : r = q.chimed s.nextNo s.chm.nextAt false false := State.nextChime_goesOn h (hcalm hc hvoted) hgo hreq hc.2.2.1 hst c
      rw [hr]
      refine ⟨fun hgoing hf => ?_, fun k harmed hk => Seq.chimed_armed harmed hk, fun hgoing hf => Seq.chimed_overrun_counts hgoing hf, Seq.chimed_rest⟩
      split
      next hs => exact Seq.chimed_draining hgoing hf hs
      next hs => exact Seq.chimed_next hgoing hf hs
    · intro hc hgo hvoted hst
      obtain ⟨hdev, hdone, hseq⟩ := State.nextChime_quiesces h (hcalm hc hvoted) hgo hst hc.2.2.1
      refine ⟨hdev, hdone, fun c => ?_⟩
      intro q hgoing hf hs
      rw [hseq]
      exact Seq.chimed_held hgoing hf hs
    · intro k hk hle hst hfw hflip hround hjobs hdue hgo hreq hvoted hbars
      obtain ⟨hdone, hseq⟩ := State.nextChime_resumes h ⟨hflip, hround, hjobs, hvoted, hdue⟩ hk hle hst hfw hreq hbars
      refine ⟨hdone, fun c => ?_⟩
      intro q hheld
      rw [hseq]
      exact Seq.chimed_resumed hheld
    · intro hc hgo hreq hvoted hst hroot hidle l hl
      exact State.nextChime_sends (hcalm hc hvoted) hgo hreq hc.2.2.1 hst hidle h hroot hl
  · intro c
    extract_lets k p found
    have hfound {t : State} (ht : s.Found c t) : found t := ⟨ht.n, ht.st, ht.testing, ht.map, ht.due⟩
    refine ⟨State.nextMap_passed, fun hfailed hown => ?_, fun q hfailed hown hlo hhi hq hleast => ?_, fun hfailed hnone => ?_,
      fun q hq => ⟨Dev.mapWord_phys _ hq, Dev.mapWord_clean, Dev.mapWord_column⟩, exec_selftest_none, fun htesting => ⟨?_, ?_, ?_, fun a => ?_, ?_⟩⟩
    · rw [State.nextMap_failed hfailed, pickSpare_own hown]
      rfl
    · rw [State.nextMap_failed hfailed, pickSpare_least hown hlo hhi hq hleast]
      rfl
    · rw [State.nextMap_failed hfailed, pickSpare_none hnone]
      rfl
    · exact exec_selftest_interrupted htesting
    · intro hfew
      have hno : ¬ ((s.testClean c).comb c).persists s.chm.n = true := fun hp => absurd (State.testClean_persists.1 hp) (not_le.2 hfew)
      refine ⟨s.testClean c, by rw [exec_selftest_clean htesting, if_neg hno], ?_⟩
      rw [State.testClean_eq, State.modComb_comb]
      exact ⟨s.modComb_onlyComb c _, getF_selftest_clean, rfl, rfl⟩
    · intro hmany
      have hyes : ((s.testClean c).comb c).persists s.chm.n = true := State.testClean_persists.2 hmany
      refine ⟨(s.testClean c).retire c 3, by rw [exec_selftest_clean htesting, if_pos hyes], ?_⟩
      rw [State.testClean_eq]
      obtain ⟨hf, hmat, hfailed⟩ := State.retire_found (s := s) (c := c)
        (f := fun k => { k with testing := false, mat := { k.mat with selftest := pack [(34, 1)] }, cleanTests := k.cleanTests ++ [s.chm.n] }) rfl rfl
      exact ⟨hfound hf, (congrArg (fun m : Mat => getF m.selftest 34 2) hmat).trans getF_selftest_clean, hfailed⟩
    · obtain ⟨hf, hmat, hphys⟩ := State.bypass_found (s := s) (c := c)
        (f := fun k => { k with testing := false, mat := { k.mat with selftest := pack [(34, 2), (0, (BitVec.ofNat 32 (2 ^ a.val)).toNat)] } }) rfl rfl a
      exact ⟨_, exec_selftest_columns htesting _, hfound hf, (congrArg (fun m : Mat => getF m.selftest 34 2) hmat).trans (getF_selftest a), hphys⟩
    · obtain ⟨hf, hmat, hfailed⟩ := State.retire_found (s := s) (c := c)
        (f := fun k => { k with testing := false, mat := { k.mat with selftest := pack [(34, 3)] } }) rfl rfl
      exact ⟨_, exec_selftest_failed htesting, hfound hf, (congrArg (fun m : Mat => getF m.selftest 34 2) hmat).trans getF_selftest_failed, hfailed⟩

end Sys2Proof.Machine
end

section
/-!
SUPPORT for O41. What it is for a command to answer a next state with the queue of waiting commands left alone (R149, R360), and what that follows
from.
-/
namespace Sys2Proof.Machine

/-- The outcome is a next state, with the queue of `s`. -/
def State.Goes (s : State) (o : Out) : Prop := ∃ t, o = .next t ∧ t.pending = s.pending

@[simp] theorem State.goes_next {s t : State} : s.Goes (.next t) ↔ t.pending = s.pending := by
  simp [State.Goes]

/-- The queue of a choice of two states. -/
@[simp] theorem State.pending_ite (p : Prop) [Decidable p] (a b : State) : (if p then a else b).pending = if p then a.pending else b.pending := by
  split <;> rfl

section Views
variable {s t : State}

theorem State.pending_of_beat (h : t.beat = s.beat) : t.pending = s.pending := congrArg (fun b => b.pulse.pending) h
theorem State.pending_of_pulse (h : t.pulse = s.pulse) : t.pending = s.pending := congrArg Pulse.pending h
theorem State.pending_of_unsent (h : t.unsent = s.unsent) : t.pending = s.pending := (congrArg State.pending h :)
theorem State.pending_of_offRound (h : t.offRound = s.offRound) : t.pending = s.pending := (congrArg State.pending h :)
theorem State.pending_of_still (h : t.still = s.still) : t.pending = s.pending := (congrArg State.pending h :)
theorem State.Keeps.pending (h : s.Keeps t) : t.pending = s.pending := (congrArg State.pending h.hull :)

end Views

end Sys2Proof.Machine
end

section
/-!
SUPPORT for O41. The queue of waiting commands is left alone by the state, the fabric interface and the router:
one lemma per function of the model, in the order of its files. Only what puts commands in the queue writes that field, so each lemma is
a case split and the lemmas before it.
-/
namespace Sys2Proof.Machine

/-! ### The tensor words -/

@[simp] theorem State.cuts_pending (s : State) (oks : List (List Bool)) : (s.cuts oks).2.pending = s.pending := by
  unfold State.cuts
  split
  · rfl
  · refine foldl_keeps (fun t : List (Option Nat) × State => t.2.pending) _ (fun t ok => ?_) oks ([], s)
    rfl

/-! ### The fabric interface -/

@[simp] theorem State.newCid_pending (s : State) (k : PeerKey) : (s.newCid k).2.pending = s.pending := by
  simp [State.newCid]

@[simp] theorem State.putCons_pending (s : State) (x : Cons) : (s.putCons x).pending = s.pending := by
  simp [State.putCons]

@[simp] theorem State.startOrWait_pending (s : State) (w : ConsWait) : (s.startOrWait w).pending = s.pending :=
  State.pending_of_unsent (State.startOrWait_unsent ..)

@[simp] theorem State.pumpWait_pending (s : State) : s.pumpWait.pending = s.pending :=
  State.pending_of_unsent (State.pumpWait_unsent ..)

@[simp] theorem State.sendSingle_pending (s : State) (ty cls : Nat) (ver : Fin 2) (dst : ChipId) (addr : Nat) (bs : List Byte)
    (coll : Option CollKey) (deputy : Bool) :
    (s.sendSingle ty cls ver dst addr bs coll deputy).pending = s.pending := by
  simp [State.sendSingle]

@[simp] theorem State.sendSegment_pending (s : State) (ver : Fin 2) (dst : ChipId) (addr : Nat) (bs : List Byte) (coll : CollKey) :
    (s.sendSegment ver dst addr bs coll).pending = s.pending := by
  simp [State.sendSegment]

@[simp] theorem State.dropCons_pending (s : State) (x : Cons) : (s.dropCons x).pending = s.pending := by
  simp [State.dropCons]

@[simp] theorem State.readSource_pending (s : State) (x : Cons) (lo hi : Nat) : (s.readSource x lo hi).pending = s.pending := by
  unfold State.readSource
  split <;> simp

@[simp] theorem State.pumpCons_pending (s : State) (x : Cons) : (s.pumpCons x).pending = s.pending := by
  simp [State.pumpCons]

@[simp] theorem State.resendCons_pending (s : State) (x : Cons) : (s.resendCons x).pending = s.pending := by
  simp [State.resendCons]

@[simp] theorem State.crrFenced_pending (s : State) (c : CombId) : (s.crrFenced c).pending = s.pending := by
  simp [State.crrFenced]

@[simp] theorem State.crrError_pending (s : State) (c : CombId) : (s.crrError c).pending = s.pending := by
  simp [State.crrError]

@[simp] theorem State.fabDone_pending (s : State) (c : CombId) (e : QEntry) : (s.fabDone c e).pending = s.pending :=
  State.pending_of_beat (State.fabDone_beat ..)

@[simp] theorem State.fabRemote_pending (s : State) (c : CombId) (e : QEntry) : (s.fabRemote c e).pending = s.pending :=
  State.pending_of_beat (State.fabRemote_beat ..)

@[simp] theorem State.lessMember_pending (s : State) (x : Cons) (m : ChipId) : (s.lessMember x m).pending = s.pending := by
  unfold State.lessMember
  split <;> simp

@[simp] theorem State.memberDone_pending (s : State) (x : Cons) (m : ChipId) (fenced : Bool) : (s.memberDone x m fenced).pending = s.pending := by
  unfold State.memberDone
  split <;> simp

@[simp] theorem State.memberFailed_pending (s : State) (x : Cons) (m : ChipId) (c : CombId) (e : QEntry) :
    (s.memberFailed x m c e).pending = s.pending := by
  simp [State.memberFailed]

@[simp] theorem State.popFab_pending (s : State) (c : CombId) : (s.popFab c).pending = s.pending := by
  simp [State.popFab]

@[simp] theorem State.openCons_pending (s : State) (k : PeerKey) (kind : ConsKind) (c : CombId) (e : QEntry) (n : Nat) (ms : List ChipId) :
    (s.openCons k kind c e n ms).pending = s.pending := by
  simp [State.openCons]

@[simp] theorem State.startFab_pending (s : State) (c : CombId) (e : QEntry) : (s.startFab c e).pending = s.pending := by
  unfold State.startFab
  split <;> simp

@[simp] theorem State.closeCid_pending (s : State) (src : ChipId) (g : Option (BitVec 8)) (cid : BitVec 13) :
    (s.closeCid src g cid).pending = s.pending := by
  simp [State.closeCid]

theorem State.entryFor_pending {s t : State} {src : ChipId} {g : Option (BitVec 8)} {low : BitVec 13} (h : s.entryFor src g low = some t) :
    t.pending = s.pending := by
  unfold State.entryFor at h
  split at h
  · rw [Option.some.inj h]
  · split at h
    · rw [← Option.some.inj h]
    · cases h

@[simp] theorem State.putRx_pending (s : State) (x : RxCons) : (s.putRx x).pending = s.pending := by
  simp [State.putRx]

@[simp] theorem State.dropRx_pending (s : State) (x : RxCons) : (s.dropRx x).pending = s.pending := by
  simp [State.dropRx]

@[simp] theorem State.finishRx_pending (s : State) (x : RxCons) : (s.finishRx x).pending = s.pending := by
  simp [State.finishRx]

@[simp] theorem State.failRx_pending (s : State) (x : RxCons) (addr : Nat) : (s.failRx x addr).pending = s.pending := by
  simp [State.failRx]

@[simp] theorem State.tookIx_pending (s : State) (x : RxCons) (n i : Nat) : (s.tookIx x n i).pending = s.pending := by
  simp [State.tookIx]

@[simp] theorem State.runAtomic_pending (s : State) (x : Nat × AtomicReq) : (s.runAtomic x).pending = s.pending := by
  simp [State.runAtomic]

@[simp] theorem State.atomicInTurn_pending (s : State) (op : BitVec 3) (a : Nat) (bs : List Byte) : (s.atomicInTurn op a bs).pending = s.pending := by
  simp [State.atomicInTurn]

@[simp] theorem State.rxData_pending (s : State) (x : RxCons) (d : Drop) : (s.rxData x d).pending = s.pending := by
  unfold State.rxData
  repeat' split
  all_goals simp

@[simp] theorem State.onData_pending (s : State) (d : Drop) : (s.onData d).pending = s.pending := by
  unfold State.onData
  dsimp only
  repeat' split
  all_goals simp

@[simp] theorem State.onManifest_pending (s : State) (d : Drop) : (s.onManifest d).pending = s.pending := by
  unfold State.onManifest
  extract_lets g x mine
  split
  · exact s.discFull_pending
  next s1 hs =>
    have h1 := State.entryFor_pending hs
    rw [← h1]
    extract_lets dup held _ s2
    split
    · exact (State.answer_pending _ _ _ _ _).trans s1.discDup_pending
    split
    · exact s1.discDup_pending
    split
    · exact s1.discFull_pending
    split
    · exact State.finishRx_pending _ _
    · refine foldl_pending _ _ s2 fun t y => ?_
      split
      · rfl
      · split <;> simp

@[simp] theorem State.rxSingle_pending (s : State) (d : Drop) : (s.rxSingle d).1.pending = s.pending := by
  unfold State.rxSingle
  split
  · exact s.discFull_pending
  next s1 hs =>
    rw [← State.entryFor_pending hs]
    extract_lets dup
    cases dup
    · exact (State.answer_pending _ _ _ _ _).trans (State.closeCid_pending _ _ _ _)
    · exact (State.answer_pending _ _ _ _ _).trans s1.discDup_pending

/-- The responder's answer to a GETREQ for the drops `ix`, where the bytes `bad` are not open. -/
def State.getreqAnswer (s : State) (d : Drop) (ix bad : List Nat) : State :=
  let desc := (manifestDesc d.payload).1
  match bad with
  | a :: _ => s.answer d 9 a [0x01]
  | [] =>
    let runs := ix.flatMap fun i => (runsOf (desc.dropAddrs i) (List.replicate 48 0)).map fun r => (r.1, r.2.length)
    let s1 := s.touchRuns runs
    let s2 := s1.consumeIf (runs.any fun r => s1.poisoned r.1 r.2)
    s2.inject (ix.map fun i => s2.mkDrop 6 d.cls d.src d.cid i i ((desc.dropAddrs i).map s2.byte))

theorem State.onGetreq_answers (s : State) (d : Drop) : ∃ ix bad, s.onGetreq d = s.getreqAnswer d ix bad := ⟨_, _, rfl⟩

theorem State.getreqAnswer_pending (s : State) (d : Drop) (ix bad : List Nat) : (s.getreqAnswer d ix bad).pending = s.pending := by
  cases bad with
  | nil => exact (State.inject_pending _ _).trans ((State.consumeIf_pending _ _).trans (s.touchRuns_pending _))
  | cons a as => exact s.answer_pending _ _ _ _

@[simp] theorem State.onGetreq_pending (s : State) (d : Drop) : (s.onGetreq d).pending = s.pending := by
  obtain ⟨ix, bad, h⟩ := s.onGetreq_answers d
  rw [h, State.getreqAnswer_pending]

@[simp] theorem State.onRdata_pending (s : State) (d : Drop) : (s.onRdata d).pending = s.pending := by
  unfold State.onRdata
  repeat' split
  all_goals simp

/-! ### The router -/

@[simp] theorem State.fenceOff_pending (s : State) (d : Drop) (f : ChipId) : (s.fenceOff d f).pending = s.pending := by
  simp [State.fenceOff]

@[simp] theorem State.noRouteOff_pending (s : State) (ports : List Nat) : (s.noRouteOff ports).pending = s.pending := by
  simp [State.noRouteOff]

@[simp] theorem State.deliver_pending (s : State) (d : Drop) : (s.deliver d).pending = s.pending := by
  simp [State.deliver]

@[simp] theorem State.queueOn_pending (s : State) (l : LinkId) (d : Drop) : (s.queueOn l d).pending = s.pending := by
  simp [State.queueOn]

theorem State.forward_pending {s t : State} {d : Drop} {wraps : Nat} (h : s.forward d wraps = some t) : t.pending = s.pending := by
  unfold State.forward at h
  extract_lets r dirs links at h
  by_cases he : links.isEmpty
  · rw [if_pos he] at h
    rw [← Option.some.inj h, State.noRouteOff_pending]
  rw [if_neg he] at h
  cases hl : s.shortest (links.filter fun l => decide (0 < s.spare_ l (d.chan r 0))) with
  | some l =>
    rw [hl] at h
    rw [← Option.some.inj h, State.queueOn_pending]
  | none =>
    rw [hl] at h
    cases hd : dirs with
    | nil => rw [hd] at h; cases h
    | cons x xs =>
      rw [hd] at h
      obtain ⟨l, -, hl⟩ := Option.map_eq_some_iff.1 h
      rw [← hl, State.queueOn_pending]

@[simp] theorem State.serving_pending (s : State) (wraps : Nat) (from_ : Option LinkId) (back : Bool) (src : ChipId) (ms : List ChipId) :
    (s.serving wraps from_ back src ms).2.pending = s.pending := by
  refine foldl_keeps (fun t : List ChipId × State => t.2.pending) _ (fun t m => ?_) ms ([], s)
  dsimp only
  split <;> rfl

@[simp] theorem State.spread_pending (s : State) (d : Drop) (from_ : Option LinkId) (back own : Bool) (wraps : Nat) :
    (s.spread d from_ back own wraps).pending = s.pending := by
  unfold State.spread
  extract_lets r all here
  have hs := s.serving_pending wraps from_ back d.src (all.filter fun m => m != r.selfId && m != d.src)
  split
  next served s0 h0 =>
  rw [h0] at hs
  extract_lets live ports s1 s2 s3
  have h1 : s1.pending = s0.pending := by
    unfold s1
    split
    · rfl
    · split <;> simp
  have h2 : s2.pending = s1.pending := by
    refine foldl_pending _ ports s1 fun t x => ?_
    dsimp only
    split <;> simp
  have h3 : s3.pending = s2.pending := foldl_pending _ _ s2 fun t _ => t.discNoRoute_pending
  refine (foldl_pending _ _ s3 fun t m => t.fenceOff_pending d m).trans ?_
  rw [h3, h2, h1, hs]

theorem State.routeOne_pending {s t : State} {h : HeldDrop} (hs : s.routeOne h = some t) : t.pending = s.pending := by
  unfold State.routeOne at hs
  extract_lets d r at hs
  split at hs
  · rw [← Option.some.inj hs, State.discHdr_pending]
  split at hs
  · rw [← Option.some.inj hs, State.discFenced_pending]
  split at hs
  · rw [← Option.some.inj hs, State.fenceOff_pending]
  split at hs
  · split at hs
    · rw [← Option.some.inj hs]
      split <;> simp
    · rw [← Option.some.inj hs, State.discTag_pending]
  split at hs
  · rw [← Option.some.inj hs, State.discTag_pending]
  split at hs
  · rw [← Option.some.inj hs]
    split <;> simp
  · exact State.forward_pending hs

@[simp] theorem State.routeAt_pending (s : State) (i : Nat) : (s.routeAt i).pending = s.pending := by
  unfold State.routeAt
  cases s.rte.drops[i]? with
  | none => rfl
  | some h =>
    dsimp only
    cases hr : ({ s with rte := { s.rte with drops := s.rte.drops.eraseIdx i } } : State).routeOne h with
    | none => rfl
    | some t => exact (State.routeOne_pending hr).trans rfl

@[simp] theorem State.staleOff_pending (s : State) (i : Nat) : (s.staleOff i).pending = s.pending := by
  unfold State.staleOff
  dsimp only
  repeat' split
  all_goals simp

end Sys2Proof.Machine
end

section
/-!
SUPPORT for O41. The queue of waiting commands is left alone by the links, the vector unit and the collective engine:
one lemma per function of the model, in the order of its files. Only what puts commands in the queue writes that field, so each lemma is
a case split and the lemmas before it.
-/
namespace Sys2Proof.Machine

/-! ### The links -/

@[simp] theorem State.handBack_pending (s : State) (l : LinkId) (ds : List Drop) : (s.handBack l ds).pending = s.pending := by
  simp [State.handBack]

@[simp] theorem State.linkFail_pending (s : State) (l : LinkId) : (s.linkFail l).pending = s.pending := by
  unfold State.linkFail
  dsimp only
  split
  · rfl
  · rw [State.notice_pending, State.record_pending, foldl_pending _ _ _ fun t m => State.modLink_pending t m _]
    rfl

@[simp] theorem State.laneFail_pending (s : State) (l : LinkId) (lane : Fin 8) : (s.laneFail l lane).pending = s.pending := by
  simp [State.laneFail]

@[simp] theorem State.onSpare_pending (s : State) (l : LinkId) (x : SpareSym) : (s.onSpare l x).pending = s.pending := by
  simp [State.onSpare]

@[simp] theorem State.discardCodeword_pending (s : State) (l : LinkId) : (s.discardCodeword l).pending = s.pending := by
  simp [State.discardCodeword]

@[simp] theorem State.noteHits_pending (s : State) (l : LinkId) (fixed : List Nat) : (s.noteHits l fixed).pending = s.pending := by
  simp [State.noteHits]

@[simp] theorem State.useCodeword_pending (s : State) (l : LinkId) (w : CodewordIn) (m : BitVec 5140) :
    (s.useCodeword l w m).pending = s.pending := by
  simp [State.useCodeword]

@[simp] theorem State.onCodeword_pending (s : State) (l : LinkId) (w : CodewordIn) : (s.onCodeword l w).pending = s.pending := by
  unfold State.onCodeword
  repeat' split
  all_goals simp

@[simp] theorem State.formControl_pending (s : State) (l : LinkId) : (s.formControl l).pending = s.pending := by
  simp [State.formControl]

@[simp] theorem State.closeCw_pending (s : State) (l : LinkId) : (s.closeCw l).pending = s.pending := by
  simp [State.closeCw]

@[simp] theorem State.transmit_pending (s : State) (l : LinkId) : (s.transmit l).pending = s.pending := by
  simp [State.transmit]

@[simp] theorem State.ping_pending (s : State) (l : LinkId) : (s.ping l).pending = s.pending := by
  simp [State.ping]

@[simp] theorem State.startPings_pending (s : State) (l : LinkId) : (s.startPings l).pending = s.pending := by
  simp [State.startPings]

@[simp] theorem State.toIdentity_pending (s : State) (l : LinkId) (rx tx : Option (Fin 8)) : (s.toIdentity l rx tx).pending = s.pending := by
  simp [State.toIdentity]

@[simp] theorem State.linkPhase_pending (s : State) (l : LinkId) (ok : Bool) (rx tx : Option (Fin 8)) :
    (s.linkPhase l ok rx tx).pending = s.pending := by
  unfold State.linkPhase
  dsimp only
  repeat' split
  all_goals simp

@[simp] theorem State.onIdent_pending (s : State) (l : LinkId) (x : IdentSym) : (s.onIdent l x).pending = s.pending := by
  simp [State.onIdent]

@[simp] theorem State.linkRetry_pending (s : State) (l : LinkId) : (s.linkRetry l).pending = s.pending := by
  simp [State.linkRetry]

@[simp] theorem State.rwStart_pending (s : State) (l : LinkId) : (s.rwStart l).pending = s.pending :=
  State.pending_of_beat (State.rwStart_beat ..)

@[simp] theorem State.rwDecide_pending (s : State) : s.rwDecide.pending = s.pending := by
  simp [State.rwDecide]

@[simp] theorem State.rwTry_pending (s : State) (l : LinkId) : (s.rwTry l).pending = s.pending := by
  simp [State.rwTry]

@[simp] theorem State.rwPump_pending (s : State) : s.rwPump.pending = s.pending :=
  State.pending_of_beat (State.rwPump_beat ..)

@[simp] theorem State.rwSchedule_pending (s : State) (l : LinkId) (temp : BitVec 8) : (s.rwSchedule l temp).pending = s.pending := by
  simp [State.rwSchedule]

@[simp] theorem State.moveOff_pending (s : State) (l : LinkId) (ds : List Drop) : (s.moveOff l ds).pending = s.pending := by
  refine foldl_pending _ ds s fun t d => ?_
  split <;> simp

@[simp] theorem State.rwClose_pending (s : State) (l : LinkId) : (s.rwClose l).pending = s.pending := by
  unfold State.rwClose
  dsimp only
  repeat' split
  all_goals simp

@[simp] theorem State.rwSettle_pending (s : State) (l : LinkId) : (s.rwSettle l).pending = s.pending := by
  simp [State.rwSettle]

@[simp] theorem State.chimeOut_pending (s : State) (l : LinkId) (delay : BitVec 16) : (s.chimeOut l delay).pending = s.pending := by
  simp [State.chimeOut]

@[simp] theorem State.onOpen_pending (s : State) (l : LinkId) (x : OpenSym) : (s.onOpen l x).pending = s.pending := by
  simp [State.onOpen]

@[simp] theorem State.linkEnable_pending (s : State) (l : LinkId) (en : Bool) : (s.linkEnable l en).pending = s.pending := by
  simp [State.linkEnable]

/-! ### The vector unit -/

@[simp] theorem State.vecConvert_pending (s : State) (c : CombId) (d : Desc) (cs : Option (Fin 4)) (rm : BitVec 3) (cut : Option Nat) (xs : List Elem) :
    (s.vecConvert c d cs rm cut xs).2.2.2.2.pending = s.pending := by
  unfold State.vecConvert
  dsimp only
  split <;> rfl

@[simp] theorem State.launchVec_pending (s : State) (c : CombId) (cut : Bool) (fl : Flight) (g : VFlags) (ate : Bool) :
    (s.launchVec c cut fl g ate).pending = s.pending := by
  simp [State.launchVec]

@[simp] theorem State.startVec_pending (s : State) (c : CombId) (e : QEntry) (op : VOp) (dr : Fin 32) (d a b cc : Desc) (bs : Option W32)
    (cs : Fin 4) (rm : BitVec 3) (base pitch : W64) :
    (s.startVec c e op dr d a b cc bs cs rm base pitch).pending = s.pending := by
  unfold State.startVec
  extract_lets srcs runs s1 fl xs
  split
  · exact s.execFault_pending _ _ _ _
  have hcut := (s1.cut_pending (d.positions.map fun p => s1.posOpen d p)).trans (s.touchRuns_pending runs)
  split
  next cut s2 hc =>
    rw [hc] at hcut
    have hconv (k : Option (Fin 4)) (rm : BitVec 3) (xs : List Elem) := (s2.vecConvert_pending c d k rm cut xs).trans hcut
    split
    case h_1 | h_2 | h_3 =>
      split
      next ws pl mx ov s3 h3 =>
        have h : s3.pending = s.pending := (congrArg (fun x => x.2.2.2.2.pending) h3).symm.trans (hconv _ _ _)
        exact (State.launchVec_pending _ _ _ _ _ _).trans h
    all_goals exact (State.launchVec_pending _ _ _ _ _ _).trans hcut

@[simp] theorem State.startUpd_pending (s : State) (c : CombId) (e : QEntry) (op : UOp) (da : Fin 32) (ds : Vector Desc 7) (sc : Vector W64 4)
    (wc : Nat) (cs : Fin 4) (rm : BitVec 3) (base pitch : W64) :
    (s.startUpd c e op da ds sc wc cs rm base pitch).pending = s.pending := by
  unfold State.startUpd
  extract_lets src d runs s1 k outs states copies
  split
  · exact s.execFault_pending _ _ _ _
  have hcut := (s1.cuts_pending ((states.map (·.1) ++ copies.map (·.2)).map fun t => d.positions.map fun p => s1.posOpen t p)).trans (s.touchRuns_pending runs)
  split
  next cs' s2 hc =>
    rw [hc] at hcut
    extract_lets cut put done acc g
    have hacc : acc.1.pending = s2.pending := by
      refine foldl_keeps (fun st : State × List (Nat × List Byte) × List Nat × List (Fin 32 × Int) × Bool => st.1.pending) _ (fun st x => ?_)
        copies.zipIdx (s2, [], [], [], false)
      extract_lets t r
      exact st.1.vecConvert_pending c t (some cs) rm _ _
    exact (State.launchVec_pending _ _ _ _ _ _).trans (hacc.trans hcut)

/-! ### The collective engine -/

@[simp] theorem State.readOwn_pending (s : State) (k : CollInst) (its : List Nat) : (s.readOwn k its).1.pending = s.pending := by
  simp [State.readOwn]

@[simp] theorem State.sendColl_pending (s : State) (key : CollKey) (ver : Fin 2) (dst : ChipId) (kind phase : Nat) (dir gather : Bool) (seg : Nat)
    (bs : List Byte) :
    (s.sendColl key ver dst kind phase dir gather seg bs).pending = s.pending :=
  State.pending_of_unsent (State.sendColl_unsent ..)

@[simp] theorem State.putColl_pending (s : State) (k : CollInst) : (s.putColl k).pending = s.pending := by
  simp [State.putColl]

@[simp] theorem State.dropColl_pending (s : State) (k : CollInst) : (s.dropColl k).pending = s.pending :=
  State.pending_of_beat (State.dropColl_beat ..)

@[simp] theorem State.colBit_pending (s : State) (i : Nat) : (s.colBit i).pending = s.pending := by
  simp [State.colBit]

@[simp] theorem State.grantTo_pending (s : State) (k : CollInst) (st : Nat × Pat) (m : Nat) (dir : Bool) :
    (s.grantTo k st m dir).pending = s.pending := by
  simp [State.grantTo]

@[simp] theorem State.sendOut_pending (s : State) (k : CollInst) (st : Nat × Pat) : (s.sendOut k st).pending = s.pending := by
  unfold State.sendOut
  extract_lets go r
  have hr : r.1.pending = s.pending := by
    refine foldl_keeps (fun t : State × CollInst => t.1.pending) go (fun t o => ?_) k.out (s, k)
    unfold go
    extract_lets key g k1
    split
    · rfl
    · exact State.sendSegment_pending _ _ _ _ _ _
  rw [State.putColl_pending, hr]

@[simp] theorem State.putSeg_pending (x : State × CollInst) (f : Flow) (m : Nat) (seg : Nat × List Nat) :
    (State.putSeg x f m seg).1.pending = x.1.pending := by
  unfold State.putSeg
  dsimp only
  split
  · rfl
  · exact State.readOwn_pending _ _ _

@[simp] theorem State.originate_pending (s : State) (k : CollInst) (st : Nat × Pat) : (s.originate k st).1.pending = s.pending := by
  refine foldl_keeps (fun x : State × CollInst => x.1.pending) _ (fun x f => ?_) _ (s, k)
  split
  · rfl
  · exact foldl_keeps (fun x : State × CollInst => x.1.pending) _ (fun x1 seg =>
      foldl_keeps (fun x : State × CollInst => x.1.pending) _ (fun x2 m => State.putSeg_pending x2 f m seg) f.succs x1) _ x

@[simp] theorem State.beginStage_pending (s : State) (k : CollInst) : (s.beginStage k).pending = s.pending := by
  unfold State.beginStage
  split
  · exact s.putColl_pending k
  next st _ =>
    extract_lets s1 s2
    have h1 : s1.pending = s.pending := by simp [s1]
    have h2 : s2.pending = s1.pending := by
      refine foldl_pending _ _ s1 fun t p => ?_
      split
      · split <;> simp
      · rfl
    split
    · simp [h1, h2]
    · rw [h2, h1]

@[simp] theorem State.finishColl_pending (s1 : State) (k1 : CollInst) : (s1.finishColl k1).pending = s1.pending := by
  unfold State.finishColl
  repeat' split
  all_goals simp

@[simp] theorem State.collUnwait_pending (s : State) (owner : Option (CombId × Nat)) : (s.collUnwait owner).pending = s.pending := by
  unfold State.collUnwait
  split <;> simp

@[simp] theorem State.advanceColl_pending (s : State) (key : CollKey) (fuel : Nat) : (s.advanceColl key fuel).pending = s.pending := by
  induction fuel generalizing s with
  | zero => rfl
  | succ n ih =>
    unfold State.advanceColl
    split
    · rfl
    split
    · rfl
    split
    · exact s.finishColl_pending _
    · dsimp only
      split
      · simp
      · split
        · rw [ih]
          simp
        · simp

@[simp] theorem State.failColl_pending (s : State) (k : CollInst) : (s.failColl k).pending = s.pending :=
  State.pending_of_beat (State.failColl_beat ..)

@[simp] theorem State.abortNeighbours_pending (s : State) (k : CollInst) (code : Nat) : (s.abortNeighbours k code).pending = s.pending :=
  State.pending_of_unsent (State.abortNeighbours_unsent ..)

@[simp] theorem State.unstage_pending (s : State) (d : Drop) : (s.unstage d).pending = s.pending := by
  simp [State.unstage]

@[simp] theorem State.matchSign_pending (s : State) (k : CollInst) (d : Drop) : (s.matchSign k d).pending = s.pending := by
  unfold State.matchSign
  split
  · rfl
  split
  · simp
  · extract_lets k1 s1
    split
    · split
      · refine (foldl_pending _ _ s1 fun t p => ?_).trans (s.putColl_pending k1)
        split <;> simp
      · exact s.putColl_pending k1
    · exact s.putColl_pending k1

@[simp] theorem State.takeGrant_pending (s : State) (k : CollInst) (d : Drop) : (s.takeGrant k d).pending = s.pending := by
  unfold State.takeGrant
  split <;> simp

@[simp] theorem State.replaySigns_pending (s : State) (key : CollKey) : (s.replaySigns key).pending = s.pending := by
  refine foldl_pending _ _ s fun t d => ?_
  split
  · split <;> simp
  · exact t.unstage_pending d

@[simp] theorem State.mixColl_pending (s : State) (k : CollInst) : (s.mixColl k).pending = s.pending := by
  unfold State.mixColl
  extract_lets d ps sc after pick es bs
  have he : es.2.pending = s.pending := by
    refine foldl_keeps (fun x : List (Pos × Nat) × State => x.2.pending) _ (fun x p => ?_) ps ([], s)
    rfl
  have hb : bs.2.pending = es.2.pending := by
    refine foldl_keeps (fun x : List (Nat × Nat) × State => x.2.pending) _ (fun x i => ?_) sc ([], es.2)
    rfl
  exact (State.putRuns_pending _ _).trans (hb.trans he)

@[simp] theorem State.collCount_pending (s : State) : s.collCount.pending = s.pending := by
  simp [State.collCount]

@[simp] theorem State.doneFenced_pending (s : State) (c : CombId) (e : QEntry) : (s.doneFenced c e).pending = s.pending :=
  State.pending_of_beat (State.doneFenced_beat ..)

@[simp] theorem State.fencedColl_pending (s : State) (k : CollInst) : (s.fencedColl k).pending = s.pending := by
  simp [State.fencedColl]

@[simp] theorem State.putBar_pending (s : State) (b : BarInst) : (s.putBar b).pending = s.pending := by
  simp [State.putBar]

@[simp] theorem State.dropBar_pending (s : State) (b : BarInst) : (s.dropBar b).pending = s.pending :=
  State.pending_of_beat (State.dropBar_beat ..)

@[simp] theorem State.sendRelease_pending (s : State) (b : BarInst) (t : W64) : (s.sendRelease b t).pending = s.pending :=
  State.pending_of_unsent (State.sendRelease_unsent ..)

@[simp] theorem State.barAdvance_pending (s : State) (b : BarInst) : (s.barAdvance b).pending = s.pending :=
  State.pending_of_beat (State.barAdvance_beat ..)

@[simp] theorem State.failBar_pending (s : State) (b : BarInst) : (s.failBar b).pending = s.pending :=
  State.pending_of_beat (State.failBar_beat ..)

@[simp] theorem State.abortBar_pending (s : State) (b : BarInst) (code : Nat) : (s.abortBar b code).pending = s.pending :=
  State.pending_of_unsent (State.abortBar_unsent ..)

@[simp] theorem State.pumpBars_pending (s : State) (c : CombId) (fuel : Nat) : (s.pumpBars c fuel).pending = s.pending :=
  State.pending_of_beat (State.pumpBars_beat ..)

@[simp] theorem State.pumpAllBars_pending (s : State) : s.pumpAllBars.pending = s.pending :=
  State.pending_of_beat (State.pumpAllBars_beat ..)

@[simp] theorem State.collIssued_pending (s : State) (c : CombId) (e : QEntry) : (s.collIssued c e).pending = s.pending := by
  unfold State.collIssued
  dsimp only
  repeat' split
  all_goals simp

@[simp] theorem State.startColl_pending (s : State) (k : CollInst) (spill : Option (List Nat)) : (s.startColl k spill).pending = s.pending := by
  unfold State.startColl
  repeat' split
  all_goals simp

@[simp] theorem State.eraMismatch_pending (s : State) (d : Drop) (key : CollKey) : (s.eraMismatch d key).pending = s.pending :=
  State.pending_of_beat (State.eraMismatch_beat ..)

@[simp] theorem State.fenceColls_pending (s : State) (f : ChipId) : (s.fenceColls f).pending = s.pending := by
  simp [State.fenceColls]

end Sys2Proof.Machine
end

section
/-!
SUPPORT for O41. The queue of waiting commands is left alone by rounds, resets and the chime:
one lemma per function of the model, in the order of its files. Only what puts commands in the queue writes that field, so each lemma is
a case split and the lemmas before it.
-/
namespace Sys2Proof.Machine

/-! ### The hall registers -/

@[simp] theorem State.reply_pending (s : State) (h : OrderHdr) (code : BitVec 8) (res : Result) (body : ReplyBody) :
    (s.reply h code res body).pending = s.pending :=
  State.pending_of_beat (State.reply_beat ..)

@[simp] theorem State.replyBare_pending (s : State) (src : Nat) (code : BitVec 8) (seq : BitVec 32) (res : Result) (body : ReplyBody) :
    (s.replyBare src code seq res body).pending = s.pending := by
  simp [State.replyBare]

@[simp] theorem State.bulkFinal_pending (s : State) (b : Bulk) (res : Result) (count : Nat) : (s.bulkFinal b res count).pending = s.pending :=
  State.pending_of_beat (State.bulkFinal_beat ..)

@[simp] theorem State.readImage_pending (s : State) (a : Nat) : (s.readImage a).2.pending = s.pending :=
  (State.readImage_keeps ..).pending

@[simp] theorem State.loadComb_pending (s : State) (c : CombId) (im : Image) : (s.loadComb c im).pending = s.pending :=
  (State.pending_of_still (s.loadComb_still c im)).trans rfl

@[simp] theorem State.findCols_pending (s : State) (p : Nat) (cols : BitVec 32) (failed : Bool) : (s.findCols p cols failed).pending = s.pending := by
  simp [State.findCols]

/-! ### Commit rounds -/

@[simp] theorem State.sendRound_pending (s : State) (kind : Nat) (dst : ChipId) (step : W64) (v : Bool) (c : W64) (decider : ChipId) (deputy : Bool) :
    (s.sendRound kind dst step v c decider deputy).pending = s.pending :=
  State.pending_of_unsent (State.sendRound_unsent ..)

@[simp] theorem State.modRound_pending (s : State) (f : Round → Round) : (s.modRound f).pending = s.pending :=
  State.pending_of_offRound (State.modRound_offRound ..)

@[simp] theorem State.needRound_pending (s : State) : s.needRound.pending = s.pending :=
  State.pending_of_offRound (State.needRound_offRound ..)

@[simp] theorem State.holdDecision_pending (s : State) (v : Bool) (c : W64) : (s.holdDecision v c).pending = s.pending :=
  State.pending_of_offRound (State.holdDecision_offRound ..)

@[simp] theorem State.announce_pending (s : State) (w : Verdict) : (s.announce w).pending = s.pending :=
  State.pending_of_offRound (State.announce_offRound ..)

@[simp] theorem State.lodgeOut_pending (s : State) (w : Verdict) : (s.lodgeOut w).pending = s.pending :=
  State.pending_of_offRound (State.lodgeOut_offRound ..)

@[simp] theorem State.makeDecision_pending (s : State) (v : Bool) : (s.makeDecision v).pending = s.pending :=
  State.pending_of_offRound (State.makeDecision_offRound ..)

@[simp] theorem State.decideRound_pending (s : State) : s.decideRound.pending = s.pending :=
  State.pending_of_offRound (State.decideRound_offRound ..)

@[simp] theorem State.roundFor_pending (s : State) : s.roundFor.pending = s.pending :=
  State.pending_of_offRound (State.roundFor_offRound ..)

@[simp] theorem State.sendVote_pending (s : State) (r : Round) (v : Bool) (m : ChipId) (deputy : Bool) :
    (s.sendVote r v m deputy).pending = s.pending :=
  State.pending_of_offRound (State.sendVote_offRound ..)

@[simp] theorem State.formVote_pending (s : State) : s.formVote.pending = s.pending :=
  State.pending_of_beat (State.formVote_beat ..)

@[simp] theorem State.combVote_pending (s : State) (c : CombId) (v : Bool) : (s.combVote c v).pending = s.pending :=
  State.pending_of_offRound (State.combVote_offRound ..)

@[simp] theorem State.onVote_pending (s : State) (d : Drop) : (s.onVote d).pending = s.pending := by
  unfold State.onVote
  dsimp only
  repeat' split
  all_goals simp

@[simp] theorem State.onLodge_pending (s : State) (d : Drop) : (s.onLodge d).pending = s.pending := by
  simp [State.onLodge]

@[simp] theorem State.onLodged_pending (s : State) (d : Drop) : (s.onLodged d).pending = s.pending := by
  unfold State.onLodged
  split <;> simp

@[simp] theorem State.onDecide_pending (s : State) (d : Drop) : (s.onDecide d).pending = s.pending := by
  simp [State.onDecide]

@[simp] theorem State.roundFenced_pending (s : State) : s.roundFenced.pending = s.pending := by
  unfold State.roundFenced
  split <;> simp

@[simp] theorem State.endRound_pending (s : State) : s.endRound.pending = s.pending := by
  simp [State.endRound]

/-! ### Resets -/

@[simp] theorem State.noteReset_pending (s : State) (kind cause n : Nat) : (s.noteReset kind cause n).pending = s.pending :=
  State.pending_of_beat (State.noteReset_beat ..)

@[simp] theorem State.faultBit_pending (s : State) (i : Nat) : (s.faultBit i).pending = s.pending := by
  simp [State.faultBit]

@[simp] theorem State.reloadAll_pending (s : State) : s.reloadAll.pending = s.pending :=
  State.pending_of_beat (State.reloadAll_beat ..)

@[simp] theorem State.freePins_pending (s : State) : s.freePins.pending = s.pending :=
  State.pending_of_beat (State.freePins_beat ..)

@[simp] theorem State.answerJobs_pending (s : State) (r : Result) : (s.answerJobs r).pending = s.pending :=
  State.pending_of_beat (State.answerJobs_beat ..)

@[simp] theorem State.answerSwitches_pending (s : State) (r : Result) : (s.answerSwitches r).pending = s.pending :=
  State.pending_of_beat (State.answerSwitches_beat ..)

@[simp] theorem State.enterFenced_pending (s : State) : s.enterFenced.pending = s.pending :=
  State.pending_of_pulse (State.enterFenced_pulse ..)

@[simp] theorem State.remapAt_pending (s : State) (c : CombId) (cause : BitVec 8) : (s.remapAt c cause).pending = s.pending := by
  simp [State.remapAt]

@[simp] theorem State.retire_pending (s : State) (c : CombId) (cause : BitVec 8) : (s.retire c cause).pending = s.pending := by
  simp [State.retire]

@[simp] theorem State.bypass_pending (s : State) (c : CombId) (cols : BitVec 32) : (s.bypass c cols).pending = s.pending := by
  simp [State.bypass]

@[simp] theorem State.seqRetry_pending (s : State) (c : CombId) (istore : Bool) (addr : BitVec 18) :
    (s.seqRetry c istore addr).pending = s.pending := by
  simp [State.seqRetry]

@[simp] theorem State.closeSlots_pending (s : State) (lost : Bool) : (s.closeSlots lost).pending = s.pending :=
  (State.closeSlots_keeps ..).pending

@[simp] theorem State.noteRefused_pending (s : State) : s.noteRefused.pending = s.pending := by
  simp [State.noteRefused]

@[simp] theorem State.coreReset_pending (s0 : State) (cause : Nat) (hold : ResetHold) : (s0.coreReset cause hold).pending = s0.pending := by
  simp [State.coreReset]

/-! ### What a chime does -/

@[simp] theorem State.quiesceDecided_pending (s : State) (v : W64) (go : Bool) : (s.quiesceDecided v go).pending = s.pending :=
  State.pending_of_beat (State.quiesceDecided_beat ..)

@[simp] theorem State.quiesceTry_pending (s : State) (v : W64) : (s.quiesceTry v).pending = s.pending :=
  State.pending_of_beat (State.quiesceTry_beat ..)

@[simp] theorem State.holdQuiesce_pending (s : State) (v : W64) (m : ChipId) (x : Bool) : (s.holdQuiesce v m x).pending = s.pending :=
  State.pending_of_beat (State.holdQuiesce_beat ..)

@[simp] theorem State.quiesceFenced_pending (s : State) : s.quiesceFenced.pending = s.pending := by
  simp [State.quiesceFenced]

@[simp] theorem State.useHeard_pending (s : State) : s.useHeard.pending = s.pending :=
  (congrArg (fun b : Beat => b.pulse.pending) s.useHeard_beat).trans rfl

@[simp] theorem State.emit_pending (s : State) (l : LinkId) (x : SymOut) : (s.emit l x).pending = s.pending := by
  simp [State.emit]

@[simp] theorem State.atChime_pending (s : State) (n : W64) (t : Nat) : (s.atChime n t).pending = s.pending :=
  calc (s.atChime n t).pending
    _ = (s.atChime n t).pulse.pending := rfl
    _ = ((s.relinked.flipAndCommit n).pulse.settled n).pending := by rw [State.atChime_pulse]
    _ = (s.relinked.flipAndCommit n).pulse.outer.pending := rfl
    _ = s.relinked.pulse.pending := by rw [State.flipAndCommit_outer]; rfl
    _ = s.pending := State.pending_of_beat s.relinked_beat

@[simp] theorem State.nextChime_pending (s : State) : s.nextChime.pending = s.pending := by
  unfold State.nextChime
  split
  · rfl
  · simp

/-! ### The chime and its end -/

theorem execChime_goes (s : State) : s.Goes (execChime s) := by
  simp [execChime]

theorem execArraySelftestDone_goes (c : CombId) (x : SelftestResult) (s : State) : s.Goes (execArraySelftestDone c x s) := by
  unfold execArraySelftestDone
  repeat' split
  all_goals simp

end Sys2Proof.Machine
end

section
/-!
SUPPORT for O41. The queue of waiting commands is left alone by drops, collectives and the words of a comb:
one lemma per function of the model, in the order of its files. Only what puts commands in the queue writes that field, so each lemma is
a case split and the lemmas before it.
-/
namespace Sys2Proof.Machine

/-! ### Drops that arrive -/

theorem State.onDrop_eq (s : State) (d : Drop) (ty : Nat) (f : State → State) : s.onDrop d ty f = f (s.taken d) ∨ s.onDrop d ty f = s := by
  unfold State.onDrop
  split
  · exact .inl rfl
  · exact .inr rfl

@[simp] theorem State.onDrop_pending (s : State) (d : Drop) (ty : Nat) {f : State → State} (hf : ∀ t : State, (f t).pending = t.pending) :
    (s.onDrop d ty f).pending = s.pending := by
  unfold State.onDrop
  split
  · rw [hf, State.taken_pending]
  · rfl

@[simp] theorem State.replicate_pending (s : State) (d : Drop) (ty : Nat) : (s.replicate d ty).pending = s.pending := by
  unfold State.replicate
  repeat' split
  all_goals simp

@[simp] theorem State.voteAgain_pending (s : State) (d : Drop) (deputy : Bool) : (s.voteAgain d deputy).pending = s.pending := by
  unfold State.voteAgain
  repeat' split
  all_goals simp

@[simp] theorem State.consFenced_pending (s : State) (x : Cons) (m : ChipId) : (s.consFenced x m).pending = s.pending := by
  unfold State.consFenced
  split <;> simp

@[simp] theorem State.consFailed_pending (s : State) (x : Cons) : (s.consFailed x).pending = s.pending := by
  unfold State.consFailed
  dsimp only
  repeat' split
  all_goals simp

@[simp] theorem State.consError_pending (s : State) (x : Cons) (m : ChipId) : (s.consError x m).pending = s.pending := by
  unfold State.consError
  split <;> simp

@[simp] theorem State.consAck_pending (s : State) (x : Cons) (m : ChipId) (b : Nat) : (s.consAck x m b).pending = s.pending := by
  simp [State.consAck]

theorem execData_goes (d : Drop) (s : State) : s.Goes (execData d s) := by
  simp [execData]

theorem execManifest_goes (d : Drop) (s : State) : s.Goes (execManifest d s) := by
  simp [execManifest]

theorem execMdata_goes (d : Drop) (s : State) : s.Goes (execMdata d s) := by
  simp [execMdata]

theorem execMmanifest_goes (d : Drop) (s : State) : s.Goes (execMmanifest d s) := by
  simp [execMmanifest]

theorem execGetreq_goes (d : Drop) (s : State) : s.Goes (execGetreq d s) := by
  refine State.goes_next.2 (ite_pending _ _ _ _ rfl ?_)
  obtain h | h := s.onDrop_eq d 5 fun t => t.onGetreq d
  · rw [h, State.onGetreq_pending, State.taken_pending]
  · rw [h]

theorem execRdata_goes (d : Drop) (s : State) : s.Goes (execRdata d s) := by
  simp [execRdata]

theorem execAck_goes (d : Drop) (s : State) : s.Goes (execAck d s) := by
  refine State.goes_next.2 (s.onDrop_pending d 7 fun t => ?_)
  split
  · exact t.consAck_pending _ _ _
  · rfl

theorem execDone_goes (d : Drop) (s : State) : s.Goes (execDone d s) := by
  refine State.goes_next.2 (s.onDrop_pending d 8 fun t => ?_)
  split
  · exact t.memberDone_pending _ _ _
  · rfl

theorem execError_goes (d : Drop) (s : State) : s.Goes (execError d s) := by
  refine State.goes_next.2 (s.onDrop_pending d 9 fun t => ?_)
  split
  · exact t.consError_pending _ _
  · rfl

theorem execFenced_goes (d : Drop) (s : State) : s.Goes (execFenced d s) := by
  refine State.goes_next.2 (s.onDrop_pending d 0xA fun t => ?_)
  split
  · exact t.consFenced_pending _ _
  · rfl

theorem execRetxTimeout_goes (k : PeerKey) (cid : BitVec 13) (s : State) : s.Goes (execRetxTimeout k cid s) := by
  unfold execRetxTimeout
  split <;> simp

/-! ### Collectives and barriers -/

theorem execCollAdmission_goes (s : State) : s.Goes (execCollAdmission s) := by
  unfold execCollAdmission
  dsimp only
  repeat' split
  all_goals simp

theorem State.rxOnDrop_pending (s : State) (d : Drop) (ty : Nat) {f : State → State} (hf : ∀ t : State, (f t).pending = t.pending) :
    (s.onDrop d ty fun t => let r := t.rxSingle d; if r.2 then f r.1 else r.1).pending = s.pending := by
  refine s.onDrop_pending d ty fun t => ?_
  dsimp only
  split
  · rw [hf, State.rxSingle_pending]
  · exact t.rxSingle_pending d

@[simp] theorem State.onColl_pending (s : State) (d : Drop) (kind : Nat) {f : State → State} (hf : ∀ t : State, (f t).pending = t.pending) :
    (s.onColl d kind f).pending = s.pending := by
  unfold State.onColl
  split
  · exact s.rxOnDrop_pending d 0xB hf
  · rfl

@[simp] theorem State.stage_pending (s : State) (d : Drop) : (s.stage d).pending = s.pending := by
  simp [State.stage]

theorem execSign_goes (d : Drop) (s : State) : s.Goes (execSign d s) := by
  refine State.goes_next.2 (s.onColl_pending d 1 fun t => ?_)
  dsimp only
  split
  · exact t.matchSign_pending _ _
  · repeat' split
    all_goals simp

theorem execGrant_goes (d : Drop) (s : State) : s.Goes (execGrant d s) := by
  refine State.goes_next.2 (s.onColl_pending d 2 fun t => ?_)
  split
  · exact t.takeGrant_pending _ _
  · split <;> simp

theorem execAbort_goes (d : Drop) (s : State) : s.Goes (execAbort d s) := by
  refine State.goes_next.2 (s.onColl_pending d 4 fun t => ?_)
  dsimp only
  split
  · repeat' split
    all_goals simp
  · split <;> simp

theorem execArrive_goes (d : Drop) (s : State) : s.Goes (execArrive d s) := by
  refine State.goes_next.2 (s.onColl_pending d 5 fun t => ?_)
  dsimp only
  repeat' split
  all_goals simp

@[simp] theorem State.releaseBar_pending (s : State) (b : BarInst) : (s.releaseBar b).pending = s.pending := by
  simp [State.releaseBar]

theorem execRelease_goes (d : Drop) (s : State) : s.Goes (execRelease d s) := by
  refine State.goes_next.2 (s.onColl_pending d 6 fun t => ?_)
  dsimp only
  split
  · split <;> simp
  · rfl

theorem execBarrierRelease_goes (g : BitVec 8) (s : State) : s.Goes (execBarrierRelease g s) := by
  unfold execBarrierRelease
  split <;> simp

@[simp] theorem State.spillSums_pending (s : State) (k : CollInst) (its : List Nat) (ovf : Nat) : (s.spillSums k its ovf).pending = s.pending := by
  obtain ⟨region, hregion⟩ : ∃ r, r = s.region := ⟨_, rfl⟩
  obtain ⟨place, hplace⟩ : ∃ p, p = s.spillAddr k := ⟨_, rfl⟩
  unfold State.spillSums
  rw [← hregion, ← hplace]
  split
  · rfl
  next o _ =>
    have hfold : (its.foldl (fun (t : State) i => (t.draw.2.store (place o i) (leBytes 8 t.draw.1.toNat) false)) s).pending = s.pending :=
      foldl_pending _ its s fun t i => State.store_pending _ _ _ _
    split
    · exact hfold
    · exact hfold

@[simp] theorem State.segWhole_pending (s1 : State) (k1 : CollInst) (st : Nat × Pat) (m seg : Nat) (its : List Nat) (f : Flow) (bs : List Byte) :
    (s1.segWhole k1 st m seg its f bs).pending = s1.pending := by
  simp [State.segWhole]

@[simp] theorem State.segDrop_pending (s : State) (k : CollInst) (st : Nat × Pat) (m : Nat) (d : Drop) :
    (s.segDrop k st m d).pending = s.pending := by
  unfold State.segDrop
  split <;> simp

theorem execCollData_goes (d : Drop) (s : State) : s.Goes (execCollData d s) := by
  refine State.goes_next.2 (ite_pending _ _ _ _ (s.onDrop_pending d 0xB fun t => ?_) rfl)
  split
  · exact t.discFull_pending
  next t1 ht1 =>
    rw [← State.entryFor_pending ht1]
    extract_lets dup
    split
    · exact (State.answer_pending _ _ _ _ _).trans t1.discDup_pending
    split
    · rfl
    split
    · split <;> simp
    · exact t1.discHdr_pending

theorem execCollCompletion_goes (g : BitVec 8) (s : State) : s.Goes (execCollCompletion g s) := by
  unfold execCollCompletion
  dsimp only
  repeat' split
  all_goals simp

/-! ### Quiesce and commit drops -/

@[simp] theorem State.onSync_pending (s : State) (d : Drop) (kind : Nat) {f : State → State} (hf : ∀ t : State, (f t).pending = t.pending) :
    (s.onSync d kind f).pending = s.pending := by
  unfold State.onSync
  split
  · exact s.rxOnDrop_pending d 0xC hf
  · rfl

theorem execQvote_goes (d : Drop) (s : State) : s.Goes (execQvote d s) :=
  State.goes_next.2 (s.onSync_pending d 1 fun t => t.holdQuiesce_pending _ _ _)

theorem execQdecide_goes (d : Drop) (s : State) : s.Goes (execQdecide d s) :=
  State.goes_next.2 (s.onSync_pending d 2 fun t => t.quiesceDecided_pending _ _)

theorem execVote_goes (d : Drop) (s : State) : s.Goes (execVote d s) :=
  State.goes_next.2 (s.onSync_pending d 8 fun t => t.onVote_pending d)

theorem execLodge_goes (d : Drop) (s : State) : s.Goes (execLodge d s) :=
  State.goes_next.2 (s.onSync_pending d 9 fun t => t.onLodge_pending d)

theorem execLodged_goes (d : Drop) (s : State) : s.Goes (execLodged d s) :=
  State.goes_next.2 (s.onSync_pending d 0xA fun t => t.onLodged_pending d)

theorem execDecide_goes (d : Drop) (s : State) : s.Goes (execDecide d s) :=
  State.goes_next.2 (s.onSync_pending d 0xB fun t => t.onDecide_pending d)

theorem execCommitDeadline_goes (s : State) : s.Goes (execCommitDeadline s) := by
  unfold execCommitDeadline
  split <;> simp

theorem execCommitUndecided_goes (s : State) : s.Goes (execCommitUndecided s) := by
  unfold execCommitUndecided
  split <;> simp

/-! ### The issue of tensor words -/

@[simp] theorem State.seqMark_pending (s : State) (k : TKind) (f : TForm) : (s.seqMark k f).pending = s.pending := by
  simp [State.seqMark]

@[simp] theorem State.fabricIssued_pending (s : State) (c : CombId) (k : TKind) (e : QEntry) : (s.fabricIssued c k e).pending = s.pending := by
  unfold State.fabricIssued
  split <;> simp

@[simp] theorem State.enterQueue_pending (s : State) (c : CombId) (k : TKind) (f : TForm) : (s.enterQueue c k f).pending = s.pending := by
  simp [State.enterQueue]

@[simp] theorem State.tryTensor_pending (s : State) (c : CombId) (k : TKind) (f : TForm) : (s.tryTensor c k f).pending = s.pending := by
  unfold State.tryTensor
  split <;> simp

@[simp] theorem State.issueT_pending (s : State) (c : CombId) (k : TKind) (f : TForm) : (s.issueT c k f).pending = s.pending := by
  simp [State.issueT]

@[simp] theorem State.queueEntry_pending (s : State) (c : CombId) : (s.queueEntry c).pending = s.pending := by
  unfold State.queueEntry
  dsimp only
  repeat' split
  all_goals simp

/-! ### Control words of a comb -/

theorem execBr_goes (c : CombId) (f : SForm) (s : State) : s.Goes (execBr c f s) := by
  simp [execBr]

theorem execJmp_goes (c : CombId) (f : SForm) (s : State) : s.Goes (execJmp c f s) := by
  simp [execJmp]

theorem execCall_goes (c : CombId) (f : SForm) (s : State) : s.Goes (execCall c f s) := by
  simp [execCall]

theorem execRet_goes (c : CombId) (f : SForm) (s : State) : s.Goes (execRet c f s) := by
  simp [execRet]

theorem execLoop_goes (c : CombId) (f : SForm) (s : State) : s.Goes (execLoop c f s) := by
  refine State.goes_next.2 (State.issueS_pending _ _ _ _ _ ?_)
  dsimp only
  split
  · exact State.issueFault_pending _ _ _
  · simp only [State.pending_ite, State.modSeq_pending, ite_self]

theorem execWait_goes (c : CombId) (f : SForm) (s : State) : s.Goes (execWait c f s) :=
  State.goes_next.2 (State.issueS_pending _ _ _ _ _ rfl)

theorem execWaitRelease_goes (c : CombId) (s : State) : s.Goes (execWaitRelease c s) := by
  simp [execWaitRelease]

theorem execFence_goes (c : CombId) (f : SForm) (s : State) : s.Goes (execFence c f s) :=
  State.goes_next.2 (State.issueS_pending _ _ _ _ _ rfl)

theorem execFenceRelease_goes (c : CombId) (s : State) : s.Goes (execFenceRelease c s) := by
  simp [execFenceRelease]

theorem execHalt_goes (c : CombId) (f : SForm) (s : State) : s.Goes (execHalt c f s) :=
  State.goes_next.2 (State.issueS_pending _ _ _ _ _ rfl)

theorem execHaltDrained_goes (c : CombId) (s : State) : s.Goes (execHaltDrained c s) := by
  simp [execHaltDrained]

theorem execFaultDrained_goes (c : CombId) (s : State) : s.Goes (execFaultDrained c s) := by
  simp [execFaultDrained]

theorem execCsrr_goes (c : CombId) (f : SForm) (s : State) : s.Goes (execCsrr c f s) := by
  unfold execCsrr
  split <;> simp

theorem execCsrw_goes (c : CombId) (f : SForm) (s : State) : s.Goes (execCsrw c f s) := by
  unfold execCsrw
  split <;> simp

theorem execInstructionFetch_goes (c : CombId) (u : Upset) (s : State) : s.Goes (execInstructionFetch c u s) := by
  unfold execInstructionFetch
  dsimp only
  repeat' split
  all_goals simp

theorem execLockstep_goes (c : CombId) (s : State) : s.Goes (execLockstep c s) := by
  simp [execLockstep]

theorem execQueueEntry_goes (c : CombId) (s : State) : s.Goes (execQueueEntry c s) := by
  simp [execQueueEntry]

/-! ### The courier -/

theorem execCpy_goes (c : CombId) (f : TForm) (s : State) : s.Goes (execCpy c f s) := by
  simp [execCpy]

theorem execGather_goes (c : CombId) (f : TForm) (s : State) : s.Goes (execGather c f s) := by
  simp [execGather]

theorem execScatter_goes (c : CombId) (f : TForm) (s : State) : s.Goes (execScatter c f s) := by
  simp [execScatter]

theorem execSeal_goes (c : CombId) (f : TForm) (s : State) : s.Goes (execSeal c f s) := by
  simp [execSeal]

theorem execAmo_goes (c : CombId) (f : TForm) (s : State) : s.Goes (execAmo c f s) := by
  simp [execAmo]

theorem execCourierAccept_goes (c : CombId) (s : State) : s.Goes (execCourierAccept c s) := by
  unfold execCourierAccept
  repeat' split
  all_goals simp

theorem execCourierCompletion_goes (c : CombId) (i : Nat) (s : State) : s.Goes (execCourierCompletion c i s) := by
  unfold execCourierCompletion
  split <;> simp

@[simp] theorem State.bulkSealed_pending (s : State) (r : SealReq) : (s.bulkSealed r).pending = s.pending := by
  unfold State.bulkSealed
  repeat' split
  all_goals simp

theorem execSealEngineServe_goes (e : Fin 26) (s : State) : s.Goes (execSealEngineServe e s) := by
  unfold execSealEngineServe
  repeat' split
  all_goals simp

/-! ### Descriptor words -/

theorem execDset_goes (c : CombId) (f : SForm) (s : State) : s.Goes (execDset c f s) := by
  refine State.goes_next.2 (State.issueS_pending _ _ _ _ _ ?_)
  dsimp only
  split
  · exact State.issueFault_pending _ _ _
  · rfl

theorem execDld_goes (c : CombId) (f : SForm) (s : State) : s.Goes (execDld c f s) := by
  simp [execDld]

theorem execDst_goes (c : CombId) (f : SForm) (s : State) : s.Goes (execDst c f s) := by
  simp [execDst]

/-! ### The extractor -/

theorem execMx_goes (c : CombId) (f : TForm) (s : State) : s.Goes (execMx c f s) := by
  simp [execMx]

theorem execExtractorAccept_goes (c : CombId) (s : State) : s.Goes (execExtractorAccept c s) := by
  unfold execExtractorAccept
  dsimp only
  repeat' split
  all_goals simp

theorem execMxCompletion_goes (c : CombId) (s : State) : s.Goes (execMxCompletion c s) := by
  unfold execMxCompletion
  split <;> simp

/-! ### Words and times of the fabric interface -/

theorem execPut_goes (c : CombId) (f : TForm) (s : State) : s.Goes (execPut c f s) := by
  simp [execPut]

theorem execGet_goes (c : CombId) (f : TForm) (s : State) : s.Goes (execGet c f s) := by
  simp [execGet]

theorem execMcast_goes (c : CombId) (f : TForm) (s : State) : s.Goes (execMcast c f s) := by
  simp [execMcast]

theorem execColl_goes (c : CombId) (f : TForm) (s : State) : s.Goes (execColl c f s) := by
  simp [execColl]

theorem execBar_goes (c : CombId) (f : TForm) (s : State) : s.Goes (execBar c f s) := by
  simp [execBar]

theorem execConsignmentStart_goes (c : CombId) (s : State) : s.Goes (execConsignmentStart c s) := by
  unfold execConsignmentStart
  repeat' split
  all_goals simp

end Sys2Proof.Machine
end

section
/-!
SUPPORT for O41. The queue of waiting commands is left alone by links, the matrix unit, memory and the judging of orders:
one lemma per function of the model, in the order of its files. Only what puts commands in the queue writes that field, so each lemma is
a case split and the lemmas before it.
-/
namespace Sys2Proof.Machine

/-! ### Link commands -/

theorem execCodeword_goes (l : LinkId) (w : CodewordIn) (s : State) : s.Goes (execCodeword l w s) := by
  simp [execCodeword]

theorem execControlWord_goes (l : LinkId) (w : BitVec 64) (s : State) : s.Goes (execControlWord l w s) := by
  simp [execControlWord]

theorem execNak_goes (l : LinkId) (n : BitVec 16) (s : State) : s.Goes (execNak l n s) := by
  simp [execNak]

theorem execIdent_goes (l : LinkId) (x : IdentSym) (s : State) : s.Goes (execIdent l x s) := by
  simp [execIdent]

theorem execReplayStall_goes (l : LinkId) (s : State) : s.Goes (execReplayStall l s) := by
  simp [execReplayStall]

theorem execLaneFailure_goes (l : LinkId) (lane : Fin 8) (s : State) : s.Goes (execLaneFailure l lane s) := by
  simp [execLaneFailure]

theorem execSpare_goes (l : LinkId) (x : SpareSym) (s : State) : s.Goes (execSpare l x s) := by
  simp [execSpare]

theorem execSpareSwitch_goes (l : LinkId) (rx : Bool) (s : State) : s.Goes (execSpareSwitch l rx s) := by
  simp [execSpareSwitch]

theorem execLinkFailure_goes (l : LinkId) (s : State) : s.Goes (execLinkFailure l s) := by
  simp [execLinkFailure]

theorem execLinkRetry_goes (port : Fin 6) (n : Fin 4) (s : State) : s.Goes (execLinkRetry port n s) := by
  simp [execLinkRetry]

theorem execLinkPhaseDone_goes (l : LinkId) (x : PhaseEnd) (s : State) : s.Goes (execLinkPhaseDone l x s) := by
  simp [execLinkPhaseDone]

/-! ### The matrix unit -/

theorem execMshape_goes (c : CombId) (f : TForm) (s : State) : s.Goes (execMshape c f s) := by
  simp [execMshape]

theorem execMhold_goes (c : CombId) (f : TForm) (s : State) : s.Goes (execMhold c f s) := by
  simp [execMhold]

theorem execMmul_goes (c : CombId) (f : TForm) (s : State) : s.Goes (execMmul c f s) := by
  simp [execMmul]

@[simp] theorem State.setMat_pending (s : State) (c : CombId) (l : List QEntry) : (s.setMat c l).pending = s.pending := by
  simp [State.setMat]

theorem execArrayAccept_goes (c : CombId) (s : State) : s.Goes (execArrayAccept c s) := by
  unfold execArrayAccept
  dsimp only
  repeat' split
  all_goals simp

theorem execMholdFillDone_goes (c : CombId) (s : State) : s.Goes (execMholdFillDone c s) := by
  unfold execMholdFillDone
  split <;> simp

theorem execMatrixCompletion_goes (c : CombId) (mm : Option Mismatch) (s : State) : s.Goes (execMatrixCompletion c mm s) := by
  unfold execMatrixCompletion
  repeat' split
  all_goals simp

/-! ### Memory commands -/

theorem execHbmRetrainStart_goes (x : RetrainIn) (s : State) : s.Goes (execHbmRetrainStart x s) := by
  unfold execHbmRetrainStart
  dsimp only
  repeat' split
  all_goals simp

theorem execHbmRetrainEnd_goes (m : McId) (finished : Bool) (s : State) : s.Goes (execHbmRetrainEnd m finished s) := by
  simp [execHbmRetrainEnd]

theorem execHbmRefresh_goes (m : McId) (temp : BitVec 8) (s : State) : s.Goes (execHbmRefresh m temp s) := by
  simp [execHbmRefresh]

theorem execMergeSlotClose_goes (m : McId) (page : Nat) (s : State) : s.Goes (execMergeSlotClose m page s) := by
  simp [execMergeSlotClose]

@[simp] theorem State.strikeSector_pending (s : State) (sector : Nat) (data : BitVec 512) (crc : BitVec 32) :
    (s.strikeSector sector data crc).pending = s.pending := by
  unfold State.strikeSector
  split <;> simp

@[simp] theorem State.strikeHbm_pending (s : State) (x : HbmStrike) : (s.strikeHbm x).pending = s.pending := by
  simp [State.strikeHbm]

theorem execHbmSweep_goes (m : McId) (struck : HbmStrike) (s : State) : s.Goes (execHbmSweep m struck s) := by
  refine State.goes_next.2 ?_
  extract_lets s1 c page ends
  have h1 : s1.pending = s.pending := s.strikeHbm_pending struck
  split
  · exact h1
  · exact (State.modMc_pending _ _ _).trans ((s1.checkPage_pending page).trans h1)

theorem execRecodePage_goes (m : McId) (s : State) : s.Goes (execRecodePage m s) := by
  refine State.goes_next.2 ?_
  dsimp only
  split
  · rfl
  split
  · rfl
  split
  · exact s.modMc_pending m _
  · rw [State.modMc_pending, State.putParity_pending, State.checkPage_pending]
    split
    · exact s.closeSlot_pending _ _ _
    · rfl

@[simp] theorem State.strikeSram_pending (s : State) (base line : Nat) (struck : List (Nat × Upset)) :
    (s.strikeSram base line struck).pending = s.pending := by
  simp [State.strikeSram]

@[simp] theorem State.sweepLine_pending (s : State) (u : SweepUnit) (a : Nat) : (s.sweepLine u a).pending = s.pending := by
  simp [State.sweepLine]

theorem execCombStoreSweep_goes (c : CombId) (line : Nat) (struck : List (Nat × Upset)) (s : State) :
    s.Goes (execCombStoreSweep c line struck s) := by
  simp [execCombStoreSweep]

theorem execSquareStoreSweep_goes (q : SqId) (line : Nat) (struck : List (Nat × Upset)) (s : State) :
    s.Goes (execSquareStoreSweep q line struck s) := by
  simp [execSquareStoreSweep]

theorem execAtomicOperation_goes (u : Nat) (s : State) : s.Goes (execAtomicOperation u s) := by
  unfold execAtomicOperation
  split <;> simp

/-! ### Boot -/

@[simp] theorem State.selectProfile_pending (s : State) : s.selectProfile.pending = s.pending := by
  simp [State.selectProfile]

@[simp] theorem State.applyKeys_pending (s : State) : s.applyKeys.pending = s.pending := by
  unfold State.applyKeys
  split <;> simp

@[simp] theorem State.midBoot_pending (s : State) : s.midBoot.pending = s.pending := by
  simp [State.midBoot]

@[simp] theorem State.cutClear_pending (s : State) : s.cutClear.pending = s.pending := by
  unfold State.cutClear
  split <;> simp

@[simp] theorem State.blank_pending (s0 : State) : s0.blank.pending = s0.pending := by
  simp [State.blank]

@[simp] theorem State.fullReset_pending (s : State) (cause : Nat) (pins : BitVec 2) (hold : ResetHold) :
    (s.fullReset cause pins hold).pending = s.pending := by
  simp [State.fullReset]

@[simp] theorem State.powerOff_pending (s : State) : s.powerOff.pending = s.pending := by
  simp [State.powerOff]

@[simp] theorem State.coreEvent_pending (s : State) (cause : Nat) (hold : ResetHold) : (s.coreEvent cause hold).pending = s.pending := by
  unfold State.coreEvent
  repeat' split
  all_goals simp

@[simp] theorem State.verifyBank_pending (s0 : State) : s0.verifyBank.pending = s0.pending := by
  simp [State.verifyBank]

@[simp] theorem State.supplyUp_pending (s : State) (vin : Nat) : (s.supplyUp vin).pending = s.pending := by
  simp [State.supplyUp]

@[simp] theorem State.earlyWrite_pending (s : State) (r : Reg) (v : W64) : (s.earlyWrite r v).pending = s.pending := by
  unfold State.earlyWrite
  split <;> simp

@[simp] theorem State.applyStaged_pending (s : State) : s.applyStaged.pending = s.pending := by
  simp [State.applyStaged]

@[simp] theorem State.coreBoot_pending (s : State) (x : CombSelftest) : (s.coreBoot x).pending = s.pending := by
  simp [State.coreBoot]

@[simp] theorem State.closeBoot_pending (s : State) : s.closeBoot.pending = s.pending := by
  simp [State.closeBoot]

/-! ### The judging of orders -/

@[simp] theorem State.ethCount_pending (s : State) (lo : Nat) : (s.ethCount lo).pending = s.pending := by
  simp [State.ethCount]

@[simp] theorem State.ethDisc_pending (s : State) : s.ethDisc.pending = s.pending := by
  simp [State.ethDisc]

@[simp] theorem State.ethDup_pending (s : State) : s.ethDup.pending = s.pending := by
  simp [State.ethDup]

@[simp] theorem State.ethAuth_pending (s : State) : s.ethAuth.pending = s.pending := by
  simp [State.ethAuth]

@[simp] theorem State.ethRefused_pending (s : State) (code : BitVec 8) : (s.ethRefused code).pending = s.pending := by
  simp [State.ethRefused]

@[simp] theorem State.refuse_pending (s : State) (h : OrderHdr) (code : BitVec 8) (cached : Bool) (r : Result) (b : ReplyBody) :
    (s.refuse h code cached r b).pending = s.pending := by
  unfold State.refuse
  split <;> simp

@[simp] theorem State.judge_pending (s : State) (h : OrderHdr) (u : OrderRule) {run : State → State} (hrun : ∀ t : State, (run t).pending = t.pending) :
    (s.judge h u run).pending = s.pending := by
  unfold State.judge
  dsimp only
  repeat' split
  all_goals simp [hrun]

@[simp] theorem State.seated_pending (s : State) : s.seated.2.pending = s.pending := by
  unfold State.seated
  split <;> simp

@[simp] theorem State.order_pending (s : State) (h : OrderHdr) (u : OrderRule) {run : State → State} (hrun : ∀ t : State, (run t).pending = t.pending) :
    (s.order h u run).pending = s.pending := by
  unfold State.order
  rw [← s.seated_pending]
  extract_lets u1 u2
  split
  · rfl
  split
  · exact u1.ethDisc_pending
  split
  · exact u1.replyBare_pending _ _ _ _ _
  split
  · exact u1.judge_pending h u hrun
  split
  · exact u2.ethDup_pending
  split
  · exact (foldl_pending _ _ _ fun t r => t.sendReply_pending r).trans u2.ethDup_pending
  · exact u2.judge_pending h u hrun

@[simp] theorem State.renumber_pending (s : State) (f : ChipId) : (s.renumber f).pending = s.pending := by
  simp [State.renumber]

@[simp] theorem State.dropFrom_pending (s : State) (f : ChipId) : (s.dropFrom f).pending = s.pending := by
  simp [State.dropFrom]

@[simp] theorem State.fenceOne_pending (s : State) (f : ChipId) : (s.fenceOne f).pending = s.pending := by
  simp [State.fenceOne]

@[simp] theorem State.writeFence_pending (s : State) (w : Fin 4096) (v : W64) : (s.writeFence w v).pending = s.pending := by
  simp [State.writeFence]

@[simp] theorem State.startRecode_pending (s : State) (m : McId) (v : W64) : (s.startRecode m v).pending = s.pending := by
  unfold State.startRecode
  dsimp only
  repeat' split
  all_goals simp

@[simp] theorem State.writeLnkCtrl_pending (s : State) (l : LinkId) (v : W64) : (s.writeLnkCtrl l v).pending = s.pending := by
  simp [State.writeLnkCtrl]

@[simp] theorem State.tellLost_pending (s : State) : s.tellLost.pending = s.pending := by
  simp [State.tellLost]

@[simp] theorem State.orderWrite_pending (s : State) (r : Reg) (v : W64) : (s.orderWrite r v).pending = s.pending := by
  cases r
  case rteEpoch =>
    unfold State.orderWrite
    dsimp only
    split <;> rfl
  case rteFence w => exact s.writeFence_pending w v
  case chmRoot =>
    unfold State.orderWrite
    dsimp only
    split
    · exact s.earlyWrite_pending _ _
    · rfl
  case stpStep => exact (State.endRound_pending _).trans (s.writeReg_pending _ _)
  case memStrength m => exact s.startRecode_pending _ _
  case lnkCtrl l => exact s.writeLnkCtrl_pending _ _
  case ethNotify => exact (State.tellLost_pending _).trans (s.writeReg_pending _ _)
  case colCfg | colSpill | chmPending => rfl
  all_goals exact s.writeReg_pending _ v

@[simp] theorem State.hallWrite_pending (s : State) (table : Bool) (r : Option Reg) (v : W64) : (s.hallWrite table r v).1.pending = s.pending := by
  unfold State.hallWrite
  repeat' split
  all_goals simp

@[simp] theorem State.runWrites_pending (s : State) (h : OrderHdr) (code : BitVec 8) (table : Bool) (was : DevState) (i : Nat)
    (l : List (Option Reg × W64)) : (s.runWrites h code table was i l).pending = s.pending := by
  induction l generalizing s i with
  | nil => exact s.reply_pending _ _ _ _
  | cons x l ih =>
    unfold State.runWrites
    dsimp only
    split
    · rw [ih, State.hallWrite_pending]
    · exact s.refuse_pending _ _ _ _ _

@[simp] theorem State.writeRegs_pending (s : State) (h : OrderHdr) (table : Bool) (fields : List Nat) (ws : List (Option Reg × W64)) :
    (s.writeRegs h table fields ws).pending = s.pending := by
  simp [State.writeRegs]

/-! ### Consignments of bytes -/

@[simp] theorem State.putBulk_pending (s : State) (b : Bulk) : (s.putBulk b).pending = s.pending := by
  simp [State.putBulk]

@[simp] theorem State.dropBulk_pending (s : State) (b : Bulk) : (s.dropBulk b).pending = s.pending := by
  simp [State.dropBulk]

@[simp] theorem State.bulkDone_pending (s : State) (b : Bulk) : (s.bulkDone b).pending = s.pending := by
  simp [State.bulkDone]

@[simp] theorem State.takePiece_pending (s : State) (b : Bulk) (p : BulkPiece) : (s.takePiece b p).pending = s.pending := by
  simp [State.takePiece]

@[simp] theorem State.bulkPiece_pending (s : State) (h : OrderHdr) (p : BulkPiece) : (s.bulkPiece h p).pending = s.pending := by
  unfold State.bulkPiece
  split <;> simp

@[simp] theorem State.bulkExpire_pending (s : State) (src : Nat) (cid : BitVec 32) : (s.bulkExpire src cid).pending = s.pending := by
  unfold State.bulkExpire
  split <;> simp

@[simp] theorem State.bulkData_pending (s : State) (h : OrderHdr) (addr len : Nat) (cid : BitVec 32) :
    (s.bulkData h addr len cid).pending = s.pending := by
  simp [State.bulkData]

/-! ### The muster -/

@[simp] theorem State.beginElect_pending (s : State) : s.beginElect.pending = s.pending := by
  simp [State.beginElect]

@[simp] theorem State.timeSym_pending (s : State) : s.timeSym.2.pending = s.pending := by
  simp [State.timeSym]

@[simp] theorem State.sendTime_pending (s : State) (ls : List LinkId) : (s.sendTime ls).pending = s.pending := by
  simp [State.sendTime]

@[simp] theorem State.foreignBase_pending (s : State) (l : LinkId) : (s.foreignBase l).pending = s.pending := by
  simp [State.foreignBase]

@[simp] theorem State.phaseDone_pending (s : State) : s.phaseDone.pending = s.pending := by
  unfold State.phaseDone
  repeat' split
  all_goals simp

@[simp] theorem State.delayDone_pending (s : State) (l : LinkId) (xs : List Int) : (s.delayDone l xs).pending = s.pending := by
  simp [State.delayDone]

@[simp] theorem State.onEcho_pending (s : State) (l : LinkId) (x : EchoSym) : (s.onEcho l x).pending = s.pending := by
  simp [State.onEcho]

@[simp] theorem State.onPing_pending (s : State) (l : LinkId) (t1 : BitVec 64) : (s.onPing l t1).pending = s.pending := by
  simp [State.onPing]

@[simp] theorem State.startBase_pending (s : State) : s.startBase.pending = s.pending := by
  simp [State.startBase]

@[simp] theorem State.settle_pending (s : State) : s.settle.pending = s.pending := by
  unfold State.settle
  repeat' split
  all_goals simp

@[simp] theorem State.onElect_pending (s : State) (l : LinkId) (x : ElectSym) : (s.onElect l x).pending = s.pending := by
  simp [State.onElect]

@[simp] theorem State.onTime_pending (s : State) (l : LinkId) (x : TimeSym) : (s.onTime l x).pending = s.pending := by
  simp [State.onTime]

@[simp] theorem State.onChime_pending (s : State) (l : LinkId) (x : ChimeSym) (stamp : BitVec 70) : (s.onChime l x stamp).pending = s.pending := by
  simp [State.onChime]

@[simp] theorem State.succession_pending (s : State) : s.succession.pending = s.pending := by
  simp [State.succession]

end Sys2Proof.Machine
end

section
/-!
SUPPORT for O41. The queue of waiting commands is left alone by orders, power and register writes:
one lemma per function of the model, in the order of its files. Only what puts commands in the queue writes that field, so each lemma is
a case split and the lemmas before it.
-/
namespace Sys2Proof.Machine

/-! ### Orders of the Hall -/

theorem execStatus_goes (h : OrderHdr) (s : State) : s.Goes (execStatus h s) := by
  simp [execStatus]

@[simp] theorem State.runReads_pending (s : State) (h : OrderHdr) (i : Nat) (vs : List W64) (l : List (BitVec 48)) :
    (s.runReads h i vs l).pending = s.pending := by
  induction l generalizing s i vs with
  | nil => exact s.reply_pending _ _ _ _
  | cons a l ih =>
    unfold State.runReads
    split
    · exact s.refuse_pending _ _ _ _ _
    split
    · exact s.refuse_pending _ _ _ _ _
    · exact (ih _ _ _).trans (s.meter_pending _)

theorem execRegRead_goes (h : OrderHdr) (addrs : List (BitVec 48)) (s : State) : s.Goes (execRegRead h addrs s) := by
  simp [execRegRead]

theorem execRegWrite_goes (h : OrderHdr) (ws : List (BitVec 48 × BitVec 64)) (s : State) : s.Goes (execRegWrite h ws s) := by
  simp [execRegWrite]

theorem execTableWrite_goes (h : OrderHdr) (ws : List (BitVec 48 × BitVec 64)) (s : State) : s.Goes (execTableWrite h ws s) := by
  simp [execTableWrite]

theorem execBulkWrite_goes (h : OrderHdr) (b : BulkPiece) (s : State) : s.Goes (execBulkWrite h b s) := by
  simp [execBulkWrite]

theorem execBulkTimeout_goes (src : Nat) (cid : BitVec 32) (s : State) : s.Goes (execBulkTimeout src cid s) := by
  simp [execBulkTimeout]

theorem execBulkRead_goes (h : OrderHdr) (addr : BitVec 48) (len : BitVec 32) (cid : BitVec 32) (s : State) :
    s.Goes (execBulkRead h addr len cid s) := by
  simp [execBulkRead]

@[simp] theorem State.beginMuster_pending (s : State) : s.beginMuster.pending = s.pending := by
  simp [State.beginMuster]

theorem execMuster_goes (h : OrderHdr) (s : State) : s.Goes (execMuster h s) := by
  simp [execMuster]

theorem execLoad_goes (h : OrderHdr) (img : BitVec 48) (combs : BitVec 64) (s : State) : s.Goes (execLoad h img combs s) := by
  refine State.goes_next.2 (s.order_pending h _ fun t => ?_)
  dsimp only
  split
  · exact t.refuse_pending _ _ _ _ _
  have hread := t.readImage_pending img.toNat
  split
  next u hu => 
    rw [hu] at hread
    exact (u.refuse_pending _ _ _ _ _).trans hread
  next im t1 ht =>
    rw [ht] at hread
    refine (State.reply_pending _ _ _ _ _).trans ((foldl_pending _ _ t1 fun t c => ?_).trans hread)
    simp

theorem execLoadComplete_goes (seq : BitVec 32) (s : State) : s.Goes (execLoadComplete seq s) := by
  unfold execLoadComplete
  split <;> simp

theorem execStart_goes (h : OrderHdr) (combs : BitVec 64) (chime : BitVec 64) (v : Vector (BitVec 64) 8) (s : State) :
    s.Goes (execStart h combs chime v s) := by
  refine State.goes_next.2 (s.order_pending h _ fun t => ?_)
  dsimp only
  split
  · exact t.refuse_pending _ _ _ _ _
  · refine (State.reply_pending _ _ _ _ _).trans ((State.refresh_pending _).trans (foldl_pending _ _ t fun t c => ?_))
    simp

theorem execQuiesce_goes (h : OrderHdr) (chime : BitVec 64) (s : State) : s.Goes (execQuiesce h chime s) := by
  simp [execQuiesce]

theorem execResume_goes (h : OrderHdr) (chime : BitVec 64) (s : State) : s.Goes (execResume h chime s) := by
  simp [execResume]

theorem execNameRoot_goes (h : OrderHdr) (root deputy : BitVec 18) (base : BitVec 64) (s : State) : s.Goes (execNameRoot h root deputy base s) := by
  simp [execNameRoot]

@[simp] theorem State.resetLater_pending (s : State) (h : OrderHdr) (compute : Bool) (combs chime : W64) :
    (s.resetLater h compute combs chime).pending = s.pending := by
  simp [State.resetLater]

theorem execResetComb_goes (h : OrderHdr) (combs : BitVec 64) (chime : BitVec 64) (s : State) : s.Goes (execResetComb h combs chime s) := by
  simp [execResetComb]

theorem execResetCompute_goes (h : OrderHdr) (combs : BitVec 64) (chime : BitVec 64) (s : State) : s.Goes (execResetCompute h combs chime s) := by
  simp [execResetCompute]

theorem execResetCore_goes (h : OrderHdr) (s : State) : s.Goes (execResetCore h s) := by
  simp [execResetCore]

theorem execResetFull_goes (x : FullResetIn) (s : State) : s.Goes (execResetFull x s) := by
  simp [execResetFull]

theorem execArpRequest_goes (x : NdFrame) (s : State) : s.Goes (execArpRequest x s) := by
  simp [execArpRequest]

theorem execEthLinkChange_goes (up : Bool) (s : State) : s.Goes (execEthLinkChange up s) := by
  simp [execEthLinkChange]

theorem execEthernetFrame_goes (x : FrameIn) (s : State) : s.Goes (execEthernetFrame x s) := by
  unfold execEthernetFrame
  repeat' split
  all_goals simp

/-! ### Supplies, temperature and boot -/

theorem execHallLockstep_goes (s : State) : s.Goes (execHallLockstep s) := by
  simp [execHallLockstep]

theorem execClockMonitorFault_goes (s : State) : s.Goes (execClockMonitorFault s) := by
  simp [execClockMonitorFault]

theorem execRailMonitorFault_goes (s : State) : s.Goes (execRailMonitorFault s) := by
  simp [execRailMonitorFault]

@[simp] theorem State.measure_pending (s : State) (va vb : Nat) : (s.measure va vb).pending = s.pending := by
  simp [State.measure]

@[simp] theorem State.transfer_pending (s : State) (va vb : Nat) : (s.transfer va vb).pending = s.pending := by
  simp [State.transfer]

theorem execVinTransfer_goes (va vb : Nat) (s : State) : s.Goes (execVinTransfer va vb s) := by
  simp [execVinTransfer]

theorem execVinTransferBack_goes (va vb : Nat) (s : State) : s.Goes (execVinTransferBack va vb s) := by
  simp [execVinTransferBack]

theorem execSupplyLoss_goes (va vb : Nat) (held9V : Bool) (s : State) : s.Goes (execSupplyLoss va vb held9V s) := by
  simp [execSupplyLoss]

@[simp] theorem State.fullDone_pending (s : State) : s.fullDone.pending = s.pending := by
  simp [State.fullDone]

theorem execVauxChange_goes (on : Bool × Bool) (pins : BitVec 2) (s : State) : s.Goes (execVauxChange on pins s) := by
  simp [execVauxChange]

theorem execPorst_goes (low : Bool) (pins : BitVec 2) (s : State) : s.Goes (execPorst low pins s) := by
  unfold execPorst
  dsimp only
  repeat' split
  all_goals simp

theorem execWardenWatchdog_goes (pins : BitVec 2) (s : State) : s.Goes (execWardenWatchdog pins s) := by
  simp [execWardenWatchdog]

theorem execAliveToggle_goes (s : State) : s.Goes (execAliveToggle s) := by
  simp [execAliveToggle]

theorem execTapInstruction_goes (x : TapIn) (s : State) : s.Goes (execTapInstruction x s) := by
  simp [execTapInstruction]

@[simp] theorem State.heat_pending (s : State) (t : Nat) : (s.heat t).pending = s.pending := by
  simp [State.heat]

theorem execThermalRequest_goes (t : Nat) (deeper : Bool) (s : State) : s.Goes (execThermalRequest t deeper s) := by
  simp [execThermalRequest]

theorem execCurrentRequest_goes (ia ib : Nat) (deeper : Bool) (s : State) : s.Goes (execCurrentRequest ia ib deeper s) := by
  simp [execCurrentRequest]

theorem execJunctionOver_goes (t : Nat) (s : State) : s.Goes (execJunctionOver t s) := by
  simp [execJunctionOver]

theorem execThermtrip_goes (t : Nat) (s : State) : s.Goes (execThermtrip t s) := by
  simp [execThermtrip]

@[simp] theorem State.latentFailed_pending (s : State) (t : LatentTest) : (s.latentFailed t).pending = s.pending := by
  unfold State.latentFailed
  split <;> simp

theorem execLatentFaultTest_goes (t : LatentTest) (failed : Bool) (s : State) : s.Goes (execLatentFaultTest t failed s) := by
  simp [execLatentFaultTest]

theorem execResetComplete_goes (s : State) : s.Goes (execResetComplete s) := by
  unfold execResetComplete
  split <;> simp

theorem execBootVerify_goes (s : State) : s.Goes (execBootVerify s) := by
  simp [execBootVerify]

theorem execBootSupply_goes (vin : Nat) (s : State) : s.Goes (execBootSupply vin s) := by
  simp [execBootSupply]

theorem execBootCore_goes (x : CombSelftest) (s : State) : s.Goes (execBootCore x s) := by
  simp [execBootCore]

theorem execBootClose_goes (s : State) : s.Goes (execBootClose s) := by
  simp [execBootClose]

/-! ### Register writes -/

@[simp] theorem State.writeOne_pending (s : State) (h : OrderHdr) (table : Bool) (r : Reg) (v : W64) :
    (s.writeOne h table r v).pending = s.pending := by
  simp [State.writeOne]

theorem execRteSelfWrite_goes (h : OrderHdr) (v : BitVec 64) (s : State) : s.Goes (execRteSelfWrite h v s) := by
  simp [execRteSelfWrite]

theorem execRteFlipWrite_goes (h : OrderHdr) (v : BitVec 64) (s : State) : s.Goes (execRteFlipWrite h v s) := by
  simp [execRteFlipWrite]

theorem execRteEpochRelease_goes (h : OrderHdr) (v : BitVec 64) (s : State) : s.Goes (execRteEpochRelease h v s) := by
  simp [execRteEpochRelease]

theorem execRteFenceWrite_goes (h : OrderHdr) (w : Fin 4096) (v : BitVec 64) (s : State) : s.Goes (execRteFenceWrite h w v s) := by
  simp [execRteFenceWrite]

theorem execColGroupWrite_goes (h : OrderHdr) (ver : Fin 2) (g : Fin 256) (v : BitVec 64) (s : State) : s.Goes (execColGroupWrite h ver g v s) := by
  simp [execColGroupWrite]

theorem execColMemWrite_goes (h : OrderHdr) (ver : Fin 2) (g : Fin 256) (w : Fin 2048) (v : BitVec 64) (s : State) :
    s.Goes (execColMemWrite h ver g w v s) := by
  simp [execColMemWrite]

theorem execColCfgWrite_goes (h : OrderHdr) (spill : Bool) (v : BitVec 64) (s : State) : s.Goes (execColCfgWrite h spill v s) := by
  simp [execColCfgWrite]

theorem execChmPendingWrite_goes (h : OrderHdr) (v : BitVec 64) (s : State) : s.Goes (execChmPendingWrite h v s) := by
  simp [execChmPendingWrite]

theorem execChmRootWrite_goes (h : OrderHdr) (v : BitVec 64) (s : State) : s.Goes (execChmRootWrite h v s) := by
  simp [execChmRootWrite]

theorem execChmCfgWrite_goes (h : OrderHdr) (v : BitVec 64) (s : State) : s.Goes (execChmCfgWrite h v s) := by
  simp [execChmCfgWrite]

theorem execSealLevelPendWrite_goes (h : OrderHdr) (v : BitVec 64) (s : State) : s.Goes (execSealLevelPendWrite h v s) := by
  simp [execSealLevelPendWrite]

theorem execSealLevelatWrite_goes (h : OrderHdr) (v : BitVec 64) (s : State) : s.Goes (execSealLevelatWrite h v s) := by
  simp [execSealLevelatWrite]

theorem execStpRegisterWrite_goes (h : OrderHdr) (x : StpReg) (v : BitVec 64) (s : State) : s.Goes (execStpRegisterWrite h x v s) := by
  simp [execStpRegisterWrite]

theorem execMemStrengthWrite_goes (h : OrderHdr) (m : McId) (v : BitVec 64) (s : State) : s.Goes (execMemStrengthWrite h m v s) := by
  simp [execMemStrengthWrite]

theorem execSweeperDisable_goes (h : OrderHdr) (u : SweepUnit) (s : State) : s.Goes (execSweeperDisable h u s) := by
  simp [execSweeperDisable]

theorem execRwnow_goes (h : OrderHdr) (l : LinkId) (s : State) : s.Goes (execRwnow h l s) := by
  simp [execRwnow]

theorem execLinkEnWrite_goes (h : OrderHdr) (l : LinkId) (en : Bool) (s : State) : s.Goes (execLinkEnWrite h l en s) := by
  simp [execLinkEnWrite]

theorem execTxanWrite_goes (h : OrderHdr) (an : Bool) (s : State) : s.Goes (execTxanWrite h an s) := by
  simp [execTxanWrite]

theorem execStepminWrite_goes (h : OrderHdr) (v : BitVec 3) (s : State) : s.Goes (execStepminWrite h v s) := by
  simp [execStepminWrite]

theorem execPrefWrite_goes (h : OrderHdr) (b : Bool) (s : State) : s.Goes (execPrefWrite h b s) := by
  simp [execPrefWrite]

theorem execW1cClear_goes (r : Reg) (v : BitVec 64) (setNow : BitVec 64) (s : State) : s.Goes (execW1cClear r v setNow s) := by
  unfold execW1cClear
  split <;> simp

theorem execAgainReset_goes (r : Reg) (s : State) : s.Goes (execAgainReset r s) := by
  simp [execAgainReset]

theorem execRegisterWrite_goes (r : Reg) (v : BitVec 64) (s : State) : s.Goes (execRegisterWrite r v s) := by
  simp [execRegisterWrite]

end Sys2Proof.Machine
end

section
/-!
SUPPORT for O41. The queue of waiting commands is left alone by roadworks, the router, scalar and vector words, time and the warden:
one lemma per function of the model, in the order of its files. Only what puts commands in the queue writes that field, so each lemma is
a case split and the lemmas before it.
-/
namespace Sys2Proof.Machine

/-! ### Roadworks -/

theorem execRoadworksSchedule_goes (l : LinkId) (temp : BitVec 8) (s : State) : s.Goes (execRoadworksSchedule l temp s) := by
  simp [execRoadworksSchedule]

theorem execRwRequest_goes (l : LinkId) (s : State) : s.Goes (execRwRequest l s) := by
  simp [execRwRequest]

theorem execRwNotice_goes (l : LinkId) (ts : BitVec 64) (s : State) : s.Goes (execRwNotice l ts s) := by
  simp [execRwNotice]

theorem execRwCancel_goes (l : LinkId) (ts : BitVec 64) (s : State) : s.Goes (execRwCancel l ts s) := by
  simp [execRwCancel]

theorem execRoadworksClose_goes (l : LinkId) (s : State) : s.Goes (execRoadworksClose l s) := by
  simp [execRoadworksClose]

theorem execClose_goes (l : LinkId) (n : BitVec 16) (s : State) : s.Goes (execClose l n s) := by
  simp [execClose]

theorem execRoadworksSettleEnd_goes (l : LinkId) (s : State) : s.Goes (execRoadworksSettleEnd l s) := by
  simp [execRoadworksSettleEnd]

theorem execOpenLink_goes (l : LinkId) (x : OpenSym) (s : State) : s.Goes (execOpenLink l x s) := by
  simp [execOpenLink]

/-! ### Routing and transmission -/

theorem execDropRoute_goes (i : Nat) (s : State) : s.Goes (execDropRoute i s) := by
  simp [execDropRoute]

theorem execDropTransmit_goes (l : LinkId) (s : State) : s.Goes (execDropTransmit l s) := by
  simp [execDropTransmit]

theorem execDropStaleDiscard_goes (i : Nat) (s : State) : s.Goes (execDropStaleDiscard i s) := by
  simp [execDropStaleDiscard]

/-! ### Scalar words -/

theorem execLi_goes (c : CombId) (f : SForm) (s : State) : s.Goes (execLi c f s) :=
  State.goes_next.2 (State.issueS_pending _ _ _ _ _ rfl)

theorem execAdd_goes (c : CombId) (f : SForm) (s : State) : s.Goes (execAdd c f s) := by
  simp [execAdd]

theorem execSub_goes (c : CombId) (f : SForm) (s : State) : s.Goes (execSub c f s) := by
  simp [execSub]

theorem execMul_goes (c : CombId) (f : SForm) (s : State) : s.Goes (execMul c f s) := by
  simp [execMul]

theorem execAnd_goes (c : CombId) (f : SForm) (s : State) : s.Goes (execAnd c f s) := by
  simp [execAnd]

theorem execOr_goes (c : CombId) (f : SForm) (s : State) : s.Goes (execOr c f s) := by
  simp [execOr]

theorem execXor_goes (c : CombId) (f : SForm) (s : State) : s.Goes (execXor c f s) := by
  simp [execXor]

theorem execShl_goes (c : CombId) (f : SForm) (s : State) : s.Goes (execShl c f s) := by
  simp [execShl]

theorem execShr_goes (c : CombId) (f : SForm) (s : State) : s.Goes (execShr c f s) := by
  simp [execShr]

theorem execCmp_goes (c : CombId) (f : SForm) (s : State) : s.Goes (execCmp c f s) :=
  State.goes_next.2 (State.issueS_pending _ _ _ _ _ rfl)

/-! ### Time commands -/

theorem execChimeSymbol_goes (l : LinkId) (x : ChimeSym) (stamp : BitVec 70) (s : State) : s.Goes (execChimeSymbol l x stamp s) := by
  simp [execChimeSymbol]

theorem execRootSuccession_goes (s : State) : s.Goes (execRootSuccession s) := by
  simp [execRootSuccession]

theorem execSynclossReset_goes (s : State) : s.Goes (execSynclossReset s) := by
  simp [execSynclossReset]

theorem execPing_goes (l : LinkId) (t1 : BitVec 64) (s : State) : s.Goes (execPing l t1 s) := by
  simp [execPing]

theorem execEcho_goes (l : LinkId) (x : EchoSym) (s : State) : s.Goes (execEcho l x s) := by
  simp [execEcho]

theorem execElect_goes (l : LinkId) (x : ElectSym) (s : State) : s.Goes (execElect l x s) := by
  simp [execElect]

theorem execElectBroadcast_goes (s : State) : s.Goes (execElectBroadcast s) := by
  simp [execElectBroadcast]

theorem execElectSettled_goes (s : State) : s.Goes (execElectSettled s) := by
  simp [execElectSettled]

theorem execTime_goes (l : LinkId) (x : TimeSym) (s : State) : s.Goes (execTime l x s) := by
  simp [execTime]

theorem execMusterPhaseDone_goes (s : State) : s.Goes (execMusterPhaseDone s) := by
  simp [execMusterPhaseDone]

/-! ### Steps of time -/

theorem execFrame_goes (c : CombId) (f : SForm) (s : State) : s.Goes (execFrame c f s) :=
  State.goes_next.2 (State.issueS_pending _ _ _ _ _ rfl)

theorem execChimew_goes (c : CombId) (f : SForm) (s : State) : s.Goes (execChimew c f s) :=
  State.goes_next.2 (State.issueS_pending _ _ _ _ _ rfl)

theorem execChimewRelease_goes (c : CombId) (s : State) : s.Goes (execChimewRelease c s) := by
  unfold execChimewRelease
  split <;> simp

theorem execTally_goes (c : CombId) (f : SForm) (s : State) : s.Goes (execTally c f s) := by
  simp [execTally]

theorem execTallySnapshotDone_goes (c : CombId) (s : State) : s.Goes (execTallySnapshotDone c s) := by
  unfold execTallySnapshotDone
  dsimp only
  repeat' split
  all_goals simp

theorem execCommitPrep_goes (c : CombId) (f : SForm) (s : State) : s.Goes (execCommitPrep c f s) := by
  simp [execCommitPrep]

/-! ### Vector words -/

theorem execVld_goes (c : CombId) (f : TForm) (s : State) : s.Goes (execVld c f s) := by
  simp [execVld]

theorem execVst_goes (c : CombId) (f : TForm) (s : State) : s.Goes (execVst c f s) := by
  simp [execVst]

theorem execVadd_goes (c : CombId) (f : TForm) (s : State) : s.Goes (execVadd c f s) := by
  simp [execVadd]

theorem execVsub_goes (c : CombId) (f : TForm) (s : State) : s.Goes (execVsub c f s) := by
  simp [execVsub]

theorem execVmul_goes (c : CombId) (f : TForm) (s : State) : s.Goes (execVmul c f s) := by
  simp [execVmul]

theorem execVfma_goes (c : CombId) (f : TForm) (s : State) : s.Goes (execVfma c f s) := by
  simp [execVfma]

theorem execVmax_goes (c : CombId) (f : TForm) (s : State) : s.Goes (execVmax c f s) := by
  simp [execVmax]

theorem execVmin_goes (c : CombId) (f : TForm) (s : State) : s.Goes (execVmin c f s) := by
  simp [execVmin]

theorem execVargmax_goes (c : CombId) (f : TForm) (s : State) : s.Goes (execVargmax c f s) := by
  simp [execVargmax]

theorem execVargmin_goes (c : CombId) (f : TForm) (s : State) : s.Goes (execVargmin c f s) := by
  simp [execVargmin]

theorem execVsum_goes (c : CombId) (f : TForm) (s : State) : s.Goes (execVsum c f s) := by
  simp [execVsum]

theorem execVexp2_goes (c : CombId) (f : TForm) (s : State) : s.Goes (execVexp2 c f s) := by
  simp [execVexp2]

theorem execVlog2_goes (c : CombId) (f : TForm) (s : State) : s.Goes (execVlog2 c f s) := by
  simp [execVlog2]

theorem execVrcp_goes (c : CombId) (f : TForm) (s : State) : s.Goes (execVrcp c f s) := by
  simp [execVrcp]

theorem execVrsqrt_goes (c : CombId) (f : TForm) (s : State) : s.Goes (execVrsqrt c f s) := by
  simp [execVrsqrt]

theorem execVcvt_goes (c : CombId) (f : TForm) (s : State) : s.Goes (execVcvt c f s) := by
  simp [execVcvt]

theorem execVcmp_goes (c : CombId) (f : TForm) (s : State) : s.Goes (execVcmp c f s) := by
  simp [execVcmp]

theorem execVsel_goes (c : CombId) (f : TForm) (s : State) : s.Goes (execVsel c f s) := by
  simp [execVsel]

theorem execUpdM2_goes (c : CombId) (f : TForm) (s : State) : s.Goes (execUpdM2 c f s) := by
  simp [execUpdM2]

theorem execUpdM1_goes (c : CombId) (f : TForm) (s : State) : s.Goes (execUpdM1 c f s) := by
  simp [execUpdM1]

theorem execUpdPlain_goes (c : CombId) (f : TForm) (s : State) : s.Goes (execUpdPlain c f s) := by
  simp [execUpdPlain]

theorem execVectorAccept_goes (c : CombId) (s : State) : s.Goes (execVectorAccept c s) := by
  unfold execVectorAccept
  repeat' split
  all_goals simp

theorem execVectorCompletion_goes (c : CombId) (s : State) : s.Goes (execVectorCompletion c s) := by
  unfold execVectorCompletion
  split <;> simp

/-! ### The warden -/

@[simp] theorem State.certify_pending (s : State) (h : OrderHdr) (c : CombId) (ins ws : List (BitVec 16)) (res : BitVec 16) :
    (s.certify h c ins ws res).pending = s.pending := by
  unfold State.certify
  repeat' split
  all_goals simp

@[simp] theorem State.putStage_pending (s : State) (x : Staging) : (s.putStage x).pending = s.pending := by
  simp [State.putStage]

@[simp] theorem State.stagePiece_pending (s : State) (h : OrderHdr) (kind : Fin 3) (p : StagePiece) :
    (s.stagePiece h kind p).pending = s.pending := by
  simp [State.stagePiece]

@[simp] theorem State.stageEnd_pending (s : State) (kind : Fin 3) : (s.stageEnd kind).pending = s.pending := by
  unfold State.stageEnd
  cases s.wdn.staging.find? fun x => x.kind == kind && x.verifying with
  | none => rfl
  | some x =>
    dsimp only
    cases x.hdr with
    | none => rfl
    | some h => exact (State.reply_pending _ _ _ _ _).trans rfl

/-! ### Orders to the warden -/

theorem execCertify_goes (h : OrderHdr) (comb : CombId) (ins ws : List (BitVec 16)) (res : BitVec 16) (s : State) :
    s.Goes (execCertify h comb ins ws res s) := by
  simp [execCertify]

theorem execAttest_goes (h : OrderHdr) (nonce : BitVec 256) (nchain : BitVec 8) (cert : Bool) (s : State) :
    s.Goes (execAttest h nonce nchain cert s) := by
  simp [execAttest]

theorem execProtQuery_goes (h : OrderHdr) (s : State) : s.Goes (execProtQuery h s) := by
  simp [execProtQuery]

theorem execChrRead_goes (h : OrderHdr) (first count : BitVec 32) (s : State) : s.Goes (execChrRead h first count s) := by
  simp [execChrRead]

theorem execChrClear_goes (h : OrderHdr) (s : State) : s.Goes (execChrClear h s) := by
  simp [execChrClear]

theorem execChrClearDone_goes (s : State) : s.Goes (execChrClearDone s) := by
  unfold execChrClearDone
  repeat' split
  all_goals simp

theorem execChronicleRecordWrite_goes (s : State) : s.Goes (execChronicleRecordWrite s) := by
  unfold execChronicleRecordWrite
  repeat' split
  all_goals simp

theorem execProfileSelect_goes (h : OrderHdr) (slot : BitVec 8) (s : State) : s.Goes (execProfileSelect h slot s) := by
  unfold execProfileSelect
  split <;> simp

theorem execEthernetDefaults_goes (h : OrderHdr) (rx : Bool) (an : BitVec 8) (a : MacsecAssoc) (s : State) :
    s.Goes (execEthernetDefaults h rx an a s) := by
  simp [execEthernetDefaults]

theorem execFwStageImage_goes (h : OrderHdr) (b : StagePiece) (s : State) : s.Goes (execFwStageImage h b s) := by
  simp [execFwStageImage]

theorem execFwStageProfile_goes (h : OrderHdr) (b : StagePiece) (s : State) : s.Goes (execFwStageProfile h b s) := by
  simp [execFwStageProfile]

theorem execFwStageKeySet_goes (h : OrderHdr) (b : StagePiece) (s : State) : s.Goes (execFwStageKeySet h b s) := by
  simp [execFwStageKeySet]

theorem execStageVerified_goes (kind : Fin 3) (s : State) : s.Goes (execStageVerified kind s) := by
  simp [execStageVerified]

theorem execFwSwitch_goes (h : OrderHdr) (s : State) : s.Goes (execFwSwitch h s) := by
  simp [execFwSwitch]

end Sys2Proof.Machine
end

section
/-!
O41. Every command on every state answers a next state, with the queue of waiting commands as it was (R149, R360; log entries 2 and 3).
-/
namespace Sys2Proof.Machine

theorem exec_goes : ∀ (i : Instr) (s : State), s.Goes (exec i s)
  | .li c f, s => execLi_goes c f s
  | .add c f, s => execAdd_goes c f s
  | .sub c f, s => execSub_goes c f s
  | .mul c f, s => execMul_goes c f s
  | .and c f, s => execAnd_goes c f s
  | .or c f, s => execOr_goes c f s
  | .xor c f, s => execXor_goes c f s
  | .shl c f, s => execShl_goes c f s
  | .shr c f, s => execShr_goes c f s
  | .cmp c f, s => execCmp_goes c f s
  | .br c f, s => execBr_goes c f s
  | .jmp c f, s => execJmp_goes c f s
  | .call c f, s => execCall_goes c f s
  | .ret c f, s => execRet_goes c f s
  | .loop c f, s => execLoop_goes c f s
  | .wait c f, s => execWait_goes c f s
  | .waitRelease c, s => execWaitRelease_goes c s
  | .fence c f, s => execFence_goes c f s
  | .fenceRelease c, s => execFenceRelease_goes c s
  | .halt c f, s => execHalt_goes c f s
  | .haltDrained c, s => execHaltDrained_goes c s
  | .csrr c f, s => execCsrr_goes c f s
  | .csrw c f, s => execCsrw_goes c f s
  | .dset c f, s => execDset_goes c f s
  | .dld c f, s => execDld_goes c f s
  | .dst c f, s => execDst_goes c f s
  | .frame c f, s => execFrame_goes c f s
  | .chimew c f, s => execChimew_goes c f s
  | .chimewRelease c, s => execChimewRelease_goes c s
  | .tally c f, s => execTally_goes c f s
  | .tallySnapshotDone c, s => execTallySnapshotDone_goes c s
  | .commitPrep c f, s => execCommitPrep_goes c f s
  | .mshape c f, s => execMshape_goes c f s
  | .mhold c f, s => execMhold_goes c f s
  | .mholdFillDone c, s => execMholdFillDone_goes c s
  | .mmul c f, s => execMmul_goes c f s
  | .matrixCompletion c mm, s => execMatrixCompletion_goes c mm s
  | .mx c f, s => execMx_goes c f s
  | .mxCompletion c, s => execMxCompletion_goes c s
  | .arrayAccept c, s => execArrayAccept_goes c s
  | .extractorAccept c, s => execExtractorAccept_goes c s
  | .vld c f, s => execVld_goes c f s
  | .vst c f, s => execVst_goes c f s
  | .vadd c f, s => execVadd_goes c f s
  | .vsub c f, s => execVsub_goes c f s
  | .vmul c f, s => execVmul_goes c f s
  | .vfma c f, s => execVfma_goes c f s
  | .vmax c f, s => execVmax_goes c f s
  | .vmin c f, s => execVmin_goes c f s
  | .vargmax c f, s => execVargmax_goes c f s
  | .vargmin c f, s => execVargmin_goes c f s
  | .vsum c f, s => execVsum_goes c f s
  | .vexp2 c f, s => execVexp2_goes c f s
  | .vlog2 c f, s => execVlog2_goes c f s
  | .vrcp c f, s => execVrcp_goes c f s
  | .vrsqrt c f, s => execVrsqrt_goes c f s
  | .vcvt c f, s => execVcvt_goes c f s
  | .vcmp c f, s => execVcmp_goes c f s
  | .vsel c f, s => execVsel_goes c f s
  | .updM2 c f, s => execUpdM2_goes c f s
  | .updM1 c f, s => execUpdM1_goes c f s
  | .updPlain c f, s => execUpdPlain_goes c f s
  | .vectorAccept c, s => execVectorAccept_goes c s
  | .vectorCompletion c, s => execVectorCompletion_goes c s
  | .cpy c f, s => execCpy_goes c f s
  | .gather c f, s => execGather_goes c f s
  | .scatter c f, s => execScatter_goes c f s
  | .seal c f, s => execSeal_goes c f s
  | .amo c f, s => execAmo_goes c f s
  | .courierAccept c, s => execCourierAccept_goes c s
  | .courierCompletion c j, s => execCourierCompletion_goes c j s
  | .sealEngineServe e, s => execSealEngineServe_goes e s
  | .put c f, s => execPut_goes c f s
  | .get c f, s => execGet_goes c f s
  | .mcast c f, s => execMcast_goes c f s
  | .coll c f, s => execColl_goes c f s
  | .bar c f, s => execBar_goes c f s
  | .instructionFetch c u, s => execInstructionFetch_goes c u s
  | .lockstep c, s => execLockstep_goes c s
  | .faultDrained c, s => execFaultDrained_goes c s
  | .queueEntry c, s => execQueueEntry_goes c s
  | .consignmentStart c, s => execConsignmentStart_goes c s
  | .dropRoute j, s => execDropRoute_goes j s
  | .dropTransmit l, s => execDropTransmit_goes l s
  | .dropStaleDiscard j, s => execDropStaleDiscard_goes j s
  | .data d, s => execData_goes d s
  | .manifest d, s => execManifest_goes d s
  | .mdata d, s => execMdata_goes d s
  | .mmanifest d, s => execMmanifest_goes d s
  | .getreq d, s => execGetreq_goes d s
  | .rdata d, s => execRdata_goes d s
  | .ack d, s => execAck_goes d s
  | .done d, s => execDone_goes d s
  | .error d, s => execError_goes d s
  | .fenced d, s => execFenced_goes d s
  | .retxTimeout k cid, s => execRetxTimeout_goes k cid s
  | .codeword l w, s => execCodeword_goes l w s
  | .controlWord l w, s => execControlWord_goes l w s
  | .nak l n, s => execNak_goes l n s
  | .ident l x, s => execIdent_goes l x s
  | .replayStall l, s => execReplayStall_goes l s
  | .laneFailure l lane, s => execLaneFailure_goes l lane s
  | .spare l x, s => execSpare_goes l x s
  | .spareSwitch l rx, s => execSpareSwitch_goes l rx s
  | .linkFailure l, s => execLinkFailure_goes l s
  | .linkRetry port n, s => execLinkRetry_goes port n s
  | .linkPhaseDone l x, s => execLinkPhaseDone_goes l x s
  | .roadworksSchedule l temp, s => execRoadworksSchedule_goes l temp s
  | .rwRequest l, s => execRwRequest_goes l s
  | .rwNotice l ts, s => execRwNotice_goes l ts s
  | .rwCancel l ts, s => execRwCancel_goes l ts s
  | .roadworksClose l, s => execRoadworksClose_goes l s
  | .close l n, s => execClose_goes l n s
  | .roadworksSettleEnd l, s => execRoadworksSettleEnd_goes l s
  | .openLink l x, s => execOpenLink_goes l x s
  | .hbmRetrainStart x, s => execHbmRetrainStart_goes x s
  | .hbmRetrainEnd m finished, s => execHbmRetrainEnd_goes m finished s
  | .hbmRefresh m temp, s => execHbmRefresh_goes m temp s
  | .mergeSlotClose m page, s => execMergeSlotClose_goes m page s
  | .hbmSweep m struck, s => execHbmSweep_goes m struck s
  | .recodePage m, s => execRecodePage_goes m s
  | .combStoreSweep c line struck, s => execCombStoreSweep_goes c line struck s
  | .squareStoreSweep q line struck, s => execSquareStoreSweep_goes q line struck s
  | .atomicOperation u, s => execAtomicOperation_goes u s
  | .collAdmission, s => execCollAdmission_goes s
  | .sign d, s => execSign_goes d s
  | .grant d, s => execGrant_goes d s
  | .collData d, s => execCollData_goes d s
  | .abort d, s => execAbort_goes d s
  | .arrive d, s => execArrive_goes d s
  | .release d, s => execRelease_goes d s
  | .barrierRelease g, s => execBarrierRelease_goes g s
  | .collCompletion g, s => execCollCompletion_goes g s
  | .chime, s => execChime_goes s
  | .arraySelftestDone c x, s => execArraySelftestDone_goes c x s
  | .chimeSymbol l x stamp, s => execChimeSymbol_goes l x stamp s
  | .rootSuccession, s => execRootSuccession_goes s
  | .synclossReset, s => execSynclossReset_goes s
  | .ping l t1, s => execPing_goes l t1 s
  | .echo l x, s => execEcho_goes l x s
  | .elect l x, s => execElect_goes l x s
  | .electBroadcast, s => execElectBroadcast_goes s
  | .electSettled, s => execElectSettled_goes s
  | .time l x, s => execTime_goes l x s
  | .musterPhaseDone, s => execMusterPhaseDone_goes s
  | .qvote d, s => execQvote_goes d s
  | .qdecide d, s => execQdecide_goes d s
  | .vote d, s => execVote_goes d s
  | .lodge d, s => execLodge_goes d s
  | .lodged d, s => execLodged_goes d s
  | .decide d, s => execDecide_goes d s
  | .commitDeadline, s => execCommitDeadline_goes s
  | .commitUndecided, s => execCommitUndecided_goes s
  | .status h, s => execStatus_goes h s
  | .regRead h addrs, s => execRegRead_goes h addrs s
  | .regWrite h ws, s => execRegWrite_goes h ws s
  | .bulkWrite h b, s => execBulkWrite_goes h b s
  | .bulkTimeout src cid, s => execBulkTimeout_goes src cid s
  | .bulkRead h addr len cid, s => execBulkRead_goes h addr len cid s
  | .muster h, s => execMuster_goes h s
  | .load h img combs, s => execLoad_goes h img combs s
  | .loadComplete seq, s => execLoadComplete_goes seq s
  | .start h combs chime v, s => execStart_goes h combs chime v s
  | .quiesce h chime, s => execQuiesce_goes h chime s
  | .resume h chime, s => execResume_goes h chime s
  | .certify h comb ins ws res, s => execCertify_goes h comb ins ws res s
  | .attest h nonce nchain cert, s => execAttest_goes h nonce nchain cert s
  | .chrRead h first count, s => execChrRead_goes h first count s
  | .nameRoot h root deputy base, s => execNameRoot_goes h root deputy base s
  | .tableWrite h ws, s => execTableWrite_goes h ws s
  | .resetComb h combs chime, s => execResetComb_goes h combs chime s
  | .resetCompute h combs chime, s => execResetCompute_goes h combs chime s
  | .resetCore h, s => execResetCore_goes h s
  | .resetFull x, s => execResetFull_goes x s
  | .profileSelect h slot, s => execProfileSelect_goes h slot s
  | .ethernetDefaults h rx an a, s => execEthernetDefaults_goes h rx an a s
  | .fwStageImage h b, s => execFwStageImage_goes h b s
  | .fwStageProfile h b, s => execFwStageProfile_goes h b s
  | .fwStageKeySet h b, s => execFwStageKeySet_goes h b s
  | .stageVerified kind, s => execStageVerified_goes kind s
  | .fwSwitch h, s => execFwSwitch_goes h s
  | .chrClear h, s => execChrClear_goes h s
  | .chrClearDone, s => execChrClearDone_goes s
  | .protQuery h, s => execProtQuery_goes h s
  | .arpRequest x, s => execArpRequest_goes x s
  | .ethLinkChange up, s => execEthLinkChange_goes up s
  | .chronicleRecordWrite, s => execChronicleRecordWrite_goes s
  | .rteSelfWrite h v, s => execRteSelfWrite_goes h v s
  | .rteFlipWrite h v, s => execRteFlipWrite_goes h v s
  | .rteEpochRelease h v, s => execRteEpochRelease_goes h v s
  | .rteFenceWrite h w v, s => execRteFenceWrite_goes h w v s
  | .colGroupWrite h ver g v, s => execColGroupWrite_goes h ver g v s
  | .colMemWrite h ver g w v, s => execColMemWrite_goes h ver g w v s
  | .colCfgWrite h spill v, s => execColCfgWrite_goes h spill v s
  | .chmPendingWrite h v, s => execChmPendingWrite_goes h v s
  | .chmRootWrite h v, s => execChmRootWrite_goes h v s
  | .chmCfgWrite h v, s => execChmCfgWrite_goes h v s
  | .sealLevelPendWrite h v, s => execSealLevelPendWrite_goes h v s
  | .sealLevelatWrite h v, s => execSealLevelatWrite_goes h v s
  | .stpRegisterWrite h x v, s => execStpRegisterWrite_goes h x v s
  | .memStrengthWrite h m v, s => execMemStrengthWrite_goes h m v s
  | .sweeperDisable h x, s => execSweeperDisable_goes h x s
  | .rwnow h l, s => execRwnow_goes h l s
  | .linkEnWrite h l en, s => execLinkEnWrite_goes h l en s
  | .txanWrite h an, s => execTxanWrite_goes h an s
  | .stepminWrite h v, s => execStepminWrite_goes h v s
  | .prefWrite h b, s => execPrefWrite_goes h b s
  | .w1cClear r v setNow, s => execW1cClear_goes r v setNow s
  | .againReset r, s => execAgainReset_goes r s
  | .registerWrite r v, s => execRegisterWrite_goes r v s
  | .hallLockstep, s => execHallLockstep_goes s
  | .clockMonitorFault, s => execClockMonitorFault_goes s
  | .railMonitorFault, s => execRailMonitorFault_goes s
  | .vinTransfer va vb, s => execVinTransfer_goes va vb s
  | .vinTransferBack va vb, s => execVinTransferBack_goes va vb s
  | .supplyLoss va vb held9V, s => execSupplyLoss_goes va vb held9V s
  | .vauxChange on pins, s => execVauxChange_goes on pins s
  | .porst low pins, s => execPorst_goes low pins s
  | .wardenWatchdog pins, s => execWardenWatchdog_goes pins s
  | .aliveToggle, s => execAliveToggle_goes s
  | .thermalRequest t deeper, s => execThermalRequest_goes t deeper s
  | .currentRequest ia ib deeper, s => execCurrentRequest_goes ia ib deeper s
  | .junctionOver t, s => execJunctionOver_goes t s
  | .thermtrip t, s => execThermtrip_goes t s
  | .latentFaultTest t failed, s => execLatentFaultTest_goes t failed s
  | .resetComplete, s => execResetComplete_goes s
  | .bootVerify, s => execBootVerify_goes s
  | .bootSupply vin, s => execBootSupply_goes vin s
  | .bootCore x, s => execBootCore_goes x s
  | .bootClose, s => execBootClose_goes s
  | .ethernetFrame x, s => execEthernetFrame_goes x s
  | .tapInstruction j, s => execTapInstruction_goes j s

/-- Settles O41, by the lemma of each command. -/
theorem everyCommandAnswers : Obligations.EveryCommandAnswers := by
  unfold Obligations.EveryCommandAnswers
  exact fun c s => exec_goes c s

end Sys2Proof.Machine
end
